-- ==== Sys2Proof/Word.lean ====
section
/-!
DEFINITION. The words the block is made of: the 48-bit native word, the byte, the container, the key, the cipher
block, and the identifiers of Table 0.2 of 00_scope.md.
-/

namespace Sys2Proof

/-- The native word of 48 bits (00_scope.md, "Words, containers and byte order"). -/
abbrev Word := BitVec 48

abbrev Byte := BitVec 8

/-- The 64-bit container that holds a native word (R4). -/
abbrev Container := BitVec 64

/-- A 256-bit key of the key store (R225). -/
abbrev Key := BitVec 256

/-- A 128-bit block of AES (R106). -/
abbrev Block := BitVec 128

/-- A stream handle, 15 bits (Table 0.2). -/
abbrev Handle := BitVec 15

/-- A requester class, 5 bits (R349, Table 12.1). -/
abbrev Cls := BitVec 5

/-- A key slot index, 17 bits (Table 0.2). -/
abbrev SlotIx := BitVec 17

/-- A plan or domain tick index or a Bindweed interval index as a number (R9, R47). -/
abbrev Tick := Nat

end Sys2Proof
end

