-- ==== Sys2Proof/Syntax.lean ====
section
/-!
DEFINITION. The commands the block takes: one constructor for each row of spec/opcode_table.json, in the table's
order, with the operands the row needs from outside the block (a register value, a frame, a neighbour's answer, an
instant). An `at` operand is the instant of a time-driven row in nanoseconds.
-/

namespace Sys2Proof

/-- One beat of the egress stream interface with its sideband (R317, Table 11.1). `last` is E_LAST, `bytes` is
E_BYTES, `data` the beat's data bytes; a header beat also carries the four containers of its transmit descriptor
(R318). -/
structure EgressBeat where
  handle : Handle
  bytes : BitVec 7
  last : Bool
  domain : BitVec 4
  mgmt : Bool
  data : List Byte
  desc : List Container
  deriving DecidableEq, Repr

/-- A frame as the MAC hands it to the classifier: its bytes from the destination address to the last byte before
the FCS, whether the FCS is right, whether the receiver reported an error before the end, and the time-bus reading
at the end of its start-of-frame delimiter (R162, R303). -/
structure RxIn where
  port : Fin 16
  bytes : List Byte
  fcsGood : Bool
  aborted : Bool
  seconds : BitVec 48
  nanos : BitVec 32
  deriving DecidableEq, Repr

/-- The asymmetric engine's answer to an import (R243 step 2): handle, domain, key length in bits, use mask of
Table 8.2 [38:32], the two shares of the key, and whether the check value holds. For a digest-bound import (R245)
the key goes to the digest engine and `share0` and `share1` are ignored. -/
structure KeyBusReply where
  handle : BitVec 32
  domain : BitVec 4
  bits : Nat
  uses : BitVec 7
  share0 : Key
  share1 : Key
  checkOk : Bool
  deriving DecidableEq, Repr

/-- The digest engine's answer (R37): the doubled flag pair (`flag` reads "match" when set), the truncation flag,
and the 32-byte result. -/
structure DigestResult where
  flag : Bool
  flagN : Bool
  truncated : Bool
  tag : List Byte
  deriving DecidableEq, Repr

/-- What Assay reads from the neighbours: the tamper levels (step 1), the fuse fields of Table 14.3 (step 2), the
outcome of the known-answer tests (step 3), whether the entropy port reports a health failure during step 5, the store's
answer to the counter advance (step 7), and the tamper input that rises during step 8, if one does. -/
structure AssayIn where
  tamper : BitVec 4
  root : Key
  lifecycle : BitVec 8
  ownerDigest : BitVec 384
  rollbackFloor : BitVec 32
  entropyWait : BitVec 4
  debugLock : Bool
  katPass : Bool
  healthFails : Bool
  counterOk : Bool
  counterValue : Word
  tamper8 : Option (Fin 4)
  deriving DecidableEq, Repr

/-- The ECC status of a DRAM read (R286). -/
inductive Ecc where
  | clean | corrected | uncorrectable
  deriving DecidableEq, Repr

/-- One 64-byte line as a DRAM controller returns it, at its physical address. -/
structure DramLine where
  addr : Nat
  bytes : List Byte
  ecc : Ecc
  deriving DecidableEq, Repr

/-- An access at a memory port: port, requester class, 52-bit fabric address (identifier in [51:48]), length, and
for a write the data (R262). -/
structure MemAccess where
  port : Fin 2
  cls : Cls
  addr : BitVec 52
  len : Nat
  write : Bool
  data : List Byte
  deriving DecidableEq, Repr

/-- An error that SECDED finds on chip (R290): in the top-level store, in a node of the counter cache or in a line of the
tag cache; corrected or not. -/
inductive ChipError where
  | top (id : BitVec 4) (corrected : Bool)
  | node (id : BitVec 4) (level node : Nat) (corrected : Bool)
  | tag (addr : Nat) (corrected : Bool)
  deriving DecidableEq, Repr

/-- What serves a line of the memory plane (R33): the memory slice, whether its fetches of part a and part b of the key
find a failed share check (R247), and the errors that the on-chip stores show meanwhile. -/
structure MemUnit where
  slice : Fin 4
  badA : Bool
  badB : Bool
  chip : List ChipError
  deriving DecidableEq, Repr

/-- What a read of a Bindweed record returns (R183): the record as Quecy wrote it, poisoned data, or other words. -/
inductive RecordRead where
  | stored
  | poison
  | other (words : List Word)
  deriving DecidableEq, Repr

/-- What the PCS of a port has counted in a plan period (R315): codewords corrected, codewords uncorrectable, and invalid
blocks or code groups; and the frames that are still being received on it at the boundary (R307). -/
structure PcsCount where
  port : Fin 16
  corrected : Nat
  uncorrectable : Nat
  invalid : Nat
  cut : List Nat
  deriving DecidableEq, Repr

/-- A direction of the plan, or the Keccak cores (R70, Table 17.6). -/
inductive Dir where
  | egress | ingress | keccak
  deriving DecidableEq, Repr

/-- The link-down conditions of R306. -/
inductive LinkCond where
  | signal | blockLock | alignment | synchronisation | autonegRestart | highBer | localFault | remoteFault
  deriving DecidableEq, Repr

/-- The three host rings of Eyebright (R473, Table 17.4). -/
inductive EyeRing where
  | snap | trace | evlog
  deriving DecidableEq, Repr

/-- The commands, one constructor a row of spec/opcode_table.json. -/
inductive Instr where
  -- mailboxes
  | mbSubmit (cls : Cls) (m : Fin 18)
  | mbAck (cls : Cls) (m : Fin 18)
  | mbDoorbellReserved (cls : Cls) (m : Fin 18) (v : Container)
  | requestAccept (at_ : Nat)
  | responseWrite (m : Fin 18)
  | yarrowRest (at_ : Nat)
  -- Pyfer commands: each executes the oldest accepted command, where it has this opcode
  | echo
  | status
  | modeRequest
  | timeRealign
  | latencyBudget
  | streamCreate
  | streamModify
  | streamArm (h0 h1 h2 : Container)
  | streamDisarm
  | streamRetire
  | streamRead
  | streamSnapshot
  | twinLink
  | genInstall
  | genRoll
  | keyImport (busy : Bool) (at_ : Nat)
  | keyDerive (core : Fin 2) (cellBad : Bool)
  | keyInvalidate
  | keyRead
  | chainCreate (core : Fin 2) (cellBad : Bool)
  | chainVerifier
  | chainInstall
  | chainDelete
  | chainRead
  | gateOffline
  | gateWrite
  | gateOnline
  | gateRead
  | portReset
  | imageWrite
  | imageActivate
  | imageInfo
  | umazRequest
  -- boundaries and commits
  | planBoundary (at_ : Nat) (cycles : Nat) (ledger : List (List Nat)) (pcs : List PcsCount)
  | stagedChangeCommit
  | streamArmCommit (h : Handle)
  | streamDisarmCommit (h : Handle)
  | retirementCommit (h : Handle)
  | streamFreed (h : Handle)
  | genInstallCommit (h : Handle)
  | rollCommit (h : Handle)
  | earlyWindowOpen (h : Handle)
  | closeTick (h : Handle)
  | graceEntryFree (h : Handle)
  | followRollRetry (h : Handle)
  | stagingMiss
  -- key store and entropy
  | invalidationCommit (slot : SlotIx)
  | sweepSlot
  | maskingRefresh (bad : Bool)
  | localGeneratorReseed (g : Fin 4)
  | keyBusResponse (r : KeyBusReply)
  | importTimeout (at_ : Nat)
  | entropyHealthFailure (at_ : Nat)
  | maskingDegraded (at_ : Nat)
  | entropyRecovered
  | entropyReady (at_ : Nat) (counterOk : Bool) (counterValue : Word)
  | entropyWaitTimeout (at_ : Nat)
  -- resets, modes, tamper
  | coldReset (at_ : Nat)
  | engineReset (at_ : Nat)
  | assay (i : AssayIn) (at_ : Nat)
  | counterAdvanceRetry (at_ : Nat) (ok : Bool) (value : Word)
  | retentionRestartRequest (at_ : Nat)
  | retentionRestartRelease (katPass : Bool)
  | portResetRequest (p : Fin 16) (at_ : Nat) (cut : List Nat)
  | portResetRequestFall (p : Fin 16)
  | portResetAction (p : Fin 16) (at_ : Nat) (cut : List Nat)
  | portResetComplete (p : Fin 16) (at_ : Nat)
  | tamperInput (k : Fin 4) (keyOp : Bool)
  | drillEntry
  | dormantEntry
  | dormantPowerDown
  | dormantExit (katPass : Bool)
  | commissionServiceChange
  | imageActivationCommit (cut : List Nat)
  | gateOfflineCommit (g : Fin 17)
  | gateOnlineCommit (g : Fin 17)
  -- time, policing, overrun
  | timeAlign (seconds : BitVec 48) (nanos : BitVec 32) (valid hold : Bool)
  | qualityChange (seconds : BitVec 48) (nanos : BitVec 32) (valid hold : Bool)
  | ppsEdge (seconds : BitVec 48) (nanos : BitVec 32)
  | burstWindowEnd (h : Handle) (opening : Bool)
  | overrun (d : Dir)
  | planOverloadSet
  | planOverloadClear
  -- egress, rings, sealing
  | egressHeaderBeat (b : EgressBeat)
  | egressDataBeat (b : EgressBeat)
  | doorbellPost (cls : Cls) (h : Handle) (rsvd : BitVec 8) (count : BitVec 32)
  | doorbellRelease (cls : Cls) (h : Handle) (rsvd : BitVec 8) (count : BitVec 32)
  | descriptorFetch (h : Handle) (desc : List Container) (source : List Byte) (readOk : Bool)
  | ringRecheck (h : Handle)
  | sealSliceEntry (f : Nat) (slice : Fin 3) (cellBad macBad : Bool)
  | sealSupplyCheck (f : Nat)
  | digestSealResult (f : Nat) (r : DigestResult)
  | sealEcho (f : Nat) (slice : Fin 3) (upset : List (Nat × Byte)) (cellBad : Bool)
  | frameStart (p : Fin 16)
  | transmitComplete (f : Nat) (p : Fin 16) (seconds : BitVec 48) (nanos : BitVec 32)
  | outputWrite (h : Handle)
  | ringInterrupt (h : Handle)
  | ringStarved (h : Handle)
  | recordChunk (h : Handle) (header : List Byte) (data : List Byte) (readOk : Bool) (slice : Fin 3) (cellBad : Bool) (resumptions : Nat)
  | recordStart
  -- receiving and opening
  | frameClassify (r : RxIn)
  | v0Check (f : Nat) (slice : Fin 3) (cellBad : Bool) (ended : Bool) (at_ : Nat)
  | plaintextBeat (f : Nat)
  | v1Verdict (f : Nat) (at_ : Nat)
  | digestOpenResult (f : Nat) (r : DigestResult) (at_ : Nat)
  | duplicateEntryForget (p : Fin 16) (at_ : Nat)
  | hsrForwardEntryForget (p : Fin 16) (at_ : Nat)
  | clearFrameDelivery (f : Nat) (at_ : Nat)
  | ptpBypass (f : Nat)
  | hsrForward (f : Nat) (at_ : Nat)
  | standaloneDisclosureReceive (f : Nat)
  | partnerNoticeReceive (f : Nat)
  | noticeIntervalEnd (p : Fin 16) (sa : BitVec 48) (code : BitVec 8) (at_ : Nat)
  | noticeToken (p : Fin 16) (at_ : Nat)
  -- Bindweed
  | holdResolution (chain : BitVec 13) (slice : Fin 3) (core : Fin 2) (cellBad : Bool)
  | holdCloseMissing (chain : BitVec 13)
  | holdExpired (h : Handle)
  | v2RecordWrite (h : Handle)
  | intervalKeyPrepare (chain : BitVec 10) (core : Fin 2) (block segment : RecordRead) (cellBad : Bool)
  | publisherKeyLate (chain : BitVec 10)
  | standaloneDisclosureSend (h : Handle)
  | pebbleBankFill (chain : BitVec 10) (segment : Bool) (core : Fin 2) (top : RecordRead) (cellBad : Bool)
  | anchorStarved (chain : BitVec 10)
  | publisherRenewalStart (chain : BitVec 10)
  -- memory plane
  | memoryAccess (a : MemAccess) (at_ : Nat) (u : MemUnit)
  | memoryReadReturn (acc : Nat) (lines : List DramLine) (badA badB : Bool) (chip : List ChipError)
  | writeMergeDrain (at_ : Nat) (lines : List DramLine) (u : MemUnit)
  | nodeWriteback (id : BitVec 4) (level : Nat) (node : Nat) (lines : List DramLine) (u : MemUnit)
  -- ports and rest
  | linkDown (p : Fin 16) (c : LinkCond) (present : Bool) (at_ : Nat) (cut : List Nat)
  | linkUp (p : Fin 16) (at_ : Nat) (partner : Option Bool)
  | restEntry (unit : Fin 12) (at_ : Nat)
  | restExit (unit : Fin 12) (at_ : Nat)
  -- Eyebright, events, registers
  | snapshotWrite
  | eventLogRecordClose
  | eventLogWrite
  | traceRecordWrite (f : Nat) (stages : List Nat) (v2tick : Word)
  | interruptSend (m : Fin 32)
  | intEoi (cls : Cls) (v : Container)
  | evStatusClear (cls : Cls) (k : Fin 11) (v : Container) (posting : List Nat)
  | counterWrite (cls : Cls) (n : Fin 64) (v : Container) (increment : Nat)
  | chainedCounterLowRead (cls : Cls) (j : Fin 32)
  | rcFieldRead (cls : Cls) (off : BitVec 20) (size : Nat) (update : Nat)
  | glogClear (cls : Cls) (g : Fin 17) (v : Container) (same : Bool)
  | eyebrightReleaseWrite (cls : Cls) (r : EyeRing) (v : Container)
  | eyebrightRingControl (cls : Cls) (r : EyeRing) (v : Container)
  | registerWrite (cls : Cls) (off : BitVec 20) (size : Nat) (v : Container)
  | ingressBeatTaken
  | entropyReadyLoss
  deriving DecidableEq, Repr

end Sys2Proof
end

