-- ==== Sys2Proof/Machine/Bits.lean ====
section
/-!
DEFINITION. Bit fields of words, written [msb:lsb] in the spec, the serial comparison of key generations, byte
slices of frames, and the saturating and wrapping additions the counters use.
-/

namespace Sys2Proof.Machine

/-- The field of `len` bits from bit `lo` up, as a number. -/
def fld {n : Nat} (w : BitVec n) (lo len : Nat) : Nat := (w.toNat >>> lo) % 2 ^ len

/-- One bit. -/
def bit {n : Nat} (w : BitVec n) (i : Nat) : Bool := w.getLsbD i

def boolNat (b : Bool) : Nat := if b then 1 else 0

/-- The mask of `len` bits from bit `lo` up. -/
def maskOf (n lo len : Nat) : BitVec n := BitVec.ofNat n ((2 ^ len - 1) <<< lo)

/-- `w` with its field of `len` bits from `lo` up replaced by `v`. -/
def setFld {n : Nat} (w : BitVec n) (lo len v : Nat) : BitVec n :=
  (w &&& ~~~ maskOf n lo len) ||| BitVec.ofNat n ((v % 2 ^ len) <<< lo)

def setBit {n : Nat} (w : BitVec n) (i : Nat) (b : Bool) : BitVec n := setFld w i 1 (boolNat b)

/-- A value placed at bit `lo`: the pieces of a word are joined with `|||`. -/
def at_ (lo v : Nat) : Word := BitVec.ofNat 48 (v <<< lo)

/-- The native word of a container (R4). -/
def toWord (c : Container) : Word := c.setWidth 48

/-- A container whose bits [63:48] are not zero (R5). -/
def badContainer (c : Container) : Bool := decide (fld c 48 16 ≠ 0)

/-- A native word in its container (R4). -/
def toContainer (w : Word) : Container := w.setWidth 64

/-- Adding with saturation at the largest value of the word. -/
def satAdd {n : Nat} (w : BitVec n) (k : Nat) : BitVec n :=
  if w.toNat + k < 2 ^ n then BitVec.ofNat n (w.toNat + k) else BitVec.allOnes n

/-- `a` lies later than `b` in serial arithmetic (R10). -/
def genLater (a b : Nat) : Bool :=
  let d := (a + 65536 - b % 65536) % 65536
  decide (1 ≤ d) && decide (d ≤ 16383)

/-- `a` lies earlier than `b` in serial arithmetic (R10). -/
def genEarlier (a b : Nat) : Bool :=
  let d := (a + 65536 - b % 65536) % 65536
  decide (49153 ≤ d)

/-! ### Byte lists, most significant byte first on the wire (R7) -/

/-- `len` bytes from offset `off`. -/
def slice (off len : Nat) (bs : List Byte) : List Byte := (bs.drop off).take len

/-- The big-endian number a byte list holds (R7). -/
def bytesToNat (bs : List Byte) : Nat :=
  bs.foldl (fun a b => a * 256 + b.toNat) 0

/-- `n` bytes, most significant first, of a number (R7). -/
def natToBytes (n : Nat) (v : Nat) : List Byte :=
  (List.range n).map (fun i => BitVec.ofNat 8 (v >>> (8 * (n - 1 - i))))

/-- `n` bytes, least significant first, of a number (R6). -/
def natToBytesLE (n : Nat) (v : Nat) : List Byte :=
  (List.range n).map (fun i => BitVec.ofNat 8 (v >>> (8 * i)))

/-- The number of a little-endian byte list (R6). -/
def bytesToNatLE (bs : List Byte) : Nat :=
  bs.foldr (fun b a => a * 256 + b.toNat) 0

/-- A native word as the eight bytes of its container in host memory (R6). -/
def wordBytes (w : Word) : List Byte := natToBytesLE 8 w.toNat

def wordsBytes (ws : List Word) : List Byte := ws.flatMap wordBytes

/-- A big-endian field of a frame. -/
def beAt (off len : Nat) (bs : List Byte) : Nat := bytesToNat (slice off len bs)

/-- The byte list is at least that long. -/
def longEnough (n : Nat) (bs : List Byte) : Bool := decide (n ≤ bs.length)

/-- Ceiling division. -/
def ceilDiv (a b : Nat) : Nat := (a + b - 1) / b

end Sys2Proof.Machine
end

