-- ==== Sys2Proof/Machine/Crypto.lean ====
section
/-!
DEFINITION. The cryptographic functions the spec names by their standards: AES-256 (FIPS 197), GHASH and counter mode
(GCM), XTS (IEEE 1619), SHA3-256 and KMAC256 (FIPS 202, SP 800-185), SHA-384 (FIPS 180-4). The spec gives none of
their inner arithmetic: PRESUMED from the standards (assumption log 6). Byte lists stand in the order of the wire.
-/

namespace Sys2Proof.Machine

/-- Exclusive OR of two byte lists, as long as the shorter. -/
def xorBytes (a b : List Byte) : List Byte :=
  List.zipWith (fun x y => x ^^^ y) a b

/-- ASCII bytes of a label (R237). -/
def ascii (s : String) : List Byte :=
  s.toList.map (fun c => BitVec.ofNat 8 c.toNat)

/-- The AES S-box, thirty-two entries to a number, least entry first. -/
def aesSboxRows : List Nat := [
  0xc072a49cafa2d4adf04759fa7dc982ca76abd7fe2b670130c56f6bf27b777c63,
  0x75b227ebe28012079a059618c323c7041531d871f1e5a534ccf73f362693fdb7,
  0xcf584c4a39becb6a5bb1fc20ed00d153842fe329b3d63b52a05a6e1b1a2c8309,
  0xd2f3ff1021dab6bcf5389d928f40a351a89f3c507f02f94585334d43fbaaefd0,
  0xdb0b5ede14b8ee4688902a22dc4f816073195d643d7ea7c41744975fec130ccd,
  0x08ae7a65eaf4566ca94ed58d6d37c8e779e4959162acd3c25c2406490a3a32e0,
  0x9e1dc186b95735610ef6034866b53e708a8bbd4b1f74dde8c6b4a61c2e2578ba,
  0x16bb54b00f2d99416842e6bf0d89a18cdf2855cee9871e9b948ed9691198f8e1
]

def aesSbox (b : Byte) : Byte :=
  BitVec.ofNat 8 (aesSboxRows.getD (b.toNat / 32) 0 >>> (8 * (b.toNat % 32)))

/-- Multiplication by x in the field of AES. -/
def aesXtime (b : Byte) : Byte :=
  (b <<< 1) ^^^ (if b.getLsbD 7 then 0x1B#8 else 0#8)

def aesMixColumn (c : List Byte) : List Byte :=
  match c with
  | [a, b, d, e] =>
    let t := a ^^^ b ^^^ d ^^^ e
    [a ^^^ t ^^^ aesXtime (a ^^^ b), b ^^^ t ^^^ aesXtime (b ^^^ d),
     d ^^^ t ^^^ aesXtime (d ^^^ e), e ^^^ t ^^^ aesXtime (e ^^^ a)]
  | _ => c

def aesShiftRows (s : List Byte) : List Byte :=
  (List.range 16).map (fun i => s.getD ((i + 4 * (i % 4)) % 16) 0)

def chunk4 (s : List Byte) : List (List Byte) :=
  (List.range 4).map (fun i => (s.drop (4 * i)).take 4)

/-- One step of the AES-256 key schedule: `ws` holds the words so far, newest first. -/
def aesNextWord (ws : List (List Byte)) (i : Nat) : List (List Byte) :=
  let t := ws.getD 0 []
  let t' :=
    if i % 8 = 0 then
      let r := (t.drop 1 ++ t.take 1).map aesSbox
      xorBytes r [BitVec.ofNat 8 (1 <<< (i / 8 - 1)), 0, 0, 0]
    else if i % 8 = 4 then t.map aesSbox
    else t
  xorBytes (ws.getD 7 []) t' :: ws

/-- The fifteen round keys of AES-256 (R106: fourteen rounds). -/
def aesSchedule (k : Key) : List (List Byte) :=
  let kb := natToBytes 32 k.toNat
  let w0 := ((List.range 8).map (fun i => (kb.drop (4 * i)).take 4)).reverse
  let ws := ((List.range 52).map (· + 8)).foldl aesNextWord w0
  let all := ws.reverse
  (List.range 15).map (fun r => ((all.drop (4 * r)).take 4).flatten)

def aesRound (s rk : List Byte) : List Byte :=
  xorBytes ((chunk4 (aesShiftRows (s.map aesSbox))).map aesMixColumn).flatten rk

/-- AES-256 encryption of sixteen bytes under expanded keys. -/
def aesWith (rks : List (List Byte)) (s : List Byte) : List Byte :=
  let s0 := xorBytes s (rks.getD 0 [])
  let s13 := ((rks.drop 1).take 13).foldl aesRound s0
  xorBytes (aesShiftRows (s13.map aesSbox)) (rks.getD 14 [])

/-- AES-256 encryption of one block of sixteen bytes. -/
def aesBytes (k : Key) (s : List Byte) : List Byte :=
  aesWith (aesSchedule k) s

/-- Multiplication in the field of GHASH, blocks as big-endian numbers. -/
def ghashMul (x y : Nat) : Nat :=
  ((List.range 128).foldl
    (fun (zv : Nat × Nat) i =>
      let z := if (x >>> (127 - i)) % 2 = 1 then zv.1 ^^^ zv.2 else zv.1
      let v := if zv.2 % 2 = 1 then (zv.2 >>> 1) ^^^ (0xE1 <<< 120) else zv.2 >>> 1
      (z, v)) (0, y)).1

/-- A byte list cut into pieces of `n` bytes, the last one short if need be. `fuel` bounds the number of pieces. -/
def pieces (n : Nat) : Nat → List Byte → List (List Byte)
  | 0, _ => []
  | fuel + 1, l => if l.isEmpty then [] else l.take n :: pieces n fuel (l.drop n)

def padTo16 (l : List Byte) : List Byte :=
  l ++ List.replicate ((16 - l.length % 16) % 16) 0

def blocks16 (l : List Byte) : List (List Byte) :=
  pieces 16 (l.length / 16 + 1) l

/-- GHASH over whole blocks. -/
def ghashBlocks (h : Nat) (bs : List (List Byte)) : Nat :=
  bs.foldl (fun y b => ghashMul (y ^^^ bytesToNat b) h) 0

/-- Counter-mode keystream: the blocks after J0 = IV ‖ 1 (R109). -/
def gcmKeystream (rks : List (List Byte)) (iv : List Byte) (nblocks : Nat) : List Byte :=
  ((List.range nblocks).map (fun i => aesWith rks (iv ++ natToBytes 4 (i + 2)))).flatten

/-- Counter-mode encryption, which is also decryption (R109). -/
def gcmCrypt (k : Key) (iv data : List Byte) : List Byte :=
  xorBytes data (gcmKeystream (aesSchedule k) iv (data.length / 16 + 1))

/-- The GCM tag over authenticated data and ciphertext (R108, R109). -/
def gcmTag (k : Key) (iv aad cipher : List Byte) : List Byte :=
  let rks := aesSchedule k
  let h := bytesToNat (aesWith rks (List.replicate 16 0))
  let lens := natToBytes 8 (8 * aad.length) ++ natToBytes 8 (8 * cipher.length)
  let s := ghashBlocks h (blocks16 (padTo16 aad ++ padTo16 cipher ++ lens))
  xorBytes (natToBytes 16 s) (aesWith rks (iv ++ natToBytes 4 1))

/-- Multiplication of an XTS tweak by x: byte 0 is the least significant (IEEE 1619). -/
def xtsDouble (t : Nat) : Nat :=
  let d := t <<< 1
  if d >= 2 ^ 128 then (d - 2 ^ 128) ^^^ 0x87 else d

def aesInvSbox (b : Byte) : Byte :=
  BitVec.ofNat 8 (((List.range 256).find? (fun i => aesSbox (BitVec.ofNat 8 i) == b)).getD 0)

def aesInvShiftRows (s : List Byte) : List Byte :=
  (List.range 16).map (fun i => s.getD ((i + 12 * (i % 4)) % 16) 0)

def aesMul (a : Byte) (n : Nat) : Byte :=
  let x2 := aesXtime a
  let x4 := aesXtime x2
  let x8 := aesXtime x4
  (if n % 2 = 1 then a else 0) ^^^ (if n / 2 % 2 = 1 then x2 else 0) ^^^
    (if n / 4 % 2 = 1 then x4 else 0) ^^^ (if n / 8 % 2 = 1 then x8 else 0)

def aesInvMixColumn (c : List Byte) : List Byte :=
  match c with
  | [a, b, d, e] =>
    [aesMul a 14 ^^^ aesMul b 11 ^^^ aesMul d 13 ^^^ aesMul e 9,
     aesMul a 9 ^^^ aesMul b 14 ^^^ aesMul d 11 ^^^ aesMul e 13,
     aesMul a 13 ^^^ aesMul b 9 ^^^ aesMul d 14 ^^^ aesMul e 11,
     aesMul a 11 ^^^ aesMul b 13 ^^^ aesMul d 9 ^^^ aesMul e 14]
  | _ => c

def aesInvRound (s rk : List Byte) : List Byte :=
  ((chunk4 (xorBytes ((aesInvShiftRows s).map aesInvSbox) rk)).map aesInvMixColumn).flatten

/-- AES-256 decryption of one block, which XTS needs on reads (R269). -/
def aesInvBytes (k : Key) (s : List Byte) : List Byte :=
  let rks := (aesSchedule k).reverse
  let s0 := xorBytes s (rks.getD 0 [])
  let s13 := ((rks.drop 1).take 13).foldl aesInvRound s0
  xorBytes ((aesInvShiftRows s13).map aesInvSbox) (rks.getD 14 [])

/-- The tweak of block `j` of the data unit numbered `unit` (R269). -/
def xtsTweak (k2 : Key) (unit j : Nat) : List Byte :=
  natToBytesLE 16 ((List.range j).foldl (fun t _ => xtsDouble t)
    (bytesToNatLE (aesBytes k2 (natToBytesLE 16 unit))))

/-- AES-256-XTS over the whole blocks of a data unit (R269). -/
def xtsEncrypt (k1 k2 : Key) (unit : Nat) (data : List Byte) : List Byte :=
  ((List.range (data.length / 16)).map (fun j =>
    let t := xtsTweak k2 unit j
    xorBytes (aesBytes k1 (xorBytes ((data.drop (16 * j)).take 16) t)) t)).flatten

def xtsDecrypt (k1 k2 : Key) (unit : Nat) (data : List Byte) : List Byte :=
  ((List.range (data.length / 16)).map (fun j =>
    let t := xtsTweak k2 unit j
    xorBytes (aesInvBytes k1 (xorBytes ((data.drop (16 * j)).take 16) t)) t)).flatten

def keccakRc : List (BitVec 64) := [
  0x0000000000000001#64, 0x0000000000008082#64, 0x800000000000808A#64, 0x8000000080008000#64,
  0x000000000000808B#64, 0x0000000080000001#64, 0x8000000080008081#64, 0x8000000000008009#64,
  0x000000000000008A#64, 0x0000000000000088#64, 0x0000000080008009#64, 0x000000008000000A#64,
  0x000000008000808B#64, 0x800000000000008B#64, 0x8000000000008089#64, 0x8000000000008003#64,
  0x8000000000008002#64, 0x8000000000000080#64, 0x000000000000800A#64, 0x800000008000000A#64,
  0x8000000080008081#64, 0x8000000000008080#64, 0x0000000080000001#64, 0x8000000080008008#64
]

/-- Rotation offsets of lane x + 5y. -/
def keccakRot : List Nat := [
  0, 1, 62, 28, 27,
  36, 44, 6, 55, 20,
  3, 10, 43, 25, 39,
  41, 45, 15, 21, 8,
  18, 2, 61, 56, 14
]

def keccakRound (a : List (BitVec 64)) (rc : BitVec 64) : List (BitVec 64) :=
  let g (l : List (BitVec 64)) (x y : Nat) : BitVec 64 := l.getD (x % 5 + 5 * (y % 5)) 0
  let c := (List.range 5).map (fun x => g a x 0 ^^^ g a x 1 ^^^ g a x 2 ^^^ g a x 3 ^^^ g a x 4)
  let d := (List.range 5).map (fun x => c.getD ((x + 4) % 5) 0 ^^^ (c.getD ((x + 1) % 5) 0).rotateLeft 1)
  let t := (List.range 25).map (fun i => a.getD i 0 ^^^ d.getD (i % 5) 0)
  -- lane (x, y) of t moves to (y, 2x + 3y)
  let b := (List.range 25).map (fun i =>
    let nx := i % 5
    let ny := i / 5
    -- the source (x, y) has y = nx and 2x + 3y = ny modulo 5
    let x := (nx + 3 * ny) % 5
    let src := x + 5 * nx
    (t.getD src 0).rotateLeft (keccakRot.getD src 0))
  let e := (List.range 25).map (fun i =>
    let x := i % 5
    let y := i / 5
    g b x y ^^^ ((~~~ g b (x + 1) y) &&& g b (x + 2) y))
  match e with
  | [] => []
  | e0 :: es => (e0 ^^^ rc) :: es

/-- The Keccak permutation of 1,600 bits. -/
def keccakF (a : List (BitVec 64)) : List (BitVec 64) :=
  keccakRc.foldl keccakRound a

/-- Absorb one block of 136 bytes (the rate of SHA3-256 and KMAC256). -/
def keccakAbsorb (a : List (BitVec 64)) (blk : List Byte) : List (BitVec 64) :=
  keccakF ((List.range 25).map (fun i =>
    a.getD i 0 ^^^ (if i < 17 then BitVec.ofNat 64 (bytesToNatLE ((blk.drop (8 * i)).take 8)) else 0)))

/-- The first 32 bytes of the sponge over `m` with domain-separation byte `ds`. -/
def sponge32 (ds : Byte) (m : List Byte) : List Byte :=
  let n := 136 - m.length % 136
  let pad : List Byte :=
    if n = 1 then [ds ^^^ 0x80#8] else ds :: (List.replicate (n - 2) 0 ++ [0x80#8])
  let p := m ++ pad
  let s := (pieces 136 (p.length / 136 + 1) p).foldl keccakAbsorb (List.replicate 25 0)
  (((List.range 4).map (fun i => natToBytesLE 8 (s.getD i 0).toNat)).flatten)

/-- SHA3-256 (FIPS 202). -/
def sha3 (m : List Byte) : List Byte :=
  sponge32 0x06#8 m

/-- The left encoding of SP 800-185 for numbers below 2^24. -/
def leftEncode (n : Nat) : List Byte :=
  if n < 256 then 0x01#8 :: natToBytes 1 n
  else if n < 65536 then 0x02#8 :: natToBytes 2 n
  else 0x03#8 :: natToBytes 3 n

def rightEncode (n : Nat) : List Byte :=
  if n < 256 then natToBytes 1 n ++ [0x01#8]
  else if n < 65536 then natToBytes 2 n ++ [0x02#8]
  else natToBytes 3 n ++ [0x03#8]

def encodeString (s : List Byte) : List Byte :=
  leftEncode (8 * s.length) ++ s

def bytepad136 (x : List Byte) : List Byte :=
  let y := leftEncode 136 ++ x
  y ++ List.replicate ((136 - y.length % 136) % 136) 0

/-- KMAC256 with a 256-bit output (SP 800-185). -/
def kmac256 (key data custom : List Byte) : List Byte :=
  sponge32 0x04#8
    (bytepad136 (encodeString (ascii "KMAC") ++ encodeString custom) ++
      bytepad136 (encodeString key) ++ data ++ rightEncode 256)

def sha512K : List (BitVec 64) := [
  0x428A2F98D728AE22#64, 0x7137449123EF65CD#64, 0xB5C0FBCFEC4D3B2F#64, 0xE9B5DBA58189DBBC#64,
  0x3956C25BF348B538#64, 0x59F111F1B605D019#64, 0x923F82A4AF194F9B#64, 0xAB1C5ED5DA6D8118#64,
  0xD807AA98A3030242#64, 0x12835B0145706FBE#64, 0x243185BE4EE4B28C#64, 0x550C7DC3D5FFB4E2#64,
  0x72BE5D74F27B896F#64, 0x80DEB1FE3B1696B1#64, 0x9BDC06A725C71235#64, 0xC19BF174CF692694#64,
  0xE49B69C19EF14AD2#64, 0xEFBE4786384F25E3#64, 0x0FC19DC68B8CD5B5#64, 0x240CA1CC77AC9C65#64,
  0x2DE92C6F592B0275#64, 0x4A7484AA6EA6E483#64, 0x5CB0A9DCBD41FBD4#64, 0x76F988DA831153B5#64,
  0x983E5152EE66DFAB#64, 0xA831C66D2DB43210#64, 0xB00327C898FB213F#64, 0xBF597FC7BEEF0EE4#64,
  0xC6E00BF33DA88FC2#64, 0xD5A79147930AA725#64, 0x06CA6351E003826F#64, 0x142929670A0E6E70#64,
  0x27B70A8546D22FFC#64, 0x2E1B21385C26C926#64, 0x4D2C6DFC5AC42AED#64, 0x53380D139D95B3DF#64,
  0x650A73548BAF63DE#64, 0x766A0ABB3C77B2A8#64, 0x81C2C92E47EDAEE6#64, 0x92722C851482353B#64
] ++ [
  0xA2BFE8A14CF10364#64, 0xA81A664BBC423001#64, 0xC24B8B70D0F89791#64, 0xC76C51A30654BE30#64,
  0xD192E819D6EF5218#64, 0xD69906245565A910#64, 0xF40E35855771202A#64, 0x106AA07032BBD1B8#64,
  0x19A4C116B8D2D0C8#64, 0x1E376C085141AB53#64, 0x2748774CDF8EEB99#64, 0x34B0BCB5E19B48A8#64,
  0x391C0CB3C5C95A63#64, 0x4ED8AA4AE3418ACB#64, 0x5B9CCA4F7763E373#64, 0x682E6FF3D6B2B8A3#64,
  0x748F82EE5DEFB2FC#64, 0x78A5636F43172F60#64, 0x84C87814A1F0AB72#64, 0x8CC702081A6439EC#64,
  0x90BEFFFA23631E28#64, 0xA4506CEBDE82BDE9#64, 0xBEF9A3F7B2C67915#64, 0xC67178F2E372532B#64,
  0xCA273ECEEA26619C#64, 0xD186B8C721C0C207#64, 0xEADA7DD6CDE0EB1E#64, 0xF57D4F7FEE6ED178#64,
  0x06F067AA72176FBA#64, 0x0A637DC5A2C898A6#64, 0x113F9804BEF90DAE#64, 0x1B710B35131C471B#64,
  0x28DB77F523047D84#64, 0x32CAAB7B40C72493#64, 0x3C9EBE0A15C9BEBC#64, 0x431D67C49C100D4C#64,
  0x4CC5D4BECB3E42B6#64, 0x597F299CFC657E2A#64, 0x5FCB6FAB3AD6FAEC#64, 0x6C44198C4A475817#64
]

def sha384Iv : List (BitVec 64) := [
  0xCBBB9D5DC1059ED8#64, 0x629A292A367CD507#64, 0x9159015A3070DD17#64, 0x152FECD8F70E5939#64,
  0x67332667FFC00B31#64, 0x8EB44A8768581511#64, 0xDB0C2E0D64F98FA7#64, 0x47B5481DBEFA4FA4#64
]

/-- The message schedule of SHA-512, newest word first. -/
def sha512Schedule (blk : List Byte) : List (BitVec 64) :=
  let w0 := ((List.range 16).map (fun i => BitVec.ofNat 64 (bytesToNat ((blk.drop (8 * i)).take 8)))).reverse
  ((List.range 64).foldl (fun (ws : List (BitVec 64)) _ =>
    let a : BitVec 64 := ws.getD 1 0
    let b : BitVec 64 := ws.getD 14 0
    let s1 := a.rotateRight 19 ^^^ a.rotateRight 61 ^^^ (a >>> 6)
    let s0 := b.rotateRight 1 ^^^ b.rotateRight 8 ^^^ (b >>> 7)
    (s1 + ws.getD 6 0 + s0 + ws.getD 15 0) :: ws) w0).reverse

def sha512Block (h : List (BitVec 64)) (blk : List Byte) : List (BitVec 64) :=
  let step (s : List (BitVec 64)) (kw : BitVec 64 × BitVec 64) : List (BitVec 64) :=
    match s with
    | [a, b, c, d, e, f, g, hh] =>
      let t1 := hh + (e.rotateRight 14 ^^^ e.rotateRight 18 ^^^ e.rotateRight 41) +
        ((e &&& f) ^^^ ((~~~ e) &&& g)) + kw.1 + kw.2
      let t2 := (a.rotateRight 28 ^^^ a.rotateRight 34 ^^^ a.rotateRight 39) +
        ((a &&& b) ^^^ (a &&& c) ^^^ (b &&& c))
      [t1 + t2, a, b, c, d + t1, e, f, g]
    | _ => s
  List.zipWith (· + ·) h ((sha512K.zip (sha512Schedule blk)).foldl step h)

/-- SHA-384 (FIPS 180-4), the digest of an image (R421). -/
def sha384 (m : List Byte) : List Byte :=
  let n := (240 - (m.length + 1) % 128) % 128
  let p := m ++ 0x80#8 :: (List.replicate n 0 ++ natToBytes 16 (8 * m.length))
  let h := (pieces 128 (p.length / 128 + 1) p).foldl sha512Block sha384Iv
  ((h.take 6).map (fun x => natToBytes 8 x.toNat)).flatten

end Sys2Proof.Machine
end

