-- ==== Sys2Proof/Config.lean ====
section
/-!
DEFINITION. What the spec leaves open or leaves to another document without stating it: constants with no body, so
that a claim holds whatever they are. Each is named in the assumption log.
-/

namespace Sys2Proof.Config

/-- The free 256-bit word of draw `n`: entropy words, masks, the scramble key and generated salts (R248, R250,
R177, R391). `State.draws` counts the draws. FREE VALUE, log 3. -/
opaque freeKey : Nat → Key

/-- The choices, one for each slot, of which the keyed permutation of the row addresses is made (R250, not given). FREE
VALUE, log 58. -/
opaque cellRow : Key → Nat → Nat

/-- The value with which the n-th cell of a row is combined (R250, not given). FREE VALUE, log 58. -/
opaque cellMask : Key → Nat → Nat → Key

/-- The 16-bit check over a share, the slot index and the attribute word (R247, not given). FREE VALUE, log 58. -/
opaque shareCheck : Key → Nat → Word → BitVec 16

/-- The initial value of the digest engine's boot measurement register (R241). FREE VALUE, log 4. -/
opaque bmrInitial : BitVec 384

/-- The digest engine's extend operation on the BMR (R416 step 9, R427). FREE VALUE, log 4. -/
opaque bmrExtend : BitVec 384 → BitVec 384 → BitVec 384

/-- Whether an ML-DSA-87 signature verifies: public key, message, signature (R421 check 0x06). The standard is named
and not given. FREE VALUE, log 5. -/
opaque mlDsaVerify : List Byte → List Byte → List Byte → Bool

/-- Reserved 1 as Quecy writes it on seal: the supplied field with the IEC 62351-6 protection indication for a tag of
this many bytes (R151). FREE VALUE, log 7. -/
opaque gsvMark : BitVec 16 → Nat → BitVec 16

/-- Whether Reserved 1 carries the IEC 62351-6 protection indication (R150). FREE VALUE, log 7. -/
opaque gsvMarked : BitVec 16 → Bool

/-- The IEC 62351-6 check of Reserved 1 and Reserved 2 (R152). FREE VALUE, log 7. -/
opaque gsvReservedOk : BitVec 16 → BitVec 16 → Bool

/-- The LSDU size that IEC 62439-3 defines for a frame, under HSR when the flag is set and PRP otherwise (R159).
FREE VALUE, log 8. -/
opaque lsduSize : Bool → List Byte → BitVec 12

/-- The path identifier that IEC 62439-3 assigns to a DANH (Table 5.7). FREE VALUE,
log 8. -/
opaque hsrPath : BitVec 4

/-- The 1 MiB boundary on which the integrator places the register window: bits [47:20] of its base (R475). Set by
the integrator, log 10. -/
opaque windowPage : BitVec 28

end Sys2Proof.Config
end

