-- ==== Sys2Proof/Machine/State.lean ====
section
/-!
DEFINITION. The state of the block as plain data, chapter by chapter, and the state right after reset. A `Table` is a
sparse map kept in one canonical form (Machine/Ops.lean): what it does not list reads as the default named there.
-/

namespace Sys2Proof.Machine

/-- A sparse map from numbers: keys strictly rising, no entry equal to its default. -/
abbrev Table (α : Type) := List (Nat × α)

/-- The six modes of Table 8.10 (R410). -/
inductive Mode where
  | assay | commission | service | drill | dormant | lockdown
  deriving DecidableEq, Repr

/-! ### Streams (03_streams.md, 07_key_generations.md) -/

/-- The four words of one generation (Table 3.5). -/
structure Gen where
  g0 : Word
  g1 : Word
  g2 : Word
  g3 : Word
  deriving DecidableEq, Repr

/-- A stream context of 32 words (Tables 3.3 to 3.6): w0 to w11, current, next and previous generation (w12 to w23),
w24 to w31. -/
structure Context where
  w0 : Word
  w1 : Word
  w2 : Word
  w3 : Word
  w4 : Word
  w5 : Word
  w6 : Word
  w7 : Word
  w8 : Word
  w9 : Word
  w10 : Word
  w11 : Word
  cur : Gen
  nxt : Gen
  prv : Gen
  w24 : Word
  w25 : Word
  w26 : Word
  w27 : Word
  w28 : Word
  w29 : Word
  w30 : Word
  w31 : Word
  deriving DecidableEq, Repr

def Gen.zero : Gen := ⟨0, 0, 0, 0⟩

/-- The context of a Free stream: zero in every word (R81). -/
def Context.zero : Context :=
  ⟨0, 0, 0, 0, 0, 0, 0, 0, 0, 0, 0, 0, .zero, .zero, .zero, 0, 0, 0, 0, 0, 0, 0, 0⟩

/-- The running transmit count of a generation that is no longer current, kept for the frames classified under it
(R19, R113): the next count, and whether the last one of the suite is taken (R105). -/
structure OldCount where
  gen : Nat
  next : Nat
  exhausted : Bool
  deriving DecidableEq, Repr

/-- What Quecy keeps of a stream beside its context: the generations that have closed and still have frames in flight
(R216), the running transmit counts of earlier generations (R113), the first transmit count of the
installed next generation (R210), the follow flag of its install (R221), whether its first V1 PASS under the next
generation has asked for the roll, and whether that roll waits to be staged, the generations whose use-limit event is
posted (R144), the slots its C-class frames have taken in this plan period, sealing and opening (R55), the frames that a
CLEAR stream has received in it (R103), the plan tick of the retirement boundary (Table 11.7, kind 0xC), whether the
Final output is written, the intervals sealed whose key no trailer of the stream has disclosed (R188), and the
destination address and 802.1Q tag its standalone frames take (R155). -/
structure StreamAux where
  closed : List Nat
  oldCounts : List OldCount
  firstCount : Nat
  follow : Bool
  followAsked : Bool
  followWait : Bool
  limitPosted : List Nat
  usedSeal : Nat
  usedOpen : Nat
  clearIn : Nat
  clearOut : Nat
  retireTick : Tick
  finalDone : Bool
  sealedIn : List Nat
  da : BitVec 48
  vlan : List Byte
  deriving DecidableEq, Repr

def StreamAux.zero : StreamAux := ⟨[], [], 0, false, false, false, [], 0, 0, 0, 0, 0, false, [], 0, []⟩

/-- What one stream is charged under each check of Table 2.6 (R61). -/
structure Demand where
  sealing : Nat
  opening : Nat
  echo : Nat
  ctrlSeal : Nat
  ctrlOpen : Nat
  keccak : Nat
  digest : Nat
  deriving DecidableEq, Repr

def Demand.zero : Demand := ⟨0, 0, 0, 0, 0, 0, 0⟩

/-- A grace-table entry (R217): the stream, the generation it guards, the replay state, whether its early window has
opened, and whether it guards the previous generation (after the roll). -/
structure GraceEntry where
  handle : Nat
  gen : Nat
  hi : BitVec 64
  map : Word
  opened : Bool
  previous : Bool
  deriving DecidableEq, Repr

/-! ### Staging (R17, R72, R508) -/

/-- The objects a tick-stamped command changes (R508). -/
inductive Obj where
  | stream (h : Nat)
  | mode
  | image
  | budget (d : Option Nat)
  | slot (n : Nat)
  | chain (verified : Bool) (n : Nat)
  | gate (g : Nat)
  | port (p : Nat)
  deriving DecidableEq, Repr

/-- The data of an install (R210): the generation words, the first transmit count, the use limit, and the flags. -/
structure Install where
  gen : Gen
  first : Nat
  limit : Word
  follow : Bool
  roll : Bool
  deriving DecidableEq, Repr

/-- A staged change. -/
inductive Change where
  | create (c : Context)
  | modify (mask : BitVec 11) (vals : List Word)
  | arm (h0 h1 h2 : Word)
  | disarm
  | retire
  | twin (other : Nat)
  | unlink
  | install (i : Install)
  | roll (gen : Nat)
  | mode (m : Mode)
  | budget (v : BitVec 32)
  | invalidate
  | deleteChain
  | gateOffline
  | gateOnline
  | portReset
  | activate (slotB : Bool)
  deriving DecidableEq, Repr

/-- A change staged for a tick: `dom` 0 to 3 is a tick domain, 4 the plan (R72). -/
structure Staged where
  obj : Obj
  dom : Nat
  tick : Tick
  chg : Change
  deriving DecidableEq, Repr

/-! ### Mailboxes (13_yarrow_and_pyfer.md) -/

/-- A mailbox page (Tables 13.1 to 13.4). -/
structure Mailbox where
  reqHdr : Word
  req : Table Word
  rspHdr : Word
  rsp : Table Word
  reqBusy : Bool
  rspValid : Bool
  lastError : BitVec 8
  acceptedSeq : BitVec 16
  protoErrors : BitVec 24
  stateRefusals : BitVec 24
  deriving DecidableEq, Repr

def Mailbox.zero : Mailbox := ⟨0, [], 0, [], false, false, 0, 0, 0, 0⟩

/-- Where an accepted command stands: waiting to be executed, begun with the entropy word of the given number and still to
write its slot (R235, R255), waiting on the key bus, waiting for a snapshot boundary, waiting after it for the frames
that its snapshot includes (R20), or answered with the response words from a0 on. -/
inductive CmdPhase where
  | waiting
  | begun (word : Nat)
  | keyBus
  | snapshot (h : Nat) (tick : Tick)
  | settling
  | answered (words : List Word)
  deriving DecidableEq, Repr

/-- An accepted command (R367): its mailbox, header and words, and the ticks in force at acceptance (R379). -/
structure Cmd where
  id : Nat
  mbox : Nat
  hdr : Word
  words : List Word
  plan : Tick
  ticks : Table Tick
  phase : CmdPhase
  deriving DecidableEq, Repr

/-- The snapshot of a stream taken at a tick boundary for the command `cmd`, while frames of the stream that were
classified before that boundary (their numbers lie below `bound`) are still in the block: the context as it stood, to
which the effects of those frames are added as they come (R20). -/
structure Shot where
  cmd : Nat
  handle : Nat
  tick : Tick
  bound : Nat
  ctx : Context
  deriving DecidableEq, Repr

/-! ### Key store (08_key_store.md) -/

/-- A key as a read port hands it to a slice or a core: both shares, whose exclusive OR is the key (R225, R248). -/
structure Shares where
  share0 : Key
  share1 : Key
  deriving DecidableEq, Repr

def Shares.zero : Shares := ⟨0, 0⟩

/-- A key slot (R225): two shares, attribute word, use count and use limit, and for a digest-bound slot the
keyed-digest slot of the digest engine it refers to (R245). -/
structure KeySlot where
  share0 : Key
  share1 : Key
  attr : Word
  u0 : Word
  u1 : Word
  digestRef : Option Nat
  deriving DecidableEq, Repr

def KeySlot.empty : KeySlot := ⟨0, 0, 0, 0, 0, none⟩

/-- An import in progress on the key bus (R243); `abandoned` says that its domain key has ceased to be live since it began
(R235). -/
structure Import where
  cmd : Nat
  handle : BitVec 32
  domain : Nat
  slot : Nat
  uses : BitVec 7
  expire : Bool
  limit : Word
  since : Nat
  digestRef : Option Nat
  abandoned : Bool
  deriving DecidableEq, Repr

/-- A message on the key bus: a request, which for a digest-bound import names the keyed-digest slot that the key is to
go to, an acknowledgement, or a refusal with its cause (R243 to R245). -/
inductive KeyBusMsg where
  | request (handle : BitVec 32) (domain : Nat) (digest : Option Nat)
  | ack (handle : BitVec 32) (slot : Nat)
  | refusal (handle : BitVec 32) (cause : Nat)
  deriving DecidableEq, Repr

/-- The key store's machinery: sweep position and whether the pass met work or new work came (R233), masking-refresh
position (R249), the outputs of the four local generators, whether the scramble key and the generators are set
(R250), and the keyed-digest slots in use (R245). -/
structure KeyCtl where
  sweepPos : Nat
  sweepOn : Bool
  sweepAgain : Bool
  maskPos : Nat
  genOut : Table Nat
  seeded : Bool
  scramble : Key
  digestUsed : List Nat
  deriving DecidableEq, Repr

/-- The entropy port (R38, R252 to R256): its flags, the instant the health-failure flag rose, whether the
degraded-masking limit has passed, the words held, and whether the generators wait for a reseed (R430). -/
structure Entropy where
  ready : Bool
  fail : Bool
  failAt : Nat
  degraded : Bool
  buffered : Nat
  reseedWait : Bool
  deriving DecidableEq, Repr

/-! ### Fuses, image, Assay (14_modes_and_startup.md) -/

structure Fuses where
  root : Key
  lifecycle : BitVec 8
  ownerDigest : BitVec 384
  rollbackFloor : BitVec 32
  entropyWait : BitVec 4
  debugLock : Bool
  deriving DecidableEq, Repr

/-- An image slot of the non-volatile store (R419): its bytes, where the last write ended, whether the last completed
image verified, and its version. -/
structure ImgSlot where
  bytes : List Byte
  verified : Bool
  version : BitVec 32
  deriving DecidableEq, Repr

def ImgSlot.empty : ImgSlot := ⟨[], false, 0⟩

structure NvStore where
  slotA : ImgSlot
  slotB : ImgSlot
  marker : Option Bool
  counter : Word
  deriving DecidableEq, Repr

/-- The tick configuration (Table 2.1). -/
structure TickCfg where
  origin : Word
  enable : BitVec 4
  protShare : Nat
  ctrlShare : Nat
  keccakShare : Nat
  lease : Nat
  freq : List Nat
  deriving DecidableEq, Repr

def TickCfg.default : TickCfg := ⟨0, 1, 50, 10, 80, 0, [4800, 0, 0, 0]⟩

/-- A port's configuration (Table 10.2). -/
structure PortCfg where
  enable : Bool
  autoneg : Bool
  allUnicast : Bool
  fec : Nat
  station : BitVec 48
  maxLen : Nat
  holdMs : Nat
  deriving DecidableEq, Repr

def PortCfg.default : PortCfg := ⟨false, true, false, 2, 0, 2000, 10⟩

/-- The decoded records of an image (Table 14.9). -/
structure ImgCfg where
  startMode : BitVec 8
  debug : BitVec 8
  degradedLimit : Nat
  degradedRefuse : Bool
  unmatched : BitVec 8
  catchAll : BitVec 16
  digestFirst : Nat
  digestCount : Nat
  ticks : TickCfg
  quads : List Nat
  ports : List PortCfg
  pairs : List Nat
  crossPairs : List Nat
  clearPorts : BitVec 16
  clearTypes : List (BitVec 16)
  noticeMask : BitVec 16
  noticeMs : Nat
  noticeRate : Nat
  ringBlocks : List Nat
  slotBlocks : List Nat
  memIds : List Word
  regions : List (Word × Word)
  bwId : Nat
  bwHoldN : Nat
  bwPebble : Word
  bwVer : Word
  bwHold : Word
  gates : List (List (Word × Word × Word))
  deriving DecidableEq, Repr

/-- No image: every quad off, every block unallocated, the defaults of Tables 2.1, 5.10, 10.2 and of R254. -/
def ImgCfg.none : ImgCfg where
  startMode := 1
  debug := 0
  degradedLimit := 10
  degradedRefuse := false
  unmatched := 0
  catchAll := 0
  digestFirst := 0
  digestCount := 0
  ticks := .default
  quads := [0, 0, 0, 0]
  ports := List.replicate 16 .default
  pairs := List.replicate 8 0
  crossPairs := [0, 0]
  clearPorts := 0
  clearTypes := []
  noticeMask := 0x1FF
  noticeMs := 1000
  noticeRate := 20
  ringBlocks := List.replicate 64 255
  slotBlocks := List.replicate 64 255
  memIds := []
  regions := []
  bwId := 0
  bwHoldN := 0
  bwPebble := 0
  bwVer := 0
  bwHold := 0
  gates := []

/-- The active image: its slot, digest, version and records (R427). -/
structure Active where
  slotB : Bool
  digest : BitVec 384
  version : BitVec 32
  deriving DecidableEq, Repr

/-- ASSAY_STATUS (Table 17.6), the instants of the entropy wait and of the counter retry, and whether an image has been
chosen whose configuration step 10 has not loaded yet. -/
structure AssayState where
  step : Nat
  timeout : Bool
  retry : Bool
  fallback : Bool
  cause1 : BitVec 8
  cause2 : BitVec 8
  waitFrom : Nat
  retryFrom : Nat
  loading : Bool
  deriving DecidableEq, Repr

/-- What Assay and Yarrow keep for the statement of Table 8.9. -/
structure Ladder where
  formed : Bool
  ladderBmr : BitVec 384
  deviceId : BitVec 128
  epoch : Word
  umazSeq : BitVec 16
  cellFaults : BitVec 32
  fetchRefusals : BitVec 32
  activations : BitVec 16
  drill : Bool
  deriving DecidableEq, Repr

/-! ### Ticks (02_speedwell_tick.md) -/

/-- The tick keeper and Speedwell: plan tick index, indices of the four domains, keeper time T in nanoseconds since
the origin, held as its distance from the model's clock, whether it runs (R53), whether the first alignment has been
made (R50), the instant of the last plan boundary (R49), the quality, the time bus as last sampled and the instant of that sample, its flags, and the reading latched at the last 1PPS edge (R48). -/
structure TickState where
  plan : Tick
  idx : Table Tick
  keeper : Int
  running : Bool
  aligned : Bool
  jump : Bool
  lastAt : Nat
  quality : Nat
  valid : Bool
  hold : Bool
  seconds : BitVec 48
  nanos : BitVec 32
  busAt : Nat
  ppsSeconds : BitVec 48
  ppsNanos : BitVec 32
  deriving DecidableEq, Repr

/-- Overrun state (R70, R71): the run of plan periods with an overrun and without, the directions flagged in this
period, plan overload and its direction, the three counters, and the withheld directions, each with the number that the
next frame had at the overrun. -/
structure OverrunState where
  run : Nat
  calm : Nat
  flagged : List Dir
  overload : Bool
  overloadDir : Dir
  cntE : Word
  cntI : Word
  cntK : Word
  withheld : List (Dir × Nat)
  deriving DecidableEq, Repr

/-! ### Rings (11_host_rings.md) -/

/-- An output on its way to a ring entry (R339): the entry it was allotted (2^32 times the ring's era plus the entry
count), its words o0 to o3, and the buffer bytes that go first (R338, R340). -/
structure OutRec where
  entry : Nat
  words : List Word
  bufAddr : Nat
  buf : List Byte
  deriving DecidableEq, Repr

/-- A ring (R328 to R330): base and size in force, the five counts, the allotted entries already written, the outputs
ready to be written, the outputs that wait for room, the header words as read at arming, the lost counts, whether
a refused deputy access has stopped it (R359), whether the header is due, and the marks of the plan period. `era`
counts the restarts of R389, and `eras` keeps base and size of the earlier eras. -/
structure Ring where
  era : Nat
  eras : List (Nat × Nat)
  base : Nat
  entries : Nat
  tail : Nat
  fetch : Nat
  reserve : Nat
  head : Nat
  release : Nat
  written : List Nat
  outs : List OutRec
  waiting : List (List Word)
  h0 : Word
  h1 : Word
  h2 : Word
  lostC : Nat
  lostR : Nat
  stopped : Bool
  changed : Bool
  raise_ : Bool
  raised : Bool
  starved : Bool
  stateHdr : Nat
  deriving DecidableEq, Repr

def Ring.zero : Ring :=
  ⟨0, [], 0, 0, 0, 0, 0, 0, 0, [], [], [], 0, 0, 0, 0, 0, false, false, false, false, false, 0⟩

/-- A SEAL or UNSEAL record (R344 to R346): its descriptor, where it stands, the state saved at chunk boundaries, the
unit of its last chunk, and that its buffers have been walked and need no walk again (R358, R361). -/
structure RecordJob where
  id : Nat
  handle : Nat
  opening : Bool
  ctx : Context
  entry : Nat
  descr : List Word
  started : Bool
  count : Nat
  gen : Gen
  header : List Byte
  total : Nat
  offset : Nat
  input : List Byte
  output : List Byte
  iv : List Byte
  units : Table Nat
  walked : Bool
  deriving DecidableEq, Repr

/-! ### Frames in flight -/

inductive TxKind where
  | stream | clear | ptp | hsr | notice | sealedNotice | standalone
  deriving DecidableEq, Repr

/-- Stages of an egress frame: offered, in a slice, waiting for the digest engine, waiting for echo, ready at the
MAC, on the wire. -/
inductive TxStage where
  | offered | sealed | digestWait | echoWait | ready | onWire
  deriving DecidableEq, Repr

/-- An egress frame. `ctx` is the version of its context it took at classification (R22), `cls` the class it is
served in after demotion (0 P, 1 C, 2 B), `count` the transmit count it took (R113), `wire` the bytes it will send
without FCS, `ports` the ports it still has to start on, `onPorts` those it is being sent on, `sent` those it left
whole on, `cut` those it was aborted on. `judged` says that the checks of R96 and R117 are made, `trailer` is the
Bindweed trailer without its frame tag and `mac` the MAC key for that tag, `key` the key its slice has
fetched, `stamp` the egress timestamp, `fail` a
status that the frame will complete with. -/
structure TxFrame where
  id : Nat
  kind : TxKind
  handle : Nat
  ctx : Context
  iface : Bool
  report : Bool
  entry : Option Nat
  cookie : Word
  declared : Nat
  bytes : List Byte
  ended : Bool
  short : Bool
  trunc : Bool
  demoted : Bool
  cls : Nat
  stage : TxStage
  count : Option Nat
  interval : Nat
  slice : Nat
  wire : List Byte
  plain : List Byte
  ports : BitVec 16
  onPorts : BitVec 16
  sent : BitVec 16
  cut : BitVec 16
  seqNo : BitVec 16
  traced : Bool
  badFcs : Bool
  judged : Bool
  trailer : List Byte
  mac : Option Shares
  key : Shares
  stamp : Word × BitVec 32
  fail : Option Nat
  deriving DecidableEq, Repr

inductive RxKind where
  | protected_ | clear | ptp | standalone | notice | hsr
  deriving DecidableEq, Repr

/-- A received frame. `body` is the frame without HSR tag and PRP trailer, `key` its source address and PRP or HSR
sequence number where it has one, `gen` the generation selected at V0, `keyVal` the key its slice has
fetched, `fate` the row and code of Table 6.6 that its V0 decided and `v0Tick` the plan tick then, `lengthBad` and
`tagOk` what V1 will judge by, `plain` its delivered bytes, `placed` how many beats of them are placed, `entry` its
ring entry, `buffered` that its bytes go into the entry's buffer and `bufHeld` that they wait for an offline gate (R361),
`reported` that a violation of it has been reported (R171). -/
structure RxFrame where
  id : Nat
  kind : RxKind
  rx : RxIn
  body : List Byte
  key : Option (BitVec 48 × BitVec 16)
  handle : Nat
  ctx : Context
  demoted : Bool
  v0 : Bool
  seq : BitVec 20
  gen : Nat
  genWords : Gen
  keyVal : Shares
  pn : BitVec 64
  fate : Nat × Nat
  v0Tick : Tick
  keyRefused : Bool
  lengthBad : Bool
  tagOk : Bool
  plain : List Byte
  trailer : List Byte
  placed : Nat
  v0Placed : Bool
  entry : Option Nat
  buffered : Bool
  bufHeld : Bool
  aborted : Bool
  bufferAbort : Bool
  digest : Option (Bool × Bool)
  slice : Nat
  traced : Bool
  reported : Bool
  deriving DecidableEq, Repr

/-- A beat of the ingress interface (Table 11.2). `stamp` marks a timestamp beat (R324). -/
structure Beat where
  data : List Byte
  stamp : Bool
  handle : Nat
  seq : BitVec 20
  last : Bool
  port : Nat
  bypass : Bool
  va : Option Word
  vb : Option Word
  deriving DecidableEq, Repr

/-! ### Ports and partners (05_wire_formats.md, 10_ports_and_pcs.md) -/

/-- An entry of a notice table (R167) with the details of the latest violation (Table 5.8) and the DUPLEX stream that its
frame matched (R165). -/
structure NoticeEntry where
  sa : BitVec 48
  code : BitVec 8
  count : Nat
  endAt : Nat
  port : Nat
  subject : BitVec 64
  seqNo : BitVec 64
  keyRef : BitVec 32
  tick : Tick
  vlan : List Byte
  duplex : Option Nat
  deriving DecidableEq, Repr

/-- A notice to be sent, or waiting for a token and still counting (R168). -/
structure NoticeWait where
  entry : NoticeEntry
  summary : Bool
  deriving DecidableEq, Repr

/-- A port: link, conditions and the instant from which the link-up hold counts (R306), port reset (R312), PRST_ACK
(R496), the frame on the wire, its Table 10.4 counters, the events already posted in this plan period, its notice
table by entry number, the tokens taken from the bucket since it was full, the instant its next token is counted from,
and the waiting notices (R167, R168; kept at port A of a pair). -/
structure PortState where
  up : Bool
  conds : List LinkCond
  cleanFrom : Nat
  inReset : Bool
  resetAt : Nat
  prstAck : Bool
  ctr : Table Word
  seen : List Nat
  notices : Table NoticeEntry
  tokens : Nat
  tokenAt : Nat
  waits : List NoticeWait
  deriving DecidableEq, Repr

def PortState.zero : PortState := ⟨false, [], 0, false, 0, false, [], [], [], 0, 0, []⟩

/-- An entry of a duplicate-discard or forwarding table: source address, sequence number, direction of a forward (its
port of arrival), and the instant it was recorded (R139, R160). -/
structure DupEntry where
  sa : BitVec 48
  seqNo : BitVec 16
  port : Nat
  at_ : Nat
  deriving DecidableEq, Repr

/-- A pair, kept under its port A: sequence counter (R159), duplicate-discard table, oldest first (R139), forwarding
table (R160), and the counters of Table 10.5. -/
structure PairState where
  seqCtr : BitVec 16
  dup : List DupEntry
  fwd : List DupEntry
  ctr : Table Word
  deriving DecidableEq, Repr

def PairState.zero : PairState := ⟨0, [], [], []⟩

/-- The received-notice log (R489): entries of nine words n0 to n8 by index, the newest index, and whether any is
present. -/
structure NoticeLog where
  entries : Table (List Word)
  newest : Nat
  present : Bool
  deriving DecidableEq, Repr

/-! ### Gates (12_gates.md) -/

/-- A gate: rules by number, whether it is online, the fault log (entries of four words by index, newest index,
present), and the class counters of Table 17.5. -/
structure Gate where
  rules : Table (Word × Word × Word)
  online : Bool
  log : Table (List Word)
  newest : Nat
  present : Bool
  lost : Word
  doorbellErr : Word
  offerRefused : Word
  changed : Bool
  deriving DecidableEq, Repr

def Gate.zero : Gate := ⟨[], false, [], 0, false, 0, 0, 0, false⟩

/-! ### Bindweed (06_bindweed.md) -/

/-- A pebble bank that has been filled (Table 6.3): its kind and half, the seed slot that its keys come from, the first
interval of its segment or block, the anchor of its segment (R180; empty for a block), and whether a read has found it
at fault, so that it is to be rebuilt (R183). -/
structure Bank where
  block : Bool
  half : Bool
  seed : Nat
  first : Nat
  anchor : List Byte
  faulty : Bool
  deriving DecidableEq, Repr

/-- What the pass of R184 has made ready for an interval: whether its MAC key was written before it began (R185), and the
key that it discloses, where one is due and could be computed. -/
structure KeyReady where
  interval : Nat
  mac : Bool
  disclosed : Option (List Byte)
  deriving DecidableEq, Repr

/-- A publisher chain (R177 to R190, R206): its parameters; its seeds, each with seed slot, start interval and renewal
count, by rising start: an earlier one while its keys are still disclosed, the one in force, and renewals to come; the
start of the one in force; what is ready for the latest intervals, latest first (R184); the last interval whose key was
late (R185); the pebble banks that are filled (R180), whose records stand in `State.pebbles`; and the segments whose
anchor was carried or missed (R190). -/
structure Pub where
  domain : Nat
  td : Nat
  len : Nat
  delay : Nat
  publisher : BitVec 32
  seeds : List (Nat × Nat × BitVec 16)
  inForce : Nat
  ready : List KeyReady
  latePosted : Option Nat
  banks : List Bank
  carried : Option (Nat × Nat)
  starved : Option (Nat × Nat)
  deriving DecidableEq, Repr

/-- A verified chain (Table 6.5). `keyed` says that a disclosure has been verified since the install. `flushed` is the
copy of w0, w1 and w9 kept for Dormant (R443). -/
structure Ver where
  domain : Nat
  td : Nat
  len : Nat
  delay : Nat
  margin : Nat
  late : Nat
  v : Nat
  publisher : BitVec 32
  count : BitVec 16
  key : List Byte
  keyed : Bool
  inStart : Nat
  inCount : BitVec 16
  inKey : List Byte
  inValid : Bool
  anchorValid : Bool
  anchorSeg : Nat
  anchor : List Byte
  invalid : Bool
  installed : Bool
  flushed : List Word
  deriving DecidableEq, Repr

/-- A Bindweed frame that passed V1 and awaits its V2 record: a hold (Table 6.7) while `code` is none, decided after
that (R193, R201). `slot` is the hold's record in the hold table, for a frame that has one. -/
structure V2Rec where
  slot : Nat
  handle : Nat
  seq : BitVec 20
  chain : Nat
  interval : Nat
  digest : List Byte
  tag : List Byte
  arrival : Tick
  anchor : List Byte
  code : Option (BitVec 5)
  decidedAt : Tick
  deriving DecidableEq, Repr

/-- A disclosed key that is to be checked (R196, R202): the chain, the key and its interval, the steps of its check that
have run, the frame that carried it, and whether that frame's V2 record may still become DISCLOSURE_INVALID. -/
structure KeyWalk where
  chain : Nat
  interval : Nat
  key : List Byte
  run : Nat
  frame : RxFrame
  decides : Bool
  deriving DecidableEq, Repr

/-- Bindweed's counts (R185, R193, R196) and the keys disclosed and verified that hold resolution still works with
(R197): chain, interval, key; the freed streams that still owe a disclosure (R188): handle, what was kept of the
stream, and its context; the disclosed keys that are still being checked, in the order in which they came; and the steps
that each verified chain has run in this plan period (R202). -/
structure BwState where
  keyLate : Nat
  early : Nat
  refused : Nat
  unverifiable : Nat
  resolve : List (Nat × Nat × List Byte)
  owed : List (Nat × StreamAux × Context)
  walks : List KeyWalk
  steps : Table Nat
  deriving DecidableEq, Repr

/-! ### The memory plane (09_teasel_memory_plane.md) -/

/-- A node in the counter cache (R278): eight counters. -/
structure CNode where
  id : Nat
  level : Nat
  node : Nat
  ctrs : List Nat
  dirty : Bool
  deriving DecidableEq, Repr

/-- A tag line in the tag cache (R278). -/
structure TagLine where
  addr : Nat
  bytes : List Byte
  dirty : Bool
  deriving DecidableEq, Repr

/-- An entry of the write-merge buffer (R279). -/
structure WmEntry where
  id : Nat
  addr : Nat
  data : List Byte
  mask : BitVec 64
  since : Nat
  port : Nat
  deriving DecidableEq, Repr

/-- A read that waits for DRAM (R277): the memory slice that serves its line (R33), and the bytes that the write-merge
buffer held of the line when the read was taken, with their mask (R281). -/
structure MemWait where
  acc : Nat
  port : Nat
  id : Nat
  addr : Nat
  len : Nat
  slice : Nat
  data : List Byte
  mask : BitVec 64
  deriving DecidableEq, Repr

/-- What a memory port answers to an access: the data, an error response, a poisoned response, or the write accepted. -/
inductive MemReply where
  | data (acc : Nat) (bytes : List Byte)
  | error (acc : Nat)
  | poison (acc : Nat)
  | accepted
  deriving DecidableEq, Repr

/-- The parts of a memory key that a memory slice holds (R285); identifier 0 stands for none. -/
structure SliceKey where
  id : Nat
  a : Shares
  b : Shares
  deriving DecidableEq, Repr

def SliceKey.none : SliceKey := ⟨0, .zero, .zero⟩

/-- The memory plane: the tables loaded at Assay, the top-level store, the counter cache and the tag cache (most recently
used first), the write-merge buffer, the accesses that the ports hold (R279, R281), the reads that wait, poison, the
clean flag, the keys the four slices hold, the memory fault log, the entries of it that have not been read (R490), and the
replies since the last access or return of data. -/
structure MemPlane where
  ids : List Word
  regions : List (Word × Word)
  top : Table (List Nat)
  ccache : List CNode
  tcache : List TagLine
  wmb : List WmEntry
  held : List MemAccess
  waits : List MemWait
  poisonNodes : List (Nat × Nat × Nat)
  poisonSpaces : BitVec 16
  clean : Bool
  keys : Table SliceKey
  log : Table (List Word)
  newest : Nat
  present : Bool
  lost : Word
  unread : BitVec 32
  frozen : Bool
  nextAcc : Nat
  replies : List MemReply
  deriving DecidableEq, Repr

/-! ### Eyebright and the event block (16_eyebright_events.md) -/

/-- A record of the event log (Table 16.7). -/
structure LogRec where
  source : Nat
  level : Bool
  count : Nat
  tick : Tick
  closed : Bool
  deriving DecidableEq, Repr

/-- A host ring of Eyebright (Table 16.12). `want` is the Enable bit as last written, `on` the one in force. -/
structure EyeRingState where
  base : Word
  ctrl : Word
  on : Bool
  head : BitVec 32
  release : BitVec 32
  lost : Word
  deriving DecidableEq, Repr

/-- A tagged frame (R471): its record as far as it is known, and the plan tick at which its V2 record was written, zero
without one (t7). -/
structure TraceRec where
  frame : Nat
  egress : Bool
  word0 : Word
  word1 : Word
  tick : Tick
  done : Bool
  v2 : Word
  deriving DecidableEq, Repr

/-- The event block and Eyebright. `moves` holds the block cycles whose results have been discarded and whose counts
are still to move from category 0 or 1 of a unit's ledger to category 2, by ledger index (R468). For level counting
(R463, R466) it keeps the instant from which the cycles of the plan period count, and, one nanosecond on, the instants at
which levels have risen in the period and from which counters that were written or selected in it count. -/
structure Eye where
  status : BitVec 528
  enable : BitVec 528
  log : BitVec 528
  level : BitVec 528
  routes : Table Word
  armed : BitVec 32
  ringLatch : BitVec 32
  auto : BitVec 32
  want : BitVec 32
  sent : BitVec 32
  strobe : Option Nat
  ctr : Table Word
  sel : Table Word
  latch : Table Nat
  ledger : Table Word
  moves : Table Nat
  buffer : List LogRec
  snap : EyeRingState
  trace : EyeRingState
  evlog : EyeRingState
  seed : BitVec 32
  lfsr : BitVec 32
  snaps : List (List Word)
  snapSeq : BitVec 32
  snapLost : Word
  traces : List TraceRec
  countFrom : Nat
  rose : Table Nat
  since : Table Nat
  deriving DecidableEq, Repr

/-! ### Power (15_power_and_clocks.md) -/

/-- Rest and power: the rest level in force (R448), how deep each of the twelve units rests (0 awake, 1 gated, 2 off),
the instant of its last work, whether PD1 is awake and since when it had no command (R370), CLK_REQ, the Dormant
marks of PWR_STATUS, whether Dormant has begun and is not reported yet (R437), and the budgets (R447). -/
structure Power where
  level : Nat
  rest : Table Nat
  lastWork : Table Nat
  pd1 : Bool
  pd1Since : Nat
  clkReq : Bool
  dormantReached : Bool
  exiting : Bool
  entering : Bool
  engineBudget : BitVec 32
  domainBudget : Table (BitVec 32)
  deriving DecidableEq, Repr

/-- A retention restart in progress (R430): the mode held at the request, and RET_ACK. -/
structure Retention where
  former : Mode
  ack : Bool
  deriving DecidableEq, Repr

/-- The reply to the last register access (R476). -/
structure BusReply where
  value : Word
  error : Bool
  deriving DecidableEq, Repr

/-- What the block last sent to its neighbours (Table 1.9): the key-bus message, the personalisation input of the last
reseed request (R253), the last request to the digest engine (R115), the keyed-digest slot it was last commanded to clear (R245), the last BMR extend, the requests counted, and the copies in which the last frame left (port, bytes without FCS, FCS inverted). -/
structure Outputs where
  keyBus : Option KeyBusMsg
  reseed : Option (List Byte)
  reseeds : Nat
  digestReq : Option (List Byte)
  digestClear : Option Nat
  extend : Option (BitVec 384)
  frames : List (Nat × List Byte × Bool)
  deriving DecidableEq, Repr

/-- The state of the block, and the queue of the commands that wait. -/
structure State where
  pending : List Instr
  now : Nat
  draws : Nat
  mode : Mode
  cause : BitVec 8
  fatal : Bool
  assay : AssayState
  fuses : Fuses
  nv : NvStore
  active : Option Active
  img : ImgCfg
  bmr : BitVec 384
  ladder : Ladder
  tamperLatch : BitVec 4
  tamperLevel : BitVec 4
  retention : Option Retention
  power : Power
  tcfg : TickCfg
  ticks : TickState
  ovr : OverrunState
  mail : Table Mailbox
  rotation : Nat
  cmds : List Cmd
  nextCmd : Nat
  staged : List Staged
  streams : Table Context
  shots : List Shot
  aux : Table StreamAux
  adm : Table Demand
  grace : List GraceEntry
  slots : Table KeySlot
  keyCtl : KeyCtl
  ent : Entropy
  imports : List Import
  rings : Table Ring
  hostMem : Table Byte
  jobs : List RecordJob
  tx : List TxFrame
  rx : List RxFrame
  nextFrame : Nat
  egSkip : List Nat
  eReady : Bool
  classifying : Bool
  ingress : List Beat
  ports : Table PortState
  pairs : Table PairState
  noticeLog : NoticeLog
  gates : Table Gate
  pubs : Table Pub
  vers : Table Ver
  v2 : List V2Rec
  bw : BwState
  pebbles : Table (List Word)
  mem : MemPlane
  dram : Table Byte
  eye : Eye
  bus : BusReply
  out : Outputs
  deriving DecidableEq, Repr

/-- Why the machine may stop with a fault. The block has no exception entry, and every failure the spec describes is a
status, a verdict or an event of the state, so no meaning raises one. -/
inductive Fault where
  /-- Raised by nothing: kept so that the type of a step's outcome has a fault to name. Safe. -/
  | none
  deriving DecidableEq, Repr

/-- Why a command has no meaning. -/
inductive Refusal where
  /-- A command that has not been given its meaning yet, by the row's mnemonic. Raised by exec's refused arms only.
  Safe. -/
  | notModelled (mnemonic : String)
  /-- The command's operands cannot be formed on the block's interfaces (WellFormed.lean). Raised by the meanings of
  the commands that Instr.wf checks. Safe. -/
  | illFormed
  deriving DecidableEq, Repr

/-! ### Reset -/

def Power.reset : Power := ⟨0, [], [], true, 0, false, false, false, false, 0xFFFF_FFFF, []⟩

def TickState.reset : TickState := ⟨0, [], 0, false, false, false, 0, 3, false, false, 0, 0, 0, 0, 0⟩

def OverrunState.reset : OverrunState := ⟨0, 0, [], false, .egress, 0, 0, 0, []⟩

def AssayState.reset : AssayState := ⟨0, false, false, false, 0, 0, 0, 0, false⟩

def Ladder.reset : Ladder := ⟨false, 0, 0, 0, 0, 0, 0, 0, false⟩

def KeyCtl.reset : KeyCtl := ⟨0, false, false, 0, [], false, 0, []⟩

def Entropy.reset : Entropy := ⟨false, false, 0, false, 0, false⟩

def EyeRingState.reset : EyeRingState := ⟨0, 0, false, 0, 0, 0⟩

/-- Reset values of Tables 16.4, 16.5, 16.8 and 16.12: every message armed, the snapshot cadence 1, the trace seed 1. -/
def Eye.reset : Eye :=
  ⟨0, 0, 0, 0, [], 0xFFFF_FFFF, 0, 0, 0, 0, none, [], [], [], [], [], [],
   ⟨0, 0x0000_0010_0000, false, 0, 0, 0⟩, .reset, .reset, 1, 1, [], 0, 0, [], 0, [], []⟩

def MemPlane.reset : MemPlane :=
  ⟨[], [], [], [], [], [], [], [], [], 0, false, [], [], 0, false, 0, 0, false, 0, []⟩

/-- The block right after a cold reset (R11, R428, Table 14.3, Table 17.6): mode Assay with no step begun, every
context Free, every slot Empty, no image, the fuses at their factory values, the store empty. Every reset value the
spec does not state is named in the assumption log (entry 2). -/
def State.reset : State where
  pending := []
  now := 0
  draws := 0
  mode := .assay
  cause := 0
  fatal := false
  assay := .reset
  fuses := ⟨0, 0, 0, 0, 0, false⟩
  nv := ⟨.empty, .empty, none, 0⟩
  active := none
  img := .none
  bmr := Config.bmrInitial
  ladder := .reset
  tamperLatch := 0
  tamperLevel := 0
  retention := none
  power := .reset
  tcfg := { TickCfg.default with enable := 0 }
  ticks := .reset
  ovr := .reset
  mail := []
  rotation := 0
  cmds := []
  nextCmd := 0
  staged := []
  streams := []
  shots := []
  aux := []
  adm := []
  grace := []
  slots := []
  keyCtl := .reset
  ent := .reset
  imports := []
  rings := []
  hostMem := []
  jobs := []
  tx := []
  rx := []
  nextFrame := 0
  egSkip := []
  eReady := false
  classifying := true
  ingress := []
  ports := []
  pairs := []
  noticeLog := ⟨[], 0, false⟩
  gates := []
  pubs := []
  vers := []
  v2 := []
  bw := ⟨0, 0, 0, 0, [], [], [], []⟩
  pebbles := []
  mem := .reset
  dram := []
  eye := .reset
  bus := ⟨0, false⟩
  out := ⟨none, none, 0, none, none, none, []⟩

end Sys2Proof.Machine
end

