-- ==== Sys2Proof/Machine/Ops.lean ====
section
/-!
DEFINITION. Sparse maps in canonical form, and the named operations over the parts of the state: contexts, slots,
rings, ports, host memory, draws of free words and the clock of the model.
-/

namespace Sys2Proof.Machine

/-- What a meaning answers. -/
abbrev Out := Host.Outcome State Fault Refusal

/-! ### Sparse maps -/

/-- The value at `k`; `d` where nothing is listed. -/
def Table.get {α : Type} (d : α) (k : Nat) : Table α → α
  | [] => d
  | (j, a) :: m => if j = k then a else Table.get d k m

/-- The value listed at `k`. -/
def Table.find {α : Type} (k : Nat) : Table α → Option α
  | [] => none
  | (j, a) :: m => if j = k then some a else Table.find k m

/-- Nothing listed at `k`. -/
def Table.erase {α : Type} (k : Nat) : Table α → Table α
  | [] => []
  | (j, a) :: m => if j = k then Table.erase k m else (j, a) :: Table.erase k m

/-- `v` listed at `k`, in the order of keys. -/
def Table.insert {α : Type} (k : Nat) (v : α) : Table α → Table α
  | [] => [(k, v)]
  | (j, a) :: m =>
    if k < j then (k, v) :: (j, a) :: m
    else if k = j then (k, v) :: m
    else (j, a) :: Table.insert k v m

/-- `v` stored at `k`; an entry equal to the default `d` is not listed. -/
def Table.put {α : Type} [DecidableEq α] (d : α) (k : Nat) (v : α) (m : Table α) : Table α :=
  if v = d then Table.erase k m else Table.insert k v m

/-- Keys strictly rising. -/
def Table.sorted {α : Type} : Table α → Bool
  | [] => true
  | [_] => true
  | a :: b :: m => decide (a.1 < b.1) && Table.sorted (b :: m)

/-- The canonical form: keys strictly rising, and no entry equal to the default. -/
def Table.wf {α : Type} [DecidableEq α] (d : α) (m : Table α) : Bool :=
  Table.sorted m && m.all (fun e => decide (e.2 ≠ d))

/-! ### Byte memories: host memory and DRAM -/

/-- The byte at an address; an address nothing has written reads as zero (log 9). -/
def Memory.byte (m : Table Byte) (a : Nat) : Byte := Table.get 0 a m

def Memory.putByte (m : Table Byte) (a : Nat) (b : Byte) : Table Byte := Table.put 0 a b m

/-- Bytes written at rising addresses from `a` up. -/
def Memory.write (m : Table Byte) (a : Nat) : List Byte → Table Byte
  | [] => m
  | b :: bs => Memory.write (Memory.putByte m a b) (a + 1) bs

def Memory.read (m : Table Byte) (a n : Nat) : List Byte :=
  (List.range n).map (fun i => Memory.byte m (a + i))

/-- The canonical form of a byte memory. -/
def Memory.wf (m : Table Byte) : Bool := Table.wf 0 m

namespace State

/-- The plan tick index in force. -/
def plan (s : State) : Tick := s.ticks.plan

/-- The model's clock moves on to the instant a time-driven row brings; it never moves back. -/
def atTime (s : State) (t : Nat) : State := { s with now := max s.now t }

/-- A free 256-bit word, and the state that has drawn it (log 3). -/
def drawn (s : State) : Key := Config.freeKey s.draws

def draw (s : State) : State := { s with draws := s.draws + 1 }

/-! #### Streams -/

def stream (s : State) (h : Nat) : Context := Table.get .zero h s.streams
def setStream (s : State) (h : Nat) (c : Context) : State := { s with streams := Table.put .zero h c s.streams }
/-- A frame of stream h takes effect on the stream's running words: the effect reaches every snapshot taken since the
frame was classified (R20). -/
def onShots (s : State) (h f : Nat) (g : Context → Context) : State :=
  { s with shots := s.shots.map (fun x => if x.handle = h && decide (f < x.bound) then { x with ctx := g x.ctx } else x) }
def aux_ (s : State) (h : Nat) : StreamAux := Table.get .zero h s.aux
def setAux (s : State) (h : Nat) (a : StreamAux) : State := { s with aux := Table.put .zero h a s.aux }
def demand (s : State) (h : Nat) : Demand := Table.get .zero h s.adm
def setDemand (s : State) (h : Nat) (d : Demand) : State := { s with adm := Table.put .zero h d s.adm }

/-! #### Key slots, mailboxes, rings, ports, pairs, gates, chains -/

def slot (s : State) (k : Nat) : KeySlot := Table.get .empty k s.slots
def setSlot (s : State) (k : Nat) (v : KeySlot) : State := { s with slots := Table.put .empty k v s.slots }
def mbox (s : State) (m : Nat) : Mailbox := Table.get .zero m s.mail
def setMbox (s : State) (m : Nat) (v : Mailbox) : State := { s with mail := Table.put .zero m v s.mail }
def ring (s : State) (h : Nat) : Ring := Table.get .zero h s.rings
def setRing (s : State) (h : Nat) (r : Ring) : State := { s with rings := Table.put .zero h r s.rings }
def port (s : State) (p : Nat) : PortState := Table.get .zero p s.ports
def setPort (s : State) (p : Nat) (v : PortState) : State := { s with ports := Table.put .zero p v s.ports }
def pair (s : State) (p : Nat) : PairState := Table.get .zero p s.pairs
def setPair (s : State) (p : Nat) (v : PairState) : State := { s with pairs := Table.put .zero p v s.pairs }
def gate (s : State) (g : Nat) : Gate := Table.get .zero g s.gates
def setGate (s : State) (g : Nat) (v : Gate) : State := { s with gates := Table.put .zero g v s.gates }
def pub (s : State) (n : Nat) : Option Pub := Table.find n s.pubs
def setPub (s : State) (n : Nat) (v : Pub) : State := { s with pubs := Table.insert n v s.pubs }
def ver (s : State) (n : Nat) : Option Ver := Table.find n s.vers
def setVer (s : State) (n : Nat) (v : Ver) : State := { s with vers := Table.insert n v s.vers }

/-! #### Host memory, and counters of a port or pair -/

/-- A write by Quecy's DMA becomes visible at a fabric address (R340). -/
def writeHost (s : State) (a : Nat) (bs : List Byte) : State :=
  { s with hostMem := Memory.write s.hostMem (a % 2 ^ 48) bs }

/-- Counter `i` of port `p` advances (Table 10.4); counters wrap modulo 2^48. -/
def bumpPort (s : State) (p i k : Nat) : State :=
  let v := s.port p
  s.setPort p { v with ctr := Table.put 0 i (Table.get 0 i v.ctr + BitVec.ofNat 48 k) v.ctr }

/-- Counter `i` of the pair whose port A is `p` advances (Table 10.5). -/
def bumpPair (s : State) (p i : Nat) : State :=
  let v := s.pair p
  s.setPair p { v with ctr := Table.put 0 i (Table.get 0 i v.ctr + 1) v.ctr }

/-! #### Frames in flight -/

def txFrame (s : State) (f : Nat) : Option TxFrame := s.tx.find? (fun x => x.id == f)
def rxFrame (s : State) (f : Nat) : Option RxFrame := s.rx.find? (fun x => x.id == f)
def setTx (s : State) (x : TxFrame) : State := { s with tx := s.tx.map (fun y => if y.id == x.id then x else y) }
def setRx (s : State) (x : RxFrame) : State := { s with rx := s.rx.map (fun y => if y.id == x.id then x else y) }
def dropTx (s : State) (f : Nat) : State := { s with tx := s.tx.filter (fun x => x.id != f) }
def dropRx (s : State) (f : Nat) : State := { s with rx := s.rx.filter (fun x => x.id != f) }

end State

end Sys2Proof.Machine
end

