-- ==== Sys2Proof/Machine/Flags.lean ====
section
/-!
DEFINITION. The event block and Eyebright's counters (16_eyebright_events.md): posting an event, level sources,
interrupt messages, the event log's buffer, and the counters with their chains and overflows.
-/

namespace Sys2Proof.Machine

/-! ### Sources -/

/-- The level sources: busy of a slice (Table 16.2) and of a Keccak core, entropy ready and health failure, time valid
(Table 16.3). -/
def isLevelSource (n : Nat) : Bool :=
  (decide (194 ≤ n) && decide (n ≤ 230) && n % 4 == 2) || n == 232 || n == 236 || n == 486 || n == 487 || n == 496

/-- The mask of one source in the 528 status bits. -/
def evBit (n : Nat) : BitVec 528 := BitVec.ofNat 528 (1 <<< n)

/-- The message a source is routed to (Table 16.4). -/
def Eye.route (e : Eye) (n : Nat) : Nat := fld (Table.get 0 (n / 8) e.routes) (6 * (n % 8)) 5

/-! ### Counter selects (Tables 16.8 and 16.9) -/

def selEnable (w : Word) : Bool := bit w 47
def selLevel (w : Word) : Bool := bit w 46
def selChain (w : Word) : Bool := bit w 45
def selScope (w : Word) : Nat := fld w 43 2
def selHandle (w : Word) : Nat := fld w 28 15
def selDomain (w : Word) : Nat := fld w 24 4
def selCode (w : Word) : Nat := fld w 0 12

/-- Codes that allow a stream or domain scope (Table 16.9). -/
def scopedCode (c : Nat) : Bool :=
  (decide (0x300 ≤ c) && decide (c ≤ 0x30B)) || c == 0x30E || c == 0x30F

/-- The select of counter `n` breaks R462. -/
def selInvalid (n : Nat) (w : Word) : Bool :=
  let c := selCode w
  decide (fld w 12 11 ≠ 0) || (selChain w && n % 2 == 0) ||
  (!(selChain w && n % 2 == 1) &&
    ((decide (0x1F5 < c) && decide (c < 0x300)) || decide (0x30F < c) || selScope w == 3 ||
     (decide (selScope w ≠ 0) && !scopedCode c) || (selLevel w && !(isLevelSource c || c == 0x30D))))

/-- The counter counts by its select: enabled, valid, and no chained high half (R461, R464). -/
def selCounts (n : Nat) (w : Word) : Bool := selEnable w && !selInvalid n w && !(selChain w && n % 2 == 1)

/-- Counter n is the high half of a chained pair: its Chain bit alone makes it so (R464). -/
def Eye.paired (e : Eye) (n : Nat) : Bool := n % 2 == 1 && selChain (Table.get 0 n e.sel)

/-- Counter 2j + 1 counts the wraps of counter 2j: paired, enabled and valid (R461, R464). -/
def Eye.chained (e : Eye) (n : Nat) : Bool :=
  let w := Table.get 0 n e.sel
  e.paired n && selEnable w && !selInvalid n w

/-- Adds to one counter and says whether it wrapped (R461). -/
def Eye.addRaw (e : Eye) (n k : Nat) : Eye × Bool :=
  let v := (Table.get 0 n e.ctr).toNat + k
  ({ e with ctr := Table.put 0 n (BitVec.ofNat 48 v) e.ctr }, decide (2 ^ 48 ≤ v))

/-- Adds to counter `n`; a wrap feeds the chained pair, where its high half counts, or, of a counter that is no low half,
posts its overflow event through `post` (R464, R465). -/
def Eye.addCtr (post : Nat → Eye → Eye) (n k : Nat) (e : Eye) : Eye :=
  let (e1, w1) := e.addRaw n k
  if !w1 then e1
  else if n % 2 == 0 && e.paired (n + 1) then
    if !e.chained (n + 1) then e1
    else
      let (e2, w2) := e1.addRaw (n + 1) 1
      if w2 then post (478 + (n + 1) / 8) e2 else e2
  else post (478 + n / 8) e1

/-- Adds `hit` of its number and select to every counter that counts. -/
def Eye.countEach (post : Nat → Eye → Eye) (hit : Nat → Word → Nat) (e : Eye) : Eye :=
  e.sel.foldl (fun x (p : Nat × Word) =>
    if selCounts p.1 p.2 && decide (hit p.1 p.2 ≠ 0) then x.addCtr post p.1 (hit p.1 p.2) else x) e

/-- Adds `hit` of its select to every counter that counts. -/
def Eye.countBy (post : Nat → Eye → Eye) (hit : Word → Nat) (e : Eye) : Eye := e.countEach post (fun _ => hit)

/-! ### Level counting (R463, R466; log 15) -/

/-- The cipher cycles of an instant at 1.25 GHz. -/
def cipherCycle (t : Nat) : Nat := t * 5 / 4

/-- Code n counts by its level alone, and not by what a unit did: entropy, health and time flags, and the cipher clock. -/
def standsByItself (n : Nat) : Bool := n == 486 || n == 487 || n == 496 || n == 0x30D

/-- The instant from which counter c counts level n in this plan period. -/
def Eye.levelFrom (e : Eye) (c n : Nat) : Nat :=
  max e.countFrom (max (Table.get 0 n e.rose - 1) (Table.get 0 c e.since - 1))

/-- The cycles for which level n has stood in this plan period for counter c; none while the level is low or the cipher
clock is stopped. -/
def Eye.levelSpan (e : Eye) (stopped : Bool) (now c n : Nat) : Nat :=
  if stopped || !(n == 0x30D || bit e.level n) then 0 else cipherCycle now - cipherCycle (e.levelFrom c n)

/-! ### The event log's buffer (R460) -/

/-- Records whose plan period has ended are closed. -/
def Eye.closeDue (t : Tick) (e : Eye) : Eye :=
  { e with buffer := e.buffer.map (fun r => if r.tick = t then r else { r with closed := true }) }

/-- The source's latest record, if it is still open at this level. -/
def openRecord (n : Nat) (lvl : Bool) (b : List LogRec) : Option LogRec :=
  match (b.filter (fun r => r.source == n)).getLast? with
  | some r => if !r.closed && r.level == lvl then some r else none
  | none => none

/-- One posting in the buffer: merged into the open record, or a new record, or lost where the buffer of 64 records is
full (R460, Table 16.6). -/
def Eye.logRecord (n : Nat) (lvl : Bool) (t : Tick) (e0 : Eye) : Eye :=
  let e := e0.closeDue t
  match openRecord n lvl e.buffer with
  | some r =>
    let r2 : LogRec := { r with count := r.count + 1, closed := r.count + 1 == 0xFFFF }
    let swapped := e.buffer.map (fun x => if x = r then r2 else x)
    { e with buffer := swapped.filter (·.closed) ++ swapped.filter (fun x => !x.closed) }
  | none =>
    if e.buffer.length < 64 then { e with buffer := e.buffer ++ [⟨n, lvl, 1, t, false⟩] }
    else { e with evlog := { e.evlog with lost := satAdd e.evlog.lost 1 } }

/-- A record is made for a source whose log bit is set while the event log ring is in force. -/
def Eye.logIf (n : Nat) (lvl : Bool) (t : Tick) (e : Eye) : Eye :=
  if bit e.log n && e.evlog.on then e.logRecord n lvl t else e

/-- A posting without the counters' own overflows: status bit, log record, and the counters that count the source by
edges (R456, R460, R463). -/
def Eye.postWith (post : Nat → Eye → Eye) (lvl : Bool) (t : Tick) (n : Nat) (e : Eye) : Eye :=
  Eye.countBy post (fun w => if selCode w == n && !selLevel w then 1 else 0)
    (({ e with status := e.status ||| evBit n }).logIf n lvl t)

/-- A posting with every overflow it leads to. Each counter wraps at most once on the way, so the 64 counters bound
the depth. -/
def Eye.postN : Nat → Tick → Nat → Eye → Eye
  | 0, _, _, e => e
  | fuel + 1, t, n, e => Eye.postWith (Eye.postN fuel t) false t n e

/-! ### Interrupt messages (R457, R458) -/

/-- The sources that take part in their message now. -/
def Eye.active (e : Eye) : BitVec 528 := e.status &&& e.enable

/-- The messages pending (R457). -/
def Eye.pendingMask (e : Eye) : BitVec 32 :=
  if e.active = 0 then e.ringLatch
  else (List.range 502).foldl (fun m n => if bit e.active n then m ||| BitVec.ofNat 32 (1 <<< e.route n) else m)
    e.ringLatch

/-- After a change of the event block: an auto-mode message that has become pending is to be sent, and one no longer
pending is not (R458). -/
def Eye.refresh (old new : Eye) : Eye :=
  let p := new.pendingMask
  { new with want := (new.want ||| (p &&& ~~~ old.pendingMask &&& new.auto)) &&& p }

/-- A ring raises message `m`: its latch is set, and in auto mode it is to be sent (R343, R457, R458). -/
def Eye.raise (m : Nat) (e : Eye) : Eye :=
  let b := BitVec.ofNat 32 (1 <<< m)
  { e with ringLatch := e.ringLatch ||| b, want := e.want ||| (b &&& e.auto) }

namespace State

/-- A change of the event block, with its messages brought up to date. -/
def onEye (s : State) (f : Eye → Eye) : State := { s with eye := Eye.refresh s.eye (f s.eye) }

/-- A pulse source posts once (R456). -/
def post (s : State) (n : Nat) : State := s.onEye (Eye.postN 65 s.ticks.plan n)

/-- Several sources post, in order. -/
def posts (s : State) (ns : List Nat) : State := ns.foldl post s

def postIf (s : State) (c : Bool) (n : Nat) : State := if c then s.post n else s

/-- The cipher clock is stopped: Dormant has been reached (R437, R463). -/
def cipherStopped (s : State) : Bool := s.mode == .dormant && s.power.dormantReached

/-- A level source takes a level: a rising edge posts; a falling edge is logged, and the counters of the level take the
cycles for which it stood (R456, R460, R463). -/
def setLevel (s : State) (n : Nat) (lvl : Bool) : State :=
  if bit s.eye.level n == lvl then s
  else if lvl then
    s.onEye (fun e => Eye.postWith (Eye.postN 64 s.ticks.plan) true s.ticks.plan n { e with
      level := e.level ||| evBit n
      rose := if standsByItself n then Table.put 0 n (s.now + 1) e.rose else e.rose })
  else s.onEye (fun e => ({ e.countEach (Eye.postN 64 s.ticks.plan) (fun c w =>
      if selLevel w && selCode w == n && standsByItself n then e.levelSpan s.cipherStopped s.now c n else 0) with
    level := e.level &&& ~~~ evBit n }).logIf n false s.ticks.plan)

/-- Unit u (seal slices 0 to 2, open slices 3 to 5, memory slices 6 to 9, Keccak cores 10 and 11) works: it is awake, and
its idle time counts from now (R444, R446). -/
def worked (s : State) (u : Nat) : State :=
  { s with power := { s.power with rest := Table.put 0 u 0 s.power.rest, lastWork := Table.put 0 u s.now s.power.lastWork } }

/-- A unit works on one run of blocks: its busy level rises and falls (Table 16.2). -/
def busyPulse (s : State) (n : Nat) : State :=
  ((s.setLevel n true).setLevel n false).worked (if n < 232 then (n - 194) / 4 else 10 + (n - 232) / 4)

/-- The results of `n` blocks of unit u, counted in category c (0 or 1), are discarded: their counts are to move to
category 2 (R468). -/
def discardBlocks (s : State) (u c n : Nat) : State :=
  { s with eye := { s.eye with moves := Table.put 0 (8 * u + c) (Table.get 0 (8 * u + c) s.eye.moves + n) s.eye.moves } }

/-- Counts `k` under a select code for a stream and its domain (Table 16.9). -/
def count (s : State) (code h d k : Nat) : State :=
  s.onEye (Eye.countBy (Eye.postN 64 s.ticks.plan) (fun w =>
    if selCode w == code && !selLevel w &&
        (selScope w == 0 || (selScope w == 1 && selHandle w == h) || (selScope w == 2 && selDomain w == d))
    then k else 0))

end State

end Sys2Proof.Machine
end

