-- ==== Sys2Proof/Machine/Operands.lean ====
section
/-!
DEFINITION. The fields of a stream context (Tables 3.4 to 3.6) and of a generation (Table 3.5), read and written by
name, and the small facts about a stream that the meanings ask for.
-/

namespace Sys2Proof.Machine

/-! ### Generation words (Table 3.5) -/

namespace Gen

def slot (g : Gen) : Nat := fld g.g0 31 17
def num (g : Gen) : Nat := fld g.g0 15 16
def valid (g : Gen) : Bool := bit g.g0 14
def an (g : Gen) : Nat := fld g.g0 12 2
def ssci (g : Gen) : Nat := fld g.g1 16 32
def salt (g : Gen) : Nat := g.g2.toNat * 2 ^ 48 + g.g3.toNat
def words (g : Gen) : List Word := [g.g0, g.g1, g.g2, g.g3]

end Gen

/-! ### Context words -/

namespace Context

/-- The words 0 to 31 in order. -/
def words (c : Context) : List Word :=
  [c.w0, c.w1, c.w2, c.w3, c.w4, c.w5, c.w6, c.w7, c.w8, c.w9, c.w10, c.w11] ++
    c.cur.words ++ c.nxt.words ++ c.prv.words ++ [c.w24, c.w25, c.w26, c.w27, c.w28, c.w29, c.w30, c.w31]

def type (c : Context) : Nat := fld c.w0 44 4
def cls (c : Context) : Nat := fld c.w0 42 2
def domain (c : Context) : Nat := fld c.w0 38 4
def tickDomain (c : Context) : Nat := fld c.w0 36 2
def st (c : Context) : Nat := fld c.w0 33 3
def echo (c : Context) : Bool := bit c.w0 32
def bindweed (c : Context) : Bool := bit c.w0 31
def twinValid (c : Context) : Bool := bit c.w0 30
def twin (c : Context) : Nat := fld c.w0 15 15
def handle (c : Context) : Nat := fld c.w0 0 15

def setSt (c : Context) (v : Nat) : Context := { c with w0 := setFld c.w0 33 3 v }
def setTwin (c : Context) (valid : Bool) (h : Nat) : Context :=
  { c with w0 := setFld c.w0 15 16 (boolNat valid * 2 ^ 15 + h) }

def portMask (c : Context) : Nat := fld c.w1 32 16
def sciPort (c : Context) : Nat := fld c.w1 16 16
def vlanMode (c : Context) : Nat := fld c.w1 14 2
def vid (c : Context) : Nat := fld c.w1 2 12
def matchAddr (c : Context) : Nat := c.w2.toNat
def etherType (c : Context) : Nat := fld c.w3 32 16
def matchId (c : Context) : Nat := fld c.w3 16 16
def addrValid (c : Context) : Bool := bit c.w3 15
def payload (c : Context) : Nat := fld c.w4 37 11
def steady (c : Context) : Nat := fld c.w4 29 8
def burstPeak (c : Context) : Nat := fld c.w4 21 8
def hashLen (c : Context) : Nat := fld c.w4 10 11
def burstAllow (c : Context) : Nat := fld c.w5 32 16
def cRate (c : Context) : Nat := fld c.w5 16 16
def suite (c : Context) : Nat := fld c.w6 44 4
def confOffset (c : Context) : Nat := fld c.w6 42 2
def checkMode (c : Context) : Bool := bit c.w6 41
def replayProtect (c : Context) : Bool := bit c.w6 40
def grace (c : Context) : Nat := fld c.w6 34 6
def replayWindow (c : Context) : Nat := fld c.w6 0 32
def rollThreshold (c : Context) : Nat := c.w7.toNat
def ringBase (c : Context) : Nat := c.w8.toNat
def ringEntries (c : Context) : Nat := 2 ^ (fld c.w9 44 4 + 6)
def ringSizeCode (c : Context) : Nat := fld c.w9 44 4
def message (c : Context) : Nat := fld c.w9 39 5
def chain (c : Context) : Nat := fld c.w9 19 13
def partnerSsci (c : Context) : Nat := fld c.w10 16 32
def closeTick (c : Context) : Nat := c.w11.toNat

/-! Running words -/

/-- The transmit count: 64 bits under suite 0x2, w24 alone otherwise (Table 3.6). -/
def txCount (c : Context) : Nat := fld c.w25 32 16 * 2 ^ 48 + c.w24.toNat
def setTxCount (c : Context) (v : Nat) : Context :=
  { c with w24 := BitVec.ofNat 48 v, w25 := setFld c.w25 32 16 (v >>> 48) }
def seqNext (c : Context) : Nat := fld c.w25 0 20
def setSeqNext (c : Context) (v : Nat) : Context := { c with w25 := setFld c.w25 0 20 v }
def highest (c : Context) : Nat := fld c.w27 32 16 * 2 ^ 48 + c.w26.toNat
def setHighest (c : Context) (v : Nat) : Context :=
  { c with w26 := BitVec.ofNat 48 v, w27 := setFld c.w27 32 16 (v >>> 48) }
def rollRequested (c : Context) : Bool := bit c.w27 15
def txExhausted (c : Context) : Bool := bit c.w27 14
def keyRefused (c : Context) : Bool := bit c.w27 13
def setRollRequested (c : Context) (b : Bool) : Context := { c with w27 := setBit c.w27 15 b }
def setTxExhausted (c : Context) (b : Bool) : Context := { c with w27 := setBit c.w27 14 b }
def setKeyRefused (c : Context) (b : Bool) : Context := { c with w27 := setBit c.w27 13 b }

/-- The counts of w29 saturate (R83): demotions at bit 32, failures at 16, replay drops at 0. -/
def bump29 (c : Context) (lo : Nat) : Context :=
  { c with w29 := setFld c.w29 lo 16 (min 0xFFFF (fld c.w29 lo 16 + 1)) }
def bumpDemotions (c : Context) : Context := c.bump29 32
def bumpFailures (c : Context) : Context := c.bump29 16
def bumpReplay (c : Context) : Context := c.bump29 0
/-- The frame count of w30 wraps (R83). -/
def bumpFrames (c : Context) : Context := { c with w30 := c.w30 + 1 }

/-- The policing state of one half: period count, burst left, window left, window open (Table 3.6). The opening half
of a DUPLEX stream keeps its own in w25 and w27. -/
def periodCount (c : Context) (op : Bool) : Nat := if op then fld c.w27 3 10 else fld c.w31 38 10
def setPeriodCount (c : Context) (op : Bool) (v : Nat) : Context :=
  if op then { c with w27 := setFld c.w27 3 10 v } else { c with w31 := setFld c.w31 38 10 v }
def burstLeft (c : Context) (op : Bool) : Nat := if op then fld c.w27 16 16 else fld c.w31 22 16
def setBurstLeft (c : Context) (op : Bool) (v : Nat) : Context :=
  if op then { c with w27 := setFld c.w27 16 16 v } else { c with w31 := setFld c.w31 22 16 v }
def windowLeft (c : Context) (op : Bool) : Nat := if op then fld c.w25 22 10 else fld c.w31 12 10
def setWindowLeft (c : Context) (op : Bool) (v : Nat) : Context :=
  if op then { c with w25 := setFld c.w25 22 10 v } else { c with w31 := setFld c.w31 12 10 v }
def windowOpen (c : Context) (op : Bool) : Bool := if op then bit c.w25 21 else bit c.w31 11
def setWindowOpen (c : Context) (op : Bool) (v : Bool) : Context :=
  if op then { c with w25 := setBit c.w25 21 v } else { c with w31 := setBit c.w31 11 v }

/-! Types and states (Table 3.1, R85) -/

def isSecyTx (c : Context) : Bool := c.type == 1
def isSecyRx (c : Context) : Bool := c.type == 2
def isGsvPub (c : Context) : Bool := c.type == 3
def isGsvSub (c : Context) : Bool := c.type == 4
def isDuplex (c : Context) : Bool := c.type == 5
def isSealRec (c : Context) : Bool := c.type == 6
def isUnsealRec (c : Context) : Bool := c.type == 7
def isClear (c : Context) : Bool := c.type == 8
def isRecord (c : Context) : Bool := c.type == 6 || c.type == 7
def isMacsec (c : Context) : Bool := c.type == 1 || c.type == 2 || c.type == 5
def isGsv (c : Context) : Bool := c.type == 3 || c.type == 4
/-- The stream has a sealing half for frames (SECY_TX, GSV_PUB, DUPLEX). -/
def seals (c : Context) : Bool := c.type == 1 || c.type == 3 || c.type == 5
/-- The stream has an opening half for frames (SECY_RX, GSV_SUB, DUPLEX). -/
def opens (c : Context) : Bool := c.type == 2 || c.type == 4 || c.type == 5
def free (c : Context) : Bool := c.st == 0
def created (c : Context) : Bool := c.st == 1
def armed (c : Context) : Bool := c.st == 2
def retiring (c : Context) : Bool := c.st == 3
def classP (c : Context) : Bool := c.cls == 0
def classC (c : Context) : Bool := c.cls == 1

/-- The generations' words: the generation whose AN, number or key identifier a frame names is sought in current,
previous, next order by the callers. -/
def gens (c : Context) : List Gen := [c.cur, c.prv, c.nxt]

end Context

/-! ### Rings blocks, domains, classes -/

/-- The domain that owns the ring block of handle `h` (R79); none where the image allocates it to none. -/
def blockDomain (s : State) (h : Nat) : Option Nat :=
  let v := s.img.ringBlocks.getD (h / 512) 255
  if v < 16 then some v else none

/-- The requester classes of Table 12.1 (R349): domains 0 to 15, management 16, debug 17. -/
def clsDomain (c : Cls) : Option Nat := if c.toNat < 16 then some c.toNat else none

end Sys2Proof.Machine
end

