-- ==== Sys2Proof/Machine/Gates.lean ====
section
/-!
DEFINITION. Gates and access control (12_gates.md): rules, the checks of register-window, memory-port and deputy
accesses, the fault logs, and the commits of a gate going offline and online.
-/

namespace Sys2Proof.Machine

/-! ### Rules (Table 12.3) -/

def ruleBase (w0 : Word) : Nat := fld w0 12 36
def ruleIdent (w0 : Word) : Nat := fld w0 8 4
def ruleValid (w0 : Word) : Bool := bit w0 7
def rulePages (w1 : Word) : Nat := fld w1 24 24 + 1

/-- The valid rule of lowest number that takes a page: its number and permission word (R354 step 6). -/
def takingRule (rules : Table (Word × Word × Word)) (ident page : Nat) : Option (Nat × Word) :=
  (rules.find? (fun r => ruleValid r.2.1 && ruleIdent r.2.1 == ident && decide (ruleBase r.2.1 ≤ page) &&
    decide (page < ruleBase r.2.1 + rulePages r.2.2.1))).map (fun r => (r.1, r.2.2.2))

/-- Number of valid rules of a gate (GLOG_STATUS, GATE_ONLINE). -/
def validRules (rules : Table (Word × Word × Word)) : Nat := (rules.filter (fun r => ruleValid r.2.1)).length

/-! ### Regions and identifiers (Tables 9.1 and 9.2), as the tables loaded at Assay hold them -/

def regValid (r : Word × Word) : Bool := bit r.1 7
def regBase (r : Word × Word) : Nat := fld r.1 12 36 * 4096
def regIdent (r : Word × Word) : Nat := fld r.1 8 4
def regBytes (r : Word × Word) : Nat := (fld r.2 24 24 + 1) * 4096
def regOffset (r : Word × Word) : Nat := fld r.2 0 24
def idValid (w : Word) : Bool := bit w 1
def idProtected (w : Word) : Bool := bit w 2
def idDomainValid (w : Word) : Bool := bit w 3
def idDomain (w : Word) : Nat := fld w 4 4
def idZ (w : Word) : Nat := fld w 8 4 + 24
def idMeta (w : Word) : Nat := fld w 12 36 * 4096

/-- The valid region that holds an address. -/
def regionAt (regions : List (Word × Word)) (a : Nat) : Option (Word × Word) :=
  regions.find? (fun r => regValid r && decide (regBase r ≤ a) && decide (a < regBase r + regBytes r))

/-- The identifier a deputy access carries: that of the region that holds its first byte, 0 outside every region
(log 11: descriptors hold 48-bit addresses and the spec names no identifier for them). -/
def deputyIdent (s : State) (a : Nat) : Nat := ((regionAt s.mem.regions a).map regIdent).getD 0

/-! ### Fault logs (Table 12.5) -/

/-- A refusal as the log takes it. -/
structure GateFault where
  addr : Nat
  ident : Nat
  cause : Nat
  kind : Nat
  imprecise : Bool
  rule : Option Nat
  cls : Nat
  handle : Option Nat

def GateFault.f0 (x : GateFault) : Word :=
  BitVec.ofNat 48 (if x.imprecise then x.addr / 4096 * 4096 else x.addr)

def GateFault.f1 (x : GateFault) : Word :=
  at_ 44 x.ident ||| at_ 40 x.cause ||| at_ 37 x.kind ||| at_ 36 (boolNat x.imprecise) |||
    at_ 35 (boolNat x.rule.isSome) ||| at_ 30 (x.rule.getD 0) ||| at_ 25 x.cls ||| 1

def GateFault.words (x : GateFault) (t : Tick) : List Word :=
  [x.f0, x.f1, BitVec.ofNat 48 t, at_ 33 (x.handle.getD 0) ||| at_ 32 (boolNat x.handle.isSome)]

/-- The entry merges into the newest one: a posted write equal in page, identifier, cause, kind and class within the
same plan period (R360). -/
def gateMerges (x : GateFault) (t : Tick) (e : List Word) : Bool :=
  x.imprecise && e.getD 0 0 == x.f0 && (e.getD 2 0).toNat == t &&
    fld (e.getD 1 0) 37 11 == fld x.f1 37 11 && bit (e.getD 1 0) 36 && fld (e.getD 1 0) 25 5 == x.cls

/-- Writes or merges an entry in a gate's log and counts an overwrite (R360). -/
def Gate.logFault (g : Gate) (x : GateFault) (t : Tick) : Gate :=
  let old := Table.get [] g.newest g.log
  if g.present && gateMerges x t old then
    let c := min 0xFFFF (fld (old.getD 1 0) 0 16 + 1)
    { g with log := Table.put [] g.newest (old.set 1 (setFld (old.getD 1 0) 0 16 c)) g.log }
  else
    let k := if g.present then (g.newest + 1) % 16 else 0
    { g with
      log := Table.put [] k (x.words t) g.log
      newest := k
      present := true
      lost := if (Table.get [] k g.log).isEmpty then g.lost else satAdd g.lost 1 }

/-- The refusal is logged in gate `g` and its event posted (R360). -/
def State.logGate (s : State) (g : Nat) (x : GateFault) : State :=
  (s.setGate g ((s.gate g).logFault x s.plan)).post (376 + 2 * g)

/-- The gate that logs a class: its own for a domain, gate 16 for the others (Table 12.1). -/
def gateOfCls (c : Cls) : Nat := if c.toNat < 16 then c.toNat else 16

/-- The boot state of the gates: until Assay has loaded an image, and while none is active (R355). -/
def gateBoot (s : State) : Bool := s.active.isNone || s.assay.loading

/-! ### Register window (Table 12.2) -/

/-- The debug class is admitted in the mode in force (R415, Table 14.4). -/
def debugAdmitted (s : State) : Bool :=
  let lc := s.fuses.lifecycle.toNat
  let modeOk := match s.mode with
    | .commission => decide (lc ≤ 2)
    | .service => lc == 1
    | .drill => lc == 1 || lc == 2
    | _ => false
  let imgOk := lc == 0 || (match s.mode with
    | .commission => bit s.img.debug 0
    | .service => bit s.img.debug 1
    | .drill => bit s.img.debug 2
    | _ => false)
  !s.fuses.debugLock && modeOk && imgOk

/-- The cause with which an access to a register page is refused; none where Table 12.2 and R415 allow it. -/
def windowRefusal (s : State) (c : Cls) (page : Nat) (write : Bool) : Option Nat :=
  let n := c.toNat
  let dom := decide (n < 16)
  let mgmt := n == 16
  if 0x12 ≤ n then some 6
  else if n == 17 then
    if page == 0x12 then none
    else if page == 0 then (if write then some 5 else none)
    else if !debugAdmitted s then some 5
    else if decide (1 ≤ page) && decide (page ≤ 0x11) then some 5
    else if decide (0x20 ≤ page) && decide (page < 0x60) then some 5
    else if write then some 5 else none
  else if page == 0 then (if write then some 7 else none)
  else if page == 0x12 then none
  else if page == 0x11 then (if mgmt then none else some 7)
  else if decide (1 ≤ page) && decide (page ≤ 0x10) then (if dom && page == n + 1 then none else some 7)
  else if decide (0x20 ≤ page) && decide (page < 0x60) then
    if mgmt || (dom && s.img.ringBlocks.getD (page - 0x20) 255 == n) then none else some 7
  else if decide (0x60 ≤ page) && decide (page ≤ 0x6F) then
    if mgmt || (dom && page == 0x60 + n) then none else some 7
  else if mgmt then none else some 7

/-- A register access refused with a cause: a read returns zero with an error response, a write is discarded, and
the fault is logged in the gate of the class (R351, R476). -/
def State.windowFault (s : State) (c : Cls) (off : Nat) (write : Bool) (cause : Nat) : State :=
  let dbg := c.toNat == 17
  let s1 := s.logGate (gateOfCls c)
    { addr := Config.windowPage.toNat * 2 ^ 20 + off, ident := 0, cause := cause,
      kind := (if dbg then 4 else 0) + boolNat write, imprecise := write && !dbg, rule := none, cls := c.toNat,
      handle := none }
  if write then s1 else { s1 with bus := ⟨0, true⟩ }

/-- The word with which a command has begun, where it has (R235, R255). -/
def begunWith (c : Cmd) : Option Nat :=
  match c.phase with
  | .begun w => some w
  | _ => none

/-- A command has begun a key operation and has still to write its slot: an import, a derivation or the making of a chain,
and not the install whose salt is drawn (R257). -/
def keyBegun (s : State) : Bool := s.cmds.any (fun c => (begunWith c).isSome && fld c.hdr 40 8 != 0x20)

/-- The frames that Dormant and a retention restart let end have ended (R430, R437): those that ports send, those in slices
or after them, those that were classified, and what the ingress stream interface has still to deliver. A received frame that
waits for a gate alone does not count. -/
def framesEnded (s : State) : Bool :=
  s.tx.all (fun x => decide (x.onPorts = 0) && (x.stage == .offered || x.stage == .ready || x.stage == .onWire)) &&
    s.rx.all (·.bufHeld) && s.ingress.isEmpty

/-- Nothing is under way that a retention restart lets end before RET_ACK rises (R430): a key operation, a frame, an access
to memory under an identifier with a key. -/
def restartReady (s : State) : Bool :=
  s.imports.isEmpty && !keyBegun s && framesEnded s && s.mem.waits.all (·.id == 0) &&
    s.mem.held.all (fun a => fld a.addr 48 4 == 0)

/-- A retention restart is held: from the moment when nothing is left to end, at which RET_ACK rises, to its release
(R430, R496). -/
def restartHeld (s : State) : Bool :=
  match s.retention with
  | some r => r.ack || restartReady s
  | none => false

/-- A reset is held (R479, R496): a cold or an engine reset until Assay begins, or a retention restart. -/
def windowHeld (s : State) : Bool := restartHeld s || (s.mode == .assay && s.assay.step == 0)

/-- A register write that the window allows acts as `f`; one it refuses is discarded and logged (R351), and one made
while a reset is held is discarded (R479). -/
def State.regWrite (s : State) (c : Cls) (off : Nat) (f : State → State) : State :=
  if windowHeld s then s
  else match windowRefusal s c (off / 4096) true with
  | some cause => s.windowFault c off true cause
  | none => f s

/-- A register read that the window allows acts as `f`; one it refuses, or made while a reset is held, returns zero
with an error (R351, R479). -/
def State.regRead (s : State) (c : Cls) (off : Nat) (f : State → State) : State :=
  if windowHeld s then { s with bus := ⟨0, true⟩ }
  else match windowRefusal s c (off / 4096) false with
  | some cause => s.windowFault c off false cause
  | none => f s

/-! ### Judging a page and a buffer (R354, R357, R363) -/

inductive PageJudge where
  | pass
  | refuse (cause : Nat) (rule : Option Nat)
  deriving DecidableEq, Repr

/-- One page under the permission bit `p` of a gate's rules (R354 step 6). -/
def judgePage (rules : Table (Word × Word × Word)) (ident page p : Nat) : PageJudge :=
  match takingRule rules ident page with
  | none => .refuse 1 none
  | some (n, w2) => if bit w2 p then .pass else .refuse 2 (some n)

/-- A gate serves deputy accesses now: it is online, or in its boot state and will refuse them (R355, R361). -/
def gateServing (s : State) (d : Nat) : Bool := gateBoot s || (s.gate d).online

/-- The pages of a buffer. -/
def bufferPages (a n : Nat) : List Nat :=
  (List.range ((a + n - 1) / 4096 - a / 4096 + 1)).map (fun i => a / 4096 + i)

/-- The refusal of a deputy buffer of domain `d`, none where every page passes (R357). It is logged at the first refused
byte, which lies on the first refused page (R357, R360, log 23). -/
def deputyRefusal (s : State) (d h a n : Nat) (write : Bool) : Option GateFault :=
  let mk (addr cause : Nat) (rule : Option Nat) : GateFault :=
    { addr := addr % 2 ^ 48, ident := deputyIdent s a, cause := cause, kind := 2 + boolNat write,
      imprecise := false, rule := rule, cls := d, handle := some h }
  if n = 0 then none
  else if gateBoot s then some (mk a 8 none)
  else if !(s.gate d).online then some (mk a 4 none)
  else
    let js := (bufferPages a n).map (fun p => (p, judgePage (s.gate d).rules (deputyIdent s a) p (if write then 44 else 45)))
    match js.find? (fun j => j.2 ≠ .pass) with
    | none => none
    | some (p, .refuse c r) =>
      if js.any (fun j => j.2 == .pass) then some (mk (max a (p * 4096)) 3 r) else some (mk (max a (p * 4096)) c r)
    | some (_, .pass) => none

/-- The first refusal among several buffers (address, length, write). -/
def deputyFirst (s : State) (d h : Nat) (bufs : List (Nat × Nat × Bool)) : Option GateFault :=
  (bufs.filterMap (fun b => deputyRefusal s d h b.1 b.2.1 b.2.2)).head?

/-- The refusal of a memory-port access by gate or class (R354, R363). -/
def portRefusal (s : State) (a : MemAccess) : Option GateFault :=
  let n := a.cls.toNat
  let ident := fld a.addr 48 4
  let phys := fld a.addr 0 48
  let dbg := n == 17
  let mk (cause : Nat) (rule : Option Nat) : GateFault :=
    { addr := phys, ident := ident, cause := cause, kind := (if dbg then 4 else 0) + boolNat a.write,
      imprecise := a.write && !dbg, rule := rule, cls := n, handle := none }
  let g := if n < 16 then n else 16
  if 0x12 ≤ n then some (mk 6 none)
  else if dbg && !debugAdmitted s then some (mk 5 none)
  else if dbg && decide (ident ≠ 0) then some (mk 5 none)
  else if dbg && (match takingRule (s.gate 16).rules ident (phys / 4096) with
      | some (_, w2) => bit w2 41
      | none => false) then some (mk 5 ((takingRule (s.gate 16).rules ident (phys / 4096)).map (·.1)))
  else if !gateBoot s && !(s.gate g).online then some (mk 4 none)
  else if gateBoot s then (if n == 16 && ident == 0 then none else some (mk 8 none))
  else
    match judgePage (s.gate g).rules ident (phys / 4096)
        (if dbg then (if a.write then 42 else 43) else (if a.write then 46 else 47)) with
    | .pass => none
    | .refuse c r => some (mk c r)

/-! ### Rule sets (R353) -/

/-- The size of the metadata area of an identifier's word (Table 9.6). -/
def treeHeight (z : Nat) : Nat := (z - 9 + 2) / 3
def levelNodes (z k : Nat) : Nat := 2 ^ (z - 9 - 3 * k)
/-- Off-chip nodes at levels below `k` (R274). -/
def nodesBelow (z k : Nat) : Nat := ((List.range k).map (levelNodes z)).foldl (· + ·) 0
/-- Off-chip nodes in all: levels 0 to h − 3 (Table 9.5). -/
def offChipNodes (z : Nat) : Nat := nodesBelow z (treeHeight z - 2)
def metaBytes (z : Nat) : Nat := 2 ^ (z - 3) + 72 * offChipNodes z

def rangesMeet (a n b m : Nat) : Bool := decide (a < b + m) && decide (b < a + n)

/-- The areas that no permitting rule may cover: Bindweed regions and metadata areas (R353, R275). -/
def guardedAreas (ids : List Word) (bwId bwHoldN : Nat) (bwPebble bwVer bwHold : Word) : List (Nat × Nat) :=
  ((ids.filter (fun w => idValid w && idProtected w)).map (fun w => (idMeta w, metaBytes (idZ w)))) ++
  (if bwId = 0 then [] else
    [(bwPebble.toNat, 16 * 2 ^ 20), (bwVer.toNat, 3 * 2 ^ 19), (bwHold.toNat, 2 ^ (bwHoldN + 6))])

/-- A rule of gate `g` meets R353. -/
def ruleOk (g : Nat) (ids : List Word) (guarded : List (Nat × Nat)) (r : Word × Word × Word) : Bool :=
  let (w0, w1, w2) := r
  let base := ruleBase w0 * 4096
  let size := rulePages w1 * 4096
  let any := decide (fld w2 42 6 ≠ 0)
  !ruleValid w0 ||
  (fld w0 0 7 == 0 && fld w1 0 24 == 0 && fld w2 0 41 == 0 && decide (base + size ≤ 2 ^ 48) &&
   (if g < 16 then fld w2 41 3 == 0 &&
      (ruleIdent w0 == 0 || (let w := ids.getD (ruleIdent w0 - 1) 0
        idValid w && idDomainValid w && idDomain w == g))
    else fld w2 44 2 == 0) &&
   (!bit w2 45 || bit w2 47) && (!bit w2 44 || bit w2 46) &&
   (!any || guarded.all (fun a => !rangesMeet base size a.1 a.2)))

/-- The first rule of a set that breaks R353. -/
def firstBadRule (g : Nat) (ids : List Word) (guarded : List (Nat × Nat)) (rules : Table (Word × Word × Word)) :
    Option Nat :=
  (rules.find? (fun r => !ruleOk g ids guarded r.2)).map (·.1)

/-- The guarded areas under the tables loaded at Assay and the active image. -/
def guardedNow (s : State) : List (Nat × Nat) :=
  guardedAreas s.mem.ids s.img.bwId s.img.bwHoldN s.img.bwPebble s.img.bwVer s.img.bwHold

/-! ### Going offline and online at a boundary (R361) -/

/-- From here on the gate refuses what it would check, and records of its domain are walked afresh before they go on. -/
def goOffline (g : Nat) (s : State) : State :=
  ({ s with jobs := s.jobs.map (fun j : RecordJob => if j.ctx.domain = g then { j with walked := false } else j) }.setGate g
    { s.gate g with online := false, changed := true }).post (377 + 2 * g)

def goOnline (g : Nat) (s : State) : State :=
  (s.setGate g { s.gate g with online := true, changed := true }).post (377 + 2 * g)

end Sys2Proof.Machine
end

