-- ==== Sys2Proof/Machine/Lockdown.lean ====
section
/-!
DEFINITION. Verdict words and the ingress queue they are placed in (R124 to R129, R322), zeroisation and the entry
into Lockdown from any cause (R251, R432, R433).
-/

namespace Sys2Proof.Machine

/-! ### Verdict words -/

/-- A verdict word (Table 4.10). -/
def verdictWord (cls code handle seq : Nat) : Word :=
  at_ 45 cls ||| at_ 40 code ||| at_ 35 (31 - code) ||| at_ 20 handle ||| at_ 0 (seq % 2 ^ 20)

def v0Word (handle seq : Nat) : Word := verdictWord 1 0 handle seq
def v1Word (code handle seq : Nat) : Word := verdictWord 2 code handle seq
def v2Word (code handle seq : Nat) : Word := verdictWord 3 code handle seq

/-- A beat that carries verdict words only (I_KIND 0b00). -/
def verdictBeat (w : Word) : Beat := ⟨[], false, 0, 0, false, 0, false, some w, none⟩

/-- A beat is placed in the ingress queue (R326). -/
def State.place (s : State) (b : Beat) : State := { s with ingress := s.ingress ++ [b] }

def State.placeAll (s : State) (bs : List Beat) : State := { s with ingress := s.ingress ++ bs }

/-- Room in the queue of 2,048 beats (R326). -/
def State.ingressRoom (s : State) : Bool := decide (s.ingress.length < 2048)

/-! ### Codes -/

/-- The code of a mode (Table 8.10). -/
def modeCode : Mode → Nat
  | .assay => 0
  | .commission => 1
  | .service => 2
  | .drill => 3
  | .dormant => 4
  | .lockdown => 5

/-- The mode that Quecy reports: Dormant once its domains are down (R437, R291), until then the mode it comes from. -/
def reportedMode (s : State) : Mode := if s.mode == .dormant && s.power.entering then .service else s.mode

/-- The alive output (R411, R504): low while a reset is held. -/
def alive (s : State) : Bool :=
  !windowHeld s && (match s.mode with
  | .commission | .service | .drill | .dormant => true
  | _ => false)

/-- The modes in which traffic flows (Table 14.1). -/
def trafficMode (s : State) : Bool := s.mode == .service || s.mode == .drill

/-- Dormant or a retention restart has been asked for, so that nothing more is taken (R430, R437). -/
def stopping (s : State) : Bool := s.mode == .dormant || s.retention.isSome

/-- The domains of the engine are down (R439): Dormant, or a retention restart that is held. -/
def halted (s : State) : Bool := s.cipherStopped || restartHeld s

/-- Rings are frozen: nothing is fetched and nothing written (R348). While Dormant or a restart is being entered, finished
work is still written (R437). After a reset every stream is Free, and its ring reads so (Table 17.3). -/
def frozen (s : State) : Bool := halted s || s.mode == .lockdown

/-! ### Lockdown -/

/-- The words that close a frame which has passed V0 and has no V1 word yet: V1 FRAME_ABORTED, after its V0 word where
that is not placed (R127, R432). -/
def abortBeat (x : RxFrame) : Beat :=
  let v1 := v1Word 5 x.handle x.seq.toNat
  if x.v0Placed then verdictBeat v1 else { verdictBeat (v0Word x.handle x.seq.toNat) with vb := some v1 }

/-- The words of every frame that has passed V0, in frame order (R432). -/
def abortWords (rx : List RxFrame) : List Beat :=
  (rx.filter (fun x => x.kind == .protected_ && x.v0)).map abortBeat

/-- A mailbox whose queue and response area are cleared; its counts stay, and so does a request that is held (R371, R364,
R370). -/
def Mailbox.cleared (m : Mailbox) : Mailbox := { m with rspHdr := 0, rsp := [], rspValid := false }

def clearMailboxes (t : Table Mailbox) : Table Mailbox :=
  (t.map (fun e => (e.1, e.2.cleared))).filter (fun e => decide (e.2 ≠ Mailbox.zero))

/-- Commands accepted and changes staged are discarded, with the admissions granted to them (R371, R382). -/
def State.discardCommands (s : State) : State :=
  { s with cmds := [], staged := [], imports := [], mail := clearMailboxes s.mail }

/-- Reads under an identifier with a key that wait or are held are refused: each gets an error (R289, R294). -/
def refusedReads (m : MemPlane) : List MemReply :=
  (m.waits.filter (·.id != 0)).map (fun w => MemReply.error w.acc) ++
    (m.held.filter (fun a => fld a.addr 48 4 != 0 && !a.write)).map (fun _ => MemReply.error 0)

/-- Zeroisation of the key store, the context store, staging area, grace table and Teasel's store, and the loss of
everything that depended on them (R251, R432). -/
def State.zeroise (s : State) : State :=
  { s.discardCommands with
    slots := []
    keyCtl := .reset
    streams := []
    aux := []
    adm := []
    grace := []
    pubs := []
    vers := []
    v2 := []
    bw := { s.bw with resolve := [], owed := [], walks := [], steps := [] }
    pebbles := []
    jobs := []
    tx := []
    rx := []
    fuses := { s.fuses with root := 0 }
    mem := { s.mem with
      top := [], ccache := [], tcache := [], wmb := [], keys := []
      replies := s.mem.replies ++ refusedReads s.mem
      held := s.mem.held.filter (fun a => fld a.addr 48 4 == 0)
      waits := s.mem.waits.filter (·.id == 0) } }

/-- Every link is down once the transmitters stop (R310). -/
def portsDown (t : Table PortState) : Table PortState :=
  (t.map (fun e => (e.1, { e.2 with up := false, inReset := false }))).filter (fun e => decide (e.2 ≠ PortState.zero))

/-- Entry into Lockdown with a cause of Table 8.11 (R432). The trace records of the frames that it cuts fall due (R472,
R474). In Lockdown a later cause changes nothing (R433). -/
def State.lockdown (s : State) (cause : Nat) : State :=
  if s.mode = .lockdown then s
  else
    let s1 := (s.placeAll (abortWords s.rx)).zeroise
    let s2 : State := { s1 with
      mode := .lockdown
      cause := BitVec.ofNat 8 cause
      fatal := s.fatal || cause == 5
      eReady := false
      classifying := false
      egSkip := []
      retention := none
      ports := portsDown s.ports
      eye := { s.eye with traces := s.eye.traces.map (fun t => { t with done := true }) }
      power := { s.power with pd1 := true, clkReq := true, dormantReached := false, exiting := false, entering := false } }
    s2.post 498

end Sys2Proof.Machine
end

