-- ==== Sys2Proof/Machine/Keys.lean ====
section
/-!
DEFINITION. The key store (08_key_store.md): slots and their attribute words, fetches through the read ports,
invalidation and orphans, the sweep, masking refresh, cell faults, the KDF and the ladder, imports, and the entropy
port's states.
-/

namespace Sys2Proof.Machine

/-! ### Attribute word (Table 8.2) -/

namespace KeySlot

def st (k : KeySlot) : Nat := fld k.attr 46 2
def empty_ (k : KeySlot) : Bool := k.st == 0
def valid (k : KeySlot) : Bool := k.st == 1
def scrubbing (k : KeySlot) : Bool := k.st == 2
def orphaned (k : KeySlot) : Bool := bit k.attr 45
def expire (k : KeySlot) : Bool := bit k.attr 44
def domainValid (k : KeySlot) : Bool := bit k.attr 43
def domain (k : KeySlot) : Nat := fld k.attr 39 4
/-- SEAL, OPEN, RECORD, MEMORY, KDF, BWMAC, HMAC from bit 6 of this mask down (bits 38 to 32). -/
def uses (k : KeySlot) : Nat := fld k.attr 32 7
def depth (k : KeySlot) : Nat := fld k.attr 26 3
def parent (k : KeySlot) : Nat := fld k.attr 0 17
/-- Valid and not orphaned: the slot is live (R232). -/
def live (k : KeySlot) : Bool := k.valid && !k.orphaned
/-- The key the two shares hold (R225). -/
def key (k : KeySlot) : Key := k.share0 ^^^ k.share1
def shares (k : KeySlot) : Shares := ⟨k.share0, k.share1⟩
def limited (k : KeySlot) : Bool := k.u1 != BitVec.allOnes 48

end KeySlot

/-- The key of two shares (R225). It stands in no register: a slice expands a key in masked form (R248). -/
def Shares.whole (x : Shares) : Key := x.share0 ^^^ x.share1

/-! The attribute bits of the uses (Table 8.2). -/
def useSeal : Nat := 38
def useOpen : Nat := 37
def useRecord : Nat := 36
def useMemory : Nat := 35
def useKdf : Nat := 34
def useBwmac : Nat := 33
def useHmac : Nat := 32

/-! The service slots (Table 8.1). -/
def slotDevice : Nat := 65536
def slotDrill : Nat := 65537
def slotSeal : Nat := 65538
def slotDomain (d : Nat) : Nat := 65552 + d
def slotRoot (d : Nat) : Nat := 65568 + d
def slotMemA (i : Nat) : Nat := 65582 + 2 * i
def slotMemB (i : Nat) : Nat := 65583 + 2 * i
def slotPool : Nat := 65616
def slotMac (c : Nat) (odd : Bool) : Nat := 67072 + 2 * c + boolNat odd
def slotVer (n : Nat) : Nat := 69120 + n
def slotCount : Nat := 69632
def noParent : Nat := 0x1FFFF

/-- An attribute word. -/
def attrWord (state : Nat) (expire : Bool) (dom : Option Nat) (uses origin depth parent : Nat) : Word :=
  at_ 46 state ||| at_ 44 (boolNat expire) ||| at_ 43 (boolNat dom.isSome) ||| at_ 39 (dom.getD 0) |||
    at_ 32 uses ||| at_ 29 origin ||| at_ 26 depth ||| at_ 0 parent

/-- The domain of a stream slot's block (R226). -/
def slotBlockDomain (s : State) (k : Nat) : Option Nat :=
  let v := s.img.slotBlocks.getD (k / 1024) 255
  if v < 16 then some v else none

/-! ### KDF (R237) -/

def keyBytes (k : Key) : List Byte := natToBytes 32 k.toNat
def keyOfBytes (b : List Byte) : Key := BitVec.ofNat 256 (bytesToNat b)

/-- KDF(K, Label, Context). -/
def kdf (k : Key) (label : String) (ctx : List Byte) : Key :=
  keyOfBytes (kmac256 (keyBytes k)
    (natToBytes 4 1 ++ ascii label ++ [0] ++ ctx ++ natToBytes 4 256) (ascii "QKDF"))

/-! ### Entropy port -/

/-- Entropy is usable: ready high and health failure low (R38, R252). -/
def entropyUsable (s : State) : Bool := s.ent.ready && !s.ent.fail

/-- Derivations and imports are refused in the degraded policy Refuse (Table 8.7). -/
def degradedRefuse (s : State) : Bool := s.ent.fail && s.ent.degraded && s.img.degradedRefuse

/-- The entropy state (Table 8.12). -/
def entropyState (s : State) : Nat :=
  if s.ent.fail then (if s.ent.degraded then (if s.img.degradedRefuse then 4 else 3) else 2)
  else if s.ent.ready then 0 else 1

/-- The personalisation input of a reseed (R253): the device identifier, or zeros before the ladder, then the plan
tick index. -/
def State.requestReseed (s : State) (withId : Bool) : State :=
  { s with out := { s.out with
      reseed := some ((if withId then natToBytes 16 s.ladder.deviceId.toNat else List.replicate 16 0) ++
        natToBytes 6 s.plan)
      reseeds := s.out.reseeds + 1 } }

/-! ### Writing, invalidating, orphaning -/

/-- The bank of a slot, whose local generator masks it (R249; log 12: the spec names four banks and not their slots). -/
def bankOf (k : Nat) : Nat := k % 4

/-- The local generator of slot k's bank gives `n` outputs more: the mask of a written key, the mask of a refresh, the
overwrite of the shares of a scrubbed slot (R233, R248, R249). -/
def State.generated (s : State) (k n : Nat) : State :=
  let g := bankOf k
  { s with keyCtl := { s.keyCtl with genOut := Table.put 0 g (Table.get 0 g s.keyCtl.genOut + n) s.keyCtl.genOut } }

/-- Writes a slot: two fresh shares of the key, Valid, use count zero (R230, R248); posts slot-written. -/
def State.writeSlot (s : State) (k : Nat) (key : Key) (attr limit : Word) : State :=
  let m := s.drawn
  ((s.draw.generated k 1).setSlot k ⟨key ^^^ m, m, attr, 0, limit, none⟩).post 458

/-- The attribute word a slot takes under a parent (R231). -/
def childAttr (s : State) (parent : Nat) (dom : Option Nat) (expire : Bool) (uses origin : Nat) : Word :=
  let p := s.slot parent
  attrWord 1 (expire || p.expire) (if p.domainValid then some p.domain else dom) uses origin (p.depth + 1) parent

/-- The valid slots whose parent is one of `dead`. -/
def childrenOf (slots : Table KeySlot) (dead : List Nat) : List Nat :=
  (slots.filter (fun e => e.2.valid && dead.contains e.2.parent)).map (·.1)

/-- Every descendant of the slots in `dead`; a depth of 5 bounds the generations (R231). -/
def descendants (slots : Table KeySlot) : Nat → List Nat → List Nat
  | 0, _ => []
  | n + 1, dead =>
    let c := childrenOf slots dead
    c ++ descendants slots n c

/-- Orphans the descendants of slot `k` (R232). -/
def orphanBelow (k : Nat) (slots : Table KeySlot) : Table KeySlot :=
  let ds := descendants slots 6 [k]
  slots.map (fun e => if ds.contains e.1 then (e.1, { e.2 with attr := setBit e.2.attr 45 true }) else e)

/-- Slot `k` becomes Scrubbing and everything below it orphaned, and the sweep is due; no effect on an Empty or
Scrubbing slot (R232, R233, Table 8.5). -/
def State.invalidateQuiet (s : State) (k : Nat) : State :=
  let v := s.slot k
  if v.valid then
    let s1 := s.setSlot k { v with attr := setFld v.attr 46 2 2 }
    { s1 with
      slots := orphanBelow k s1.slots
      keyCtl := { s1.keyCtl with sweepOn := true, sweepAgain := true } }
  else s

/-- An invalidation commits: as above, and the invalidation event (Table 8.8). -/
def State.invalidate (s : State) (k : Nat) : State :=
  if (s.slot k).valid then (s.invalidateQuiet k).post 459 else s

def State.invalidateAll (s : State) (ks : List Nat) : State := ks.foldl State.invalidate s

/-- Some slot waits for the sweep. -/
def sweepWork (slots : Table KeySlot) : Bool := slots.any (fun e => e.2.scrubbing || (e.2.valid && e.2.orphaned))

/-- The digest engine is commanded to clear a keyed-digest slot, which is free again (R245, R257). -/
def State.clearDigest (s : State) (d : Nat) : State :=
  { s with
    keyCtl := { s.keyCtl with digestUsed := s.keyCtl.digestUsed.filter (· != d) }
    out := { s.out with digestClear := some d } }

/-- A slot is scrubbed to Empty: its shares overwritten, or its keyed-digest slot cleared first (R233, R245). -/
def State.scrub (s : State) (k : Nat) : State :=
  match (s.slot k).digestRef with
  | some d => (s.clearDigest d).setSlot k .empty
  | none => (s.generated k 2).setSlot k .empty

/-! ### Cell faults and fetches -/

/-- A failed share check (R247): the slot is invalidated at once, the events posted, the fault counted, and a fault in
the device ladder key or the SEAL epoch key leads to Lockdown. -/
def State.cellFault (s : State) (k : Nat) : State :=
  let s1 := (s.invalidate k).post 464
  let s2 : State := { s1 with ladder := { s1.ladder with cellFaults := satAdd s1.ladder.cellFaults 1 } }
  if k = slotDevice || k = slotSeal then s2.lockdown 7 else s2

/-- How a fetch ended. -/
inductive Fetch where
  | ok (key : Shares)
  | atLimit
  | refused
  deriving DecidableEq, Repr

def Fetch.isOk : Fetch → Bool
  | .ok _ => true
  | _ => false

/-- What a fetch of a slot for a use bit would give, before it is made (R229). -/
def fetchJudge (v : KeySlot) (use : Nat) (cellBad : Bool) : Fetch :=
  if !v.live || cellBad || !bit v.attr use then .refused
  else if v.limited && decide (v.u1.toNat ≤ v.u0.toNat) then .atLimit
  else .ok v.shares

/-- The event of a failed fetch on a unit: slice u, or Keccak core u − 10 (Tables 16.2, 16.3). -/
def fetchFailEvent (u : Nat) : Nat := if u < 10 then 192 + 4 * u else 233 + 4 * (u - 10)

/-- A fetch at its use limit: the unit's event, and the count of refused fetches. -/
def State.limitMet (s : State) (u : Nat) : State :=
  let s1 := s.post (fetchFailEvent u)
  { s1 with ladder := { s1.ladder with fetchRefusals := satAdd s1.ladder.fetchRefusals 1 } }

/-- A fetch by unit `u` (R27, R229): the use counter advances, saturating; a failure posts the unit's event and, for
every cause but the use limit, fetch-refused, and is counted. A failed check is a cell fault (R247); a digest-bound
slot has no shares to check (R245). The use-limit event is the caller's (R144). -/
def State.fetch (s : State) (u k use : Nat) (cellFails : Bool) : Fetch × State :=
  let v := s.slot k
  let cellBad := cellFails && v.digestRef.isNone
  let j := fetchJudge v use cellBad
  match j with
  | .ok _ => (j, s.setSlot k { v with u0 := satAdd v.u0 1 })
  | .atLimit => (j, s.limitMet u)
  | .refused =>
    let s1 := (s.post (fetchFailEvent u)).post 462
    let s2 : State := { s1 with ladder := { s1.ladder with fetchRefusals := satAdd s1.ladder.fetchRefusals 1 } }
    (j, if cellBad && v.valid then s2.cellFault k else s2)

/-! ### Derivations (R237, R238) -/

/-- The busy source of unit u (Tables 16.2 and 16.3). -/
def busyEvent (u : Nat) : Nat := if u < 10 then 194 + 4 * u else 232 + 4 * (u - 10)

/-- A Keccak core runs permutations from the reserve for a step that its fetch has let begin. -/
def State.coreWorks (s : State) (u : Nat) : State := s.busyPulse (busyEvent u)

/-- A Keccak-core step of unit u fetches a slot (R26, R29, R229): a use limit reached is posted as source 461 as well
(R258). -/
def State.coreFetch (s : State) (u k use : Nat) (cellBad : Bool) : Fetch × State :=
  let (r, s1) := s.fetch u k use cellBad
  (r, s1.postIf (r = .atLimit) 461)

/-- Unit u derives slot k from a parent that its KDF fetch gives (R229, R237, R238): nothing is written where the fetch
fails. -/
def State.deriveBy (s : State) (u : Nat) (cellBad : Bool) (k parent : Nat) (dom : Option Nat) (label : String)
    (ctx : List Byte) (uses origin : Nat) (expire : Bool) (limit : Word) : Fetch × State :=
  match s.coreFetch u parent useKdf cellBad with
  | (.ok key, s1) => (.ok key, (s1.coreWorks u).writeSlot k (kdf key.whole label ctx)
      (childAttr s1 parent dom expire uses origin) limit)
  | (f, s1) => (f, s1)

/-- A derivation that Yarrow makes of itself, on Keccak core 0 (log 18). -/
def State.deriveSlot (s : State) (k parent : Nat) (dom : Option Nat) (label : String) (ctx : List Byte)
    (uses origin : Nat) (expire : Bool) (limit : Word) : State :=
  (s.deriveBy 10 false k parent dom label ctx uses origin expire limit).2

/-! ### The cells (R250) -/

/-- The rows of the slots, the one after the other each a choice among those that are left: a permutation, whatever the
choices are. -/
def rowsOf (choice : Nat → Nat) : Nat → List Nat → List Nat
  | 0, _ => []
  | n + 1, left =>
    let j := choice n % left.length
    left.getD j 0 :: rowsOf choice n (left.eraseIdx j)

/-- The row of slot k under a scramble key. -/
def cellRowOf (scramble : Key) (k : Nat) : Nat :=
  (rowsOf (Config.cellRow scramble) slotCount (List.range slotCount)).getD k 0

/-- The cells that hold a slot: the row that the scramble key gives its index, and shares, attribute word, use count, use limit
and the two checks, each combined with its value of the row (R247, R250). The ports undo both, so `State.slots` lists the
slots as the ports hand them over (log 58). -/
def cellsOf (s : State) (k : Nat) : Nat × List Key :=
  let v := s.slot k
  let row := cellRowOf s.keyCtl.scramble k
  (row, ([v.share0, v.share1, v.attr.setWidth 256, v.u0.setWidth 256, v.u1.setWidth 256,
    (Config.shareCheck v.share0 k v.attr).setWidth 256, (Config.shareCheck v.share1 k v.attr).setWidth 256].zipIdx).map
      (fun e => e.1 ^^^ Config.cellMask s.keyCtl.scramble row e.2))

/-! ### The ladder (R239) -/

/-- Domains to which the image allocates a ring block or a slot block (R239 step 5). -/
def allocatedDomains (img : ImgCfg) : List Nat :=
  (List.range 16).filter (fun d => img.ringBlocks.contains d || img.slotBlocks.contains d)

/-- The identifiers mapped by a table. -/
def mappedIds (ids : List Word) : List Nat :=
  (List.range 15).filterMap (fun i => if idValid (ids.getD i 0) then some (i + 1) else none)

/-- The uses mask of KDF and of MEMORY. -/
def maskKdf : Nat := 4
def maskMemory : Nat := 8
def unlimited : Word := BitVec.allOnes 48

/-- Domain keys and record roots of these domains, and memory keys, under a ladder key and a SEAL epoch key (R239 steps 5 and
6; R242, R435). -/
def State.deriveTree (s : State) (ladderSlot sealSlot : Nat) (keys roots : List Nat) (ids : List Word) : State :=
  let s0 := keys.foldl (fun x d =>
    x.deriveSlot (slotDomain d) ladderSlot (some d) "DOM" (natToBytes 1 d) maskKdf 0 false unlimited) s
  let s1 := roots.foldl (fun x d =>
    x.deriveSlot (slotRoot d) sealSlot (some d) "SEALD" (natToBytes 1 d) maskKdf 0 false unlimited) s0
  let epoch := natToBytes 6 s.ladder.epoch.toNat
  (mappedIds ids).foldl (fun x i =>
    (x.deriveSlot (slotMemA i) ladderSlot none "MEM" (natToBytes 1 i ++ [0x0A] ++ epoch) maskMemory 0 false
      unlimited).deriveSlot (slotMemB i) ladderSlot none "MEM" (natToBytes 1 i ++ [0x0B] ++ epoch) maskMemory 0
      false unlimited) s1

/-- Assay step 8: the device identifier, the device ladder key, the drill ladder key, the SEAL epoch key, then the
tree, from the fuse root, which is then cleared (R236, R238, R239). -/
def State.formLadder (s : State) (ids : List Word) : State :=
  let root := s.fuses.root
  let devid := (natToBytes 32 (kdf root "DEVID" []).toNat).take 16
  let ctx := natToBytes 48 s.bmr.toNat ++ natToBytes 1 s.fuses.lifecycle.toNat
  let s1 : State := { s with ladder := { s.ladder with
    deviceId := BitVec.ofNat 128 (bytesToNat devid), ladderBmr := s.bmr, formed := true } }
  let s2 := s1.writeSlot slotDevice (kdf root "LADDER" ctx) (attrWord 1 false none maskKdf 0 0 noParent) unlimited
  let s3 := s2.deriveSlot slotDrill slotDevice none "DRILL" [] maskKdf 0 false unlimited
  let s4 := s3.deriveSlot slotSeal slotDevice none "SEAL" [] maskKdf 0 false unlimited
  let s5 := s4.deriveTree slotDevice slotSeal (allocatedDomains s4.img) (allocatedDomains s4.img) ids
  ({ s5 with fuses := { s5.fuses with root := 0 } }).post 469

/-! ### Meanings: sweep, refresh, reseed -/

/-- INVALIDATION_COMMIT (R233) acts through the staged change; see Boundary.lean. SWEEP_SLOT (R233): the sweep visits
its next slot, while the key store is powered (R439); a pass that ends with no Scrubbing or orphaned slot posts sweep-complete and stops. -/
def execSweepSlot (s : State) : Out :=
  if !s.keyCtl.sweepOn || halted s then .next s
  else
    let p := s.keyCtl.sweepPos
    let v := s.slot p
    let s1 := if v.scrubbing || (v.valid && v.orphaned) then s.scrub p else s
    if p + 1 < slotCount then .next { s1 with keyCtl := { s1.keyCtl with sweepPos := p + 1 } }
    else if sweepWork s1.slots then .next { s1 with keyCtl := { s1.keyCtl with sweepPos := 0, sweepAgain := false } }
    else .next (({ s1 with keyCtl :=
      { s1.keyCtl with sweepPos := 0, sweepOn := false, sweepAgain := false } }).post 460)

/-- The refresh pass runs: after Assay step 5, and not in Dormant or a retention restart (R249). -/
def refreshRuns (s : State) : Bool := s.keyCtl.seeded && s.mode != .dormant && s.retention.isNone && s.mode != .lockdown

/-- MASKING_REFRESH (R249): the pass visits its next slot and remasks both shares of a Valid one; a failed check is a
cell fault (R247). A digest-bound slot holds no shares (R245). -/
def execMaskingRefresh (bad : Bool) (s : State) : Out :=
  if !refreshRuns s then .next s
  else
    let p := s.keyCtl.maskPos
    let v := s.slot p
    let s0 : State := { s with keyCtl := { s.keyCtl with maskPos := (p + 1) % slotCount } }
    if !v.valid || v.digestRef.isSome then .next s0
    else if bad then .next (s0.cellFault p)
    else
      let m := s0.drawn
      .next ((s0.draw.generated p 1).setSlot p { v with share0 := v.share0 ^^^ m, share1 := v.share1 ^^^ m })

/-- LOCAL_GENERATOR_RESEED (R249): after 65,536 outputs a generator takes a fresh entropy word, while entropy is
usable (Table 8.7). -/
def execLocalGeneratorReseed (g : Fin 4) (s : State) : Out :=
  if s.keyCtl.seeded && entropyUsable s && !halted s && decide (65536 ≤ Table.get 0 g.val s.keyCtl.genOut) then
    .next (({ s.draw with keyCtl := { s.keyCtl with genOut := Table.put 0 g.val 0 s.keyCtl.genOut } }).post 488)
  else .next s

/-! ### Meanings: entropy -/

/-- ENTROPY_HEALTH_FAILURE (R38, R254): the flag rises, buffered words are discarded and the limit runs. -/
def execEntropyHealthFailure (t : Nat) (s : State) : Out :=
  let s1 := s.atTime t
  if s1.ent.fail then .next s1
  else .next (({ s1 with ent := { s1.ent with fail := true, failAt := s1.now, buffered := 0 } }).setLevel 487 true)

/-- MASKING_DEGRADED (R254): the degraded-masking limit, counted from the rise of the flag, has passed. -/
def execMaskingDegraded (t : Nat) (s : State) : Out :=
  let s1 := s.atTime t
  if s1.ent.fail && !s1.ent.degraded && decide (s1.ent.failAt + s1.img.degradedLimit * 10 ^ 9 ≤ s1.now) then
    .next (({ s1 with ent := { s1.ent with degraded := true } }).post 466)
  else .next s1

/-- The four local generators are reseeded, each from a fresh entropy word (R252, R256). -/
def State.reseedGenerators (s : State) : State :=
  ({ s with draws := s.draws + 4, keyCtl := { s.keyCtl with genOut := [] } }).posts [488, 488, 488, 488]

/-- ENTROPY_READY_LOSS (R38): the ready flag falls; from then on no entropy word is used. -/
def execEntropyReadyLoss (s : State) : Out :=
  .next (({ s with ent := { s.ent with ready := false } }).setLevel 486 false)

end Sys2Proof.Machine
end

