-- ==== Sys2Proof/Machine/Rings.lean ====
section
/-!
DEFINITION. Rings (11_host_rings.md): counts, doorbells, the allotment of output entries, the layouts of outputs and
their writing, the ring header, interrupts, starvation, and the freeing of a retired stream.
-/

namespace Sys2Proof.Machine

/-! ### Counts modulo 2^32 (R329) -/

/-- How far count `a` lies ahead of count `b`. -/
def ahead (a b : Nat) : Nat := (a + (2 ^ 32 - b % 2 ^ 32)) % 2 ^ 32

def inc32 (a : Nat) : Nat := (a + 1) % 2 ^ 32

/-- A POST count keeps R329 and does not lower the tail (R332). -/
def postOk (r : Ring) (c : Nat) : Bool :=
  decide (ahead c r.release ≤ r.entries) && decide (ahead r.tail r.release ≤ ahead c r.release)

/-- A RELEASE count passes neither the head nor, downwards, the release count (R332). -/
def releaseOk (r : Ring) (c : Nat) : Bool := decide (ahead c r.release ≤ ahead r.head r.release)

/-- An output entry can be allotted: reserve lies before fetch (R337). -/
def Ring.room (r : Ring) : Bool := decide (0 < ahead r.fetch r.reserve)

/-! ### Codes of Table 11.8 -/

def stGood : Nat := 0x00
def stNotArmed : Nat := 0x01
def stWrongType : Nat := 0x02
def stWrongDomain : Nat := 0x03
def stExhausted : Nat := 0x04
def stPolicy : Nat := 0x05
def stOversize : Nat := 0x06
def stShort : Nat := 0x07
def stKeyFailure : Nat := 0x08
def stEcho : Nat := 0x09
def stLinkDown : Nat := 0x0A
def stAborted : Nat := 0x0B
def stRetired : Nat := 0x0C
def stMalformed : Nat := 0x0D
def stBufferFault : Nat := 0x0E
def stDigest : Nat := 0x0F
def stRecTag : Nat := 0x10
def stRecHeader : Nat := 0x11
def stRecGen : Nat := 0x12
def stRecSpace : Nat := 0x13

/-! ### Layouts (Table 11.7) -/

/-- A transmit completion. -/
def txCompletion (h status : Nat) (flagA flagB iface : Bool) (port : Nat) (o1 o2 : Word) (hi lo : Nat) : List Word :=
  [at_ 44 8 ||| at_ 37 status ||| at_ 36 (boolNat flagA) ||| at_ 35 (boolNat flagB) ||| at_ 34 (boolNat iface) |||
     at_ 30 port ||| at_ 0 h,
   o1, o2, at_ 32 hi ||| at_ 0 lo]

/-- A receive completion. -/
def rxCompletion (h : Nat) (short buffered : Bool) (port : Nat) (word pn : Word) (hi len : Nat) : List Word :=
  [at_ 44 9 ||| at_ 36 (boolNat short) ||| at_ 35 (boolNat buffered) ||| at_ 30 port ||| at_ 0 h,
   word, pn, at_ 32 hi ||| at_ 18 len]

/-- A V2 record. -/
def v2Output (h chain : Nat) (word : Word) (interval tick : Nat) : List Word :=
  [at_ 44 10 ||| at_ 15 chain ||| at_ 0 h, word, BitVec.ofNat 48 interval, at_ 0 (tick % 2 ^ 32)]

/-- A record completion. -/
def recordCompletion (h status : Nat) (opening : Bool) (count cookie bytes epoch : Nat) : List Word :=
  [at_ 44 11 ||| at_ 37 status ||| at_ 36 (boolNat opening) ||| at_ 0 h,
   BitVec.ofNat 48 count, at_ 32 cookie ||| at_ 0 bytes, BitVec.ofNat 48 epoch]

/-- A Final output. -/
def finalOutput (h : Nat) (t : Tick) : List Word := [at_ 44 12 ||| at_ 0 h, BitVec.ofNat 48 t, 0, 0]

/-! ### The ring header (Table 11.4) -/

/-- The ring state a header and a doorbell read report (Table 11.5). -/
def ringState (s : State) (h : Nat) : Nat := if frozen s then 4 else (s.stream h).st

def headerWords (r : Ring) (state : Nat) : List Word :=
  [at_ 0 r.head, at_ 0 r.fetch, at_ 24 r.lostC ||| at_ 0 r.lostR, at_ 40 state ||| at_ 0 r.release]

/-- The ring serves deputy accesses: not stopped, not frozen, its gate online (R348, R359, R361). -/
def ringServes (s : State) (h : Nat) : Bool :=
  !frozen s && !(s.ring h).stopped && gateServing s (s.stream h).domain

/-- A refused deputy access to a ring stops it and is logged (R359). -/
def State.stopRing (s : State) (h : Nat) (f : GateFault) : State :=
  (s.setRing h { s.ring h with stopped := true }).logGate (s.stream h).domain f

/-- Quecy writes h3 to h6 (R330); a refusal stops the ring. -/
def State.writeHeader (s : State) (h state : Nat) : State :=
  let r := s.ring h
  match deputyRefusal s (s.stream h).domain h r.base 64 true with
  | some f => s.stopRing h f
  | none => (s.setRing h { r with changed := false, stateHdr := state }).writeHost (r.base + 24)
      (wordsBytes (headerWords r state))

/-- The header is due: one of the counts or the state changed since it was written (R330). -/
def headerDue (s : State) (h : Nat) : Bool := (s.ring h).changed || (s.ring h).stateHdr != (s.stream h).st

/-- The headers due at the end of a plan period (R330). -/
def State.writeHeaders (s : State) : State :=
  (s.rings.map (·.1)).foldl (fun x h =>
    if headerDue x h && ringServes x h then x.writeHeader h (x.stream h).st else x) s

/-! ### Allotting and writing outputs -/

/-- The entry at reserve is allotted, where there is one (R337). -/
def State.allot (s : State) (h : Nat) : Option Nat × State :=
  let r := s.ring h
  if r.room then (some (r.era * 2 ^ 32 + r.reserve), s.setRing h { r with reserve := inc32 r.reserve })
  else (none, s)

/-- The content of an allotted entry is ready to be written. -/
def State.output (s : State) (h entry : Nat) (words : List Word) (bufAddr : Nat) (buf : List Byte) : State :=
  let r := s.ring h
  s.setRing h { r with outs := r.outs ++ [⟨entry, words, bufAddr, buf⟩] }

/-- A receive completion that cannot be allotted is counted lost in h5 [47:24], saturating (R337). -/
def State.loseCompletion (s : State) (h : Nat) : State :=
  let r := s.ring h
  s.setRing h { r with lostC := min (2 ^ 24 - 1) (r.lostC + 1), changed := true }

/-- An interface completion that cannot be allotted is counted lost in h5 [23:0], saturating (R337). -/
def State.loseReport (s : State) (h : Nat) : State :=
  let r := s.ring h
  s.setRing h { r with lostR := min (2 ^ 24 - 1) (r.lostR + 1), changed := true }

/-- A V2 record takes an entry, or waits for room (R337) behind those that wait (R341). -/
def State.outputOrWait (s : State) (h : Nat) (words : List Word) : State :=
  match (if (s.ring h).waiting.isEmpty then s.allot h else (none, s)) with
  | (some e, s1) => s1.output h e words 0 []
  | (none, _) => let r := s.ring h; s.setRing h { r with waiting := r.waiting ++ [words] }

/-- Outputs that wait take the entries that have come free, oldest first, before any output of a later event (R341). -/
def State.drainWaiting : Nat → Nat → State → State
  | 0, _, s => s
  | n + 1, h, s =>
    match (s.ring h).waiting with
    | [] => s
    | w :: ws =>
      match s.allot h with
      | (some e, s1) => State.drainWaiting n h ((s1.setRing h { s1.ring h with waiting := ws }).output h e w 0 [])
      | (none, _) => s

/-- The head passes every leading allotted entry that holds its output (R329). -/
def headAdvance : Nat → Ring → Ring
  | 0, r => r
  | n + 1, r =>
    if r.written.contains r.head then
      headAdvance n { r with written := r.written.filter (· != r.head), head := inc32 r.head, changed := true }
    else r

/-- Base and size of the ring of an entry's era (R389). -/
def eraGeometry (r : Ring) (era : Nat) : Nat × Nat :=
  if era = r.era then (r.base, r.entries) else r.eras.getD era (r.base, r.entries)

/-- The address of an entry (R328). -/
def entryAddr (r : Ring) (entry : Nat) : Nat :=
  let (b, e) := eraGeometry r (entry / 2 ^ 32)
  b + 64 + 32 * (entry % 2 ^ 32 % e)

/-- Delivery mode 0b01 is in force on the ring. -/
def bufferMode (r : Ring) : Bool := fld r.h0 46 2 == 1
def bufferStride (r : Ring) : Nat := (fld r.h2 0 8 + 1) * 64

/-- The buffer of an entry. -/
def bufferAddr (r : Ring) (entry : Nat) : Nat :=
  (r.h1.toNat + bufferStride r * (entry % 2 ^ 32 % (eraGeometry r (entry / 2 ^ 32)).2)) % 2 ^ 48

/-- A receive completion says that no buffer was written: flags A and B are clear (Tables 11.7 and 12.4). -/
def unbuffered (words : List Word) : List Word :=
  words.set 0 (words.getD 0 0 &&& ~~~(at_ 36 1 ||| at_ 35 1))

/-- The buffer of an output whose bytes waited for an offline gate is judged afresh (R361): where a page is refused nothing
is written to it (Table 12.4). -/
def State.judgeHeld (s : State) (h : Nat) (o : OutRec) : OutRec × State :=
  let r := s.ring h
  let d := (s.stream h).domain
  match (if o.buf.isEmpty then none else deputyRefusal s d h o.bufAddr (bufferStride r) true) with
  | none => (o, s)
  | some f =>
    let p : OutRec := { o with words := unbuffered o.words, bufAddr := 0, buf := [] }
    (p, (s.setRing h { r with outs := r.outs.map (fun x => if x = o then p else x) }).logGate d f)

/-- The V2 record of a frame of stream h with a frame sequence has been written: its tick goes into the trace record that
waits for it (R472). -/
def State.traceV2 (s : State) (h seq : Nat) : State :=
  { s with eye := { s.eye with traces := s.eye.traces.map (fun t =>
      if t.done && !t.egress && fld t.word0 15 15 == h && fld t.word1 28 20 == seq then { t with v2 := BitVec.ofNat 48 s.plan }
      else t) } }

/-- What Eyebright takes of an output that has been written: a V2 record is counted by its verdict code (Table 16.9), and its
tick traced. -/
def State.outputWritten (s : State) (h : Nat) (o : OutRec) : State :=
  let w := o.words.getD 1 0
  if fld (o.words.getD 0 0) 44 4 != 10 then s
  else (s.traceV2 h (fld w 0 20)).count (if fld w 40 5 = 0 then 0x304 else 0x305) h (s.stream h).domain 1

/-- An output becomes visible: buffer bytes, words 1 to 3, word 0; the head advances, and a ring with interrupts
enabled is due to raise its message (R340, R343). -/
def State.putOutput (s : State) (h : Nat) (o : OutRec) : State :=
  let r := s.ring h
  let a := entryAddr r o.entry
  let r1 : Ring := { r with outs := r.outs.filter (· != o) }
  let r2 := if o.entry / 2 ^ 32 = r.era then
    headAdvance r.entries { r1 with written := (o.entry % 2 ^ 32) :: r1.written } else r1
  let r3 := if r2.head = r.head then r2 else { r2 with raise_ := r2.raise_ || bit r.h0 45 }
  ((((s.setRing h r3).writeHost o.bufAddr o.buf).writeHost (a + 8) (wordsBytes (o.words.drop 1))).writeHost a
    (wordsBytes (o.words.take 1))).outputWritten h o

/-- OUTPUT_WRITE (R340): Quecy writes the oldest output that is ready into its entry. A refused deputy access to the
ring stops it (R359); a frozen or stopped ring, or an offline gate, holds it, with the bytes that wait for its buffer
(R348, R361). -/
def execOutputWrite (h : Handle) (s : State) : Out :=
  match (s.ring h.toNat).outs with
  | [] => .next s
  | o :: _ =>
    if !ringServes s h.toNat then .next s
    else
      match deputyRefusal s (s.stream h.toNat).domain h.toNat (entryAddr (s.ring h.toNat) o.entry) 32 true with
      | some f => .next (s.stopRing h.toNat f)
      | none => .next ((s.judgeHeld h.toNat o).2.putOutput h.toNat (s.judgeHeld h.toNat o).1)

/-- A ring whose header has been written raises its message where one is due (R343). -/
def State.raiseRing (s : State) (h : Nat) : State :=
  let r := s.ring h
  if r.raise_ && !r.stopped then
    (s.setRing h { r with raise_ := false, raised := true }).onEye (Eye.raise (s.stream h).message)
  else s

/-- RING_INTERRUPT (R343): after the header write of R330, the ring's message is raised, at most once a plan period. A
header write that the gate refuses stops the ring, and no message follows. -/
def execRingInterrupt (h : Handle) (s : State) : Out :=
  let r := s.ring h.toNat
  if r.raise_ && !r.raised && ringServes s h.toNat then
    .next ((s.writeHeader h.toNat (s.stream h.toNat).st).raiseRing h.toNat)
  else .next s

/-- Every output of a Retiring stream but the Final one is written, and every posted entry is fetched and done
(R91, R347). -/
def retireDone (s : State) (h : Nat) : Bool :=
  let r := s.ring h
  (s.stream h).retiring && r.outs.isEmpty && r.waiting.isEmpty && r.tail == r.fetch &&
    s.tx.all (fun x => x.handle != h) && s.rx.all (fun x => x.handle != h) && s.v2.all (fun v => v.handle != h) &&
    s.jobs.all (fun j => j.handle != h)

/-- RING_STARVED (R337): while a V2 record or a Final output waits for room, the ring-starved event is posted once a
plan period. -/
def execRingStarved (h : Handle) (s : State) : Out :=
  let r := s.ring h.toNat
  if !r.starved && !r.room && (!r.waiting.isEmpty || retireDone s h.toNat) then
    .next ((s.setRing h.toNat { r with starved := true }).post (313 + 4 * (s.stream h.toNat).domain))
  else .next s

/-! ### Doorbells -/

/-- A doorbell write is ignored, counted and posted (R332, R348, Table 17.5). Rings of a block of no domain count in
gate 16 and belong to no domain's event group. -/
def State.doorbellError (s : State) (h : Nat) : State :=
  match blockDomain s h with
  | some d => (s.setGate d { s.gate d with doorbellErr := (s.gate d).doorbellErr + 1 }).post (312 + 4 * d)
  | none => s.setGate 16 { s.gate 16 with doorbellErr := (s.gate 16).doorbellErr + 1 }

/-- The window page of a handle's doorbell (R482). -/
def doorbellOff (h : Nat) : Nat := 0x20000 + 0x1000 * (h / 512) + 8 * (h % 512)

/-- POST (R331): sets the tail. -/
def State.doorbellPost (s : State) (h rsvd count : Nat) : State :=
  let r := s.ring h
  if frozen s || decide (rsvd ≠ 0) || (s.stream h).free || !postOk r count then s.doorbellError h
  else s.setRing h { r with tail := count }

/-- RELEASE (R331): sets the release count. -/
def State.doorbellRelease (s : State) (h rsvd count : Nat) : State :=
  let r := s.ring h
  if frozen s || decide (rsvd ≠ 0) || (s.stream h).free || !releaseOk r count then s.doorbellError h
  else s.setRing h { r with release := count, changed := r.changed || count != r.release }

/-- DOORBELL_POST (R331). -/
def execDoorbellPost (cls : Cls) (h : Handle) (rsvd : BitVec 8) (count : BitVec 32) (s : State) : Out :=
  .next (s.regWrite cls (doorbellOff h.toNat) (fun x => x.doorbellPost h.toNat rsvd.toNat count.toNat))

/-- DOORBELL_RELEASE (R331). -/
def execDoorbellRelease (cls : Cls) (h : Handle) (rsvd : BitVec 8) (count : BitVec 32) (s : State) : Out :=
  .next (s.regWrite cls (doorbellOff h.toNat) (fun x => x.doorbellRelease h.toNat rsvd.toNat count.toNat))

/-! ### Freeing a retired stream (R91, R347) -/

/-- The slots that a stream's generation words name. -/
def genSlots (c : Context) : List Nat := (c.gens.filter Gen.valid).map Gen.slot

/-- The live streams that stream h links as its twin, or that link it (R100): after the retirement of one twin only its own
link is left. -/
def twinsOf (s : State) (h : Nat) : List Context :=
  let c := s.stream h
  (if c.twinValid then [s.stream c.twin] else []).filter (fun x => !x.free) ++
    ((s.streams.map (·.2)).filter (fun x => x.twinValid && x.twin == h))

/-- The slots of the stream that no live twin also names (R91, R100). -/
def ownSlots (s : State) (h : Nat) : List Nat :=
  let t := (twinsOf s h).flatMap genSlots
  (genSlots (s.stream h)).filter (fun k => !t.contains k)

/-- A Bindweed publisher stream that is freed keeps what its standalone disclosures still need (R188). -/
def State.keepOwed (s : State) (h : Nat) : State :=
  let c := s.stream h
  let a := s.aux_ h
  if c.isGsvPub && c.bindweed && !a.sealedIn.isEmpty then
    { s with bw := { s.bw with owed := s.bw.owed.filter (fun e => e.1 != h) ++ [(h, a, c)] } }
  else s

/-- The stream becomes Free: slots invalidated, context and ring cleared, stream-freed posted. -/
def State.freeStream (s : State) (h : Nat) : State :=
  let d := (s.stream h).domain
  let s1 := (s.keepOwed h).invalidateAll (ownSlots s h)
  let s2 := ((s1.setStream h .zero).setAux h .zero).setRing h .zero
  (s2.setDemand h .zero).post (314 + 4 * d)

/-- STREAM_FREED (R91): once every other output is written and there is room, Quecy writes the Final output, then the
header with ring state Free, raises the ring's message (R343), and frees the stream. A ring with interrupts enabled that
has raised its message in this plan period is freed in the next, since the Final output too has its message. -/
def execStreamFreed (h : Handle) (s : State) : Out :=
  let r := s.ring h.toNat
  if !(retireDone s h.toNat && ringServes s h.toNat && r.room) || (r.raised && bit r.h0 45) then .next s
  else
    match deputyRefusal s (s.stream h.toNat).domain h.toNat r.base (64 + 32 * r.entries) true with
    | some f => .next (s.stopRing h.toNat f)
    | none =>
      let (e, s1) := s.allot h.toNat
      let s2 := s1.putOutput h.toNat ⟨e.getD 0, finalOutput h.toNat (s1.aux_ h.toNat).retireTick, 0, []⟩
      .next (((s2.writeHeader h.toNat 0).raiseRing h.toNat).freeStream h.toNat)

end Sys2Proof.Machine
end

