-- ==== Sys2Proof/WellFormed.lean ====
section
/-!
DEFINITION. Which commands can be formed at all: the checks on operands that their types do not already make. A
command that fails its check is refused by name (Refusal.illFormed).
-/

namespace Sys2Proof

/-- A header beat carries four containers of descriptor and at most 32 data bytes, E_BYTES of them where E_BYTES is
in range (R318, R320). -/
def wfHeaderBeat (b : EgressBeat) : Bool :=
  b.desc.length == 4 && decide (b.data.length ≤ 32) &&
    (decide (32 < b.bytes.toNat) || b.data.length == b.bytes.toNat)

/-- A data beat carries no descriptor and at most 64 data bytes, E_BYTES of them where E_BYTES is in range (R317,
R320). -/
def wfDataBeat (b : EgressBeat) : Bool :=
  b.desc.isEmpty && decide (b.data.length ≤ 64) &&
    (decide (64 < b.bytes.toNat) || b.data.length == b.bytes.toNat)

/-- The ledger advance of a plan period: for each of the twelve units eight numbers that add up to the period's cipher
cycles (R467). -/
def wfLedger (cycles : Nat) (ledger : List (List Nat)) : Bool :=
  ledger.length == 12 && ledger.all (fun l => l.length == 8 && l.foldl (· + ·) 0 == cycles)

/-- A DRAM line is 64 bytes at an aligned 48-bit address (R262). -/
def wfLine (l : DramLine) : Bool :=
  l.bytes.length == 64 && l.addr % 64 == 0 && decide (l.addr < 2 ^ 48)

def wfLines (ls : List DramLine) : Bool := ls.all wfLine

/-- A memory-port access has 1 to 64 bytes, and a write brings that many (R262). -/
def wfMem (a : MemAccess) : Bool :=
  decide (1 ≤ a.len) && decide (a.len ≤ 64) && (!a.write || a.data.length == a.len)

/-- A trace record gives the cycle of stage 0 in its plan period and the seven deltas (R472). -/
def wfStages (l : List Nat) : Bool :=
  l.length == 8 && decide (l.getD 0 0 < 2 ^ 27)

/-- A descriptor is four containers (R334). -/
def wfDesc (d : List Container) : Bool := d.length == 4

/-- The digest engine returns 32 bytes (R115). -/
def wfDigest (r : DigestResult) : Bool := r.tag.length == 32

/-- The command can be formed. -/
def Instr.wf : Instr → Bool
  | .egressHeaderBeat b => wfHeaderBeat b
  | .egressDataBeat b => wfDataBeat b
  | .planBoundary _ cycles ledger _ => wfLedger cycles ledger
  | .memoryAccess a _ _ => wfMem a
  | .memoryReadReturn _ ls _ _ _ => wfLines ls
  | .writeMergeDrain _ ls _ => wfLines ls
  | .nodeWriteback _ _ _ ls _ => wfLines ls
  | .traceRecordWrite _ st _ => wfStages st
  | .descriptorFetch _ d _ _ => wfDesc d
  | .digestSealResult _ r => wfDigest r
  | .digestOpenResult _ r _ => wfDigest r
  | _ => true

end Sys2Proof
end

