-- ==== Sys2Proof/Machine/Eyebright.lean ====
section
/-!
DEFINITION. Eyebright and the event block's commands (16_eyebright_events.md): its three host rings, snapshots, the
frame trace, interrupt messages, and the registers with a command of their own.
-/

namespace Sys2Proof.Machine

/-! ### Register offsets (Table 17.4) -/

def offEvStatus (k : Nat) : Nat := 0x81000 + 8 * k
def offCtr (n : Nat) : Nat := 0x82000 + 8 * n
def offIntEoi : Nat := 0x81420

def eyeRingIndex : EyeRing → Nat
  | .snap => 0
  | .trace => 1
  | .evlog => 2

def offEyeRing (r : EyeRing) : Nat := 0x83000 + 0x40 * eyeRingIndex r

/-! ### Host rings (R473) -/

def Eye.ringOf (e : Eye) : EyeRing → EyeRingState
  | .snap => e.snap
  | .trace => e.trace
  | .evlog => e.evlog

def Eye.setRing (e : Eye) (r : EyeRing) (v : EyeRingState) : Eye :=
  match r with
  | .snap => { e with snap := v }
  | .trace => { e with trace := v }
  | .evlog => { e with evlog := v }

/-- The entries of a ring: 2^(code + 4), codes 0 to 12. -/
def EyeRingState.entries (r : EyeRingState) : Nat := 2 ^ (min 12 (fld r.ctrl 43 4) + 4)

def EyeRingState.full (r : EyeRingState) : Bool :=
  decide (r.entries ≤ ahead r.head.toNat r.release.toNat)

def EyeRingState.wantOn (r : EyeRingState) : Bool := bit r.ctrl 47

def EyeRingState.lose (r : EyeRingState) : EyeRingState := { r with lost := satAdd r.lost 1 }

/-- Records may be written (R474): not in Dormant or Lockdown. -/
def eyeWrites (s : State) : Bool := !frozen s

/-- Where the entry stands that the head names. -/
def EyeRingState.entryAt (q : EyeRingState) (size : Nat) : Nat := (q.base.toNat + size * (q.head.toNat % q.entries)) % 2 ^ 48

/-- The refusal of a write of a record, an access of the management class under gate 16 (R473). -/
def eyeRefusal (s : State) (r : EyeRing) (size : Nat) : Option GateFault :=
  portRefusal s ⟨0, 16, BitVec.ofNat 52 ((s.eye.ringOf r).entryAt size), size, true, []⟩

/-- A record goes to the entry the head names; a refused write is logged and lost (R473). -/
def State.eyePut (s : State) (r : EyeRing) (size : Nat) (words : List Word) : State :=
  let q := s.eye.ringOf r
  let a := q.entryAt size
  match eyeRefusal s r size with
  | some f => { s.logGate 16 f with eye := (s.logGate 16 f).eye.setRing r ((s.logGate 16 f).eye.ringOf r).lose }
  | none =>
    let s1 := s.writeHost a (wordsBytes words)
    { s1 with eye := s1.eye.setRing r { q with head := q.head + 1 } }

/-! ### Snapshots (R469, R470) -/

/-- A register of the status bits (Table 16.4). -/
def statusWord (v : BitVec 528) (k : Nat) : Word := BitVec.ofNat 48 (fld v (48 * k) 48)

/-- The words of a snapshot at plan tick t (Table 16.11); s2 is filled in when it is written. -/
def snapWords (e : Eye) (t : Tick) : List Word :=
  [at_ 44 1 ||| at_ 0 e.snapSeq.toNat, BitVec.ofNat 48 t, 0, 0] ++
    (List.range 64).map (fun n => Table.get 0 n e.ctr) ++
    (List.range 96).map (fun i => Table.get 0 i e.ledger) ++
    (List.range 11).map (statusWord e.status) ++ List.replicate 81 0

/-- A snapshot falls due at plan tick t. -/
def snapDue (e : Eye) (t : Tick) : Bool :=
  let cadence := fld e.snap.ctrl 20 20
  e.snap.on && decide (0 < cadence) && t % cadence == fld e.snap.ctrl 0 20

/-- The snapshot of a boundary: taken where fewer than two wait, else counted as lost (R470, R474). -/
def State.takeSnapshot (s : State) (t : Tick) : State :=
  let e := s.eye
  if !snapDue e t then s
  else if !eyeWrites s then { s with eye := { e with snap := e.snap.lose, snapLost := satAdd e.snapLost 1 } }
  else if 2 ≤ e.snaps.length then { s with eye := { e with snapLost := satAdd e.snapLost 1 } }
  else
    let e1 := { e with snapSeq := e.snapSeq + 1 }
    { s with eye := { e1 with snaps := e1.snaps ++ [snapWords e1 t] } }

/-- SNAPSHOT_WRITE (R470): the oldest captured snapshot goes to the ring when it has room, with the count of those
lost since the record before it; one whose write gate 16 refuses is lost too, and the next record says so. -/
def execSnapshotWrite (s : State) : Out :=
  match s.eye.snaps with
  | [] => .next s
  | w :: rest =>
    if !eyeWrites s || s.eye.snap.full then .next s
    else
      let e : Eye := { s.eye with
        snaps := rest, snapLost := if (eyeRefusal s .snap 2048).isSome then satAdd s.eye.snapLost 1 else 0 }
      .next (({ s with eye := e }).eyePut .snap 2048 (w.set 2 s.eye.snapLost))

/-! ### The event log (R460) -/

/-- EVENT_LOG_RECORD_CLOSE (R460): records whose plan period has ended, or whose count is full, are closed. -/
def execEventLogRecordClose (s : State) : Out :=
  .next { s with eye := (s.eye.closeDue s.plan) }

/-- An event-log record (Table 16.7). -/
def logWords (r : LogRec) : List Word :=
  [at_ 39 r.source ||| at_ 38 (boolNat r.level) ||| at_ 16 r.count, BitVec.ofNat 48 r.tick]

/-- EVENT_LOG_WRITE (R460): the record that closed first is written when the ring has room. In Dormant and Lockdown it
is lost (R474). -/
def execEventLogWrite (s : State) : Out :=
  match s.eye.buffer.find? (·.closed) with
  | none => .next s
  | some r =>
    let e : Eye := { s.eye with buffer := s.eye.buffer.erase r }
    if !eyeWrites s then .next { s with eye := { e with evlog := e.evlog.lose } }
    else if s.eye.evlog.full then .next s
    else .next (({ s with eye := e }).eyePut .evlog 16 (logWords r))

/-! ### The frame trace (R471, R472) -/

/-- One advance of the Galois shift register of R471, as multiplication by x (log 14). -/
def lfsrNext (r : BitVec 32) : BitVec 32 :=
  if bit r 31 then (r <<< 1) ^^^ 0x00400007 else r <<< 1

/-- The frame passes the trace's filter (Table 16.12). -/
def traceFilter (c : Word) (egress : Bool) (h d : Nat) : Bool :=
  (fld c 41 2 == 0 || (egress && fld c 41 2 == 1) || (!egress && fld c 41 2 == 2)) &&
  (fld c 39 2 == 0 || (fld c 39 2 == 1 && fld c 24 15 == h) || (fld c 39 2 == 2 && fld c 20 4 == d))

/-- The trace considers frame f at its classification: whether it is tagged. -/
def State.traceFrame (s : State) (f : Nat) (egress : Bool) (h d : Nat) : Bool × State :=
  let e := s.eye
  if !e.trace.on || !traceFilter e.trace.ctrl egress h d then (false, s)
  else
    let r := lfsrNext e.lfsr
    let n := fld e.trace.ctrl 0 20 + 1
    let tagged := decide (fld r 0 20 < 2 ^ 20 / n)
    (tagged, { s with eye := { e with
      lfsr := r
      traces := if tagged then e.traces ++ [⟨f, egress, 0, 0, s.plan, false, 0⟩] else e.traces } })

/-- A tagged frame has ended: t0 and t1 of its record are known, but for stage 0. -/
def State.traceEnd (s : State) (f : Nat) (egress : Bool) (w0 w1 : Word) : State :=
  { s with eye := { s.eye with traces := s.eye.traces.map (fun t =>
      if t.frame = f && t.egress == egress && !t.done then { t with word0 := w0, word1 := w1, done := true } else t) } }

/-- t0 without stage 0, and t1 (Table 16.14). -/
def traceW0 (egress : Bool) (port cls : Nat) (demoted : Bool) (unit h : Nat) : Word :=
  at_ 44 (if egress then 2 else 3) ||| at_ 40 port ||| at_ 38 cls ||| at_ 37 (boolNat demoted) ||| at_ 33 unit ||| at_ 15 h

def traceW1 (seq len outcome : Nat) : Word := at_ 28 seq ||| at_ 14 len ||| at_ 8 outcome

/-- The words of a trace record from the cycles of its stages: stage 0 within the plan period, then the seven deltas. A
delta of 0xFF_FFFF says that the frame did not reach the stage, and a longer one saturates at 0xFF_FFFE. -/
def traceWords (t : TraceRec) (stages : List Nat) : List Word :=
  let st (k : Nat) : Nat :=
    let d := stages.getD k 0xFFFFFF
    if d = 0xFFFFFF then d else min 0xFFFFFE d
  let z := stages.getD 0 0
  [t.word0 ||| at_ 30 (z / 2 ^ 24 % 8), t.word1, BitVec.ofNat 48 t.tick, at_ 24 (z % 2 ^ 24) ||| at_ 0 (st 1),
   at_ 24 (st 2) ||| at_ 0 (st 3), at_ 24 (st 4) ||| at_ 0 (st 5), at_ 24 (st 6) ||| at_ 0 (st 7), t.v2]

/-- TRACE_RECORD_WRITE (R472): the record of a tagged frame that has ended is written, or lost where the ring is full. Its
V2 tick is the state's own, which the operand repeats. -/
def execTraceRecordWrite (f : Nat) (stages : List Nat) (_v2tick : Word) (s : State) : Out :=
  if !wfStages stages then .refused .illFormed
  else
    match s.eye.traces.find? (fun t => t.frame == f && t.done) with
    | none => .next s
    | some t =>
      let e : Eye := { s.eye with traces := s.eye.traces.erase t }
      if !eyeWrites s || s.eye.trace.full then .next { s with eye := { e with trace := e.trace.lose } }
      else .next (({ s with eye := e }).eyePut .trace 64 (traceWords t stages))

/-! ### Interrupt messages (R458) -/

/-- Message m is due to be sent: armed and pending in EOI mode; in auto mode, to be sent and not yet sent in this plan
period. -/
def msgDue (e : Eye) (m : Nat) : Bool :=
  if bit e.auto m then bit e.want m && !bit e.sent m else bit e.pendingMask m && bit e.armed m

/-- INTERRUPT_SEND (R458): a message that is due is sent; its ring latch is cleared. -/
def execInterruptSend (m : Fin 32) (s : State) : Out :=
  let e := s.eye
  if !msgDue e m.val then .next s
  else
    let b := BitVec.ofNat 32 (1 <<< m.val)
    .next { s with eye := { e with
      strobe := some m.val
      ringLatch := e.ringLatch &&& ~~~b
      armed := if bit e.auto m.val then e.armed else e.armed &&& ~~~b
      want := e.want &&& ~~~b
      sent := if bit e.auto m.val then e.sent ||| b else e.sent } }

/-- A write of INT_EOI: with Valid set, the message is armed again. -/
def State.writeEoi (s : State) (w : Word) : State :=
  if bit w 5 then { s with eye := { s.eye with armed := s.eye.armed ||| BitVec.ofNat 32 (1 <<< fld w 0 5) } } else s

/-- INT_EOI (R458). -/
def execIntEoi (cls : Cls) (v : Container) (s : State) : Out :=
  .next (s.regWrite cls offIntEoi (fun x => x.writeEoi (toWord v)))

/-! ### Status bits and counters -/

/-- The sources that a write of status register k names. -/
def clearMask (k : Nat) (w : Word) : BitVec 528 :=
  (List.range 48).foldl (fun m b => if bit w b then m ||| evBit (48 * k + b) else m) 0

/-- Sources of status register k written with 1 clear, and a source that posts in the same cycle, itself or by an overflow
that a posting leads to, stays set (R13, R456, R465). -/
def State.clearStatus (s : State) (k : Nat) (w : Word) (posting : List Nat) : State :=
  s.onEye (fun e => posting.foldl (fun x n => Eye.postN 65 s.plan n x)
    { e with status := e.status &&& ~~~clearMask k w })

/-- EV_STATUS_CLEAR (R456, R13): `posting` names the sources that post in the same cycle. -/
def execEvStatusClear (cls : Cls) (k : Fin 11) (v : Container) (posting : List Nat) (s : State) : Out :=
  let ps := posting.filter (fun n => decide (n < 502))
  if windowHeld s then .next (s.posts ps)
  else match windowRefusal s cls (offEvStatus k.val / 4096) true with
  | some cause => .next ((s.posts ps).windowFault cls (offEvStatus k.val) true cause)
  | none => .next (s.clearStatus k.val (toWord v) ps)

/-- Counter n counts: by its select, or as the high half of a pair (R461, R464). -/
def Eye.counting (e : Eye) (n : Nat) : Bool := selCounts n (Table.get 0 n e.sel) || e.chained n

/-- Counter n takes the increment of a cycle, if it counts (R461). -/
def State.bumpCounter (s : State) (n increment : Nat) : State :=
  s.onEye (fun e => if e.counting n then Eye.addCtr (Eye.postN 64 s.plan) n increment e else e)

/-- Counter n is set to a value, plus the increment of the same cycle if it counts, which may wrap it; a level counts from
here on (R461, R466). -/
def State.writeCounter (s : State) (n : Nat) (w : Word) (increment : Nat) : State :=
  State.bumpCounter { s with
    eye := { s.eye with ctr := Table.put 0 n w s.eye.ctr, since := Table.put 0 n (s.now + 1) s.eye.since } } n increment

/-- A counter takes the cycles for which its level has stood in the period, before its select changes (R463, R466). -/
def State.settleLevel (s : State) (n : Nat) : State :=
  let w := Table.get 0 n s.eye.sel
  if selCounts n w && selLevel w && standsByItself (selCode w) then
    s.onEye (fun e => Eye.addCtr (Eye.postN 64 s.plan) n (e.levelSpan s.cipherStopped s.now n (selCode w)) e)
  else s

/-- COUNTER_WRITE (R466): a write that the window refuses leaves the counter with the cycle's increment alone. -/
def execCounterWrite (cls : Cls) (n : Fin 64) (v : Container) (increment : Nat) (s : State) : Out :=
  if windowHeld s then .next s
  else match windowRefusal s cls (offCtr n.val / 4096) true with
  | some cause => .next ((s.bumpCounter n.val increment).windowFault cls (offCtr n.val) true cause)
  | none => .next (s.writeCounter n.val (toWord v) increment)

/-- A read of counter n: the low half of a chained pair latches the high half, and the next read of the high half
takes what was latched (R464). -/
def State.readCounter (s : State) (n : Nat) : State :=
  let e := s.eye
  let live := Table.get 0 n e.ctr
  if n % 2 = 0 then
    let latch := if e.paired (n + 1) then Table.put 0 (n + 1) ((Table.get 0 (n + 1) e.ctr).toNat + 1) e.latch else e.latch
    { s with bus := ⟨live, false⟩, eye := { e with latch := latch } }
  else
    let l := Table.get 0 n e.latch
    { s with bus := ⟨if l = 0 then live else BitVec.ofNat 48 (l - 1), false⟩, eye := { e with latch := Table.put 0 n 0 e.latch } }

/-- CHAINED_COUNTER_LOW_READ (R464): a read of counter 2j. -/
def execChainedCounterLowRead (cls : Cls) (j : Fin 32) (s : State) : Out :=
  .next (s.regRead cls (offCtr (2 * j.val)) (fun x => x.readCounter (2 * j.val)))

/-! ### Ring registers (Table 16.12) -/

/-- A write of x_RELEASE: ignored where it lowers the count or passes the head. -/
def State.writeEyeRelease (s : State) (r : EyeRing) (w : Word) : State :=
  let q := s.eye.ringOf r
  let c := fld w 0 32
  if ahead c q.release.toNat ≤ ahead q.head.toNat q.release.toNat then
    { s with eye := s.eye.setRing r { q with release := BitVec.ofNat 32 c } }
  else s

/-- EYEBRIGHT_RELEASE_WRITE (R473). -/
def execEyebrightReleaseWrite (cls : Cls) (r : EyeRing) (v : Container) (s : State) : Out :=
  .next (s.regWrite cls (offEyeRing r + 0x18) (fun x => x.writeEyeRelease r (toWord v)))

/-- The bits of x_CTRL that are stored; the others are Reserved (R8). -/
def ctrlMask : EyeRing → Word
  | .snap => 0xF8FF_FFFF_FFFF
  | .trace => 0xFFFF_FFFF_FFFF
  | .evlog => 0xF800_0000_0000

/-- A write of x_CTRL: Enable takes effect at the next plan boundary. -/
def State.writeEyeCtrl (s : State) (r : EyeRing) (w : Word) : State :=
  { s with eye := s.eye.setRing r { s.eye.ringOf r with ctrl := w &&& ctrlMask r } }

/-- EYEBRIGHT_RING_CONTROL (R473). -/
def execEyebrightRingControl (cls : Cls) (r : EyeRing) (v : Container) (s : State) : Out :=
  .next (s.regWrite cls (offEyeRing r + 0x08) (fun x => x.writeEyeCtrl r (toWord v)))

/-! ### The plan boundary (R74 step 1) -/

/-- The cycles of a plan period that counter c takes for level n: those in which a block entered for a busy level, but no
more than have passed since the counter was written or selected; for any other level, and for the cipher clock, those for
which it stood, which are all of them where nothing moved in the period (R463, R466, R467; log 15). -/
def levelCycles (e : Eye) (stopped : Bool) (now cycles : Nat) (ledger : List (List Nat)) (c n : Nat) : Nat :=
  let busy (u : Nat) : Nat := ((ledger.getD u []).take 3).foldl (· + ·) 0
  let upTo (k : Nat) : Nat :=
    if Table.get 0 c e.since = 0 then k else min k (cipherCycle now - cipherCycle (e.levelFrom c n))
  if 194 ≤ n && n ≤ 230 then upTo (busy ((n - 194) / 4))
  else if n = 232 then upTo (busy 10)
  else if n = 236 then upTo (busy 11)
  else if stopped || !(n == 0x30D || bit e.level n) then 0
  else if Table.get 0 c e.since = 0 && Table.get 0 n e.rose = 0 then cycles
  else e.levelSpan stopped now c n

/-- What accumulator i gains in a plan period: the cycles of the period, less the counts of discarded blocks that leave
categories 0 and 1, which category 2 takes (R467, R468). -/
def ledgerGain (moves : Table Nat) (ledger : List (List Nat)) (i : Nat) : Word :=
  let counted := BitVec.ofNat 48 ((ledger.getD (i / 8) []).getD (i % 8) 0)
  if i % 8 = 2 then counted + BitVec.ofNat 48 (Table.get 0 (i - 2) moves) + BitVec.ofNat 48 (Table.get 0 (i - 1) moves)
  else counted - BitVec.ofNat 48 (Table.get 0 i moves)

/-- Ledger and level counters take the period that ends (R463, R467, R468). -/
def State.endOfPeriodCounts (s : State) (cycles : Nat) (ledger : List (List Nat)) : State :=
  let e1 : Eye := { s.eye with
    ledger := (List.range 96).foldl (fun t i =>
      Table.put 0 i (Table.get 0 i t + ledgerGain s.eye.moves ledger i) t) s.eye.ledger
    moves := [] }
  ({ s with eye := e1 }).onEye (fun e => { e.countEach (Eye.postN 64 s.plan) (fun c w =>
      if selLevel w then levelCycles e1 s.cipherStopped s.now cycles ledger c (selCode w) else 0) with
    countFrom := s.now, rose := [], since := [] })

/-- A ring whose Enable is as last written from here on; the records that it still held on chip are dropped where it
stops, and count as lost (R473). -/
def EyeRingState.atBoundary (q : EyeRingState) (held : Nat) : EyeRingState :=
  { q with on := q.wantOn, lost := if q.wantOn then q.lost else satAdd q.lost held }

/-- Rings come into force or stop, and the once-a-period limit of auto mode ends (R458, R473). -/
def State.eyeRingsBoundary (s : State) : State :=
  let e := s.eye
  let snapUp := e.snap.wantOn && !e.snap.on
  let traceUp := e.trace.wantOn && !e.trace.on
  { s with eye := { e with
    snap := e.snap.atBoundary e.snaps.length
    trace := e.trace.atBoundary (e.traces.filter (·.done)).length
    evlog := e.evlog.atBoundary e.buffer.length
    snapSeq := if snapUp then 0 else e.snapSeq
    snapLost := if snapUp then 0 else e.snapLost
    snaps := if e.snap.wantOn then e.snaps else []
    lfsr := if traceUp then e.seed else e.lfsr
    traces := if e.trace.wantOn then e.traces else []
    buffer := if e.evlog.wantOn then e.buffer else []
    sent := 0 } }

end Sys2Proof.Machine
end

