-- ==== Sys2Proof/Machine/Speedwell.lean ====
section
/-!
DEFINITION. Speedwell (02_speedwell_tick.md): tick arithmetic, the plan's capacity, admission, the wait bounds,
policing of one frame, the tick quality, overruns, and the rest level of 15_power_and_clocks.md.
-/

namespace Sys2Proof.Machine

/-! ### Ticks -/

/-- The enabled tick domains (Table 2.1). -/
def enabledDoms (s : State) : List Nat := (List.range 4).filter (fun k => bit s.tcfg.enable k)

def domFreq (s : State) (k : Nat) : Nat := s.tcfg.freq.getD k 0

/-- The plan domain: the enabled domain of the highest frequency (R43). -/
def planDom (s : State) : Nat :=
  (enabledDoms s).foldl (fun b k => if domFreq s b < domFreq s k || !bit s.tcfg.enable b then k else b) 0

def planFreq (s : State) : Nat := domFreq s (planDom s)

/-- The instant of the boundary that begins tick n, in nanoseconds since the origin (R44). -/
def tickInstant (f n : Nat) : Nat := n * 10 ^ 9 / f

/-- The latest tick whose instant is not later than T. -/
def ticksAt (f t : Nat) : Nat := if f = 0 then 0 else ((t + 1) * f - 1) / 10 ^ 9

/-- The tick in force of a domain; domain 4 stands for the plan. -/
def tickNow (s : State) (d : Nat) : Tick := if d = 4 then s.ticks.plan else Table.get 0 d s.ticks.idx

/-- The tick domain, 0 to 3, in which domain number `d` (4 the plan) is counted. -/
def realDom (s : State) (d : Nat) : Nat := if d = 4 then planDom s else d

/-- The tick configuration of the active image read as frequencies: what keeper time T holds now. `keeper` is the
difference between T and the model's clock. -/
def keeperTime (s : State) : Int := s.ticks.keeper + s.now

/-! ### Capacity (R54, R58) -/

/-- P_c. -/
def planCycles (s : State) : Nat := 1250000000 * 999 / (planFreq s * 1000)

/-- S, the slots of a direction. -/
def planSlots (s : State) : Nat := 3 * planCycles s

/-- The permutations of both Keccak cores. -/
def planPerms (s : State) : Nat := 2 * (planCycles s / 4)

/-- The line rate of a port in bits per second (Table 10.1). -/
def modeRate (m : Nat) : Nat :=
  match m with
  | 1 => 25 * 10 ^ 9
  | 2 => 10 * 10 ^ 9
  | 3 => 10 ^ 9
  | 4 => 100 * 10 ^ 9
  | _ => 0

def quadMode (img : ImgCfg) (p : Nat) : Nat := img.quads.getD (p / 4) 0

/-- Port p exists in its quad's mode (R297). -/
def portExists (img : ImgCfg) (p : Nat) : Bool :=
  let m := quadMode img p
  decide (p < 16) && ((decide (1 ≤ m) && decide (m ≤ 3)) || (m == 4 && p % 4 == 0))

def portCfg (img : ImgCfg) (p : Nat) : PortCfg := img.ports.getD p .default

def portEnabled (img : ImgCfg) (p : Nat) : Bool := portExists img p && (portCfg img p).enable

/-- Ingress line reservation per plan period, rounded up (R58). -/
def lineReservation (s : State) : Nat :=
  let rate := (((List.range 16).filter (portEnabled s.img)).map (fun p => modeRate (quadMode s.img p))).foldl (· + ·) 0
  ceilDiv (6 * rate) (672 * planFreq s)

/-! ### Demand and admission (R57, R61, Table 2.6) -/

def isGoose (c : Context) : Bool := c.isGsv && c.etherType == 0x88B8

/-- What a stream asks for under its declarations. -/
def demandOf (c : Context) : Demand :=
  let n := c.steady + c.burstPeak
  let frame := if c.suite == 5 then 0 else ceilDiv c.payload 16 + 2
  let bw := boolNat c.bindweed
  if c.classP then
    { sealing := if c.seals then n * (frame + bw) else 0
      opening := if c.opens then n * (frame + bw) else 0
      echo := if c.echo then n * (ceilDiv c.payload 16 + 2) else 0
      ctrlSeal := 0
      ctrlOpen := 0
      keccak := if c.bindweed then n * ceilDiv (c.hashLen + 1) 136 else 0
      digest := if c.suite == 5 then n * (ceilDiv (c.hashLen + 9) 64 + 1) else 0 }
  else if c.classC && !c.isClear then
    { Demand.zero with
      ctrlSeal := if c.seals then c.cRate else 0
      ctrlOpen := if c.opens then c.cRate else 0 }
  else .zero

/-- The larger of two demands, item by item: what counts while a change of declarations is staged (R89). -/
def Demand.max (a b : Demand) : Demand :=
  ⟨Nat.max a.sealing b.sealing, Nat.max a.opening b.opening, Nat.max a.echo b.echo, Nat.max a.ctrlSeal b.ctrlSeal,
   Nat.max a.ctrlOpen b.ctrlOpen, Nat.max a.keccak b.keccak, Nat.max a.digest b.digest⟩

def sumOf (s : State) (f : Demand → Nat) : Nat := (s.adm.map (fun e => f e.2)).foldl (· + ·) 0

/-- A check of Table 2.6 that fails: its number, its direction (0 egress, 1 ingress), the shortfall. -/
structure AdmFail where
  check : Nat
  dir : Nat
  shortfall : Nat
  deriving DecidableEq, Repr

/-- The permutations that chains take: 2 for each verified chain and 1 for each publisher chain (Table 2.6). -/
def chainPerms (s : State) : Nat := 2 * s.vers.length + s.pubs.length

/-- The first check of Table 2.6 that fails with the demands as they stand in `s.adm`. Where the line reservation alone
passes the echo room, the shortfall includes what it lacks. -/
def admissionFails (s : State) : Option AdmFail :=
  let sS := planSlots s
  let prot := s.tcfg.protShare * sS / 100
  let ctrl := s.tcfg.ctrlShare * sS / 100
  let echo := sumOf s (·.echo)
  let room : Int := (95 * sS / 100 : Nat) - (lineReservation s : Int)
  let kec := sumOf s (·.keccak) + chainPerms s
  let checks : List (Nat × Nat × Nat × Int) := [
    (1, 0, sumOf s (·.sealing), prot),
    (2, 1, sumOf s (·.opening) + echo, prot),
    (3, 1, echo, if echo = 0 then 0 else room),
    (4, 0, sumOf s (·.ctrlSeal), ctrl),
    (4, 1, sumOf s (·.ctrlOpen), ctrl),
    (5, 0, kec, s.tcfg.keccakShare * planPerms s / 100),
    (6, 0, sumOf s (·.digest), s.tcfg.lease)]
  (checks.find? (fun c => decide (c.2.2.2 < (c.2.2.1 : Int)))).map
    (fun c => ⟨c.1, c.2.1, ((c.2.2.1 : Int) - c.2.2.2).toNat⟩)

/-- Under plan overload every new admission fails, naming the check of the overloaded direction (R71, Table 13.10). -/
def overloadFail (s : State) : Option AdmFail :=
  if s.ovr.overload then
    some (match s.ovr.overloadDir with
      | .egress => ⟨1, 0, 0x7FFFFFF⟩
      | .ingress => ⟨2, 1, 0x7FFFFFF⟩
      | .keccak => ⟨5, 0, 0x7FFFFFF⟩)
  else none

/-- Admission of stream `h` with demand `d`: the failing check, or none (R61, R62). -/
def admitFail (s : State) (h : Nat) (d : Demand) : Option AdmFail :=
  match overloadFail s with
  | some f => some f
  | none => admissionFails (s.setDemand h d)

/-- The detail of ERR_ADMISSION (Table 13.10). -/
def AdmFail.detail (f : AdmFail) : Nat := f.check * 2 ^ 28 + f.dir * 2 ^ 27 + min 0x7FFFFFF f.shortfall

/-- The wait bounds of R64, egress in [47:24] and ingress in [23:0], for the directions in which a stream of this context
has work; echo is work of the open side. A bound that its field cannot hold, as a low plan frequency allows, reads
0xFFFFFF (log 30). -/
def waitWord (s : State) (c : Context) : Word :=
  let e := if c.seals then ceilDiv (2 * sumOf s (·.sealing)) 3 else 0
  let i := if c.opens || c.echo then ceilDiv (2 * (sumOf s (·.opening) + sumOf s (·.echo))) 3 else 0
  at_ 24 (min 0xFFFFFF e) ||| at_ 0 (min 0xFFFFFF i)

/-! ### Policing (R60, R67, R103) -/

/-- The length of a burst window in plan periods. -/
def burstPeriods (s : State) : Nat := ceilDiv (4 * planFreq s) 1000

/-- One P-class frame is counted on a half of its stream; the answer says whether it is demoted. A window opens in the
first plan period whose frames exceed Q while none is open. The allowances are those of `a`, the version that the frame
took at classification (R22), the counts those in force. -/
def policeP (w : Nat) (a c : Context) (op : Bool) : Bool × Context :=
  let n := min 1023 (c.periodCount op + 1)
  let c1 := c.setPeriodCount op n
  if n ≤ a.steady then (false, c1)
  else
    let isOpen := c1.windowOpen op && decide (0 < c1.windowLeft op)
    let c2 := if isOpen then c1
      else ((c1.setWindowOpen op true).setWindowLeft op w).setBurstLeft op a.burstAllow
    if n ≤ a.steady + a.burstPeak && decide (0 < c2.burstLeft op) then
      (false, c2.setBurstLeft op (c2.burstLeft op - 1))
    else (true, c2)

/-- A demotion advances the stream's counter, posts its event and counts under code 0x306 (R67, Table 16.9). -/
def State.demotion (s : State) (h : Nat) : State :=
  let c := s.stream h
  ((s.setStream h c.bumpDemotions).post (413 + 6 * c.tickDomain)).count 0x306 h c.domain 1

/-- Policing of a frame of stream `h` in a direction: whether it is demoted. The version `a` of the context it took at
classification decides the allowance; the running words in force are counted. R67 and R117 do not say whether a frame
above its declared p takes a unit of the period's count and of a burst allowance: DESIGN CHOICE, log 42: it takes them. -/
def State.police (s : State) (h : Nat) (a : Context) (op above : Bool) : Bool × State :=
  let c := s.stream h
  let (dem, c1) := policeP (burstPeriods s) a c op
  let s1 := s.setStream h c1
  if dem || above then (true, s1.demotion h) else (false, s1)

/-- What the policing of a frame makes of running words, for a snapshot that includes the frame (R20). -/
def policed (w : Nat) (a : Context) (op above : Bool) (c : Context) : Context :=
  let (dem, c1) := policeP w a c op
  if dem || above then c1.bumpDemotions else c1

/-- The same for a frame sent on a C-class CLEAR stream. -/
def policedClear (c : Context) : Context := c.setPeriodCount false (min 1023 (c.periodCount false + 1))

/-- A C-class CLEAR stream's frame is counted in its direction; beyond the C rate it goes as B class (R103). w31 counts
the frames sent, up to 1,023; the counts that the rate is held against stand beside the context, whose field is narrower
than a rate. The rate is that of the version `v` that the frame took at classification. -/
def State.policeClear (s : State) (h : Nat) (v : Context) (op : Bool) : Bool × State :=
  let a := s.aux_ h
  if op then (decide (v.cRate ≤ a.clearIn), s.setAux h { a with clearIn := a.clearIn + 1 })
  else (decide (v.cRate ≤ a.clearOut),
    (s.setStream h (policedClear (s.stream h))).setAux h { a with clearOut := a.clearOut + 1 })

/-- BURST_WINDOW_END (R60): a window whose plan periods have passed closes. -/
def execBurstWindowEnd (h : Handle) (opening : Bool) (s : State) : Out :=
  let c := s.stream h.toNat
  if c.windowOpen opening && c.windowLeft opening == 0 then
    .next (s.setStream h.toNat ((c.setWindowOpen opening false).setBurstLeft opening 0))
  else .next s

/-- Step 5 of R74 for one context: the period counts fall to zero and an open window loses one period. -/
def resetPolicing (c : Context) : Context :=
  let half (op : Bool) (x : Context) : Context :=
    let x1 := x.setPeriodCount op 0
    if x1.windowOpen op then x1.setWindowLeft op (x1.windowLeft op - 1) else x1
  if c.isDuplex then half true (half false c) else half false c

/-! ### Whose turn it is in a direction (R55, R70)

The blocks of one frame enter together in this model (log 17), so that the order of R55 is the order in which frames
enter their slices (log 59). -/

/-- A frame that is to be sealed has not entered its slice. -/
def beforeSlice (x : TxFrame) : Bool := x.stage == .offered && (x.kind == .stream || x.kind == .sealedNotice)

/-- A frame on the seal side waits for its slice: its checks are made, and it is to be sealed. -/
def awaitsSlice (x : TxFrame) : Bool := beforeSlice x && x.judged

/-- A received frame waits for its V0 check and, passing it, for an open slice. -/
def awaitsOpen (x : RxFrame) : Bool := x.kind == .protected_ && !x.v0

/-- A frame under suite 0x5 takes no slot (Table 2.4). -/
def takesSlots (c : Context) : Bool := c.suite != 5

/-- The class in which R55 serves a frame of class `cls` whose stream has taken `used` slots of its rate: 0, 1 or 2. A C-class
frame is within the allowance while its first block is: the blocks of one frame are not parted here (log 59). -/
def serviceRank (cls used rate : Nat) : Nat := if cls = 0 then 0 else if cls = 1 && decide (used < rate) then 1 else 2

/-- The class in which a frame that is to be sealed waits for its slice: by its declaration, and B where it exceeds p (R117)
or its policing would demote it (R67). -/
def txClass (s : State) (x : TxFrame) : Nat :=
  if x.demoted then 2
  else if x.ctx.classP then (if (policeP (burstPeriods s) x.ctx (s.stream x.handle) false).1 then 2 else 0)
  else x.ctx.cls

/-- The class of a received frame by its declaration, and B where its policing would demote it (R67). -/
def rxClass (s : State) (x : RxFrame) : Nat :=
  if x.ctx.classP then (if (policeP (burstPeriods s) x.ctx (s.stream x.handle) x.ctx.isDuplex).1 then 2 else 0) else x.ctx.cls

/-- The frames that wait for a seal slice: rank and number. -/
def sealTurns (s : State) : List (Nat × Nat) :=
  (s.tx.filter (fun x => awaitsSlice x && takesSlots x.ctx)).map (fun x =>
    (serviceRank (txClass s x) (s.aux_ x.handle).usedSeal x.ctx.cRate, x.id))

/-- The frames that wait for an open slice: received frames before V0, and seal echoes. -/
def openTurns (s : State) : List (Nat × Nat) :=
  (s.rx.filter (fun x => awaitsOpen x && takesSlots x.ctx)).map (fun x =>
    (serviceRank (rxClass s x) (s.aux_ x.handle).usedOpen x.ctx.cRate, x.id)) ++
  (s.tx.filter (fun x => x.stage == .echoWait)).map (fun x =>
    (serviceRank x.cls (s.aux_ x.handle).usedOpen x.ctx.cRate, x.id))

def turnsOf (s : State) (d : Dir) : List (Nat × Nat) :=
  match d with
  | .egress => sealTurns s
  | .ingress => openTurns s
  | .keccak => []

/-- A P-class frame that was in the block at the overrun still waits in this direction (R70). -/
def withheldNow (s : State) (d : Dir) : Bool :=
  s.ovr.withheld.any (fun e => decide (e.1 = d) && (turnsOf s d).any (fun t => t.1 == 0 && decide (t.2 < e.2)))

/-- A record of the hold table: it has a digest. -/
def V2Rec.held (v : V2Rec) : Bool := !v.digest.isEmpty

def V2Rec.openHold (v : V2Rec) : Bool := v.held && v.code.isNone

/-- The first Empty slot among n that stand from slot k on. -/
def firstEmpty (s : State) : Nat → Nat → Option Nat
  | 0, _ => none
  | n + 1, k => if (s.slot k).empty_ then some k else firstEmpty s n (k + 1)

/-- A free slot of the verification pool. -/
def freePool (s : State) : Option Nat := firstEmpty s 512 (slotVer 0)

/-- The intervals of the open holds that a key of interval j resolves: not later, and in its segment. -/
def resolvable (s : State) (n j : Nat) : List Nat :=
  ((s.v2.filter (fun x => x.openHold && x.chain == n && decide (x.interval ≤ j) && x.interval / 65536 == j / 65536)).map
    (·.interval)).eraseDups

/-- Tag checks of Bindweed wait for an open slice: a passing key can resolve a hold, and the pool has a slot for its MAC
key (R197, Table 6.9). -/
def tagWaits (s : State) : Bool :=
  s.bw.resolve.any (fun e => (s.ver e.1).isSome && !(resolvable s e.1 e.2.1).isEmpty) && (freePool s).isSome

/-- A direction has tag blocks that wait. They are P class, and of frames that entered before any that waits now (R55). -/
def tagsFirst (s : State) (d : Dir) : Bool := decide (d = .ingress) && tagWaits s

/-- The frame numbered f of rank r may enter its slice: none that waits in its direction comes before it, by rank and then
by age, and C- and B-class work is not withheld. -/
def mayEnter (s : State) (d : Dir) (r f : Nat) : Bool :=
  (turnsOf s d).all (fun t => decide (r < t.1) || (t.1 == r && decide (f ≤ t.2))) && (r == 0 || !withheldNow s d) &&
    !tagsFirst s d

/-- The record numbered r of a direction, which is B class (R56), may go on: no frame of a higher class waits there, and no
frame of B class that came before it. -/
def recordMayRun (s : State) (d : Dir) (r : Nat) : Bool :=
  (turnsOf s d).all (fun t => t.1 == 2 && decide (r < t.2)) && !withheldNow s d && !tagsFirst s d

/-- The slots that a frame with p payload bytes takes in a slice (Table 2.4). -/
def frameSlots (p : Nat) : Nat := ceilDiv p 16 + 2

/-- A C-class frame's slots count against its stream's rate (R55). -/
def State.useSlots (s : State) (h : Nat) (op : Bool) (n : Nat) : State :=
  let a := s.aux_ h
  if !(s.stream h).classC then s
  else s.setAux h (if op then { a with usedOpen := a.usedOpen + n } else { a with usedSeal := a.usedSeal + n })

/-! ### Rest level (R445, R448) -/

def armedStreams (s : State) (p : Context → Bool) : Nat :=
  (s.streams.filter (fun e => e.2.armed && p e.2)).length

def anyArmed (s : State) (p : Context → Bool) : Bool := s.streams.any (fun e => e.2.armed && p e.2)

/-- The blocks held: seal slices, open slices, Keccak cores (R445). -/
def sealHeld (s : State) : Bool := anyArmed s (fun c => c.classP && c.seals)
def openHeld (s : State) : Bool := anyArmed s (fun c => (c.classP && c.opens) || c.echo)
def chainsExist (s : State) : Bool := !s.pubs.isEmpty || !s.vers.isEmpty
def keccakHeld (s : State) : Bool := chainsExist s || keyBegun s

/-- B: the smallest budget (R448). -/
def smallestBudget (s : State) : Nat :=
  (List.range 16).foldl (fun b d => min b (Table.get 0xFFFFFFFF d s.power.domainBudget).toNat) s.power.engineBudget.toNat

def restLevelOf (s : State) : Nat :=
  let b := smallestBudget s
  let l := if b < 50 then 0 else if b < 4000 then 1 else 2
  if s.mode == .commission || s.mode == .service || s.mode == .drill then
    (if anyArmed s Context.classP then min 1 l else l)
  else 0

/-- The rest level is recomputed; a change posts event 499 (R450). A shallower level, or a hold, finds its blocks
awake (R449). -/
def State.updateRest (s : State) : State :=
  let l := restLevelOf s
  let awake (u : Nat) (held : Bool) (x : State) : State :=
    if held || decide (l < Table.get 0 u x.power.rest) then
      { x with power := { x.power with rest := Table.put 0 u 0 x.power.rest } } else x
  let s1 := (List.range 12).foldl (fun x u =>
    awake u (if u < 3 then sealHeld x else if u < 6 then openHeld x else if u < 10 then false else keccakHeld x) x) s
  if l = s.power.level then s1 else ({ s1 with power := { s1.power with level := l } }).post 499

/-! ### Tick quality (Table 2.2) -/

/-- A new quality posts the quality-change event on every enabled domain (R48, R75). -/
def State.setQuality (s : State) (q : Nat) : State :=
  if s.ticks.quality = q then s
  else ({ s with ticks := { s.ticks with quality := q } }).posts ((enabledDoms s).map (fun k => 411 + 6 * k))

/-- The reading of the time bus now, in nanoseconds: since it was sampled the bus has run with the model's clock. -/
def busNow (s : State) : Nat := s.ticks.seconds.toNat * 10 ^ 9 + s.ticks.nanos.toNat + (s.now - s.ticks.busAt)

/-- The reading as T, in nanoseconds since the origin (R44). -/
def busTime (s : State) : Int := (busNow s : Int) - s.tcfg.origin.toNat * 10 ^ 9

/-- The time bus and its flags as sampled; the valid flag is event source 496 (Table 16.3). -/
def State.sampleBus (s : State) (seconds : BitVec 48) (nanos : BitVec 32) (valid hold : Bool) : State :=
  ({ s with ticks := { s.ticks with
    seconds := seconds, nanos := nanos, busAt := s.now, valid := valid, hold := hold } }).setLevel 496 valid

/-- The quality that flags and offset give. -/
def qualityOf (s : State) : Nat :=
  let off := keeperTime s - busTime s
  let near := decide (-1000000 ≤ off) && decide (off ≤ 1000000)
  if !s.ticks.running || !s.ticks.aligned || decide (keeperTime s < 0) then 3
  else if s.ticks.valid then (if near then 0 else 3)
  else if s.ticks.hold then (if near then 1 else 3)
  else 2

/-- The tick keeper is set to the time bus (R50): the quality-change event is posted on every enabled domain. -/
def State.align (s : State) : State :=
  let t := busTime s
  let s1 : State := { s with ticks := { s.ticks with
    keeper := t - s.now, running := true, aligned := true, jump := true } }
  let q := qualityOf s1
  ({ s1 with ticks := { s1.ticks with quality := q } }).posts ((enabledDoms s).map (fun k => 411 + 6 * k))

/-- TIME_ALIGN (R50): when valid or holdover time first appears after an Assay, the keeper is set directly. The plan
runs from the end of Assay step 11 (R53); valid time that shows earlier is aligned there. -/
def execTimeAlign (seconds : BitVec 48) (nanos : BitVec 32) (valid hold : Bool) (s : State) : Out :=
  let s1 := s.sampleBus seconds nanos valid hold
  if (valid || hold) && s1.ticks.running && !s1.ticks.aligned then .next s1.align else .next s1

/-- QUALITY_CHANGE (R48): the flags or the offset change and with them the quality. No alignment follows (R51). -/
def execQualityChange (seconds : BitVec 48) (nanos : BitVec 32) (valid hold : Bool) (s : State) : Out :=
  let s1 := s.sampleBus seconds nanos valid hold
  .next (s1.setQuality (qualityOf s1))

/-- PPS_EDGE (R48, Table 16.3): the reading is latched and event 497 posted. -/
def execPpsEdge (seconds : BitVec 48) (nanos : BitVec 32) (s : State) : Out :=
  .next (({ s with ticks := { s.ticks with ppsSeconds := seconds, ppsNanos := nanos } }).post 497)

/-! ### Overrun (R70, R71) -/

/-- OVERRUN (R70): flagged in a direction; its counter advances, the event is posted on the plan domain, and C and B
work is withheld there until the P-class frames that are in the block now have entered their slices. -/
def execOverrun (d : Dir) (s : State) : Out :=
  let o := s.ovr
  let o1 : OverrunState := { o with
    flagged := if o.flagged.contains d then o.flagged else d :: o.flagged
    withheld := (d, s.nextFrame) :: o.withheld.filter (fun e => e.1 != d)
    cntE := if d = .egress then o.cntE + 1 else o.cntE
    cntI := if d = .ingress then o.cntI + 1 else o.cntI
    cntK := if d = .keccak then o.cntK + 1 else o.cntK }
  .next (({ s with ovr := o1 }).post (414 + 6 * planDom s))

/-- The end of a plan period for the overrun runs: a period with an overrun lengthens the run and ends the calm. R71 names
one overloaded direction and several may have overrun: DESIGN CHOICE, log 42: the one flagged last in the last period with
an overrun before the condition is set. -/
def OverrunState.endPeriod (o : OverrunState) : OverrunState :=
  match o.flagged with
  | [] => { o with run := 0, calm := o.calm + 1 }
  | d :: _ => { o with run := min 255 (o.run + 1), calm := 0, flagged := [], overloadDir := if o.overload then o.overloadDir else d }

/-- PLAN_OVERLOAD_SET (R71): eight consecutive plan periods with an overrun set the condition and post it. -/
def execPlanOverloadSet (s : State) : Out :=
  if decide (8 ≤ s.ovr.run) && !s.ovr.overload then
    .next (({ s with ovr := { s.ovr with overload := true } }).post (414 + 6 * planDom s))
  else .next s

/-- PLAN_OVERLOAD_CLEAR (R71): it clears after 96 consecutive plan periods without an overrun. -/
def execPlanOverloadClear (s : State) : Out :=
  if decide (96 ≤ s.ovr.calm) && s.ovr.overload then
    .next { s with ovr := { s.ovr with overload := false } }
  else .next s

end Sys2Proof.Machine
end

