-- ==== Sys2Proof/Machine/Image.lean ====
section
/-!
DEFINITION. The Kynik image (14_modes_and_startup.md, "The Kynik image"): its header and records, the checks of
Table 14.7 in the order of their codes, the conditions of Table 14.10 under which IMAGE_ACTIVATE is refused, and the
ports and pairs as an image configures them.
-/

namespace Sys2Proof.Machine

/-! ### Pairs (R301) -/

/-- Port A of the pair that the k-th pair byte describes: eight pairs of neighbours, then 0 with 4 and 8 with 12. -/
def pairPorts (k : Nat) : Nat × Nat :=
  if k < 8 then (2 * k, 2 * k + 1) else if k = 8 then (0, 4) else (8, 12)

def pairModes (img : ImgCfg) : List Nat := img.pairs ++ img.crossPairs

/-- The pair that holds port p: port A, port B, and the mode (1 PRP, 2 HSR). -/
def pairOf (img : ImgCfg) (p : Nat) : Option (Nat × Nat × Nat) :=
  ((List.range 10).find? (fun k => decide ((pairModes img).getD k 0 ≠ 0) &&
      ((pairPorts k).1 == p || (pairPorts k).2 == p))).map
    (fun k => ((pairPorts k).1, (pairPorts k).2, (pairModes img).getD k 0))

/-- Port A of the port's pair, or the port itself (R301, R315). -/
def portA (img : ImgCfg) (p : Nat) : Nat := ((pairOf img p).map (·.1)).getD p

/-- The ports of the pair, or the port alone. -/
def portGroup (img : ImgCfg) (p : Nat) : List Nat :=
  match pairOf img p with
  | some (a, b, _) => [a, b]
  | none => [p]

/-- The station address under which a port sends and answers: port A's on a pair (R301). -/
def stationOf (img : ImgCfg) (p : Nat) : BitVec 48 := (portCfg img (portA img p)).station

/-! ### Header (Table 14.6) -/

def imgBodyLen (b : List Byte) : Nat := beAt 12 4 b
def imgVersion (b : List Byte) : BitVec 32 := BitVec.ofNat 32 (beAt 8 4 b)
/-- The length that the header declares: header, body, public key, signature (R420). -/
def imgLen (b : List Byte) : Nat := 7283 + imgBodyLen b
def imgKey (b : List Byte) : List Byte := slice (64 + imgBodyLen b) 2592 b
def imgSig (b : List Byte) : List Byte := slice (2656 + imgBodyLen b) 4627 b

/-- The slot holds a complete image (R419); a header that declares more than a slot can hold is judged as it stands. -/
def imgComplete (b : List Byte) : Bool :=
  decide (64 ≤ b.length) && (decide (imgLen b ≤ b.length) || decide (65536 < imgLen b))

def imgContainerOk (b : List Byte) : Bool :=
  beAt 0 4 b == 0x4B594E4B && beAt 4 1 b == 1 && beAt 5 1 b == 0 && beAt 6 2 b == 0x40 && beAt 18 1 b == 1 &&
    (slice 22 42 b).all (· == 0) && decide (imgLen b ≤ 65536)

def imgTargetOk (b : List Byte) : Bool := beAt 19 1 b == 0xB1 && decide (beAt 20 2 b ≤ 0x0401)

/-- The message that ML-DSA-87 in its pure form signs: the context string, then header and body (R421). -/
def imgSigned (b : List Byte) : List Byte :=
  [0, 11] ++ ascii "Kynik image" ++ b.take (64 + imgBodyLen b)

/-- SHA-384 over the whole image (R421). -/
def imgDigest (b : List Byte) : BitVec 384 := BitVec.ofNat 384 (bytesToNat (sha384 (b.take (imgLen b))))

/-! ### Records (R425, Tables 14.8 and 14.9) -/

/-- Splits a body into records of type and bytes; none where the lengths do not fill it. -/
def splitRecords : Nat → List Byte → Option (List (Nat × List Byte))
  | 0, b => if b.isEmpty then some [] else none
  | n + 1, b =>
    if b.isEmpty then some []
    else
      let len := beAt 2 2 b
      if decide (b.length < 4) || decide (len < 4) || decide (b.length < len) then none
      else (splitRecords n (b.drop len)).map (fun rs => (beAt 0 2 b, b.take len) :: rs)

/-- The length of Table 14.8 for a record; none for a type that it does not list. -/
def recordLen (t : Nat) (r : List Byte) : Option Nat :=
  match t with
  | 1 => some 16
  | 2 => some 32
  | 3 => some 200
  | 4 => some 14
  | 5 => some 40
  | 6 => some 12
  | 7 => some 68
  | 8 => some 68
  | 9 => some 94
  | 10 => some 388
  | 11 => some 24
  | _ => if 0x100 ≤ t ∧ t ≤ 0x110 then some (8 + 18 * beAt 4 2 r) else none

/-- The first type that does not stand above the one before it. -/
def outOfOrder : List Nat → Option Nat
  | [] => none
  | [_] => none
  | a :: b :: l => if b ≤ a then some b else outOfOrder (b :: l)

/-- The first record whose type or length Table 14.8 does not give. -/
def badRecord (rs : List (Nat × List Byte)) : Option Nat :=
  (rs.find? (fun r => recordLen r.1 r.2 != some r.2.length)).map (·.1)

/-- The record of a type, empty where the image has none. -/
def recordOf (t : Nat) (rs : List (Nat × List Byte)) : List Byte :=
  ((rs.find? (fun r => r.1 == t)).map (·.2)).getD []

def hasRecord (t : Nat) (rs : List (Nat × List Byte)) : Bool := rs.any (fun r => r.1 == t)

/-- R425 is broken: none, or the type of the record concerned (0 where none is). -/
def recordsBad (count : Nat) (body : List Byte) : Option Nat :=
  match splitRecords body.length body with
  | none => some 0
  | some rs =>
    match badRecord rs with
    | some t => some t
    | none =>
      match outOfOrder (rs.map (·.1)) with
      | some t => some t
      | none => if rs.length != count || !([1, 2, 3, 7, 8].all (fun t => hasRecord t rs)) then some 0 else none

def imgWord (off : Nat) (r : List Byte) : Word := BitVec.ofNat 48 (beAt off 6 r)

def parseTicks (r : List Byte) : TickCfg where
  origin := imgWord 4 r
  enable := BitVec.ofNat 4 (beAt 10 1 r)
  protShare := beAt 11 1 r
  ctrlShare := beAt 12 1 r
  keccakShare := beAt 13 1 r
  lease := beAt 14 2 r
  freq := (List.range 4).map (fun k => beAt (16 + 4 * k) 4 r)

def parsePort (r : List Byte) (n : Nat) : PortCfg :=
  let fl := BitVec.ofNat 8 (beAt (8 + 12 * n) 1 r)
  { enable := bit fl 0
    autoneg := bit fl 1
    allUnicast := bit fl 2
    fec := fld fl 3 2
    station := imgWord (10 + 12 * n) r
    maxLen := beAt (16 + 12 * n) 2 r
    holdMs := beAt (18 + 12 * n) 2 r }

def parseGate (r : List Byte) : List (Word × Word × Word) :=
  (List.range (beAt 4 2 r)).map (fun k => (imgWord (8 + 18 * k) r, imgWord (14 + 18 * k) r, imgWord (20 + 18 * k) r))

/-- The configuration that the records hold, with the defaults of Table 14.8 where a record is absent. -/
def parseImage (rs : List (Nat × List Byte)) : ImgCfg :=
  let eng := recordOf 1 rs
  let prt := recordOf 3 rs
  let pr := recordOf 4 rs
  let clr := recordOf 5 rs
  let ntc := recordOf 6 rs
  let mid := recordOf 9 rs
  let reg := recordOf 10 rs
  let bw := recordOf 11 rs
  let n := hasRecord 6 rs
  { startMode := BitVec.ofNat 8 (beAt 4 1 eng)
    debug := BitVec.ofNat 8 (beAt 5 1 eng)
    degradedLimit := beAt 6 2 eng
    degradedRefuse := beAt 8 1 eng == 1
    unmatched := BitVec.ofNat 8 (beAt 9 1 eng)
    catchAll := BitVec.ofNat 16 (beAt 10 2 eng)
    digestFirst := beAt 12 2 eng
    digestCount := beAt 14 2 eng
    ticks := parseTicks (recordOf 2 rs)
    quads := (List.range 4).map (fun q => beAt (4 + q) 1 prt)
    ports := (List.range 16).map (parsePort prt)
    pairs := (List.range 8).map (fun k => beAt (4 + k) 1 pr)
    crossPairs := [beAt 12 1 pr, beAt 13 1 pr]
    clearPorts := BitVec.ofNat 16 (beAt 4 2 clr)
    clearTypes := (List.range (beAt 6 1 clr)).map (fun k => BitVec.ofNat 16 (beAt (8 + 2 * k) 2 clr))
    noticeMask := if n then BitVec.ofNat 16 (beAt 4 2 ntc) else ImgCfg.none.noticeMask
    noticeMs := if n then beAt 6 2 ntc else ImgCfg.none.noticeMs
    noticeRate := if n then beAt 8 2 ntc else ImgCfg.none.noticeRate
    ringBlocks := (List.range 64).map (fun b => beAt (4 + b) 1 (recordOf 7 rs))
    slotBlocks := (List.range 64).map (fun b => beAt (4 + b) 1 (recordOf 8 rs))
    memIds := (List.range 15).map (fun i => imgWord (4 + 6 * i) mid)
    regions := (List.range 32).map (fun i => (imgWord (4 + 12 * i) reg, imgWord (10 + 12 * i) reg))
    bwId := beAt 4 1 bw
    bwHoldN := beAt 5 1 bw
    bwPebble := imgWord 6 bw
    bwVer := imgWord 12 bw
    bwHold := imgWord 18 bw
    gates := (List.range 17).map (fun g => parseGate (recordOf (0x100 + g) rs)) }

/-! ### Field checks (cause 0x08) -/

def inRange (lo hi v : Nat) : Bool := decide (lo ≤ v) && decide (v ≤ hi)

def engineOk (r : List Byte) : Bool :=
  inRange 1 2 (beAt 4 1 r) && decide (beAt 5 1 r < 8) && inRange 1 600 (beAt 6 2 r) && decide (beAt 8 1 r < 2) &&
    decide (beAt 9 1 r < 2) && decide (beAt 10 2 r < 0x8000) && (beAt 9 1 r == 1 || beAt 10 2 r == 0) &&
    decide (beAt 14 2 r ≤ 256)

def ticksOk (r : List Byte) : Bool :=
  let t := parseTicks r
  inRange 1 15 (beAt 10 1 r) && inRange 20 70 t.protShare && inRange 5 20 t.ctrlShare &&
    inRange 50 90 t.keccakShare &&
    (List.range 4).all (fun k => if bit t.enable k then inRange 50 96000 (t.freq.getD k 0) else t.freq.getD k 0 == 0)

def portsFieldOk (r : List Byte) : Bool :=
  (List.range 4).all (fun q => decide (beAt (4 + q) 1 r ≤ 4)) &&
  (List.range 16).all (fun n =>
    let p := parsePort r n
    decide (beAt (8 + 12 * n) 1 r < 32) && decide (p.fec ≤ 2) && beAt (9 + 12 * n) 1 r == 0 &&
      inRange 1522 9216 p.maxLen && decide (p.holdMs ≤ 1000))

def pairsOk (r : List Byte) : Bool := (slice 4 10 r).all (fun b => decide (b.toNat ≤ 2))

/-- EtherTypes that R101 forbids in the clear policy. -/
def forbiddenClear (t : Nat) : Bool := t == 0x88E5 || t == 0x88F7 || t == 0x88B5 || t == 0x88B6

def clearOk (r : List Byte) : Bool :=
  let c := beAt 6 1 r
  decide (c ≤ 16) && beAt 7 1 r == 0 &&
    (List.range 16).all (fun k =>
      let t := beAt (8 + 2 * k) 2 r
      if k < c then !forbiddenClear t else t == 0)

def noticeOk (r : List Byte) : Bool :=
  decide (beAt 4 2 r < 1024) && inRange 10 60000 (beAt 6 2 r) && inRange 1 1000 (beAt 8 2 r) && beAt 10 2 r == 0

def blocksOk (r : List Byte) : Bool := (slice 4 64 r).all (fun b => decide (b.toNat < 16) || b == 0xFF)

/-- Table 9.1: reserved bit and size code, and a base and size of zero on an encrypt-only identifier. -/
def idFieldOk (w : Word) : Bool :=
  !bit w 0 && decide (fld w 8 4 ≤ 12) && (!idValid w || idProtected w || fld w 8 40 == 0)

/-- Table 9.2: reserved bits, an identifier 1 to 15, and a space offset of zero where it has no meaning. -/
def regionFieldOk (ids : List Word) (r : Word × Word) : Bool :=
  fld r.1 0 7 == 0 && (!regValid r || (decide (1 ≤ regIdent r) &&
    (idProtected (ids.getD (regIdent r - 1) 0) || regOffset r == 0)))

def bindweedOk (r : List Byte) : Bool :=
  decide (beAt 4 1 r < 16) && inRange 10 20 (beAt 5 1 r) &&
    [6, 12, 18].all (fun o => beAt o 6 r % 4096 == 0)

def recordFieldOk (img : ImgCfg) (t : Nat) (r : List Byte) : Bool :=
  match t with
  | 1 => engineOk r
  | 2 => ticksOk r
  | 3 => portsFieldOk r
  | 4 => pairsOk r
  | 5 => clearOk r
  | 6 => noticeOk r
  | 7 => blocksOk r
  | 8 => blocksOk r
  | 9 => img.memIds.all idFieldOk
  | 10 => img.regions.all (regionFieldOk img.memIds)
  | 11 => bindweedOk r
  | _ => decide (beAt 4 2 r ≤ 32) && beAt 6 2 r == 0

/-! ### The later causes -/

/-- R41. -/
def ticksValid (t : TickCfg) : Bool :=
  let on := ((List.range 4).filter (fun k => bit t.enable k)).map (fun k => t.freq.getD k 0)
  on.length == on.eraseDups.length && decide (t.protShare + t.ctrlShare ≤ 90)

/-- The FEC of a port: as configured in quad mode 0x1, Clause 91 in mode 0x4, coded 2, and none elsewhere (Tables 10.1
and 10.2). -/
def portFec (img : ImgCfg) (p : Nat) : Nat :=
  if quadMode img p = 1 then (portCfg img p).fec else if quadMode img p = 4 then 2 else 0

/-- A port's configuration without the values that its quad's mode gives no meaning (Table 10.2). -/
def portInForce (img : ImgCfg) (p : Nat) : PortCfg :=
  { portCfg img p with fec := portFec img p, autoneg := quadMode img p == 3 && (portCfg img p).autoneg }

/-- A pair is one that R301 allows. -/
def pairValid (img : ImgCfg) (k : Nat) : Bool :=
  let (a, b) := pairPorts k
  let m := quadMode img a
  let pa := portCfg img a
  let pb := portCfg img b
  (if k < 8 then inRange 1 3 m else m == 4 && quadMode img b == 4) &&
    portFec img a == portFec img b && pa.maxLen == pb.maxLen && pa.enable && pb.enable

/-- No port is in two pairs. -/
def pairsDisjoint (img : ImgCfg) : Bool :=
  let used := ((List.range 10).filter (fun k => decide ((pairModes img).getD k 0 ≠ 0))).flatMap
    (fun k => [(pairPorts k).1, (pairPorts k).2])
  used.length == used.eraseDups.length

/-- A station address is individual and not zero (R299). -/
def stationOk (a : BitVec 48) : Bool := a != 0 && !bit a 40

/-- R299 and R301. Port B of a pair has no address of its own (R301). -/
def portsValid (img : ImgCfg) : Bool :=
  let on := (List.range 16).filter (fun p => (portCfg img p).enable)
  let own := on.filter (fun p => portA img p == p)
  let addrs := own.map (fun p => (portCfg img p).station)
  on.all (portExists img) && addrs.all stationOk && addrs.length == addrs.eraseDups.length &&
    ((List.range 10).filter (fun k => decide ((pairModes img).getD k 0 ≠ 0))).all (pairValid img) && pairsDisjoint img

/-- No two of the ranges meet. -/
def noneMeet : List (Nat × Nat) → Bool
  | [] => true
  | a :: l => l.all (fun b => !rangesMeet a.1 a.2 b.1 b.2) && noneMeet l

/-- The protected spaces of the valid protected identifiers. -/
def protectedIds (ids : List Word) : List Nat :=
  (List.range 15).filter (fun i => let w := ids.getD i 0; idValid w && idProtected w)

/-- The metadata areas of the protected identifiers. -/
def metaAreas (ids : List Word) : List (Nat × Nat) :=
  (protectedIds ids).map (fun i => (idMeta (ids.getD i 0), metaBytes (idZ (ids.getD i 0))))

/-- The checks of R266 that concern the identifiers alone. -/
def idsValid (img : ImgCfg) : Bool :=
  noneMeet (metaAreas img.memIds) &&
    decide (((protectedIds img.memIds).map (fun i => 2 ^ idZ (img.memIds.getD i 0))).foldl (· + ·) 0 ≤ 2 ^ 36) &&
    img.memIds.all (fun w => !idValid w || !idDomainValid w || (allocatedDomains img).contains (idDomain w))

/-- R266. -/
def memoryValid (img : ImgCfg) : Bool :=
  let ids := img.memIds
  let regs := img.regions.filter regValid
  let phys := regs.map (fun r => (regBase r, regBytes r))
  let inSpace (i : Nat) := (regs.filter (fun r => regIdent r == i + 1)).map
    (fun r => (regOffset r * 4096, regBytes r))
  idsValid img && noneMeet (phys ++ metaAreas ids) &&
    regs.all (fun r => idValid (ids.getD (regIdent r - 1) 0)) &&
    (protectedIds ids).all (fun i =>
      (inSpace i).all (fun a => decide (a.1 + a.2 ≤ 2 ^ idZ (ids.getD i 0))) && noneMeet (inSpace i))

/-- The Bindweed areas of an image: base and size (R426). -/
def bindweedAreas (img : ImgCfg) : List (Nat × Nat) :=
  [(img.bwPebble.toNat, 2 ^ 24), (img.bwVer.toNat, 3 * 2 ^ 19), (img.bwHold.toNat, 2 ^ (img.bwHoldN + 6))]

/-- R426. -/
def bindweedValid (img : ImgCfg) : Bool :=
  decide (1 ≤ img.bwId) && (let w := img.memIds.getD (img.bwId - 1) 0; idValid w && idProtected w) &&
    (bindweedAreas img).all (fun a => img.regions.any (fun r => regValid r && regIdent r == img.bwId &&
      decide (regBase r ≤ a.1) && decide (a.1 + a.2 ≤ regBase r + regBytes r))) &&
    noneMeet (bindweedAreas img)

/-- A rule list as a rule table. -/
def ruleTable (rs : List (Word × Word × Word)) : Table (Word × Word × Word) :=
  ((List.range rs.length).zip rs).filter (fun e => decide (e.2 ≠ (0, 0, 0)))

/-- The first gate whose rule set fails R353. -/
def badGate (img : ImgCfg) : Option Nat :=
  let areas := guardedAreas img.memIds img.bwId img.bwHoldN img.bwPebble img.bwVer img.bwHold
  (List.range 17).find? (fun g => (firstBadRule g img.memIds areas (ruleTable (img.gates.getD g []))).isSome)

/-- The outcome of verifying a slot: a failing check with its record type, or the configuration. -/
inductive ImgResult where
  | bad (cause type : Nat)
  | good (img : ImgCfg)
  deriving DecidableEq, Repr

/-- Checks 0x07 to 0x0D over the records. -/
def verifyRecords (count : Nat) (body : List Byte) : ImgResult :=
  match recordsBad count body with
  | some t => .bad 0x07 t
  | none =>
    let rs := (splitRecords body.length body).getD []
    let img := parseImage rs
    match rs.find? (fun r => !recordFieldOk img r.1 r.2) with
    | some r => .bad 0x08 r.1
    | none =>
      if !ticksValid img.ticks then .bad 0x09 2
      else if !portsValid img then
        .bad 0x0A (if (pairModes img).any (· != 0) && portsValid { img with pairs := [], crossPairs := [] } then 4 else 3)
      else if !memoryValid img then .bad 0x0B (if idsValid img then 10 else 9)
      else
        match badGate img with
        | some g => .bad 0x0C (0x100 + g)
        | none => if hasRecord 11 rs && !bindweedValid img then .bad 0x0D 11 else .good img

/-- R421: the checks of Table 14.7 in the order of their codes. -/
def verifyImage (fuses : Fuses) (b : List Byte) : ImgResult :=
  if !imgComplete b then .bad 0x01 0
  else if !imgContainerOk b then .bad 0x02 0
  else if !imgTargetOk b then .bad 0x03 0
  else if fuses.ownerDigest = 0 || BitVec.ofNat 384 (bytesToNat (sha384 (imgKey b))) != fuses.ownerDigest then
    .bad 0x04 0
  else if (imgVersion b).toNat < fuses.rollbackFloor.toNat then .bad 0x05 0
  else if !Config.mlDsaVerify (imgKey b) (imgSigned b) (imgSig b) then .bad 0x06 0
  else verifyRecords (beAt 16 2 b) (slice 64 (imgBodyLen b) b)

/-- The bytes of an image slot. -/
def NvStore.slotOf (n : NvStore) (slotB : Bool) : ImgSlot := if slotB then n.slotB else n.slotA

def NvStore.setSlot (n : NvStore) (slotB : Bool) (v : ImgSlot) : NvStore :=
  if slotB then { n with slotB := v } else { n with slotA := v }

/-! ### Conditions of activation (Table 14.10, R42, R300) -/

/-- The port's configuration differs between two images (R300). -/
def portChanged (a b : ImgCfg) (p : Nat) : Bool :=
  quadMode a p != quadMode b p || portInForce a p != portInForce b p || pairOf a p != pairOf b p

/-- A change that R300 refuses while an Armed stream names the port: quad mode, pair mode, enable or FEC. -/
def portChangedHard (a b : ImgCfg) (p : Nat) : Bool :=
  quadMode a p != quadMode b p || pairOf a p != pairOf b p || (portCfg a p).enable != (portCfg b p).enable ||
    portFec a p != portFec b p

/-- A block that changes its owner. -/
def blocksChanged (a b : List Nat) : List Nat :=
  (List.range 64).filter (fun k => a.getD k 255 != b.getD k 255)

/-- IMAGE_ACTIVATE answers ERR_STATE at acceptance. -/
def activationBlocked (s : State) (img : ImgCfg) : Bool :=
  (s.img.ticks != img.ticks && anyArmed s (fun _ => true)) ||
  (List.range 16).any (fun p => portChangedHard s.img img p && anyArmed s (fun c => bit c.w1 (32 + p))) ||
  s.streams.any (fun e => e.2.isClear &&
    (fld e.2.w1 32 16 &&& (0xFFFF - img.clearPorts.toNat) != 0 || !img.clearTypes.contains (BitVec.ofNat 16 e.2.etherType))) ||
  (blocksChanged s.img.ringBlocks img.ringBlocks).any (fun k => s.streams.any (fun e => e.1 / 512 == k)) ||
  (blocksChanged s.img.slotBlocks img.slotBlocks).any (fun k => s.slots.any (fun e => e.1 / 1024 == k)) ||
  ((s.img.bwId, s.img.bwHoldN, s.img.bwPebble, s.img.bwVer, s.img.bwHold) !=
      (img.bwId, img.bwHoldN, img.bwPebble, img.bwVer, img.bwHold) && chainsExist s)

/-- The image becomes active: its records apply as Table 14.10 states, but for the ports, whose resets the boundary
makes; every gate takes its rule set and is online (R355); the BMR is extended and the activation counted (R427). -/
def State.activateImage (s : State) (slotB : Bool) (img : ImgCfg) : State :=
  let b := (s.nv.slotOf slotB).bytes
  let d := imgDigest b
  { s with
    img := img
    active := some ⟨slotB, d, imgVersion b⟩
    nv := { s.nv with marker := some slotB }
    bmr := Config.bmrExtend s.bmr d
    out := { s.out with extend := some d }
    ladder := { s.ladder with activations := satAdd s.ladder.activations 1 }
    gates := (List.range 17).foldl (fun t g =>
      Table.put .zero g { Table.get .zero g t with rules := ruleTable (img.gates.getD g []), online := true } t) s.gates }

end Sys2Proof.Machine
end

