-- ==== Sys2Proof/Machine/Wire.lean ====
section
/-!
DEFINITION. Wire formats (05_wire_formats.md) and the cryptography of 04_sealing_and_opening.md: addresses, VLAN tags,
SecTAG and security extension, initialisation vectors, sealing and opening of the protected part, redundancy framing,
lengths, and the Bindweed chain arithmetic and trailer of 06_bindweed.md.
-/

namespace Sys2Proof.Machine

/-! ### Addresses and the 802.1Q tag (R92, R93, R149) -/

/-- A single 802.1Q tag follows the source address. -/
def vlanTagged (bs : List Byte) : Bool := beAt 12 2 bs == 0x8100

def tagLen (bs : List Byte) : Nat := if vlanTagged bs then 4 else 0

def etherTypeOf (bs : List Byte) : Nat := beAt (12 + tagLen bs) 2 bs

/-- The VID; a frame with VID 0 counts as untagged (R93). -/
def vidOf (bs : List Byte) : Nat := if vlanTagged bs then beAt 14 2 bs % 4096 else 0

def daOf (bs : List Byte) : BitVec 48 := BitVec.ofNat 48 (beAt 0 6 bs)
def saOf (bs : List Byte) : BitVec 48 := BitVec.ofNat 48 (beAt 6 6 bs)
def isGroup (a : BitVec 48) : Bool := bit a 40

/-- The frame meets the stream's VLAN mode (Table 3.4); one with VID 0 counts as untagged (R93). -/
def vlanMeets (c : Context) (vid : Nat) : Bool :=
  c.vlanMode == 0 || (c.vlanMode == 1 && vid == 0) || (c.vlanMode == 2 && vid == c.vid && decide (vid ≠ 0))

/-- Length under R3: from the destination address to the last byte of the FCS. -/
def wireLen (bs : List Byte) : Nat := bs.length + 4

/-! ### Lengths of headers and frames -/

/-- The header that a supplied frame must hold (R116). -/
def suppliedHeader (c : Context) (bs : List Byte) : Nat := 14 + tagLen bs + (if c.isGsv then 8 else 0)

/-- Bytes of the tag or ICV. -/
def icvLen (c : Context) : Nat := if c.suite = 5 then 32 else 16

/-- The payload p of R57 in a supplied frame of a given length with a trailer of a given length. -/
def payloadOf (c : Context) (bs : List Byte) (len trailer : Nat) : Nat :=
  if c.isGsv then len - 22 - tagLen bs + trailer else len - 12 - tagLen bs

/-- Six bytes of PRP trailer or HSR tag on a redundant pair (R304). -/
def redundancyLen (img : ImgCfg) (ports : Nat) : Nat :=
  if (List.range 16).any (fun p => ports.testBit p && (pairOf img p).isSome) then 6 else 0

/-- The bytes of a sealed frame without FCS and without PRP trailer or HSR tag. -/
def sealedBody (c : Context) (len trailer : Nat) : Nat :=
  if c.isMacsec then len + 32 else if c.isGsv then len + 16 + trailer + icvLen c else len

/-- The sealed length with FCS (R117, R304). -/
def sealedLen (img : ImgCfg) (c : Context) (len trailer : Nat) : Nat :=
  sealedBody c len trailer + redundancyLen img c.portMask + 4

/-! ### Initialisation vectors (Table 4.3) -/

def gcmIv1 (sci pn : Nat) : List Byte := natToBytes 8 sci ++ natToBytes 4 pn
def gcmIv2 (ssci pn salt : Nat) : List Byte :=
  natToBytes 12 ((ssci * 2 ^ 64 + pn % 2 ^ 64) ^^^ salt)
def gsvIv (keyId ctr : Nat) : List Byte := natToBytes 4 keyId ++ [0, 0] ++ natToBytes 6 ctr

def macsecIv (suite sci ssci salt pn : Nat) : List Byte :=
  if suite = 2 then gcmIv2 ssci pn salt else gcmIv1 sci pn

/-! ### MACsec (R110, R146, R147) -/

def confBytes (c : Context) : Nat := match c.confOffset with
  | 1 => 30
  | 2 => 50
  | _ => 0

/-- The SecTAG that Quecy writes: SC = 1, E = C = 1 (R147). -/
def secTag (an pn sci udLen : Nat) : List Byte :=
  [0x88, 0xE5, BitVec.ofNat 8 (0x2C + an), BitVec.ofNat 8 (if udLen < 48 then udLen else 0)] ++
    natToBytes 4 pn ++ natToBytes 8 sci

/-- Encrypts and tags user data. `addr` is DA and SA. -/
def macsecSeal (key : Key) (iv : List Byte) (co : Nat) (addr tag ud : List Byte) : List Byte :=
  let ct := gcmCrypt key iv (ud.drop co)
  ud.take co ++ ct ++ gcmTag key iv (addr ++ tag ++ ud.take co) ct

/-- Checks and decrypts user data; with E = C = 0 it is authenticated only (R111). -/
def macsecOpen (key : Key) (iv : List Byte) (co : Nat) (enc : Bool) (addr tag ud icv : List Byte) : Bool × List Byte :=
  if enc then
    (gcmTag key iv (addr ++ tag ++ ud.take co) (ud.drop co) == icv, ud.take co ++ gcmCrypt key iv (ud.drop co))
  else (gcmTag key iv (addr ++ tag ++ ud) [] == icv, ud)

/-- A supplied frame sealed under MACsec: DA, SA and 802.1Q tag, SecTAG, user data, ICV. -/
def sealMacsec (key : Key) (c : Context) (g : Gen) (sci pn : Nat) (bs : List Byte) : List Byte :=
  let h := 12 + tagLen bs
  let ud := bs.drop h
  let tag := secTag g.an pn sci ud.length
  bs.take h ++ tag ++ macsecSeal key (macsecIv c.suite sci g.ssci g.salt pn) (confBytes c) (bs.take 12) tag ud

/-! ### GOOSE and sampled values (R150 to R154) -/

/-- The security extension header. -/
def gsvExt (c : Context) (bindweed : Bool) (keyId ctr : Nat) : List Byte :=
  [1, BitVec.ofNat 8 c.suite, BitVec.ofNat 8 (icvLen c), BitVec.ofNat 8 (boolNat bindweed)] ++ gsvIv keyId ctr

/-- DA, SA, EtherType, APPID, Length, Reserved 1, Reserved 2 of a supplied frame as sent (R151). -/
def gsvHead (c : Context) (bs : List Byte) (trailer : Nat) : List Byte :=
  let o := 12 + tagLen bs
  let apdu := bs.length - (o + 10)
  bs.take 12 ++ natToBytes 2 c.etherType ++ slice (o + 2) 2 bs ++ natToBytes 2 (24 + apdu + trailer) ++
    natToBytes 2 (Config.gsvMark (BitVec.ofNat 16 (beAt (o + 6) 2 bs)) (icvLen c)).toNat ++ slice (o + 8) 2 bs

/-- The input of the Bindweed frame digest (R154): head, APDU, trailer bytes 0 to 45 and the anchor. -/
def bwInput (head apdu trailer : List Byte) : List Byte :=
  head ++ apdu ++ trailer.take 46 ++ trailer.drop 54

/-- The first 8 bytes of AES-256 under a MAC key of the first 16 bytes of the digest (Table 6.2). -/
def bwTag (mk : Key) (digest : List Byte) : List Byte := (aesBytes mk (digest.take 16)).take 8

/-- A trailer with its frame tag put in place. -/
def putTag (trailer tag : List Byte) : List Byte := trailer.take 46 ++ tag ++ trailer.drop 54

/-- The authenticated-only and the encrypted parts of a GSV frame (Table 4.4). -/
def gsvAad (suite : Nat) (head ext body : List Byte) : List Byte :=
  if suite = 4 then head ++ ext else head ++ ext ++ body
def gsvCipher (suite : Nat) (body : List Byte) : List Byte := if suite = 4 then body else []

/-- Checks and decrypts the body of a GSV frame under suites 3 and 4. -/
def gsvOpen (key : Key) (suite : Nat) (iv head ext body tag : List Byte) : Bool × List Byte :=
  (gcmTag key iv (gsvAad suite head ext body) (gsvCipher suite body) == tag,
   if suite = 4 then gcmCrypt key iv body else body)

/-- A supplied GSV frame as sent, without its tag, and what the digest engine hashes under suite 5. -/
def gsvPlainParts (c : Context) (g : Gen) (pn : Nat) (trailer : List Byte) (mac : Option Key) (bs : List Byte) :
    List Byte × List Byte × List Byte :=
  let o := 12 + tagLen bs
  let head := gsvHead c bs trailer.length
  let apdu := bs.drop (o + 10)
  let t := if trailer.isEmpty then [] else
    match mac with
    | some mk => putTag trailer (bwTag mk (sha3 (bwInput head apdu trailer)))
    | none => trailer
  (head, gsvExt c (!trailer.isEmpty) g.ssci pn, apdu ++ t)

/-- DA, SA, 802.1Q tag and the rest of the head as they stand on the wire. -/
def gsvWireHead (bs head : List Byte) : List Byte := bs.take (12 + tagLen bs) ++ head.drop 12

/-- A supplied frame sealed under suite 3 or 4, or for suite 5 without its tag. -/
def sealGsv (key : Key) (c : Context) (g : Gen) (pn : Nat) (trailer : List Byte) (mac : Option Key) (bs : List Byte) :
    List Byte :=
  let (head, ext, body) := gsvPlainParts c g pn trailer mac bs
  let iv := gsvIv g.ssci pn
  if c.suite = 5 then gsvWireHead bs head ++ ext ++ body
  else
    let ct := if c.suite = 4 then gcmCrypt key iv body else body
    gsvWireHead bs head ++ ext ++ ct ++ gcmTag key iv (gsvAad c.suite head ext ct) (gsvCipher c.suite ct)

/-- What the digest engine hashes for a frame of suite 5 (R115): Table 4.4. -/
def gsvDigestInput (c : Context) (g : Gen) (pn : Nat) (trailer : List Byte) (mac : Option Key) (bs : List Byte) :
    List Byte :=
  let (head, ext, body) := gsvPlainParts c g pn trailer mac bs
  head ++ ext ++ body

/-! ### Redundancy framing on egress (R158, R159, R303) -/

/-- Pads to 64 bytes with FCS. -/
def padMin (bs : List Byte) : List Byte := bs ++ List.replicate (60 - bs.length) 0

/-- The HSR tag after the source address. -/
def hsrTagged (path : BitVec 4) (size : BitVec 12) (seq : BitVec 16) (bs : List Byte) : List Byte :=
  bs.take 12 ++ [0x89, 0x2F] ++ natToBytes 2 (path.toNat * 4096 + size.toNat) ++ natToBytes 2 seq.toNat ++ bs.drop 12

/-- The bytes of a frame on port p, without FCS: padded, and with PRP trailer or HSR tag on a pair where `tagged`. -/
def portWire (img : ImgCfg) (p : Nat) (tagged : Bool) (seq : BitVec 16) (body : List Byte) : List Byte :=
  match pairOf img p with
  | some (a, _, mode) =>
    if !tagged then padMin body
    else if mode = 2 then hsrTagged Config.hsrPath (Config.lsduSize true (padMin body)) seq (padMin body)
    else padMin body ++ natToBytes 2 seq.toNat ++
      natToBytes 2 ((if p = a then 0xA else 0xB) * 4096 + (Config.lsduSize false (padMin body)).toNat) ++ [0x88, 0xFB]
  | none => padMin body

/-! ### Chain arithmetic (R175, R176) -/

/-- One step: the key one position below. `i` is the index of the result. -/
def bwStep (pub i : Nat) (k : List Byte) : List Byte :=
  sha3 (0x42 :: natToBytes 4 pub ++ natToBytes 6 (i % 2 ^ 48) ++ k)

/-- n steps down from the key of interval i. -/
def walkDown (pub : Nat) : Nat → Nat → List Byte → List Byte
  | 0, _, k => k
  | n + 1, i, k => walkDown pub n (i - 1) (bwStep pub (i - 1) k)

def segSeed (seed : Key) (g : Nat) : List Byte := kmac256 (keyBytes seed) (natToBytes 4 g) (ascii "BWSEG")

/-- K(I) of a chain seed (Table 6.2). -/
def chainKey (seed : Key) (pub i : Nat) : List Byte :=
  let top := i / 65536 * 65536 + 65535
  walkDown pub (top - i) top (bwStep pub top (segSeed seed (i / 65536)))

/-- A(g). -/
def chainAnchor (seed : Key) (pub g : Nat) : List Byte :=
  bwStep pub (g * 65536 + (2 ^ 48 - 1)) (chainKey seed pub (g * 65536))

/-- MK(I) from K(I). -/
def macKeyOf (k : List Byte) : Key := keyOfBytes (sha3 (0x4D :: k))

/-- The commitment of a chain that starts at interval N (Table 6.8). -/
def chainCommitment (seed : Key) (pub n : Nat) : List Byte :=
  bwStep pub (n + (2 ^ 48 - 1)) (chainKey seed pub n)

/-- The trailer of Table 5.4 with its frame tag zero. -/
def bwTrailer (flags delay pub interval : Nat) (key anchor : List Byte) : List Byte :=
  [0xB1, BitVec.ofNat 8 (54 + anchor.length), BitVec.ofNat 8 (flags + (if anchor.isEmpty then 0 else 128)),
   BitVec.ofNat 8 delay] ++ natToBytes 4 pub ++ natToBytes 6 interval ++ key ++ List.replicate 8 0 ++ anchor

def zeroKey : List Byte := List.replicate 32 0

end Sys2Proof.Machine
end

