-- ==== Sys2Proof/Machine/Egress.lean ====
section
/-!
DEFINITION. Frames on their way out (04_sealing_and_opening.md, 11_host_rings.md, 10_ports_and_pcs.md): the egress
interface, descriptors, the grounds of refusal in the order of R117, slice entry, supply check, digest, echo, the
start order at the MAC, and completion.
-/

namespace Sys2Proof.Machine

/-! ### Ports of a stream -/

/-- The ports of a mask that are up. -/
def upPorts (s : State) (m : Nat) : Nat :=
  (List.range 16).foldl (fun a p => if m.testBit p && (s.port p).up then a ||| 2 ^ p else a) 0

/-- The lowest port of a mask: port A on a pair. -/
def lowPort (m : Nat) : Nat := ((List.range 16).find? (fun p => m.testBit p)).getD 0

/-- The transmitted SCI (R98). -/
def sciOf (s : State) (c : Context) : Nat := (stationOf s.img (lowPort c.portMask)).toNat * 65536 + c.sciPort

/-- The frame takes part in the pair's redundancy: it carries the pair's sequence number (R159). The frames of R163 and
R160 and clear notices do not, nor do they advance it. R159 does not say whether a notice sealed on a DUPLEX stream of a
PRP pair is a Partner Notice without a trailer or a frame of that stream: DESIGN CHOICE, log 46: a frame of the stream, which
carries the trailer. -/
def redundant (img : ImgCfg) (p : Nat) (x : TxFrame) : Bool :=
  match pairOf img p with
  | none => false
  | some (_, _, m) =>
    match x.kind with
    | .ptp | .hsr => false
    | .notice | .standalone => x.kind == .standalone || m == 2
    | _ => true

/-- Length under R3 of an egress frame as it leaves its ports, padded and with PRP trailer or HSR tag (R303): of the bytes
it sends, or, while it has none, of those that its declared length gives. -/
def TxFrame.r3Length (img : ImgCfg) (x : TxFrame) : Nat :=
  let p := lowPort x.ctx.portMask
  let n := if x.wire.isEmpty && x.kind != .hsr then
      (if x.kind == .stream || x.kind == .sealedNotice then sealedBody x.ctx x.declared x.trailer.length else x.declared)
    else x.wire.length
  if x.kind == .hsr then n + 4 else max 60 n + (if redundant img p x then 6 else 0) + 4

/-! ### Completion -/

/-- The kinds of frame that write a completion: those with a descriptor. -/
def TxFrame.hasDescriptor (x : TxFrame) : Bool :=
  match x.kind with
  | .stream | .clear => true
  | .ptp => x.iface || x.entry.isSome
  | _ => false

/-- The transmit completion of a frame (Table 11.7). -/
def TxFrame.completion (x : TxFrame) (status : Nat) (onePort : Bool) : List Word :=
  let pn := x.count.getD 0
  let bypass := x.kind == .ptp
  txCompletion x.handle status x.trunc onePort x.iface (if bypass then lowPort x.ctx.portMask else 0) x.cookie
    (if bypass then x.stamp.1 else BitVec.ofNat 48 pn)
    (if !bypass && x.ctx.suite == 2 then pn / 2 ^ 48 else 0) (if bypass then x.stamp.2.toNat else 0)

/-- A frame ends with a failure of Table 4.7 that w29 counts: a frame with a descriptor, or a notice sealed on a DUPLEX
stream. -/
def TxFrame.countsFailure (x : TxFrame) (status : Nat) : Bool :=
  (x.hasDescriptor || x.kind == .sealedNotice) && [stShort, stOversize, stKeyFailure, stEcho, stDigest].contains status

/-- Link-down completions (Table 10.4). -/
def State.linkDownCount (s : State) (x : TxFrame) (status : Nat) : State :=
  if status = stLinkDown && x.hasDescriptor then s.bumpPort (lowPort x.ctx.portMask) 30 1 else s

/-- What the end of a frame makes of running words (Table 3.6), for a snapshot that includes the frame (R20). -/
def ended (x : TxFrame) (status : Nat) (c : Context) : Context :=
  let c1 := if x.countsFailure status then c.bumpFailures else c
  if status = stGood && (x.kind == .stream || x.kind == .sealedNotice || x.kind == .clear) then c1.bumpFrames else c1

/-- A frame ends: it leaves the block, its completion is written, its counts advance and its trace record is due. An
interface completion is written only where the status is not GOOD or Report was set (R337). -/
def State.completeTx (s : State) (x : TxFrame) (status : Nat) (onePort : Bool) : State :=
  let h := x.handle
  let c := s.stream h
  let s0 := (s.dropTx x.id).onShots h x.id (ended x status)
  let s1 := if x.traced then s0.traceEnd x.id true
    (traceW0 true (lowPort x.ctx.portMask) x.ctx.cls x.demoted x.slice h) (traceW1 0 (x.r3Length s.img) status) else s0
  let s2 := if x.countsFailure status && !c.free then s1.setStream h (s1.stream h).bumpFailures else s1
  let s3 := if status = stKeyFailure then s2.count 0x30B h c.domain 1 else s2
  let s4 := (if status = stEcho then s3.count 0x308 h c.domain 1 else s3).linkDownCount x status
  let s5 := if status = stGood && (x.kind == .stream || x.kind == .sealedNotice) then
      (s4.setStream h (s4.stream h).bumpFrames).count 0x307 h c.domain 1
    else if status = stGood && x.kind == .clear then s4.setStream h (s4.stream h).bumpFrames
    else s4
  if !x.hasDescriptor || c.free then s5
  else
    let w := x.completion status onePort
    match x.entry with
    | some e => s5.output h e w 0 []
    | none =>
      if status = stGood && !x.report then s5
      else
        match s5.allot h with
        | (some e, s6) => s6.output h e w 0 []
        | (none, _) => s5.loseReport h

/-- The frame is ready at the MAC: it takes its place behind those that became ready before it (R305). -/
def State.readyTx (s : State) (x : TxFrame) : State := { s with tx := s.tx.filter (fun y => y.id != x.id) ++ [x] }

/-! ### The grounds of refusal (R96, R117) -/

/-- The domain in which a Bindweed frame's interval is counted: the interval in force of the publisher's chain. -/
def pubInterval (s : State) (v : Pub) : Nat := tickNow s v.td / v.len

def verInterval (s : State) (v : Ver) : Nat := tickNow s v.td / v.len

/-- N of the chain: the start of the earliest seed that is kept. -/
def Pub.start (v : Pub) : Nat := ((v.seeds.head?).map (·.2.1)).getD 0

/-- The seed of interval i: the last whose start is not later. -/
def Pub.seedOf (v : Pub) (i : Nat) : Option Nat :=
  ((v.seeds.filter (fun e => decide (e.2.1 ≤ i))).getLast?).map (·.1)

/-- What the pass of R184 has made ready for interval x. -/
def pubReady (v : Pub) (x : Nat) : Option KeyReady := v.ready.find? (fun r => r.interval == x)

/-- The anchor that a frame of interval x may carry: in the carry window, once the bank of the next segment has been filled
from the seed in force (R180, R189). -/
def pubAnchor (v : Pub) (x : Nat) : List Byte :=
  if x % 65536 < 61440 then []
  else
    match v.banks.find? (fun b => !b.block && b.first == (x / 65536 + 1) * 65536 && some b.seed == v.seedOf x) with
    | some b => b.anchor
    | none => []

/-- The trailer of a frame that a Bindweed publisher seals in interval x, with its tag zero (R185, R186, R189). `room` is
the payload that remains for the trailer under the declared p. -/
def trailerFor (v : Pub) (x room : Nat) : List Byte :=
  if x < v.start then []
  else
    let a := if 86 ≤ room then pubAnchor v x else []
    match (pubReady v x).bind (·.disclosed) with
    | some k => bwTrailer 0 v.delay v.publisher.toNat x k a
    | none => bwTrailer 32 v.delay v.publisher.toNat x zeroKey a

/-- The trailer of a frame that has been offered. -/
def trailerOf (s : State) (x : TxFrame) : List Byte :=
  let c := x.ctx
  match (if c.isGsvPub && c.bindweed then s.pub c.chain else none) with
  | some v => trailerFor v x.interval (c.payload - payloadOf c x.bytes x.declared 0)
  | none => []

/-- The frame has the header fields on which its checks rest. -/
def headerSeen (x : TxFrame) : Bool := x.ended || decide (18 ≤ x.bytes.length)

/-- The conditions of R96 in their order: the status of the first that fails. -/
def r96 (c : Context) (domainOk : Bool) : Option Nat :=
  if !c.armed then some stNotArmed
  else if !(c.seals || c.isClear || c.isSealRec) then some stWrongType
  else if !domainOk then some stWrongDomain
  else if c.txExhausted then some stExhausted
  else none

/-- The later grounds of R117: header, POLICY, OVERSIZE, LINK_DOWN. -/
def offerGround (s : State) (x : TxFrame) : Option Nat :=
  let c := x.ctx
  let et := etherTypeOf x.bytes
  let mask := c.portMask
  if x.declared < suppliedHeader c x.bytes then some stMalformed
  else if x.kind == .ptp && et != 0x88F7 then some stPolicy
  else if x.kind != .ptp && (c.isClear || c.isGsv) && et != c.etherType then some stPolicy
  else if (portCfg s.img (lowPort mask)).maxLen < (if x.kind == .ptp then x.declared + 4
      else sealedLen s.img c x.declared x.trailer.length) then some stOversize
  else if upPorts s mask = 0 then some stLinkDown
  else none

/-- The frame is classified: counted under codes 0x300 and 0x309, with the length at which it is to leave, and considered
for the trace. -/
def State.classifyTx (s : State) (x : TxFrame) : State :=
  let h := x.handle
  let d := x.ctx.domain
  let n := ({ x with trailer := trailerOf s x }).r3Length s.img
  let (t, s1) := ((s.count 0x300 h d 1).count 0x309 h d n).traceFrame x.id true h d
  s1.setTx { x with traced := t }

/-- The supply falls short: fewer bytes than declared, or a frame that the next header beat or a bad data beat ended
(R116, R319, R320). -/
def TxFrame.supplyShort (x : TxFrame) : Bool := x.short || decide (x.bytes.length < x.declared)

/-- A frame without a slice is ready once all of it is supplied; short and over-long supply as in R116. -/
def State.finishClear (s : State) (x : TxFrame) : State :=
  if !x.ended || !x.judged then s
  else if x.supplyShort then
    s.readyTx { x with
      stage := .ready, wire := x.bytes.take x.declared, short := true, badFcs := true, fail := some stShort }
  else if x.declared < x.bytes.length then
    (s.readyTx { x with stage := .ready, wire := x.bytes.take x.declared, trunc := true }).bumpPort
      (lowPort x.ctx.portMask) 28 1
  else s.readyTx { x with stage := .ready, wire := x.bytes }

/-- The checks of R117 are made once the frame's header is there: the frame is refused before a slice, or classed (R103). A
frame above its stream's declared p is demoted, whatever its class (R117); its demotion is counted at its slice (R67). -/
def State.judgeTx (s : State) (f : Nat) : State :=
  match s.txFrame f with
  | none => s
  | some x =>
    if x.judged || !headerSeen x then s
    else
      let c := x.ctx
      let h := x.handle
      let y := { x with judged := true, trailer := trailerOf s x }
      let s0 := s.setTx y
      match offerGround s0 y with
      | some st => s0.completeTx y st false
      | none =>
        if y.kind == .ptp then s0.finishClear { y with cls := 0 }
        else if c.isClear then
          if c.classC then
            let (beyond, s1) := (s0.onShots h x.id policedClear).policeClear h c false
            let z := { y with cls := if beyond then 2 else 1 }
            (s1.setTx z).finishClear z
          else s0.finishClear { y with cls := 2 }
        else
          let above := decide (c.payload < payloadOf c y.bytes y.declared y.trailer.length)
          s0.setTx { y with demoted := above, cls := if above then 2 else c.cls }

/-! ### The egress interface (R317 to R321) -/

/-- The fields of a transmit descriptor (Table 11.6). -/
def dKind (d0 : Word) : Nat := fld d0 44 4
def dLength (d0 : Word) : Nat := fld d0 29 14
def dBypass (d0 : Word) : Bool := bit d0 28
def dPort (d0 : Word) : Nat := fld d0 24 4
def dReport (d0 : Word) : Bool := bit d0 23
def dHandle (d0 : Word) : Nat := fld d0 0 15

/-- A Transmit descriptor keeps Table 11.6 on ring or interface h. -/
def transmitOk (c : Context) (h : Nat) (d0 : Word) : Bool :=
  dKind d0 == 2 && !bit d0 43 && fld d0 15 8 == 0 && dHandle d0 == h && (dBypass d0 || dPort d0 == 0) &&
    decide ((if c.isGsv then 22 else 14) ≤ dLength d0) && decide (dLength d0 ≤ 9216)

/-- A refusal under R96 counts for the class that offered the frame: domain d, or management for 16 (Table 17.5). -/
def State.offerRefused (s : State) (g : Nat) : State :=
  s.setGate g { s.gate g with offerRefused := (s.gate g).offerRefused + 1 }

/-- The frame that a descriptor opens. A bypass frame goes to the one port it names. -/
def newTx (s : State) (h : Nat) (d0 cookie : Word) (iface : Bool) (entry : Option Nat) : TxFrame :=
  let c := s.stream h
  let bypass := dBypass d0
  let ctx : Context := if bypass then { c with w1 := setFld c.w1 32 16 (2 ^ dPort d0) } else c
  let iv := match (if c.isGsvPub && c.bindweed then s.pub c.chain else none) with
    | some v => pubInterval s v
    | none => 0
  { id := s.nextFrame, kind := if bypass then .ptp else if c.isClear then .clear else .stream, handle := h, ctx := ctx,
    iface := iface, report := dReport d0, entry := entry, cookie := cookie, declared := dLength d0, bytes := [],
    ended := false, short := false, trunc := false, demoted := false, cls := c.cls, stage := .offered, count := none,
    interval := iv, slice := 0, wire := [], plain := [], ports := BitVec.ofNat 16 ctx.portMask, onPorts := 0,
    sent := 0, cut := 0, seqNo := 0, traced := false, badFcs := false, judged := false, trailer := [], mac := none,
    key := .zero, stamp := (0, 0), fail := none }

/-- The interface frame that is open on a handle. -/
def openTx (s : State) (h : Nat) : Option TxFrame := s.tx.find? (fun x => x.iface && !x.ended && x.handle == h)

/-- An open frame ends where it stands: what R116 makes of its supply follows. -/
def State.endOpen (s : State) (h : Nat) : State :=
  match openTx s h with
  | none => s
  | some x =>
    let y := { x with ended := true }
    let s1 := (s.setTx y).judgeTx y.id
    match s1.txFrame y.id with
    | some z => if z.kind == .clear || z.kind == .ptp then s1.finishClear z else s1
    | none => s1

/-- An open frame that the next header beat or a bad data beat ends is a short supply, whatever it holds (R319, R320). -/
def State.endShort (s : State) (h : Nat) : State :=
  match openTx s h with
  | none => s
  | some x => (s.setTx { x with short := true }).endOpen h

/-- What a frame takes of an egress buffer: no more than its declared length, and what it is to send (R116, R321). -/
def TxFrame.held (x : TxFrame) : Nat := max (min x.bytes.length x.declared) x.wire.length

/-- The frame waits in the egress buffer of quad q: it was offered on the interface or from a ring (R321, log 63). -/
def TxFrame.inQuad (x : TxFrame) (q : Nat) : Bool :=
  (x.kind == .stream || x.kind == .clear || x.kind == .ptp) && decide (x.ctx.portMask / 16 ^ q % 16 ≠ 0)

/-- What the egress buffer of quad q holds of frames other than f. -/
def egressUsed (s : State) (q f : Nat) : Nat :=
  s.tx.foldl (fun n y => if y.id != f && y.inQuad q then n + y.held else n) 0

/-- The egress buffers of a frame's ports, 256 KiB for each quad, can hold it as it would then stand (R321). -/
def egressFits (s : State) (x : TxFrame) : Bool :=
  (List.range 4).all (fun q => !x.inQuad q || decide (egressUsed s q x.id + x.held ≤ 262144))

def State.skipHandle (s : State) (h : Nat) : State := { s with egSkip := h :: s.egSkip.filter (· != h) }
def State.unskipHandle (s : State) (h : Nat) : State := { s with egSkip := s.egSkip.filter (· != h) }

/-- A completion for an offer that opens no frame (R320, R96, R334). -/
def State.refuseOffer (s : State) (x : TxFrame) (status : Nat) : State :=
  ({ s with tx := s.tx ++ [x], nextFrame := s.nextFrame + 1 }).completeTx x status false

/-- EGRESS_HEADER_BEAT (R318 to R321, R96): a header beat opens a frame; one with a bad byte count is discarded; one
that fails R96 or Table 11.6 completes at once. A beat that would open a 33rd frame waits, and so does one that the egress
buffer cannot hold. Of a descriptor with a bad container nothing is used (R5): the frame is malformed, whatever else it may
lack. -/
def execEgressHeaderBeat (b : EgressBeat) (s : State) : Out :=
  if !wfHeaderBeat b then .refused .illFormed
  else
    let h := b.handle.toNat
    let c := s.stream h
    let d := b.domain.toNat
    let own := !b.mgmt && c.domain == d
    let bad := b.desc.any badContainer
    let d0 := if bad then 0 else toWord (b.desc.getD 0 0)
    let d2 := if bad then 0 else toWord (b.desc.getD 2 0)
    let s1 := s.endShort h
    let openCount := (s.tx.filter (fun x => x.iface && !x.ended)).length
    if !s.eReady then .next s
    else if 32 < b.bytes.toNat then
      let s2 := if b.last then s1.unskipHandle h else s1.skipHandle h
      let s3 := if b.mgmt then s2 else s2.post (315 + 4 * d)
      .next (if !c.free && own then
        s3.refuseOffer (newTx s3 h d0 d2 true none) stMalformed
        else s3)
    else
      let x0 := newTx s1 h d0 d2 true none
      let s2 := s1.unskipHandle h
      match (if bad then none else r96 c own) with
      | some st => .next ((s2.refuseOffer x0 st).offerRefused (if b.mgmt then 16 else d))
      | none =>
        if bad || !transmitOk c h d0 then .next (s2.refuseOffer x0 stMalformed)
        else if c.isSealRec then .next (s2.refuseOffer x0 stWrongType)
        else if dBypass d0 && (!c.isClear || !bit c.w1 (32 + dPort d0)) then .next (s2.refuseOffer x0 stPolicy)
        else
          let x := { x0 with bytes := b.data, ended := b.last }
          if ((openTx s h).isNone && decide (32 ≤ openCount)) || !egressFits s x then .next s
          else
            let s3 := ({ s1.unskipHandle h with tx := s1.tx ++ [x], nextFrame := s1.nextFrame + 1 }).classifyTx x
            .next (s3.judgeTx x.id)

/-- EGRESS_DATA_BEAT (R319 to R321): a beat of a frame that has been refused or has failed finds no open frame. -/
def execEgressDataBeat (b : EgressBeat) (s : State) : Out :=
  if !wfDataBeat b then .refused .illFormed
  else
    let h := b.handle.toNat
    let bad := b.bytes = 0 || decide (64 < b.bytes.toNat)
    if !s.eReady then .next s
    else if s.egSkip.contains h then .next (if b.last then s.unskipHandle h else s)
    else
      match openTx s h with
      | none => .next (if b.mgmt then s else s.post (315 + 4 * b.domain.toNat))
      | some x =>
        let y := { x with bytes := x.bytes ++ b.data }
        if bad then .next (if b.last then s.endShort h else (s.endShort h).skipHandle h)
        else if !egressFits s y then .next s
        else
          let s1 := (s.setTx y).judgeTx y.id
          .next (if b.last then s1.endOpen h else s1)

/-! ### Descriptors (R334 to R336) -/

/-- A Slot descriptor is room: its handle is the ring's and every other field is zero (R334). -/
def slotOk (h : Nat) (d : List Word) : Bool :=
  d.getD 0 0 == (at_ 44 1 ||| at_ 0 h) && (d.drop 1).all (· == 0)

/-- A Seal or Unseal descriptor keeps Table 11.6. -/
def recordDescOk (h : Nat) (d : List Word) : Bool :=
  let d0 := d.getD 0 0
  dHandle d0 == h && fld d0 15 29 == 0 && (dKind d0 == 4 || decide (fld (d.getD 3 0) 0 32 ≠ 0))

/-- A frame that no slice has begun, and of the frames that take no slice one that no port has begun (R90, R336). -/
def unbegun (x : TxFrame) : Bool := x.stage == .offered || (x.stage == .ready && x.onPorts = 0 && x.sent = 0 && x.count.isNone)

/-- Unprocessed descriptors held of a ring (R336). -/
def heldDescriptors (s : State) (h : Nat) : Nat :=
  (s.tx.filter (fun x => x.handle == h && x.entry.isSome && unbegun x)).length +
    (s.jobs.filter (fun j => j.handle == h && !j.started)).length

/-- The first waiting record whose stream has none in progress (R346). -/
def nextRecord (s : State) : Option RecordJob :=
  s.jobs.find? (fun j => !j.started && s.jobs.all (fun k => k.handle != j.handle || !k.started))

/-- A record may start: fewer than 64 are in progress, none of its own stream is held, and no earlier one waits for its
turn (R346). -/
def recordMayStart (s : State) (h : Nat) : Bool :=
  decide ((s.jobs.filter (·.started)).length < 64) && s.jobs.all (fun j => j.handle != h) && (nextRecord s).isNone

/-- The completion of a record descriptor that goes no further. -/
def State.refuseRecord (s : State) (h entry status : Nat) (opening : Bool) (cookie : Nat) : State :=
  s.output h entry (recordCompletion h status opening 0 cookie 0 0) 0 []

/-- A frame or record offered from a ring of domain d is refused under R96. An Unseal descriptor offers nothing to seal. -/
def State.refuse96 (s : State) (d : Nat) (opening : Bool) : State := if opening then s else s.offerRefused d

/-- The grounds on which a Seal or Unseal descriptor completes before its record is taken up: for a Seal the conditions of
R96, then a stream type that does not take the descriptor's kind. -/
def recordGround (c : Context) (opening : Bool) : Option Nat :=
  if opening then (if !c.armed then some stNotArmed else if !c.isUnsealRec then some stWrongType else none)
  else match r96 c true with
    | some st => some st
    | none => if c.isSealRec then none else some stWrongType

/-- The buffers of a record descriptor (Table 12.4): source and destination of a Seal, header and destination of an
Unseal. -/
def recordBuffers (opening : Bool) (d : List Word) : List (Nat × Nat × Bool) :=
  let n := fld (d.getD 3 0) 0 32
  let a1 := (d.getD 1 0).toNat
  let a2 := (d.getD 2 0).toNat
  if opening then [(a1, 32, false), (a2, n, true)] else [(a1, n, false), (a2, n + 48, true)]

/-- A fetched descriptor of a stream that is Armed is taken up. -/
def State.takeDescriptor (s : State) (h entry : Nat) (d : List Word) (source : List Byte) (readOk : Bool) : State :=
  let c := s.stream h
  let d0 := d.getD 0 0
  let cookie3 := fld (d.getD 3 0) 32 16
  if dKind d0 = 3 || dKind d0 = 4 then
    let opening := dKind d0 == 4
    match recordGround c opening with
    | some st => (s.refuse96 c.domain (opening || (r96 c true).isNone)).refuseRecord h entry st opening cookie3
    | none =>
      match deputyFirst s c.domain h (recordBuffers opening d) with
      | some f => (s.logGate c.domain f).refuseRecord h entry stBufferFault opening cookie3
      | none => { s with
          jobs := s.jobs ++ [⟨s.nextFrame, h, opening, c, entry, d, recordMayStart s h, 0, c.cur, [], 0, 0, [], [], [], [],
            !opening⟩]
          nextFrame := s.nextFrame + 1 }
  else
    let x0 := newTx s h d0 (d.getD 2 0) false (some entry)
    match r96 c true with
    | some st => (s.refuseOffer x0 st).offerRefused c.domain
    | none =>
      if c.isSealRec then s.refuseOffer x0 stWrongType
      else if dBypass d0 && (!c.isClear || !bit c.w1 (32 + dPort d0)) then s.refuseOffer x0 stPolicy
      else
        match deputyRefusal s c.domain h (d.getD 1 0).toNat x0.declared false with
        | some f => (s.logGate c.domain f).refuseOffer x0 stBufferFault
        | none =>
          if !readOk || source.length < x0.declared then s.refuseOffer x0 stBufferFault
          else
            let x := { x0 with bytes := source.take x0.declared, ended := true }
            (({ s with tx := s.tx ++ [x], nextFrame := s.nextFrame + 1 }).classifyTx x).judgeTx x.id

/-- The descriptor breaks Table 11.6, R5 or R8 (R334). -/
def descriptorBad (c : Context) (h : Nat) (desc : List Container) : Bool :=
  let d := desc.map toWord
  let k := dKind (d.getD 0 0)
  desc.any badContainer ||
    !(k == 2 && transmitOk { c with w0 := c.w0 } h (d.getD 0 0) || (k == 3 || k == 4) && recordDescOk h d)

/-- What a Transmit descriptor brings finds no room in the egress buffers of its ports (R321). -/
def noEgressRoom (s : State) (h : Nat) (desc : List Container) (source : List Byte) : Bool :=
  let d := desc.map toWord
  let x := newTx s h (d.getD 0 0) 0 false none
  !descriptorBad (s.stream h) h desc && dKind (d.getD 0 0) == 2 && (s.stream h).armed &&
    !egressFits s { x with bytes := source.take x.declared }

/-- DESCRIPTOR_FETCH (R336): the entry at the fetch count is read; a Slot is room, which outputs that wait take first
(R341); any other descriptor is allotted the entry at reserve. A frame for which the egress buffer has no room stays unfetched (log 63). The read itself is a deputy access to the ring (R359). -/
def execDescriptorFetch (h : Handle) (desc : List Container) (source : List Byte) (readOk : Bool) (s : State) : Out :=
  if !wfDesc desc then .refused .illFormed
  else
    let hn := h.toNat
    let c := s.stream hn
    let r := s.ring hn
    if !(c.armed || c.retiring) || !ringServes s hn || stopping s || r.tail == r.fetch then .next s
    else
      let d := desc.map toWord
      let isSlot := !desc.any badContainer && slotOk hn d
      if !isSlot && (decide (32 ≤ heldDescriptors s hn) || noEgressRoom s hn desc source) then .next s
      else
        match deputyRefusal s c.domain hn (entryAddr r (r.era * 2 ^ 32 + r.fetch)) 32 false with
        | some f => .next (s.stopRing hn f)
        | none =>
          let s1 := s.setRing hn { r with fetch := inc32 r.fetch, changed := true }
          if isSlot then .next (s1.drainWaiting (s1.ring hn).waiting.length hn)
          else
            let (e, s2) := s1.allot hn
            let entry := e.getD 0
            let k := dKind (d.getD 0 0)
            let rec_ := k == 3 || k == 4
            let bad := descriptorBad c hn desc
            let status := if bad then stMalformed else stRetired
            if bad || c.retiring then
              .next (if rec_ then s2.refuseRecord hn entry status (k == 4)
                  (if desc.any badContainer then 0 else fld (d.getD 3 0) 32 16)
                else s2.output hn entry (txCompletion hn status false false false
                  (if !bad && dBypass (d.getD 0 0) then dPort (d.getD 0 0) else 0)
                  (if bad then 0 else d.getD 2 0) 0 0 0) 0 [])
            else .next (s2.takeDescriptor hn entry d source readOk)

/-! ### Slice entry (R107, R113, R144) -/

/-- The 802.1Q tag of a frame, where it has one. -/
def outerTag (bs : List Byte) : List Byte := if vlanTagged bs then slice 12 4 bs else []

/-- The last transmit count of a suite (Table 7.1). -/
def lastCount (suite : Nat) : Nat :=
  if suite = 1 then 2 ^ 32 - 1 else if suite = 2 then 2 ^ 64 - 1 else 2 ^ 48 - 1

/-- The count has reached the roll threshold w7, which holds bits [63:16] under suite 0x2 (Table 7.1). -/
def atThreshold (c : Context) (n : Nat) : Bool :=
  c.suite != 6 && decide (c.rollThreshold ≤ (if c.suite = 2 then n / 65536 else n))

/-- Taking the next transmit count asks for a roll (R105). -/
def asksRoll (c : Context) : Bool := atThreshold c c.txCount && !c.rollRequested

/-- Taking the next transmit count exhausts the counter space (R105). -/
def exhausts (c : Context) : Bool := decide (lastCount c.suite ≤ c.txCount) && !c.txExhausted

/-- The running words once the next transmit count is taken. -/
def countTaken (c : Context) : Context :=
  let c1 := c.setTxCount (min (c.txCount + 1) (lastCount c.suite))
  let c2 := if asksRoll c then c1.setRollRequested true else c1
  if exhausts c then c2.setTxExhausted true else c2

/-- The transmit count is taken and advanced, with the roll request and exhaustion of R105. The request is raised as the
count that has reached the threshold is taken (log 45). -/
def State.takeRunning (s : State) (h : Nat) : Nat × State :=
  let c := s.stream h
  (c.txCount, ((s.setStream h (countTaken c)).postIf (asksRoll c) 500).postIf (exhausts c) 501)

/-- A frame or record of context version ctx counts in the running words of c: its generation is the current one (R113). -/
def countsIn (ctx c : Context) : Bool := ctx.suite == 6 || ctx.cur.num == c.cur.num

/-- What a frame of context version ctx that takes its count makes of running words of its own version, for a snapshot
that includes the frame (R20). -/
def countedFor (ctx c : Context) : Context := if countsIn ctx c then countTaken c else c

/-- The running count of an earlier generation. -/
def oldCountOf (a : StreamAux) (num : Nat) : Option OldCount := a.oldCounts.find? (fun o => o.gen == num)

/-- No count is left for a frame of version ctx of stream h: its own generation's counter space is exhausted (R96, R105,
R113). -/
def spent (s : State) (h : Nat) (ctx : Context) : Bool :=
  if countsIn ctx (s.stream h) then (s.stream h).txExhausted
  else match oldCountOf (s.aux_ h) ctx.cur.num with
    | some o => o.exhausted
    | none => true

/-- The count of the context version that a frame took at classification (R113): the running count, or that of its
generation before the rolls since. -/
def State.takeCount (s : State) (h : Nat) (ctx : Context) : Nat × State :=
  if countsIn ctx (s.stream h) then s.takeRunning h
  else
    let a := s.aux_ h
    match oldCountOf a ctx.cur.num with
    | none => (0, s)
    | some o =>
      (o.next, s.setAux h { a with oldCounts := a.oldCounts.map (fun x => if x = o then
        { o with next := min (o.next + 1) (lastCount ctx.suite), exhausted := decide (lastCount ctx.suite ≤ o.next) } else x) })

/-- What a failed fetch from a slot makes of running words (R144). -/
def fetchMarked (slot : Nat) (c : Context) : Context :=
  if c.cur.slot == slot && c.cur.valid then c.setKeyRefused true else c

/-- A failed fetch of generation g's slot marks w27 [13] where the slot is the current generation's, and posts the use-limit
event once for each generation (R144). -/
def State.fetchFailed (s : State) (h : Nat) (g : Gen) (f : Fetch) : State :=
  let s1 := s.setStream h (fetchMarked g.slot (s.stream h))
  let a := s1.aux_ h
  if f == .atLimit && !a.limitPosted.contains g.num then
    (s1.setAux h { a with limitPosted := g.num :: a.limitPosted }).post 461
  else s1

/-- One suite 0x5 request is issued on a slot: it counts as one use (R245). -/
def State.countUse (s : State) (k : Nat) : State := s.setSlot k { s.slot k with u0 := satAdd (s.slot k).u0 1 }

/-- Frames that have been granted a suite 0x5 request on a slot and have not issued it (R245). -/
def pendingUses (s : State) (k : Nat) : Nat :=
  (s.tx.filter (fun x => x.stage == .sealed && x.ctx.suite == 5 && x.ctx.cur.slot == k)).length +
    (s.rx.filter (fun x => x.v0 && x.ctx.suite == 5 && x.digest.isNone && !x.keyRefused && x.genWords.slot == k)).length

/-- A frame's key is fetched by unit u for sealing or opening (R107, R229). Under suite 0x5 the slot is judged for HMAC, with
the requests that earlier frames have still to issue, and the use counted as the request is issued (R245). -/
def State.fetchFrame (s : State) (u : Nat) (c : Context) (g : Gen) (use : Nat) (cellBad : Bool) : Fetch × State :=
  if c.suite = 5 then
    let v := s.slot g.slot
    match fetchJudge v useHmac false with
    | .ok k =>
      if v.limited && decide (v.u1.toNat ≤ v.u0.toNat + pendingUses s g.slot) then (.atLimit, s.limitMet u) else (.ok k, s)
    | _ => s.fetch u g.slot useHmac false
  else s.fetch u g.slot use cellBad

/-- The MAC key of a publisher's frame, which its seal slice fetches (R26, R27, R184). It is to be had where it was written
before the frame's interval began and its slot has not gone to a later interval since; where it is not, or the fetch
fails, the tag stays zero (R28, R185, log 48). -/
def State.fetchMac (s : State) (u : Nat) (macBad : Bool) (x : TxFrame) : Option Shares × State :=
  match (if x.trailer.isEmpty then none else s.pub x.ctx.chain) with
  | none => (none, s)
  | some v =>
    let i := x.interval
    let late := v.ready.any (fun r => r.mac && decide (i < r.interval) && r.interval % 2 == i % 2)
    if (pubReady v i).map (·.mac) == some true && !late then
      match s.fetch u (slotMac x.ctx.chain (i % 2 == 1)) useBwmac macBad with
      | (.ok k, s1) => (some k, s1)
      | (_, s1) => (none, s1)
    else (none, s)

/-- What stream h, or a stream freed since, keeps for its disclosures. -/
def owedOf (s : State) (h : Nat) : Option (StreamAux × Context) :=
  let c := s.stream h
  let a := s.aux_ h
  if c.isGsvPub && c.bindweed && !a.sealedIn.isEmpty then some (a, c)
  else (s.bw.owed.find? (fun e => e.1 == h)).map (·.2)

/-- The intervals whose keys a trailer of interval x leaves undisclosed. -/
def stillOwed (v : Pub) (a : StreamAux) (x : Nat) : StreamAux :=
  { a with sealedIn := a.sealedIn.filter (fun i => decide (x < i + v.delay)) }

/-- What is kept of stream h, or of a stream freed since, changes; what owes nothing more is forgotten. -/
def State.setOwed (s : State) (h : Nat) (a : StreamAux) : State :=
  let c := s.stream h
  if c.isGsvPub && c.bindweed && !(s.aux_ h).sealedIn.isEmpty then s.setAux h a
  else { s with bw := { s.bw with
    owed := (s.bw.owed.map (fun e => if e.1 = h then (h, a, e.2.2) else e)).filter (fun e => !e.2.1.sealedIn.isEmpty) } }

/-- A sealed frame of a Bindweed publisher owes the disclosure of its interval (R188). -/
def State.noteSealed (s : State) (x : TxFrame) : State :=
  if x.trailer.isEmpty then s
  else s.setAux x.handle { s.aux_ x.handle with
    sealedIn := x.interval :: (s.aux_ x.handle).sealedIn.filter (· != x.interval)
    da := daOf x.bytes
    vlan := outerTag x.bytes }

/-- A copy of a frame of a Bindweed publisher has gone out whole: its trailer makes the earlier disclosures that it covers
good (R188), and the chain has carried the anchor that it brings (R190). -/
def State.noteSent (s : State) (x : TxFrame) : State :=
  match (if x.trailer.isEmpty then none else s.pub x.ctx.chain) with
  | none => s
  | some v =>
    let s1 := match owedOf s x.handle with
      | some (a, _) => s.setOwed x.handle (stillOwed v a x.interval)
      | none => s
    if x.trailer.length = 86 then
      s1.setPub x.ctx.chain { v with carried := (v.seedOf x.interval).map (fun k => (k, x.interval / 65536 + 1)) }
    else s1

/-- The frames of one stream, from its ring or the interface, begin in the order in which they were received, within their
class (R336). Frames under suite 0x5 take their counts in that order whatever their class (R115). -/
def firstOfRing (s : State) (x : TxFrame) : Bool :=
  match s.tx.find? (fun y => y.handle == x.handle && beforeSlice y && (!takesSlots x.ctx || txClass s y == txClass s x)) with
  | some y => y.id == x.id
  | none => true

/-- The frame's turn has come: in its ring, and, where it takes slots, among the frames of its direction (R55). -/
def sealTurn (s : State) (x : TxFrame) : Bool :=
  firstOfRing s x && (!takesSlots x.ctx ||
    mayEnter s .egress (serviceRank (txClass s x) (s.aux_ x.handle).usedSeal x.ctx.cRate) x.id)

/-- A frame that has passed every check before its slice is counted, and demoted where it exceeds its stream's declarations
(R67) or its declared p (R117). A frame above p takes its unit of the count, and of a burst allowance, like any other
(log 42). -/
def State.policeTx (s : State) (x : TxFrame) : TxFrame × State :=
  let c := x.ctx
  if c.classP then
    let (dem, s1) := (s.onShots x.handle x.id (policed (burstPeriods s) c false x.demoted)).police x.handle c false x.demoted
    ({ x with demoted := dem, cls := if dem then 2 else 0 }, s1)
  else if x.demoted then (x, (s.onShots x.handle x.id Context.bumpDemotions).demotion x.handle)
  else (x, s)

/-- The slots that a frame takes on a slice. -/
def txSlots (x : TxFrame) : Nat :=
  if takesSlots x.ctx then frameSlots (payloadOf x.ctx x.bytes x.declared x.trailer.length) else 0

/-- The slots that its echo takes on an open slice (R120). -/
def echoSlots (x : TxFrame) : Nat := frameSlots (payloadOf x.ctx x.bytes x.declared x.trailer.length)

/-- The ledger category of a frame's blocks: admitted P-class work, or other work (Table 16.11). -/
def txCategory (x : TxFrame) : Nat := if x.ctx.classP && !x.demoted then 0 else 1

/-- The frame has its key: it takes its count and, as a Bindweed publisher's, its MAC key. -/
def State.enterSlice (s : State) (x : TxFrame) (u : Nat) (key : Shares) (macBad : Bool) : State :=
  let (n, s1) := (s.onShots x.handle x.id (countedFor x.ctx)).takeCount x.handle x.ctx
  let (mac, s2) := s1.fetchMac u macBad x
  let s3 := (s2.noteSealed x).useSlots x.handle false (txSlots x)
  let s4 := if takesSlots x.ctx || mac.isSome then s3.busyPulse (194 + 4 * u) else s3
  s4.readyTx { x with stage := .sealed, count := some n, slice := u, key := key, mac := mac }

/-- SEAL_SLICE_ENTRY (R55, R107, R113): the frame's first block enters a seal slice, or, under suite 0x5, its first byte is
accepted (R115), none once Dormant or a restart is entered (R437); the key is fetched and the transmit count taken. Where no count is left the frame ends as one offered
on an exhausted stream; a failed fetch completes it with KEY_FAILURE. Neither takes a count (Table 4.7). -/
def execSealSliceEntry (f : Nat) (sl : Fin 3) (cellBad macBad : Bool) (s : State) : Out :=
  match s.txFrame f with
  | none => .next s
  | some x =>
    if !awaitsSlice x || !sealTurn s x || stopping s then .next s
    else if spent s x.handle x.ctx then
      .next (if x.hasDescriptor then (s.completeTx x stExhausted false).offerRefused x.ctx.domain
        else s.completeTx x stExhausted false)
    else
      let g := x.ctx.cur
      let (y, s0) := s.policeTx x
      let (r, s1) := s0.fetchFrame sl.val y.ctx g useSeal cellBad
      if s1.mode == .lockdown then .next s1
      else
        match r with
        | .ok key => .next (s1.enterSlice y sl.val key macBad)
        | bad =>
          .next (((s1.onShots y.handle y.id (fetchMarked g.slot)).fetchFailed y.handle g bad).completeTx
            { y with slice := sl.val } stKeyFailure false)

/-! ### Supply, digest, echo (R115, R116, R118, R119) -/

/-- The frame on the wire before its tag of suite 0x5, or whole. -/
def sealedWire (s : State) (x : TxFrame) (bs : List Byte) : List Byte :=
  let pn := x.count.getD 0
  if x.ctx.isMacsec then sealMacsec x.key.whole x.ctx x.ctx.cur (sciOf s x.ctx) pn bs
  else sealGsv x.key.whole x.ctx x.ctx.cur pn x.trailer (x.mac.map Shares.whole) bs

/-- SEAL_SUPPLY_CHECK (R116): at the end of supply the bytes are compared with the declared length. Short supply fails
the frame, on the wire with an inverted FCS or, with echo or under suite 0x5, before it; an over-long supply is cut. The
frame digest of a Bindweed publisher is work of core 0 (Table 6.2, log 18). -/
def execSealSupplyCheck (f : Nat) (s : State) : Out :=
  match s.txFrame f with
  | none => .next s
  | some x =>
    if !(x.stage == .sealed || x.stage == .onWire) || !x.ended || !x.wire.isEmpty || x.kind == .clear ||
      x.kind == .ptp then .next s
    else if x.supplyShort then
      let s0 := if takesSlots x.ctx then s.discardBlocks x.slice (txCategory x) (txSlots x) else s
      if x.ctx.echo || x.ctx.suite == 5 then .next (s0.completeTx x stShort false)
      else
        let whole := sealedWire s x (x.bytes.take x.declared ++ List.replicate (x.declared - x.bytes.length) 0)
        .next (s0.setTx { x with
          wire := whole.take (whole.length - (x.declared - x.bytes.length) - icvLen x.ctx)
          short := true
          badFcs := true
          fail := some stShort })
    else
      let bs := x.bytes.take x.declared
      let above := decide (x.declared < x.bytes.length)
      let y := { x with trunc := above, plain := bs, wire := sealedWire s x bs }
      let s0 := if above then s.bumpPort (lowPort x.ctx.portMask) 28 1 else s
      let s1 := if x.trailer.isEmpty then s0 else s0.coreWorks 10
      if x.ctx.suite == 5 then
        let req := gsvDigestInput y.ctx y.ctx.cur (y.count.getD 0) y.trailer (y.mac.map Shares.whole) bs
        let s2 := ({ s1 with out := { s1.out with digestReq := some req } }).countUse x.ctx.cur.slot
        .next ((s2.setTx { y with stage := .digestWait }).post 489)
      else if x.ctx.echo then .next (s1.setTx { y with stage := .echoWait })
      else .next (s1.setTx y)

/-- The two flags of the digest engine's pair are complements (R37). -/
def digestPairOk (r : DigestResult) : Bool := r.flag != r.flagN

/-- The events of a digest result: flag pair, truncation. -/
def State.digestEvents (s : State) (r : DigestResult) : State := (s.postIf (!digestPairOk r) 490).postIf r.truncated 491

/-- The result passes the checks of R37: the pair is good, its flag reads match, and the input was not truncated. -/
def digestPasses (r : DigestResult) : Bool := digestPairOk r && r.flag && !r.truncated

/-- DIGEST_SEAL_RESULT (R115): the tag follows the frame where the result passes; with echo the frame goes to the echo first
(R118). -/
def execDigestSealResult (f : Nat) (r : DigestResult) (s : State) : Out :=
  if !wfDigest r then .refused .illFormed
  else
    match s.txFrame f with
    | none => .next s
    | some x =>
      if x.stage != .digestWait then .next s
      else
        let s1 := s.digestEvents r
        if !digestPasses r then .next (s1.completeTx x stDigest false)
        else
          let y := { x with wire := x.wire ++ r.tag }
          .next (if x.ctx.echo then s1.setTx { y with stage := .echoWait } else s1.readyTx { y with stage := .ready })

/-- What a faulty seal slice or echo buffer left: the bytes with the given positions replaced. -/
def upsetBytes (u : List (Nat × Byte)) (bs : List Byte) : List Byte := u.foldl (fun b e => b.set e.1 e.2) bs

/-- The open slice opens the sealed bytes again: whether the tag agrees and the supplied plaintext comes back (R118). Under
suite 0x5 no byte is encrypted, and the spec gives the echo no second result of the digest engine: DESIGN CHOICE, log 45:
the tag that the engine gives for unchanged bytes is the one that it gave. -/
def echoPasses (key : Key) (sci : Nat) (x : TxFrame) (bs : List Byte) : Bool :=
  if x.ctx.suite = 5 then bs == x.wire else
  let h := 12 + tagLen x.bytes
  let g := x.ctx.cur
  let pn := x.count.getD 0
  let n := bs.length - 16
  if x.ctx.isMacsec then
    let (ok, ud) := macsecOpen key (macsecIv x.ctx.suite sci g.ssci g.salt pn) (confBytes x.ctx) true (bs.take 12)
      (slice h 16 bs) (slice (h + 16) (n - (h + 16)) bs) (bs.drop n)
    ok && bs.take h ++ ud == x.plain
  else
    let (head, ext, body) := gsvPlainParts x.ctx g pn x.trailer (x.mac.map Shares.whole) x.plain
    let (ok, got) := gsvOpen key x.ctx.suite (gsvIv g.ssci pn) (bs.take 12 ++ slice h 10 bs) (slice (h + 10) 16 bs)
      (slice (h + 26) (n - (h + 26)) bs) (bs.drop n)
    ok && bs.take h ++ slice h 10 bs == gsvWireHead x.plain head && slice (h + 10) 16 bs == ext && got == body

/-- SEAL_ECHO (R55, R118, R119): the echo opens the frame with its own fetch of the same slot; it passes to the MAC only if
tag and plaintext agree. `upset` is what a fault made of the sealed bytes. -/
def execSealEcho (f : Nat) (sl : Fin 3) (upset : List (Nat × Byte)) (cellBad : Bool) (s : State) : Out :=
  match s.txFrame f with
  | none => .next s
  | some x =>
    if x.stage != .echoWait ||
        !mayEnter s .ingress (serviceRank x.cls (s.aux_ x.handle).usedOpen x.ctx.cRate) x.id then .next s
    else
      let g := x.ctx.cur
      let u := 3 + sl.val
      let (r, s1) := s.fetchFrame u x.ctx g useSeal cellBad
      if s1.mode == .lockdown then .next s1
      else
        let lost (t : State) : State := t.discardBlocks x.slice (txCategory x) (txSlots x)
        match r with
        | .ok key =>
          let bs := upsetBytes upset x.wire
          let s2 := (s1.busyPulse (194 + 4 * u)).useSlots x.handle true (echoSlots x)
          if echoPasses key.whole (sciOf s2 x.ctx) x bs then .next (s2.readyTx { x with stage := .ready, wire := bs })
          else .next ((((lost s2).discardBlocks u (txCategory x) (echoSlots x)).posts
            [193 + 4 * x.slice, 193 + 4 * u]).completeTx x stEcho false)
        | bad =>
          .next (((((lost s1).onShots x.handle x.id (fetchMarked g.slot)).fetchFailed x.handle g bad).post
            (193 + 4 * x.slice)).completeTx x stEcho false)

/-! ### The MAC (R302, R305, R308) -/

/-- The start order of R305. -/
def startRank (x : TxFrame) : Nat :=
  match x.kind with
  | .ptp => 0
  | .hsr => 2
  | .notice | .standalone => 3
  | _ => if x.cls = 0 then 1 else if x.cls = 1 then 3 else 4

/-- The frame may start on a port: ready at the MAC, or sealed cut-through. -/
def mayStart (x : TxFrame) : Bool :=
  x.stage == .ready || x.stage == .onWire ||
    (x.stage == .sealed && !x.ctx.echo && x.ctx.suite != 5)

/-- The port sends a frame now. -/
def portBusy (s : State) (p : Nat) : Bool := s.tx.any (fun x => bit x.onPorts p)

/-- The frame that starts next on port p. -/
def nextFrameOn (s : State) (p : Nat) : Option TxFrame :=
  let cands := s.tx.filter (fun x => mayStart x && bit x.ports p)
  (List.range 5).findSome? (fun k => cands.find? (fun x => startRank x == k))

/-- The ports on which a frame that starts goes out: those of its mask whose link is up. A frame with one port of a
pair down counts as a one-port send (R302). -/
def State.firstStart (s : State) (p : Nat) (x : TxFrame) : TxFrame × State :=
  let up := BitVec.ofNat 16 (upPorts s x.ports.toNat)
  let a := portA s.img p
  let one := (pairOf s.img p).isSome && x.kind != .ptp && x.kind != .hsr && up != x.ports
  let s1 := if one then s.bumpPair a 5 else s
  if redundant s.img p x then
    let v := s1.pair a
    ({ x with ports := up, seqNo := v.seqCtr }, s1.setPair a { v with seqCtr := v.seqCtr + 1 })
  else ({ x with ports := up }, s1)

/-- FRAME_START (R305): at a frame boundary on an idle port whose link is up, the first ready frame in class order
starts. None starts once a retention restart is asked for (R430). -/
def execFrameStart (p : Fin 16) (s : State) : Out :=
  if !(s.port p.val).up || portBusy s p.val || !trafficMode s || s.retention.isSome then .next s
  else
    match nextFrameOn s p.val with
    | none => .next s
    | some x =>
      let (y, s1) := if x.stage == .onWire then (x, s) else s.firstStart p.val x
      let b := BitVec.ofNat 16 (2 ^ p.val)
      .next (s1.setTx { y with stage := .onWire, onPorts := y.onPorts ||| b, ports := y.ports &&& ~~~b })

/-- The copy of a frame that leaves on port p: port, bytes, FCS inverted. -/
def copyOn (s : State) (x : TxFrame) (p : Nat) : Nat × List Byte × Bool :=
  (p, if x.kind == .hsr then x.wire else portWire s.img p (redundant s.img p x) x.seqNo x.wire, x.badFcs)

/-- Counters of a copy transmitted whole (Table 10.4). -/
def State.countSent (s : State) (c : Nat × List Byte × Bool) : State :=
  if c.2.2 then s else (s.bumpPort c.1 2 1).bumpPort c.1 3 (wireLen c.2.1)

/-- Nothing more of a frame is to start and nothing is on a port: it ends, good if a copy went out whole (R302). -/
def State.endIfDone (s : State) (x : TxFrame) : State :=
  if x.onPorts = 0 && x.ports = 0 then
    let sent := ((List.range 16).filter (fun p => bit x.sent p)).length
    let pair := x.kind != .ptp && decide (1 < (portGroup s.img (lowPort x.ctx.portMask)).length)
    s.completeTx x (match x.fail with
      | some st => st
      | none => if sent = 0 then stAborted else stGood) (pair && sent == 1)
  else s.setTx x

/-- A PTP event message, messageType 0x0 to 0x3 (R161). -/
def ptpEvent (bs : List Byte) : Bool := decide (beAt (14 + tagLen bs) 1 bs % 16 < 4)

/-- TRANSMIT_COMPLETE (R302): the copy on port p has been transmitted; the port is idle again, and the frame ends with its
last copy. An event message takes its timestamp (R161, R335). -/
def execTransmitComplete (f : Nat) (p : Fin 16) (seconds : BitVec 48) (nanos : BitVec 32) (s : State) : Out :=
  match s.txFrame f with
  | none => .next s
  | some x =>
    if x.stage != .onWire || !bit x.onPorts p.val || x.wire.isEmpty then .next s
    else
      let stamped := x.kind == .ptp && ptpEvent x.wire
      let b := BitVec.ofNat 16 (2 ^ p.val)
      let y := { x with
        onPorts := x.onPorts &&& ~~~b
        sent := x.sent ||| b
        stamp := if stamped then (seconds, nanos) else x.stamp }
      let c := copyOn s x p.val
      let s0 := (if stamped then s.bumpPort p.val 40 1 else s).countSent c
      let s1 := if x.badFcs then s0 else s0.noteSent x
      .next (({ s1 with out := { s1.out with frames := [c] } }).endIfDone y)

end Sys2Proof.Machine
end

