-- ==== Sys2Proof/Machine/Teasel.lean ====
section
/-!
DEFINITION. The memory plane (09_teasel_memory_plane.md): the checks of R267, the memory fault log, encrypt-only and
integrity-protected lines, the counter tree with its caches, the write-merge buffer, poisoning, the flush of R291 and
the reset of R293.
-/

namespace Sys2Proof.Machine

/-! ### Geometry (R270, R273, R274) -/

/-- The word of identifier i in the table loaded at Assay. -/
def idWord (s : State) (i : Nat) : Word := if i = 0 then 0 else s.mem.ids.getD (i - 1) 0

def isProtected (s : State) (i : Nat) : Bool := idValid (idWord s i) && idProtected (idWord s i)

/-- The valid region of identifier i that contains the whole access (R267 step 3). -/
def regionOf (s : State) (i a len : Nat) : Option (Word × Word) :=
  s.mem.regions.find? (fun r => regValid r && regIdent r == i && decide (regBase r ≤ a) &&
    decide (a + len ≤ regBase r + regBytes r))

/-- The protected line number of an address of identifier i (R270). -/
def lineNumber (s : State) (i a : Nat) : Nat :=
  match regionOf s i a 1 with
  | some r => (regOffset r * 4096 + (a - regBase r)) / 64
  | none => 0

/-- A valid region or a metadata area meets the range (R267 step 1). -/
def inProtectedArea (s : State) (a len : Nat) : Bool :=
  s.mem.regions.any (fun r => regValid r && rangesMeet a len (regBase r) (regBytes r)) ||
    (protectedIds s.mem.ids).any (fun i =>
      let w := s.mem.ids.getD i 0
      rangesMeet a len (idMeta w) (metaBytes (idZ w)))

/-- The tree of an identifier: height, and the lowest level held on chip (R273). -/
def treeH (s : State) (i : Nat) : Nat := treeHeight (idZ (idWord s i))
def onChipFrom (s : State) (i : Nat) : Nat := treeH s i - 2

/-- Addresses of Table 9.6. -/
def dataTagAddr (s : State) (i n : Nat) : Nat := idMeta (idWord s i) + 8 * n
def nodeAddr (s : State) (i level j : Nat) : Nat :=
  let w := idWord s i
  idMeta w + 2 ^ (idZ w - 3) + 64 * (nodesBelow (idZ w) level + j)
def nodeTagAddr (s : State) (i level j : Nat) : Nat :=
  let w := idWord s i
  idMeta w + 2 ^ (idZ w - 3) + 64 * offChipNodes (idZ w) + 8 * (nodesBelow (idZ w) level + j)

def lineOf (a : Nat) : Nat := a / 64 * 64

/-! ### Cryptography (R269, R271, R272) -/

/-- A counter block (Table 9.3). -/
def counterBlock (i addr ctr block const : Nat) : List Byte :=
  natToBytes 16 (i * 2 ^ 124 + addr / 64 % 2 ^ 42 * 2 ^ 82 + ctr * 2 ^ 18 + block * 2 ^ 16 + const)

/-- The keystream of a data line, or its inverse: both are one XOR (R271). -/
def ctrCrypt (kA : Key) (i addr ctr : Nat) (data : List Byte) : List Byte :=
  xorBytes data ((List.range 4).flatMap (fun j => aesBytes kA (counterBlock i addr ctr j 1)))

/-- The tag of a line or node of 64 bytes as stored (R272): constant 2 for a data line, 3 for a node. -/
def lineTag (kB : Key) (i addr ctr const : Nat) (stored : List Byte) : List Byte :=
  let h := bytesToNat (aesBytes kB (List.replicate 16 0))
  (xorBytes (natToBytes 16 (ghashBlocks h (blocks16 stored))) (aesBytes kB (counterBlock i addr ctr 0 const))).take 8

/-- The two parts of a memory key. -/
structure MemKey where
  a : Key
  b : Key

/-- The parts of a memory key that slice `sl` holds: none once one of their slots has stopped being live (R285). -/
def heldKey (s : State) (sl : Nat) : SliceKey :=
  let h := Table.get .none sl s.mem.keys
  if h.id != 0 && (s.slot (slotMemA h.id)).live && (s.slot (slotMemB h.id)).live then h else .none

/-- Slice `sl` has both parts of memory key i: those it holds, while both slots are live, or else what a fetch of each gives
(R26 to R29, R285); that the identifier has changed posts the slice's event (Table 16.2). -/
def State.sliceKey (s : State) (sl : Nat) (badA badB : Bool) (i : Nat) : Option MemKey × State :=
  let h := heldKey s sl
  if h.id = i && i != 0 then (some ⟨h.a.whole, h.b.whole⟩, s)
  else
    let s0 : State := { s with mem := { s.mem with keys := Table.put .none sl .none s.mem.keys } }
    match s0.fetch (6 + sl) (slotMemA i) useMemory badA with
    | (.ok x, s1) =>
      match s1.fetch (6 + sl) (slotMemB i) useMemory badB with
      | (.ok y, s2) =>
        let s3 : State := { s2 with mem := { s2.mem with keys := Table.put .none sl ⟨i, x, y⟩ s2.mem.keys } }
        (some ⟨x.whole, y.whole⟩, s3.postIf (h.id != 0 && h.id != i) (193 + 4 * (6 + sl)))
      | (_, s2) => (none, s2)
    | (_, s1) => (none, s1)

/-- The memory slice works on a line. -/
def State.sliceWorks (s : State) (sl : Nat) : State := s.busyPulse (busyEvent (6 + sl))

/-! ### The memory fault log (R490, Table 17.10) -/

/-- One outcome: address, identifier, cause, port, write, engine, level. -/
structure MemFault where
  addr : Nat
  ident : Nat
  cause : Nat
  port : Nat
  write : Bool
  engine : Bool
  level : Nat
  deriving DecidableEq, Repr

def MemFault.m1 (x : MemFault) : Word :=
  at_ 44 x.ident ||| at_ 40 x.cause ||| at_ 39 x.port ||| at_ 38 (boolNat x.write) ||| at_ 37 (boolNat x.engine) |||
    at_ 33 x.level ||| 1

/-- The newest entry matches in line address, identifier, cause, port and kind within the plan period. -/
def memMerges (x : MemFault) (t : Tick) (e : List Word) : Bool :=
  (e.getD 0 0).toNat / 64 == x.addr / 64 && (e.getD 2 0).toNat == t && fld (e.getD 1 0) 33 15 == fld x.m1 33 15

/-- The outcome is entered in the log; once an entry of cause 0xC is held, the log only counts (R490). -/
def State.memLog (s : State) (x : MemFault) : State :=
  let m := s.mem
  let old := Table.get [] m.newest m.log
  if m.frozen then { s with mem := { m with lost := satAdd m.lost 1 } }
  else if m.present && memMerges x s.plan old then
    let c := min 0xFFFF (fld (old.getD 1 0) 0 16 + 1)
    { s with mem := { m with log := Table.put [] m.newest (old.set 1 (setFld (old.getD 1 0) 0 16 c)) m.log } }
  else
    let k := if m.present then (m.newest + 1) % 32 else 0
    { s with mem := { m with
      log := Table.put [] k [BitVec.ofNat 48 x.addr, x.m1, BitVec.ofNat 48 s.plan, 0] m.log
      newest := k
      present := true
      lost := if bit m.unread k then satAdd m.lost 1 else m.lost
      unread := setBit m.unread k true
      frozen := x.cause == 0xC } }

/-- The event of a cause of Table 17.11 (Table 9.10); line crossing, an exhausted counter and a refusal in Lockdown
have none. -/
def memEvent (cause : Nat) : Option Nat :=
  match cause with
  | 1 => some 452
  | 2 => some 451
  | 3 => some 451
  | 5 => some 449
  | 6 => some 446
  | 7 => some 447
  | 8 => some 448
  | 9 => some 453
  | 0xB => some 454
  | 0xC => some 455
  | _ => none

/-- An outcome is logged and its event posted (R268, R287). -/
def State.memOutcome (s : State) (x : MemFault) : State :=
  match memEvent x.cause with
  | some e => (s.memLog x).post e
  | none => s.memLog x

/-! ### Poison (R287, R288) -/

def spacePoisoned (s : State) (i : Nat) : Bool := bit s.mem.poisonSpaces i

/-- Data line n of identifier i lies beneath a poisoned node or space. -/
def poisonedLine (s : State) (i n : Nat) : Bool :=
  spacePoisoned s i || s.mem.poisonNodes.any (fun p => p.1 == i && p.2.2 == n / 8 ^ (p.2.1 + 1))

/-- A node is listed as poisoned; on a full list the whole space is (R288). -/
def State.poisonNode (s : State) (i level j : Nat) : State :=
  if s.mem.poisonNodes.contains (i, level, j) then s
  else if s.mem.poisonNodes.length < 64 then
    { s with mem := { s.mem with poisonNodes := s.mem.poisonNodes ++ [(i, level, j)] } }
  else ({ s with mem := { s.mem with poisonSpaces := setBit s.mem.poisonSpaces i true } }).post 450

/-- Every integrity-protected space is poisoned (R291). -/
def State.poisonAllSpaces (s : State) : State :=
  { s with mem := { s.mem with
    poisonSpaces := (protectedIds s.mem.ids).foldl (fun p i => setBit p (i + 1) true) s.mem.poisonSpaces } }

/-- The whole space of an identifier is poisoned for an error on chip (R290): logged as a lost node with no address. -/
def State.poisonSpace (s : State) (i a level : Nat) : State :=
  ({ s with mem := { s.mem with poisonSpaces := setBit s.mem.poisonSpaces i true } }).memOutcome ⟨a, i, 8, 0, false, true, level⟩

/-- The memory plane with new memory keys (R293): caches, write-merge buffer, top-level store, poison, held keys and the
accesses that wait under a key are gone, and what Bindweed kept in its regions reads as zeros. Accesses in clear go on. -/
def State.resetMemPlane (s : State) : State :=
  { s with
    pebbles := []
    mem := { s.mem with
      top := [], ccache := [], tcache := [], wmb := [], poisonNodes := [], poisonSpaces := 0, clean := false, keys := []
      replies := s.mem.replies ++ refusedReads s.mem
      held := s.mem.held.filter (fun a => fld a.addr 48 4 == 0), waits := s.mem.waits.filter (·.id == 0) } }

/-! ### DRAM -/

/-- A line as the DRAM controllers return it: as the command brings it, or as Quecy last wrote it. -/
def dramLine (s : State) (lines : List DramLine) (a : Nat) : List Byte × Ecc :=
  match lines.find? (fun l => l.addr == a) with
  | some l => (l.bytes, l.ecc)
  | none => (Memory.read s.dram a 64, .clean)

def State.writeDram (s : State) (a : Nat) (bs : List Byte) : State := { s with dram := Memory.write s.dram a bs }

/-- A corrected beat posts its event (R286). -/
def State.eccSeen (s : State) (e : Ecc) : State := s.postIf (e == .corrected) 445

/-! ### Caches (R278) -/

def nodeKey (i level j : Nat) : Nat := i * 2 ^ 48 + level * 2 ^ 40 + j

def zeroNode : List Nat := List.replicate 8 0

/-- The counters of a node held in the counter cache. -/
def cachedNode (s : State) (i level j : Nat) : Option CNode :=
  s.mem.ccache.find? (fun c => c.id == i && c.level == level && c.node == j)

/-- The counters of a node on chip or in the cache (R277). -/
def heldNode (s : State) (i level j : Nat) : Option (List Nat) :=
  if onChipFrom s i ≤ level then some (Table.get zeroNode (nodeKey i level j) s.mem.top)
  else (cachedNode s i level j).map (·.ctrs)

/-- The set of a node in the counter cache, 8-way with 1,024 sets (R278). -/
def nodeSet (x : CNode) : Nat := nodeKey x.id x.level x.node % 1024

/-- The node that is to leave next: the least recently used of a set that has more than eight. The list is kept with the
most recently used first. -/
def overfull (c : List CNode) : Option CNode :=
  c.reverse.find? (fun x => decide (8 < (c.filter (fun y => nodeSet y == nodeSet x)).length))

/-- A node enters the counter cache, or is replaced in it, as the most recently used (R278). A set that this makes too
large is trimmed at the end of the command, so that a node in use stays. -/
def State.putNode (s : State) (i level j : Nat) (ctrs : List Nat) (dirty : Bool) : State :=
  if onChipFrom s i ≤ level then
    { s with mem := { s.mem with top := Table.put zeroNode (nodeKey i level j) ctrs s.mem.top } }
  else
    let rest := s.mem.ccache.filter (fun c => !(c.id == i && c.level == level && c.node == j))
    { s with mem := { s.mem with ccache := ⟨i, level, j, ctrs, dirty⟩ :: rest } }

def State.dropNode (s : State) (i level j : Nat) : State :=
  { s with mem := { s.mem with
    ccache := s.mem.ccache.filter (fun c => !(c.id == i && c.level == level && c.node == j)) } }

/-- The set of a tag line in the tag cache, 8-way with 512 sets. -/
def tagSet (a : Nat) : Nat := a / 64 % 512

def State.dropTag (s : State) (a : Nat) : State :=
  { s with mem := { s.mem with tcache := s.mem.tcache.filter (fun t => t.addr != a) } }

/-- A set of the tag cache with more than eight lines gives up its least recently used one, written back where it is
dirty. -/
def State.trimTags (s : State) (a : Nat) : State :=
  let set := s.mem.tcache.filter (fun t => tagSet t.addr == tagSet a)
  if set.length ≤ 8 then s
  else
    match set.getLast? with
    | some t => if t.dirty then (s.dropTag t.addr).writeDram t.addr t.bytes else s.dropTag t.addr
    | none => s

def State.putTagLine (s : State) (a : Nat) (bytes : List Byte) (dirty : Bool) : State :=
  ({ s with mem := { s.mem with
    tcache := ⟨a, bytes, dirty⟩ :: s.mem.tcache.filter (fun t => t.addr != a) } }).trimTags a

/-- The tag line at an address: cached (event 441) or fetched (event 442), with its ECC status. -/
def State.tagLine (s : State) (lines : List DramLine) (a : Nat) : (List Byte × Ecc) × State :=
  match s.mem.tcache.find? (fun t => t.addr == a) with
  | some t => ((t.bytes, .clean), (s.putTagLine a t.bytes t.dirty).post 441)
  | none =>
    let (b, e) := dramLine s lines a
    let s1 := (s.post 442).eccSeen e
    ((b, e), if e == .uncorrectable then s1 else s1.putTagLine a b false)

/-- Writes one tag: into its cached line, or, where that line came back uncorrectable, to DRAM alone, with that outcome
(R287). `engine` marks an access of Teasel's own, and a line that the access has looked up before is `seen`: no second event
follows (R295). -/
def State.writeTag (s : State) (lines : List DramLine) (i port a : Nat) (tag : List Byte) (engine seen : Bool) : State :=
  let ((b, e), s0) := s.tagLine lines (lineOf a)
  let s1 := if seen then s.putTagLine (lineOf a) b false else s0
  if e == .uncorrectable then (s1.memOutcome ⟨lineOf a, i, 7, port, true, engine, 0xE⟩).writeDram a tag
  else s1.putTagLine (lineOf a) (b.take (a % 64) ++ tag ++ b.drop (a % 64 + 8)) true

/-! ### The walk (R277) -/

/-- How the search for counters or a line ended: a lost node, with the address of the tag line that lost it where that was
the cause; a lost tag line or data line; a tag that does not match. -/
inductive Walk where
  | ok
  | poisoned
  | node (level j : Nat) (tagLine : Option Nat)
  | tagLost (addr : Nat)
  | dataLost
  | mismatch (level : Nat) (addr : Nat)
  deriving DecidableEq, Repr

/-- Makes the counters of a node available, verifying from the top down every node that is not held; `fuel` counts the
levels up to the top-level store. -/
def walkNode (k : MemKey) (lines : List DramLine) (i : Nat) : Nat → Nat → Nat → State → Walk × State
  | 0, _, _, s => (.ok, s)
  | fuel + 1, level, j, s =>
    if s.mem.poisonNodes.contains (i, level, j) then (.poisoned, s)
    else
      match heldNode s i level j with
      | some ctrs => (.ok, if onChipFrom s i ≤ level then s else s.putNode i level j ctrs
          ((cachedNode s i level j).map (·.dirty) == some true))
      | none =>
        match walkNode k lines i fuel (level + 1) (j / 8) s with
        | (.ok, s1) =>
          let c := ((heldNode s1 i (level + 1) (j / 8)).getD zeroNode).getD (j % 8) 0
          if c = 0 then (.ok, s1.putNode i level j zeroNode false)
          else
            let a := nodeAddr s1 i level j
            let (b, e) := dramLine s1 lines a
            let s2 := s1.eccSeen e
            if e == .uncorrectable then (.node level j none, s2)
            else
              let ta := nodeTagAddr s2 i level j
              let ((tb, te), s3) := s2.tagLine lines (lineOf ta)
              if te == .uncorrectable then (.node level j (some (lineOf ta)), s3)
              else if slice (ta % 64) 8 tb != lineTag k.b i a c 3 b then (.mismatch level a, s3)
              else (.ok, s3.putNode i level j ((List.range 8).map (fun n => beAt (8 * n) 8 b)) false)
        | r => r

/-- The counter of data line n, once its level-0 node is available. -/
def lineCounter (s : State) (i n : Nat) : Nat := ((heldNode s i 0 (n / 8)).getD zeroNode).getD (n % 8) 0

/-- Whether the level-0 node of line n is cached or on chip: events 439 and 440. -/
def State.countWalk (s : State) (i n : Nat) : State :=
  s.post (if (heldNode s i 0 (n / 8)).isSome then 439 else 440)

/-- A zero counter that is known without DRAM: the line has not been written under the present key (R276). -/
def knownZero (s : State) (i : Nat) : Nat → Nat → Nat → Bool
  | 0, _, _ => false
  | fuel + 1, level, k =>
    match heldNode s i level (k / 8) with
    | some ctrs => ctrs.getD (k % 8) 0 == 0
    | none => knownZero s i fuel (level + 1) (k / 8)

/-- The node that tells a read of line k that its counter is 0 becomes the most recently used of its set (R278). -/
def State.touchNode (s : State) (i : Nat) : Nat → Nat → Nat → State
  | 0, _, _ => s
  | fuel + 1, level, k =>
    match cachedNode s i level (k / 8) with
    | some x => s.putNode i level (k / 8) x.ctrs x.dirty
    | none => if (heldNode s i level (k / 8)).isSome then s else s.touchNode i fuel (level + 1) (k / 8)

/-- Reads and verifies data line n at physical line address a under its counter, which is not 0 (R277): the plaintext. -/
def readData (k : MemKey) (lines : List DramLine) (i n a : Nat) (s : State) : Walk × List Byte × State :=
  let c := lineCounter s i n
  let ta := dataTagAddr s i n
  let ((tb, te), s1) := s.tagLine lines (lineOf ta)
  let (b, e) := dramLine s1 lines a
  let s2 := s1.eccSeen e
  if te == .uncorrectable then (.tagLost (lineOf ta), [], s2)
  else if e == .uncorrectable then (.dataLost, [], s2)
  else if slice (ta % 64) 8 tb != lineTag k.b i a c 2 b then (.mismatch 0xF a, [], s2)
  else (.ok, ctrCrypt k.a i a c b, s2)

/-- A line of an integrity-protected identifier, verified and decrypted; zeros where it was never written (R276). The
flag says so. -/
def readLine (k : MemKey) (lines : List DramLine) (i n a : Nat) (s : State) : Walk × List Byte × Bool × State :=
  match walkNode k lines i (treeH s i + 1) 0 (n / 8) s with
  | (.ok, s1) =>
    if lineCounter s1 i n = 0 then (.ok, List.replicate 64 0, true, s1)
    else
      let (w, b, s2) := readData k lines i n a s1
      (w, b, false, s2)
  | (w, s1) => (w, [], false, s1)

/-! ### Failures -/

/-- R289: the failure is logged, every access that waits under a key identifier is answered with an error, and the
block enters Lockdown with cause 0x05. -/
def State.integrityFailure (s : State) (x : MemFault) : State :=
  (s.memOutcome x).lockdown 5

/-- The blocks of an access that fails after they have entered slice `sl` count as discarded: five of a data line, one of a
node (R268, R467, R468). -/
def State.blocksLost (s : State) (sl : Nat) (w : Walk) : State :=
  match w with
  | .mismatch 0xF _ => s.discardBlocks (6 + sl) 0 5
  | .mismatch _ _ => s.discardBlocks (6 + sl) 1 1
  | _ => s

/-- An access that a walk has ended without data: logged under its cause; a node that was lost is listed, and where its tag
line was lost, that outcome comes first. -/
def State.walkFailed (s : State) (w : Walk) (addr i port : Nat) (write engine : Bool) : State :=
  let f (cause a level : Nat) : MemFault := ⟨a, i, cause, port, write, engine, level⟩
  match w with
  | .ok => s
  | .poisoned => s.memOutcome (f 5 addr 0xD)
  | .node level j t =>
    let s1 := match t with
      | some a => s.memOutcome (f 7 a 0xE)
      | none => s
    (s1.memOutcome (f 8 (nodeAddr s i level j) level)).poisonNode i level j
  | .tagLost a => s.memOutcome (f 7 a 0xE)
  | .dataLost => s.memOutcome (f 6 addr 0xF)
  | .mismatch level _ => s.integrityFailure (f 0xC addr level)

/-- The identifier whose metadata area holds an address. -/
def metaOwner (s : State) (a : Nat) : Option Nat :=
  ((protectedIds s.mem.ids).find? (fun i =>
    let w := s.mem.ids.getD i 0
    rangesMeet a 64 (idMeta w) (metaBytes (idZ w)))).map (· + 1)

/-- An error on chip (R290). Corrected, it is counted. In a clean line it is a miss: the line leaves the cache. In a dirty
line or in the top-level store it poisons the identifier's whole space. -/
def State.chipError (s : State) (e : ChipError) : State :=
  match e with
  | .top i c => if c then s.post 445 else if isProtected s i.toNat then s.poisonSpace i.toNat 0 0xD else s
  | .node i level j c =>
    match cachedNode s i.toNat level j with
    | none => s
    | some x =>
      if c then s.post 445
      else if x.dirty then (s.dropNode i.toNat level j).poisonSpace i.toNat (nodeAddr s i.toNat level j) level
      else s.dropNode i.toNat level j
  | .tag a c =>
    match s.mem.tcache.find? (fun t => t.addr == a) with
    | none => s
    | some x =>
      if c then s.post 445
      else if x.dirty then
        match metaOwner s a with
        | some i => (s.dropTag a).poisonSpace i a 0xE
        | none => s.dropTag a
      else s.dropTag a

def State.chipErrors (s : State) (es : List ChipError) : State := es.foldl State.chipError s

/-! ### The write path (R278 to R282) -/

/-- Encrypts and writes a whole line with a new counter; refused where the counter is at its end (R282). `seen` says that its
tag line has been looked up for a read of the line. -/
def State.writeLine (s : State) (k : MemKey) (lines : List DramLine) (i n a port : Nat) (seen : Bool) (plain : List Byte) : State :=
  let ctrs := (heldNode s i 0 (n / 8)).getD zeroNode
  let c := ctrs.getD (n % 8) 0
  if c + 1 = 2 ^ 64 then s.memOutcome ⟨a, i, 0xA, port, true, false, 0xF⟩
  else
    let s1 := s.putNode i 0 (n / 8) (ctrs.set (n % 8) (c + 1)) true
    let stored := ctrCrypt k.a i a (c + 1) plain
    (s1.writeTag lines i port (dataTagAddr s1 i n) (lineTag k.b i a (c + 1) 2 stored) false seen).writeDram a stored

/-- Bytes of the write-merge buffer, by their mask, laid over a line. -/
def overlay (data : List Byte) (mask : BitVec 64) (line : List Byte) : List Byte :=
  (List.range 64).map (fun k => if bit mask k then data.getD k 0 else line.getD k 0)

def fullMask : BitVec 64 := BitVec.allOnes 64

/-- A write that has left the buffer is not performed: the partial-write refusal of R280. -/
def State.partialRefused (s : State) (e : WmEntry) : State :=
  if e.mask = fullMask then s else s.memOutcome ⟨e.addr, e.id, 9, e.port, true, false, 0xD⟩

/-- An entry leaves the buffer and is written (R279, R280) by slice `sl`; with no key it is refused (R29). -/
def State.drainEntry (s : State) (sl : Nat) (badA badB : Bool) (lines : List DramLine) (e : WmEntry) : State :=
  let s0 : State := { s with mem := { s.mem with wmb := s.mem.wmb.filter (· != e) } }
  let whole := e.mask == fullMask
  let s1 := s0.postIf (!whole) 438
  let unit := e.addr / 64
  match s1.sliceKey sl badA badB e.id with
  | (none, s2) => s2.memOutcome ⟨e.addr, e.id, 0xB, e.port, true, false, 0xD⟩
  | (some k, s2) =>
    let s3 := s2.sliceWorks sl
    if !isProtected s3 e.id then
      let (b, ecc) := dramLine s3 lines e.addr
      if whole then s3.writeDram e.addr (xtsEncrypt k.a k.b unit e.data)
      else if ecc == .uncorrectable then
        (s3.memOutcome ⟨e.addr, e.id, 6, e.port, true, false, 0xF⟩).partialRefused e
      else (s3.eccSeen ecc).writeDram e.addr (xtsEncrypt k.a k.b unit (overlay e.data e.mask (xtsDecrypt k.a k.b unit b)))
    else
      let n := lineNumber s3 e.id e.addr
      let s4 := s3.countWalk e.id n
      if poisonedLine s4 e.id n then (s4.walkFailed .poisoned e.addr e.id e.port true false).partialRefused e
      else if whole then
        match walkNode k lines e.id (treeH s4 e.id + 1) 0 (n / 8) s4 with
        | (.ok, s5) => s5.writeLine k lines e.id n e.addr e.port false e.data
        | (w, s5) => (s5.blocksLost sl w).walkFailed w e.addr e.id e.port true false
      else
        match readLine k lines e.id n e.addr s4 with
        | (.ok, b, fresh, s5) => s5.writeLine k lines e.id n e.addr e.port (!fresh) (overlay e.data e.mask b)
        | (.mismatch l a, _, _, s5) => (s5.blocksLost sl (.mismatch l a)).walkFailed (.mismatch l a) e.addr e.id e.port true false
        | (w, _, _, s5) => (s5.walkFailed w e.addr e.id e.port true false).partialRefused e

/-- A dirty node is evicted (R278): its counter in the parent advances, its tag is formed and both are written. A node whose
counter is at its end is given up as lost, and one whose key or parent is not to be had leaves with what lies beneath. -/
def State.evictNode (s : State) (sl : Nat) (badA badB : Bool) (lines : List DramLine) (x : CNode) : State :=
  let i := x.id
  if !x.dirty then s.dropNode i x.level x.node
  else
    match s.sliceKey sl badA badB i with
    | (none, s0) => (s0.dropNode i x.level x.node).memOutcome ⟨nodeAddr s0 i x.level x.node, i, 0xB, 0, true, true, x.level⟩
    | (some k, s0) =>
      match walkNode k lines i (treeH s0 i + 1) (x.level + 1) (x.node / 8) (s0.sliceWorks sl) with
      | (.ok, s1) =>
        let ctrs := (heldNode s1 i (x.level + 1) (x.node / 8)).getD zeroNode
        let c := ctrs.getD (x.node % 8) 0
        let a := nodeAddr s1 i x.level x.node
        if c + 1 = 2 ^ 64 then
          ((s1.dropNode i x.level x.node).memOutcome ⟨a, i, 0xA, 0, true, true, x.level⟩).poisonNode i x.level x.node
        else
          let bytes := x.ctrs.flatMap (fun v => natToBytes 8 v)
          let s2 := s1.putNode i (x.level + 1) (x.node / 8) (ctrs.set (x.node % 8) (c + 1)) true
          let s3 := (s2.writeTag lines i 0 (nodeTagAddr s2 i x.level x.node) (lineTag k.b i a (c + 1) 3 bytes) true false).writeDram a bytes
          (s3.dropNode i x.level x.node).post 443
      | (w, s1) => ((s1.blocksLost sl w).dropNode i x.level x.node).walkFailed w (nodeAddr s1 i x.level x.node) i 0 true true

/-- The sets of the counter cache fall back to eight nodes each: the least recently used leave, dirty ones by write-back
(R278). `fuel` bounds the evictions that one command can cause. -/
def State.trimNodes (sl : Nat) (lines : List DramLine) : Nat → State → State
  | 0, s => s
  | fuel + 1, s =>
    if s.mode == .lockdown then s
    else
      match overfull s.mem.ccache with
      | none => s
      | some x => (s.evictNode sl false false lines x).trimNodes sl lines fuel

/-- Every dirty node of a level is written back; after an integrity failure nothing more is written (R289). -/
def State.flushLevel (s : State) (level : Nat) : State :=
  (s.mem.ccache.filter (fun c => c.dirty && c.level == level)).foldl
    (fun x c => if x.mode == .lockdown then x else x.evictNode 0 false false [] c) s

/-- Every dirty tag line is written back. -/
def State.flushTags (s : State) : State :=
  let s1 := (s.mem.tcache.filter (·.dirty)).foldl (fun x t => x.writeDram t.addr t.bytes) s
  { s1 with mem := { s1.mem with tcache := s1.mem.tcache.map (fun t => { t with dirty := false }) } }

/-- The flush of R291: the write-merge buffer drains, dirty nodes go out level by level, then dirty tag lines; the
clean flag is set and flush-complete posted. What it must read, it reads as Quecy last wrote it (log 13); slice 0 does
the work (log 18). -/
def State.flushTeasel (s : State) : State :=
  let s1 := s.mem.wmb.foldl (fun x e => if x.mode == .lockdown then x else x.drainEntry 0 false false [] e) s
  let s2 := (List.range 7).foldl (fun x l => x.flushLevel l) s1
  if s2.mode == .lockdown then s2
  else
    let s3 := s2.flushTags
    ({ s3 with mem := { s3.mem with clean := true } }).post 456

/-- Held key parts are discarded as a slice goes to rest or the block to Dormant (R285, R440). -/
def State.dropKeys (s : State) (p : Nat → Bool) : State :=
  { s with mem := { s.mem with keys := s.mem.keys.filter (fun e => !p e.1) } }

/-! ### Taking accesses (R267, R279, R281) -/

/-- Replies of an earlier command are gone. -/
def State.clearReplies (s : State) : State := { s with mem := { s.mem with replies := [] } }

def State.memReply (s : State) (r : MemReply) : State :=
  { s with mem := { s.mem with replies := s.mem.replies ++ [r] } }

/-- Identifier and physical address of an access. -/
def accIdent (a : MemAccess) : Nat := fld a.addr 48 4
def accPhys (a : MemAccess) : Nat := fld a.addr 0 48

/-- A refused access: a read receives an error response, a write is not performed (R268). -/
def State.refuseAccess (s : State) (a : MemAccess) (f : MemFault) : State :=
  let s1 := s.memOutcome f
  if a.write then s1 else s1.memReply (.error 0)

/-- The entry of the write-merge buffer for the line of an access. -/
def entryOf (s : State) (a : MemAccess) : Option WmEntry :=
  s.mem.wmb.find? (fun e => e.id == (accIdent a) && e.addr == lineOf (accPhys a))

/-- A read is to wait for DRAM; the bytes of the write-merge buffer that stand now are its own (R281). -/
def State.waitRead (s : State) (a : MemAccess) (sl : Nat) : State :=
  let (data, mask) := match entryOf s a with
    | some e => (e.data, e.mask)
    | none => ([], 0)
  { s with mem := { s.mem with
    waits := s.mem.waits ++ [⟨s.mem.nextAcc, a.port.val, (accIdent a), (accPhys a), a.len, sl, data, mask⟩]
    nextAcc := s.mem.nextAcc + 1 } }

/-- A read that needs no DRAM is answered at once. -/
def State.answerNow (s : State) (a : MemAccess) (bytes : List Byte) : State :=
  ({ s with mem := { s.mem with
    replies := s.mem.replies ++ [MemReply.data s.mem.nextAcc bytes], nextAcc := s.mem.nextAcc + 1 } }).post (434 + a.port.val)

/-- A write merges into its line's entry or takes a free one (R279). -/
def State.takeWrite (s : State) (a : MemAccess) : State :=
  let off := accPhys a % 64
  let put (old : WmEntry) : WmEntry := { old with
    data := (List.range 64).map (fun k => if off ≤ k && k < off + a.len then a.data.getD (k - off) 0 else old.data.getD k 0)
    mask := setFld old.mask off a.len (2 ^ a.len - 1)
    since := s.now }
  let w := match entryOf s a with
    | some e => s.mem.wmb.map (fun x => if x = e then put e else x)
    | none => s.mem.wmb ++ [put ⟨(accIdent a), lineOf (accPhys a), List.replicate 64 0, 0, s.now, a.port.val⟩]
  (({ s with mem := { s.mem with wmb := w, clean := false } }).post (436 + a.port.val)).memReply .accepted

/-- A read under an identifier 1 to 15 that passed every check: from a full entry of the write-merge buffer, as zeros where
its counter is known to be 0, or from DRAM once the slice has the key. -/
def State.takeRead (s : State) (a : MemAccess) (u : MemUnit) : State :=
  let i := accIdent a
  let n := lineNumber s i (accPhys a)
  let e := entryOf s a
  let s1 := if isProtected s i then s.countWalk i n else s
  if (e.map (·.mask)) = some fullMask then s.answerNow a (slice ((accPhys a) % 64) a.len ((e.map (·.data)).getD []))
  else if e.isNone && isProtected s i && knownZero s1 i (treeH s i + 1) 0 n then
    ((s1.touchNode i (treeH s i + 1) 0 n).post 457).answerNow a (List.replicate a.len 0)
  else
    match (s1.sliceWorks u.slice.val).sliceKey u.slice.val u.badA u.badB i with
    | (some _, s2) => s2.waitRead a u.slice.val
    | (none, s2) => s2.refuseAccess a ⟨(accPhys a), i, 0xB, a.port.val, false, false, 0xD⟩

/-- A write finds no place in the write-merge buffer (R279). -/
def noPlace (s : State) (a : MemAccess) : Bool :=
  a.write && (accIdent a) != 0 && (entryOf s a).isNone && decide (64 ≤ s.mem.wmb.length)

/-- The port holds an access: a write without a place, an access to a line for which an earlier one is held, and a clear
write to a line that a clear read waits for, since accesses to one line are performed in the order taken (R281). -/
def mustHold (s : State) (a : MemAccess) : Bool :=
  noPlace s a || s.mem.held.any (fun x => accIdent x == accIdent a && lineOf (accPhys x) == lineOf (accPhys a)) ||
    (a.write && (accIdent a) == 0 && s.mem.waits.any (fun w => w.id == 0 && lineOf w.addr == lineOf (accPhys a)))

/-- An access is taken. -/
def State.takeAccess (s : State) (a : MemAccess) (u : MemUnit) : State :=
  if (accIdent a) = 0 then
    if a.write then (s.writeDram (accPhys a) a.data).memReply .accepted else s.waitRead a 0
  else if a.write then s.takeWrite a else s.takeRead a u

/-- The accesses that a port has held are taken in their order as far as they may be. -/
def State.takeHeld (u : MemUnit) : List MemAccess → State → State
  | [], s => s
  | a :: rest, s =>
    if mustHold s a then State.takeHeld u rest { s with mem := { s.mem with held := s.mem.held ++ [a] } }
    else State.takeHeld u rest (s.takeAccess a u)

def State.releaseHeld (s : State) (u : MemUnit) : State :=
  State.takeHeld u s.mem.held { s with mem := { s.mem with held := [] } }

/-- What follows the work of a slice: the caches are trimmed and held accesses taken. -/
def State.memDone (s : State) (u : MemUnit) (lines : List DramLine) : State :=
  (State.trimNodes u.slice.val lines 4096 s).releaseHeld { u with badA := false, badB := false }

/-- The check of an access of `len` bytes at a physical address against the region tables (R262, R267, R294) and against
poison: its fault, or none. -/
def memFaultAt (s : State) (i phys len port : Nat) (write engine : Bool) : Option MemFault :=
  let f (cause : Nat) : MemFault := ⟨phys, i, cause, port, write, engine, 0xD⟩
  if 64 < phys % 64 + len then some (f 4)
  else if i = 0 then (if inProtectedArea s phys len then some (f 1) else none)
  else if s.mode == .lockdown || s.retention.isSome then some (f 0xD)
  else if !idValid (idWord s i) || !(s.slot (slotMemA i)).live || !(s.slot (slotMemB i)).live then some (f 2)
  else if (regionOf s i phys len).isNone then some (f 3)
  else if isProtected s i && poisonedLine s i (lineNumber s i phys) then some (f 5)
  else none

def memFaultOf (s : State) (a : MemAccess) : Option MemFault :=
  memFaultAt s (accIdent a) (accPhys a) a.len a.port.val a.write false

/-- An access by Quecy's own DMA to a Bindweed region, one line, judged as any other (R266, R267): whether it passes. One to
a protected line finds its level-0 node cached or not (R295). -/
def State.ownAccess (s : State) (phys : Nat) (write : Bool) : Bool × State :=
  match memFaultAt s s.img.bwId phys 64 0 write true with
  | some f => (false, s.memOutcome f)
  | none => (true, if isProtected s s.img.bwId then s.countWalk s.img.bwId (lineNumber s s.img.bwId phys) else s)

/-- The lines of a Bindweed record, each of them an access of Quecy's own DMA. What the record holds stands in the state
(log 60), so a refusal is logged and changes nothing else. -/
def State.ownLines (s : State) (phys n : Nat) (write : Bool) : State :=
  (List.range n).foldl (fun x k => (x.ownAccess (phys + 64 * k) write).2) s

/-- The record of verified chain n, 192 bytes, is read or written (R182, R192). -/
def State.verAccess (s : State) (n : Nat) (write : Bool) : State := s.ownLines (s.img.bwVer.toNat + 192 * n) 3 write

/-- A verified chain's record is written. -/
def State.storeVer (s : State) (n : Nat) (v : Ver) : State := (s.verAccess n true).setVer n v

/-- The record of a hold, 64 bytes, is read or written (R182, R195). -/
def State.holdAccess (s : State) (slot : Nat) (write : Bool) : State := s.ownLines (s.img.bwHold.toNat + 64 * slot) 1 write

/-- MEMORY_ACCESS (R262, R267, R294, R354): the gate, then the region tables, then the read or write path. In Dormant the
ports accept nothing (R292). -/
def execMemoryAccess (a : MemAccess) (t : Nat) (u : MemUnit) (s : State) : Out :=
  if !wfMem a then .refused .illFormed
  else
    let s0 := ((s.atTime t).clearReplies).chipErrors u.chip
    if s0.mode == .dormant then .next s0
    else
      match portRefusal s0 a with
      | some f =>
        let s1 := s0.logGate (gateOfCls a.cls) f
        .next (if a.write then s1 else s1.memReply (.error 0))
      | none =>
        match memFaultOf s0 a with
        | some f =>
          if f.cause = 5 && !a.write then .next ((s0.memOutcome f).memReply (.poison 0))
          else .next (s0.refuseAccess a f)
        | none =>
          if mustHold s0 a then
            .next (({ s0 with mem := { s0.mem with held := s0.mem.held ++ [a] } }).postIf (noPlace s0 a) 444)
          else .next (s0.takeAccess a u)

/-- The data of a finished read, with the bytes of the write-merge buffer that stood when it was taken (Table 9.7). -/
def State.finishRead (s : State) (w : MemWait) (line : List Byte) : State :=
  let s1 := s.memReply (.data w.acc (slice (w.addr % 64) w.len (overlay w.data w.mask line)))
  if w.id = 0 then s1 else s1.post (434 + w.port)

/-- A waiting read whose line has arrived (R269, R277, R287). -/
def State.performRead (s : State) (w : MemWait) (badA badB : Bool) (lines : List DramLine) : State :=
  let a := lineOf w.addr
  let f (cause level : Nat) : MemFault := ⟨w.addr, w.id, cause, w.port, false, false, level⟩
  if w.id = 0 then
    let (b, e) := dramLine s lines a
    if e == .uncorrectable then s.memReply (.poison w.acc) else (s.eccSeen e).finishRead w b
  else
    match s.sliceKey w.slice badA badB w.id with
    | (none, s1) => (s1.memOutcome (f 0xB 0xD)).memReply (.error w.acc)
    | (some k, s1) =>
      let s2 := s1.sliceWorks w.slice
      if !isProtected s2 w.id then
        let (b, e) := dramLine s2 lines a
        if e == .uncorrectable then (s2.memOutcome (f 6 0xF)).memReply (.poison w.acc)
        else (s2.eccSeen e).finishRead w (xtsDecrypt k.a k.b (a / 64) b)
      else
        let n := lineNumber s2 w.id w.addr
        if poisonedLine s2 w.id n then
          (s2.walkFailed .poisoned w.addr w.id w.port false false).memReply (.poison w.acc)
        else
          match readLine k lines w.id n a s2 with
          | (.ok, b, fresh, s3) => (s3.postIf fresh 457).finishRead w b
          | (.mismatch l x, _, _, s3) =>
            ((s3.blocksLost w.slice (.mismatch l x)).memReply (.error w.acc)).walkFailed (.mismatch l x) w.addr w.id w.port false false
          | (r, _, _, s3) => (s3.walkFailed r w.addr w.id w.port false false).memReply (.poison w.acc)

/-- MEMORY_READ_RETURN (R277, R287): the reads a waiting access needs have arrived. -/
def execMemoryReadReturn (acc : Nat) (lines : List DramLine) (badA badB : Bool) (chip : List ChipError) (s : State) : Out :=
  if !wfLines lines then .refused .illFormed
  else
    match s.mem.waits.find? (fun w => w.acc == acc) with
    | none => .next s.clearReplies
    | some w =>
      let s0 := s.clearReplies.chipErrors chip
      let s1 : State := { s0 with mem := { s0.mem with waits := s0.mem.waits.filter (fun x => x.acc != acc) } }
      .next ((s1.performRead w badA badB lines).memDone ⟨BitVec.toFin (BitVec.ofNat 2 w.slice), false, false, []⟩ lines)

/-- No read that was taken before waits for the line of an entry: the entry may be written (R281). -/
def mayDrain (s : State) (e : WmEntry) : Bool := !s.mem.waits.any (fun w => w.id == e.id && lineOf w.addr == e.addr)

/-- The entry that drains now: the oldest that has been idle for 1 µs, or, where a write waits for a place in a full
buffer, the oldest of all (R279). -/
def drainChoice (s : State) : Option WmEntry :=
  match s.mem.wmb.find? (fun e => decide (e.since + 1000 ≤ s.now) && mayDrain s e) with
  | some e => some e
  | none => if s.mem.held.any (noPlace s) then s.mem.wmb.find? (mayDrain s) else none

/-- WRITE_MERGE_DRAIN (R279, R280). -/
def execWriteMergeDrain (t : Nat) (lines : List DramLine) (u : MemUnit) (s : State) : Out :=
  if !wfLines lines then .refused .illFormed
  else
    let s0 := ((s.atTime t).clearReplies).chipErrors u.chip
    match drainChoice s0 with
    | some e => .next ((s0.drainEntry u.slice.val u.badA u.badB lines e).memDone u lines)
    | none => .next s0

/-- NODE_WRITEBACK (R278): a node leaves the counter cache. -/
def execNodeWriteback (id : BitVec 4) (level node : Nat) (lines : List DramLine) (u : MemUnit) (s : State) : Out :=
  if !wfLines lines then .refused .illFormed
  else
    let s0 := s.clearReplies.chipErrors u.chip
    match cachedNode s0 id.toNat level node with
    | some x => .next ((s0.evictNode u.slice.val u.badA u.badB lines x).memDone u lines)
    | none => .next s0

end Sys2Proof.Machine
end

