-- ==== Sys2Proof/Machine/Ports.lean ====
section
/-!
DEFINITION. Ports (10_ports_and_pcs.md): transmit enable, link down and link up, the port reset and its pins, and the
rest of single blocks (15_power_and_clocks.md, "Rest levels").
-/

namespace Sys2Proof.Machine

/-! ### Transmit enable (R309 to R311) -/

/-- The transmit-enable of port p: in Service and Drill; once Dormant or a retention restart is entered, until the frame
on the wire has ended (R311, R430). -/
def txEnable (s : State) (p : Nat) : Bool :=
  portEnabled s.img p && !(s.port p).inReset &&
    (if stopping s then portBusy s p else trafficMode s)

/-- The port that a lane belongs to (R296, R297): in quad mode 0x4 all four lanes are the quad's one port. -/
def portOfLane (img : ImgCfg) (l : Nat) : Nat := if quadMode img l = 4 then l / 4 * 4 else l

/-- The transmit-enable output of a lane (R309, R310). -/
def laneEnable (s : State) (l : Nat) : Bool := txEnable s (portOfLane s.img l)

/-- The hold of R306 counts from now on every port whose transmit-enable rises. -/
def State.txRise (s : State) : State :=
  (List.range 16).foldl (fun x p =>
    if txEnable x p then x.setPort p { x.port p with cleanFrom := x.now } else x) s

/-! ### What the line carries (R298, R307) -/

/-- Clause 37 runs on the port. -/
def autonegRuns (img : ImgCfg) (p : Nat) : Bool := quadMode img p == 3 && (portCfg img p).autoneg

/-- The ability that Clause 37 advertises: full duplex only, no pause (R298). The bit is that of the base page of Clause 37
(log 51). -/
def advertised : BitVec 16 := 0x0020

/-- What a port puts on its line: nothing, frames and idle between them, idle, remote fault, or the configuration sequence
of Clause 37. -/
inductive LineSignal where
  | dark | traffic | idle | remoteFault | configuration
  deriving DecidableEq, Repr

def lineSends (s : State) (p : Nat) : LineSignal :=
  let v := s.port p
  if !txEnable s p then .dark
  else if v.up then .traffic
  else if quadMode s.img p = 3 then .configuration
  else if v.conds.contains .localFault then .remoteFault
  else .idle

/-! ### Link down (R302, R307, R308) -/

/-- A copy of the frame that was still to start finds its port down: the frame goes out on the other port alone. -/
def State.oneCopyLess (s : State) (p : Nat) (x : TxFrame) : State :=
  if x.kind == .hsr then s.bumpPair (portA s.img p) 4
  else if x.kind != .ptp && (pairOf s.img p).isSome then s.bumpPair (portA s.img p) 5
  else s

/-- The frames being transmitted on port p end with an error block: transmit-aborted, unless the copy on the pair's other
port goes out whole. -/
def State.cutPort (s : State) (p : Nat) : State :=
  (s.tx.filter (fun x => x.stage == .onWire && (bit x.onPorts p || bit x.ports p))).foldl (fun t x =>
    let b := BitVec.ofNat 16 (2 ^ p)
    let t1 := if bit x.onPorts p then (t.bumpPort p 29 1).post (12 * p + 10) else t.oneCopyLess p x
    let y := { x with onPorts := x.onPorts &&& ~~~b, ports := x.ports &&& ~~~b, cut := x.cut ||| b }
    let t2 := if y.onPorts = 0 && y.ports = 0 && x.iface && !x.ended then t1.skipHandle x.handle else t1
    t2.endIfDone y) s

/-- Frames that wait and whose every port is down complete with LINK_DOWN; a forward that waits is dropped and counted. -/
def State.failWaiting (s : State) (p : Nat) : State :=
  (s.tx.filter (fun x => x.stage != .onWire && x.judged && bit x.ports p && upPorts s x.ports.toNat = 0)).foldl (fun t x =>
    let t1 := if x.kind == .hsr then t.bumpPair (portA t.img p) 4 else t
    let t2 := if x.iface && !x.ended then t1.skipHandle x.handle else t1
    t2.completeTx x stLinkDown false) s

/-- Frames being received on port p end: one with its V0 word is to get FRAME_ABORTED, one without is dropped. `cut` names
the frames that have not arrived whole; the others are processed normally (R308). -/
def State.abortReceive (s : State) (p : Nat) (cut : List Nat) : State :=
  let hit (x : RxFrame) : Bool := x.rx.port.val == p && cut.contains x.id && !x.aborted
  let n := (s.rx.filter hit).length
  ({ s with rx := (s.rx.filter (fun x => !hit x || x.v0)).map (fun x => if hit x then { x with aborted := true } else x) }).bumpPort p 7 n

/-- The link of port p is declared down. -/
def State.declareDown (s : State) (p : Nat) (cut : List Nat) : State :=
  if !(s.port p).up then s
  else
    let s1 := s.setPort p { s.port p with up := false }
    let s2 := (s1.bumpPort p 41 1).post (12 * p + 1)
    ((s2.abortReceive p cut).cutPort p).failWaiting p

/-- The events and counters with which a condition begins (Tables 10.4 and 10.6). -/
def State.condBegins (s : State) (p : Nat) (c : LinkCond) : State :=
  match c with
  | .localFault => s.post (12 * p + 2)
  | .remoteFault => s.post (12 * p + 3)
  | .highBer => (s.post (12 * p + 4)).bumpPort p 42 1
  | _ => s

/-- The conditions of R306 that a port of this kind can meet. -/
def condApplies (img : ImgCfg) (p : Nat) (c : LinkCond) : Bool :=
  let m := quadMode img p
  match c with
  | .blockLock => m == 1 || m == 2
  | .alignment => m == 4 || (m == 1 && portFec img p == 2)
  | .synchronisation => m == 3
  | .autonegRestart => autonegRuns img p
  | _ => true

/-- LINK_DOWN (R306, R307): a condition reaches the PCS, and a link that is up is declared down; or a condition clears, and
with the last of them the hold begins to count. -/
def execLinkDown (p : Fin 16) (c : LinkCond) (present : Bool) (t : Nat) (cut : List Nat) (s : State) : Out :=
  let s0 := s.atTime t
  let v := s0.port p.val
  if !portExists s0.img p.val || !condApplies s0.img p.val c then .next s0
  else if present then
    let s1 := if v.conds.contains c then s0
      else (s0.setPort p.val { v with conds := v.conds ++ [c] }).condBegins p.val c
    .next (s1.declareDown p.val cut)
  else if v.conds.contains c then
    let left := v.conds.filter (· != c)
    .next (s0.setPort p.val { v with conds := left, cleanFrom := if left.isEmpty then s0.now else v.cleanFrom })
  else .next s0

/-- LINK_UP (R298, R306): no condition holds, and the link-up hold has passed since the rise of transmit-enable and the end of
the last one: the link is declared up. `partner` tells, where auto-negotiation runs, that it has completed and whether
the partner advertises full duplex. -/
def execLinkUp (p : Fin 16) (t : Nat) (partner : Option Bool) (s : State) : Out :=
  let s1 := s.atTime t
  let v := s1.port p.val
  if !txEnable s1 p.val || v.up || !v.conds.isEmpty || (autonegRuns s1.img p.val && partner != some true) ||
      decide (s1.now < v.cleanFrom + (portCfg s1.img p.val).holdMs * 1000000) then .next s1
  else .next ((s1.setPort p.val { v with up := true }).post (12 * p.val))

/-! ### Port reset (R312, R496 to R498) -/

/-- A port reset begins: transmit-enable falls and the frames in flight end as on a link down. -/
def State.resetPort (s : State) (p : Nat) (cut : List Nat) : State :=
  if !portExists s.img p then s
  else
    let s1 := s.declareDown p cut
    s1.setPort p { s1.port p with inReset := true, resetAt := s1.now }

/-- PORT_RESET_REQUEST (R496, R25): PRST_REQ is acknowledged and the reset performed at once; not in Assay or Lockdown,
and not for a port that does not exist (R428, R498). -/
def execPortResetRequest (p : Fin 16) (t : Nat) (cut : List Nat) (s : State) : Out :=
  let s1 := s.atTime t
  if s1.mode == .assay || s1.mode == .lockdown || !portExists s1.img p.val || (s1.port p.val).prstAck then .next s1
  else
    let s2 := s1.resetPort p.val cut
    .next (s2.setPort p.val { s2.port p.val with prstAck := true })

/-- PORT_RESET_REQUEST_FALL (R496). -/
def execPortResetRequestFall (p : Fin 16) (s : State) : Out :=
  .next (s.setPort p.val { s.port p.val with prstAck := false })

/-- A staged change that is due: its tick is not later than the one in force. None is while a retention restart is held
(R382). -/
def stagedDue (s : State) (c : Staged) : Bool := !restartHeld s && decide (c.tick ≤ tickNow s c.dom)

/-- The due change of an object that satisfies a test. -/
def dueChange (s : State) (o : Obj) (ok : Change → Bool) : Option Staged :=
  s.staged.find? (fun c => c.obj == o && ok c.chg && stagedDue s c)

def State.unstage (s : State) (c : Staged) : State := { s with staged := s.staged.erase c }

/-- PORT_RESET_ACTION (R312, R405): the action of a port reset that is due at its plan tick. -/
def execPortResetAction (p : Fin 16) (t : Nat) (cut : List Nat) (s : State) : Out :=
  let s1 := s.atTime t
  match dueChange s1 (.port p.val) (· == .portReset) with
  | some c => .next ((s1.unstage c).resetPort p.val cut)
  | none => .next s1

/-- Port p under a configuration that has just come into force: conditions that its kind cannot meet are gone, and a port that
no longer exists is not in reset (R300, R306). -/
def State.fitPort (s : State) (p : Nat) : State :=
  let v := s.port p
  let left := v.conds.filter (condApplies s.img p)
  if portExists s.img p then
    s.setPort p { v with conds := left, cleanFrom := if left.isEmpty && !v.conds.isEmpty then s.now else v.cleanFrom }
  else s.setPort p { v with conds := [], inReset := false, resetAt := 0 }

/-- PORT_RESET_COMPLETE (R312): after at least 10 µs the configuration is applied again and transmit-enable may rise. -/
def execPortResetComplete (p : Fin 16) (t : Nat) (s : State) : Out :=
  let s1 := s.atTime t
  let v := s1.port p.val
  if portExists s1.img p.val && v.inReset && decide (v.resetAt + 10000 ≤ s1.now) then
    .next ((s1.setPort p.val { v with inReset := false, resetAt := 0, cleanFrom := s1.now }).post (12 * p.val + 11))
  else .next s1

/-! ### Rest of single blocks (R444 to R446) -/

/-- A hold keeps unit u awake (R445). -/
def unitHeld (s : State) (u : Nat) : Bool :=
  if u < 3 then sealHeld s else if u < 6 then openHeld s else if u < 10 then false else keccakHeld s

/-- A frame is in slice u, or a read in it waits for memory. -/
def unitBusy (s : State) (u : Nat) : Bool :=
  s.tx.any (fun x => x.stage == .sealed && x.slice == u) || s.rx.any (fun x => x.v0 && decide (3 ≤ u) && x.slice + 3 == u) ||
    s.mem.waits.any (fun w => w.id != 0 && w.slice + 6 == u)

/-- A block goes to a rest level, with its rest-entry event at either level (Tables 16.2 and 16.3, log 37); a memory slice
that is switched off loses the key parts it held (R440). -/
def State.restAt (s : State) (u l : Nat) : State :=
  let s1 : State := { s with power := { s.power with rest := Table.put 0 u l s.power.rest } }
  (if l = 2 && decide (6 ≤ u) then s1.dropKeys (· == u - 6) else s1).post (195 + 4 * u)

/-- The modes in which idle blocks rest (R444). -/
def restMode (s : State) : Bool := s.mode == .commission || s.mode == .service || s.mode == .drill

/-- REST_ENTRY (R444): a block that is not held and has been idle for its time rests one level deeper. -/
def execRestEntry (unit : Fin 12) (t : Nat) (s : State) : Out :=
  let s1 := s.atTime t
  let r := Table.get 0 unit.val s1.power.rest
  let idle := s1.now - Table.get 0 unit.val s1.power.lastWork
  if restMode s1 && decide (r < s1.power.level) && !unitHeld s1 unit.val && !unitBusy s1 unit.val &&
      (if r = 0 then decide (2048 ≤ 10 * idle) else decide (10000 ≤ idle)) then
    .next (s1.restAt unit.val (r + 1))
  else .next s1

/-- REST_EXIT (R446): work reaches the block, which is awake again; an entry in progress is abandoned. -/
def execRestExit (unit : Fin 12) (t : Nat) (s : State) : Out := .next ((s.atTime t).worked unit.val)

end Sys2Proof.Machine
end

