-- ==== Sys2Proof/Machine/Records.lean ====
section
/-!
DEFINITION. SEAL and UNSEAL records in chunks of 4 KiB (R344 to R346), and the recheck of a stopped ring (R359).
-/

namespace Sys2Proof.Machine

/-! ### Layouts (Tables 4.5 and 11.9) -/

/-- The AAD of a record. -/
def recordAad (domain handle len : Nat) : List Byte :=
  [1] ++ natToBytes 1 domain ++ natToBytes 2 handle ++ [0, 0, 0, 0] ++ natToBytes 8 len

/-- The header of a sealed record. -/
def recordHeader (domain handle gen epoch count len : Nat) : List Byte :=
  [1] ++ natToBytes 1 domain ++ natToBytes 2 handle ++ natToBytes 2 gen ++ [0, 0] ++ natToBytes 6 epoch ++
    natToBytes 6 count ++ [0, 0, 0, 0] ++ natToBytes 8 len

def recordIv (epoch count : Nat) : List Byte := natToBytes 6 epoch ++ natToBytes 6 count

def hdrGen (h : List Byte) : Nat := beAt 4 2 h
def hdrEpoch (h : List Byte) : Nat := beAt 8 6 h
def hdrCount (h : List Byte) : Nat := beAt 14 6 h
def hdrLen (h : List Byte) : Nat := beAt 24 8 h

/-- The generation by which an UNSEAL stream opens a record: current, or previous while it is open (R345). -/
def recordGen (s : State) (h n : Nat) : Option Gen :=
  let c := s.stream h
  if c.cur.valid && c.cur.num == n then some c.cur
  else if c.prv.valid && !(s.aux_ h).closed.contains c.prv.num && c.prv.num == n then some c.prv
  else none

/-! ### Progress -/

def chunkBytes : Nat := 4096

def RecordJob.space (j : RecordJob) : Nat := fld (j.descr.getD 3 0) 0 32
def RecordJob.cookie (j : RecordJob) : Nat := fld (j.descr.getD 3 0) 32 16
def RecordJob.src (j : RecordJob) : Nat := (j.descr.getD 1 0).toNat
def RecordJob.dst (j : RecordJob) : Nat := (j.descr.getD 2 0).toNat

/-- The first chunk has been taken up. -/
def RecordJob.begun (j : RecordJob) : Bool := !j.iv.isEmpty

/-- The record in progress of stream h. -/
def jobOf (s : State) (h : Nat) : Option RecordJob := s.jobs.find? (fun j => j.handle == h && j.started)

/-- A record that starts, or has had its chunk, goes to the end of the rotation (R346). -/
def State.setJob (s : State) (j : RecordJob) : State := { s with jobs := s.jobs.filter (fun k => k.id != j.id) ++ [j] }

/-- The record's turn in the rotation of its direction (R346), which frames come before (R55, R56). -/
def recordTurn (s : State) (j : RecordJob) : Bool :=
  recordMayRun s (if j.opening then .ingress else .egress) j.id &&
    (s.jobs.find? (fun k => k.started && k.opening == j.opening && gateServing s k.ctx.domain)).map (·.id) == some j.id

def State.dropJob (s : State) (j : RecordJob) : State := { s with jobs := s.jobs.filter (fun k => k.id != j.id) }

/-- The blocks of a record that fails are discarded, on every slice that served it (R468). -/
def State.discardRecord (s : State) (j : RecordJob) (status : Nat) : State :=
  if status = stGood then s else j.units.foldl (fun t e => t.discardBlocks e.1 1 e.2) s

/-- A record ends with a status: its completion is ready (Table 11.7). -/
def State.endRecord (s : State) (j : RecordJob) (status : Nat) : State :=
  let h := j.handle
  let d := (s.stream h).domain
  let s0 := ((if status = stExhausted then s.refuse96 j.ctx.domain j.opening else s).dropJob j).discardRecord j status
  let s1 := if status = stGood then (s0.setStream h (s0.stream h).bumpFrames).count 0x307 h d 1
    else if status = stKeyFailure then (s0.setStream h (s0.stream h).bumpFailures).count 0x30B h d 1
    else s0
  s1.output h j.entry (recordCompletion h status j.opening (hdrCount j.header) j.cookie (j.offset % 2 ^ 32)
    (hdrEpoch j.header)) 0 []

/-- The buffers of a record that has begun: an Unseal record's full extent is known once its header is read
(Table 12.4). -/
def jobBuffers (j : RecordJob) : List (Nat × Nat × Bool) :=
  if j.opening then [(j.src, 48 + j.total, false), (j.dst, j.space, true)] else recordBuffers false j.descr

/-- A slice processes a chunk of n bytes of the record. -/
def RecordJob.addBlocks (j : RecordJob) (u n : Nat) : RecordJob :=
  { j with units := Table.put 0 u (Table.get 0 u j.units + ceilDiv n 16) j.units }

/-- A data chunk of the record is as long as it must be. -/
def chunkLen (j : RecordJob) : Nat := min chunkBytes (j.total - j.offset)

/-! ### A chunk under its key -/

/-- Counter mode over a chunk that stands at an offset of the record. -/
def chunkCrypt (key : Key) (iv : List Byte) (off : Nat) (data : List Byte) : List Byte :=
  (gcmCrypt key iv (List.replicate off 0 ++ data)).drop off

/-- One chunk sealed: ciphertext to the destination, and with the last one header and tag. -/
def State.sealChunk (s : State) (j : RecordJob) (key : Key) (data : List Byte) : State :=
  let ct := chunkCrypt key j.iv j.offset data
  let k := { j with offset := j.offset + data.length, output := j.output ++ ct }
  let s1 := s.writeHost (j.dst + 32 + j.offset) ct
  if k.offset < k.total then s1.setJob k
  else
    let tag := gcmTag key k.iv (recordAad j.ctx.domain j.handle k.total) k.output
    ((s1.writeHost j.dst k.header).writeHost (j.dst + 32 + k.total) tag).endRecord k stGood

/-- One chunk opened: plaintext to the destination; the last one checks the tag that follows it, and a wrong tag
overwrites what was written with zeros (R345). -/
def State.openChunk (s : State) (j : RecordJob) (key : Key) (data tag : List Byte) : State :=
  let pt := chunkCrypt key j.iv j.offset data
  let k := { j with offset := j.offset + data.length, input := j.input ++ data }
  let s1 := s.writeHost (j.dst + j.offset) pt
  if k.offset < k.total then s1.setJob k
  else if gcmTag key k.iv (recordAad (beAt 1 1 k.header) (beAt 2 2 k.header) k.total) k.input == tag then
    s1.endRecord k stGood
  else (s1.writeHost k.dst (List.replicate k.total 0)).endRecord k stRecTag

/-- The fetches of a chunk by unit u: its own, and one for each resumption after preemption (R143, R346). -/
def State.chunkFetch (s : State) (u slot : Nat) (cellBad : Bool) : Nat → Fetch × State
  | 0 => s.fetch u slot useRecord cellBad
  | n + 1 =>
    match s.fetch u slot useRecord cellBad with
    | (.ok _, s1) => s1.chunkFetch u slot false n
    | r => r

/-- A chunk under its key; a failed fetch ends the record (R29, R346). -/
def State.recordFetch (s : State) (j : RecordJob) (unit : Nat) (g : Gen) (cellBad : Bool) (resumptions : Nat)
    (f : Key → State → State) : State :=
  let (r, s1) := s.chunkFetch unit g.slot cellBad resumptions
  if s1.mode == .lockdown then s1
  else
    match r with
    | .ok key => f key.whole (s1.busyPulse (194 + 4 * unit))
    | bad => (s1.fetchFailed j.handle g bad).endRecord j stKeyFailure

/-- The first chunk of a Seal record takes the write count and the generation in force (R215, R344). -/
def State.beginSeal (s : State) (j : RecordJob) (key : Key) (data : List Byte) : State :=
  let (n, s1) := s.takeRunning j.handle
  let epoch := s1.ladder.epoch.toNat
  let g := (s1.stream j.handle).cur
  let hdr := recordHeader j.ctx.domain j.handle g.num epoch n j.space
  let k : RecordJob := { j with gen := g, total := j.space, iv := recordIv epoch n, header := hdr }
  s1.sealChunk k key data

/-- The status with which a record header is refused (R345). -/
def headerRefusal (s : State) (j : RecordJob) (header : List Byte) : Option Nat :=
  if header.getD 0 0 != 1 || beAt 6 2 header != 0 || beAt 20 4 header != 0 || beAt 1 1 header != j.ctx.domain then
    some stRecHeader
  else if j.space < hdrLen header then some stRecSpace
  else if (recordGen s j.handle (hdrGen header)).isNone then some stRecGen
  else none

/-- RECORD_CHUNK (R345, R346): the next chunk of the record in progress on stream h. `header` is an Unseal record's
header as DMA read it, `data` the chunk's source bytes (with the tag after an Unseal record's last chunk), `readOk`
whether the memory plane answered without error, `resumptions` how often the record was resumed after preemption. Where
fewer bytes are there than the chunk needs, the host fabric delays the read: the record's turn passes to the next (R342).
The buffers have been walked whole before the first chunk (R358). While the gate is offline the record pauses, and is
walked afresh then (R361). -/
def execRecordChunk (h : Handle) (header data : List Byte) (readOk : Bool) (sl : Fin 3) (cellBad : Bool)
    (resumptions : Nat) (s : State) : Out :=
  match jobOf s h.toNat with
  | none => .next s
  | some j0 =>
    let d := j0.ctx.domain
    if frozen s || !gateServing s d || !recordTurn s j0 then .next s
    else
      let fresh := !j0.begun
      let u := if j0.opening then 3 + sl.val else sl.val
      let j1 := if fresh && j0.opening then { j0 with header := header, total := hdrLen header } else j0
      let j := { j1 with walked := true }
      if fresh && !j.opening && (s.stream h.toNat).txExhausted then .next (s.endRecord j stExhausted)
      else
        match (if fresh && j.opening && !j0.walked then deputyFirst s d h.toNat (recordBuffers true j0.descr) else none) with
        | some f => .next ((s.logGate d f).endRecord j0 stBufferFault)
        | none =>
        if fresh && j.opening && header.length != 32 then
          .next (if readOk then s.setJob j0 else s.endRecord { j0 with header := [] } stBufferFault)
        else
          match (if fresh && j.opening then headerRefusal s j header else none) with
          | some st => .next (s.endRecord j st)
          | none =>
            match (if j0.walked then none else deputyFirst s d h.toNat (jobBuffers j)) with
            | some f => .next ((s.logGate d f).endRecord j stBufferFault)
            | none =>
              let n := if fresh && !j.opening then min chunkBytes j.space else chunkLen j
              let last := j.opening && decide (j.total ≤ j.offset + n)
              if !readOk then .next (s.endRecord j stBufferFault)
              else if data.length < n + (if last then 16 else 0) then .next (s.setJob j0)
              else
                let c := j.addBlocks u n
                if j.opening then
                  let g := if fresh then (recordGen s h.toNat (hdrGen header)).getD j.gen else j.gen
                  let k := { c with gen := g, iv := recordIv (hdrEpoch j.header) (hdrCount j.header) }
                  .next (s.recordFetch j u g cellBad resumptions
                    (fun key t => t.openChunk k key (data.take n) (slice n 16 data)))
                else if fresh then
                  .next (s.recordFetch j u (s.stream h.toNat).cur cellBad resumptions
                    (fun key t => t.beginSeal c key (data.take n)))
                else
                  .next (s.recordFetch j u j.gen cellBad resumptions (fun key t => t.sealChunk c key (data.take n)))

/-- RECORD_START (R346): with fewer than 64 records in progress, the first that waits starts. -/
def execRecordStart (s : State) : Out :=
  if (s.jobs.filter (·.started)).length < 64 then
    match nextRecord s with
    | some j => .next (s.setJob { j with started := true })
    | none => .next s
  else .next s

/-! ### Stopped rings (R359) -/

/-- A stopped ring is checked again: it runs on, or the refusal is logged. An offline gate is presented no deputy access
(R361); its coming online is the change at which the ring is checked. -/
def State.recheckRing (s : State) (h : Nat) : State :=
  let r := s.ring h
  if !r.stopped || !gateServing s (s.stream h).domain then s
  else
    let d := (s.stream h).domain
    let n := 64 + 32 * r.entries
    match deputyFirst s d h [(r.base, n, false), (r.base, n, true)] with
    | some f => s.logGate d f
    | none => s.setRing h { r with stopped := false }

/-- RING_RECHECK (R359): at the first plan boundary after a change to the domain's gate. -/
def execRingRecheck (h : Handle) (s : State) : Out :=
  if (s.gate (s.stream h.toNat).domain).changed then .next (s.recheckRing h.toNat) else .next s

end Sys2Proof.Machine
end

