-- ==== Sys2Proof/Machine/Notices.lean ====
section
/-!
DEFINITION. Partner violations and Partner Notices (05_wire_formats.md, R164 to R171): the notice tables, the token
bucket, the frames that carry notices, and the received-notice log.
-/

namespace Sys2Proof.Machine

/-- A partner violation: port of arrival, code of Table 5.9 (0 where Table 5.11 gives no notice), and what a notice
tells of it. -/
structure Violation where
  port : Nat
  code : Nat
  sa : BitVec 48
  fcsGood : Bool
  etherType : Nat
  subject : BitVec 64
  seqNo : BitVec 64
  keyRef : BitVec 32
  vlan : List Byte
  duplex : Option Nat

/-- A handle that no stream has, for frames of no stream. -/
def noHandle : Nat := 0x8000

/-! ### Notice frames (Table 5.8, R165) -/

/-- Bytes 14 to 59 of a notice. -/
def noticeBody (drill : Bool) (n : NoticeWait) : List Byte :=
  let e := n.entry
  [1, e.code, BitVec.ofNat 8 (boolNat drill + 2 * boolNat (decide (2 ^ 32 - 1 ≤ e.count)) + 4 * boolNat n.summary),
    BitVec.ofNat 8 e.port] ++ natToBytes 8 e.subject.toNat ++ natToBytes 8 e.seqNo.toNat ++
    natToBytes 4 e.keyRef.toNat ++ natToBytes 4 (min (2 ^ 32 - 1) e.count) ++ natToBytes 6 e.tick ++
    List.replicate 12 0

/-- The frame from DA on; sealed, its user data begins with EtherType 0x88B6. -/
def noticeFrame (s : State) (n : NoticeWait) : List Byte :=
  natToBytes 6 n.entry.sa.toNat ++ natToBytes 6 (stationOf s.img n.entry.port).toNat ++ n.entry.vlan ++ [0x88, 0xB6] ++
    noticeBody (s.mode == .drill) n

/-- A frame of Quecy's own, ready at the MAC for a set of ports. -/
def ownFrame (s : State) (kind : TxKind) (ports : Nat) (bytes : List Byte) : TxFrame :=
  { id := s.nextFrame, kind := kind, handle := noHandle,
    ctx := { Context.zero with w0 := setFld 0 42 2 1, w1 := setFld 0 32 16 ports },
    iface := false, report := false, entry := none, cookie := 0, declared := bytes.length, bytes := bytes, ended := true,
    short := false, trunc := false, demoted := false, cls := 1, stage := .ready, count := none, interval := 0, slice := 0,
    wire := bytes, plain := [], ports := BitVec.ofNat 16 ports, onPorts := 0, sent := 0, cut := 0, seqNo := 0,
    traced := false, badFcs := false, judged := true, trailer := [], mac := none, key := .zero, stamp := (0, 0), fail := none }

def portMaskOf (ps : List Nat) : Nat := (ps.map (fun p => 2 ^ p)).foldl (· + ·) 0

/-- The ports on which a clear notice goes out: the port of arrival, or both of an HSR pair. -/
def noticePorts (s : State) (p : Nat) : Nat :=
  match pairOf s.img p with
  | some (a, b, 2) => portMaskOf [a, b]
  | _ => 2 ^ p

/-- Notices may be sent, and those of this code are enabled by the active image (R166). -/
def noticeOn (s : State) (code : Nat) : Bool := trafficMode s && s.retention.isNone && bit s.img.noticeMask (code - 1)

/-- The stream on which a notice is sealed: the DUPLEX stream that the latest violating frame matched, if it is Armed as the
notice goes out (R165). -/
def noticeSealer (s : State) (n : NoticeWait) : Option Nat :=
  n.entry.duplex.bind (fun h => if (s.stream h).armed && (s.stream h).isDuplex then some h else none)

/-- A notice goes out and is counted: sealed on an Armed DUPLEX stream, in clear otherwise. Nothing goes to ports that are
down, on an exhausted stream, or where R166 sends no notice. -/
def State.emitNotice (s : State) (n : NoticeWait) : State :=
  let bytes := noticeFrame s n
  if !noticeOn s n.entry.code.toNat then s
  else
    match noticeSealer s n with
    | some h =>
      let c := s.stream h
      if c.txExhausted || upPorts s c.portMask = 0 then s
      else
        let x : TxFrame := { ownFrame s .sealedNotice c.portMask bytes with
          handle := h, ctx := c, cls := 2, stage := .offered, wire := [] }
        ({ s with tx := s.tx ++ [x], nextFrame := s.nextFrame + 1 }).bumpPort n.entry.port 35 1
    | none =>
      let ports := noticePorts s n.entry.port
      if upPorts s ports = 0 then s
      else ({ s with tx := s.tx ++ [ownFrame s .notice ports bytes], nextFrame := s.nextFrame + 1 }).bumpPort n.entry.port 35 1

/-! ### The token bucket (R168) -/

/-- A notice takes a token, or waits for the next one and is counted as deferred. -/
def State.sendNotice (s : State) (n : NoticeWait) : State :=
  let a := portA s.img n.entry.port
  let v := s.port a
  if !noticeOn s n.entry.code.toNat then s
  else if v.tokens < s.img.noticeRate && v.waits.isEmpty then
    (s.setPort a { v with tokens := v.tokens + 1, tokenAt := if v.tokens = 0 then s.now else v.tokenAt }).emitNotice n
  else (s.setPort a { v with waits := v.waits ++ [n] }).bumpPort n.entry.port 37 1

/-- NOTICE_TOKEN (R168): the bucket of the port, or of its pair, gains a token, which the oldest waiting notice takes. -/
def execNoticeToken (p : Fin 16) (t : Nat) (s : State) : Out :=
  let s1 := s.atTime t
  let a := portA s1.img p.val
  let v := s1.port a
  let gap := 10 ^ 9 / s1.img.noticeRate
  if v.tokens = 0 || decide (s1.now < v.tokenAt + gap) then .next s1
  else
    match v.waits with
    | [] => .next (s1.setPort a { v with tokens := v.tokens - 1, tokenAt := if v.tokens = 1 then 0 else v.tokenAt + gap })
    | n :: rest => .next ((s1.setPort a { v with waits := rest, tokenAt := v.tokenAt + gap }).emitNotice n)

/-! ### The notice table (R167) -/

def noticeMsNs (s : State) : Nat := s.img.noticeMs * 1000000

/-- The lowest free entry of 64. -/
def freeNotice (t : Table NoticeEntry) : Option Nat := (List.range 64).find? (fun k => (Table.find k t).isNone)

/-- The entry whose interval ends soonest, the lowest-numbered of several. -/
def soonest (t : Table NoticeEntry) : Option (Nat × NoticeEntry) :=
  t.foldl (fun b e => match b with
    | none => some e
    | some x => if e.2.endAt < x.2.endAt then some e else b) none

/-- An entry as a violation makes it. -/
def Violation.entry (v : Violation) (count endAt : Nat) (tick : Tick) : NoticeEntry :=
  ⟨v.sa, BitVec.ofNat 8 v.code, count, endAt, v.port, v.subject, v.seqNo, v.keyRef, tick, v.vlan, v.duplex⟩

/-- A notice may be sent for this violation (R166). -/
def noticeAllowed (s : State) (v : Violation) : Bool :=
  decide (v.code ≠ 0) && v.fcsGood && !isGroup v.sa && v.sa != 0 && v.etherType != 0x88B6 && v.etherType != 0x88F7 &&
    noticeOn s v.code

/-- The violation is of the partner and code of an entry or of a waiting notice. -/
def Violation.meets (v : Violation) (e : NoticeEntry) : Bool := e.sa == v.sa && e.code.toNat == v.code

/-- A violation is counted: into a notice of its kind that still waits for a token (R168), or else in the table of its port
or pair, where a new entry sends a notice. -/
def State.noteViolation (s : State) (v : Violation) : State :=
  let a := portA s.img v.port
  let q := s.port a
  let t := q.notices
  if q.waits.any (fun n => v.meets n.entry) then
    s.setPort a { q with waits := q.waits.map (fun n =>
      if v.meets n.entry then { n with entry := v.entry (n.entry.count + 1) n.entry.endAt s.plan } else n) }
  else
    match t.find? (fun e => v.meets e.2) with
    | some (k, e) => s.setPort a { q with notices := Table.insert k (v.entry (e.count + 1) e.endAt s.plan) t }
    | none =>
      let s1 := match freeNotice t, soonest t with
        | none, some (_, e) => s.bumpPort v.port 36 e.count
        | _, _ => s
      let k := (freeNotice t).getD ((soonest t).map (·.1) |>.getD 0)
      let s2 := s1.setPort a { s1.port a with notices := Table.insert k (v.entry 0 (s.now + noticeMsNs s) s.plan) t }
      s2.sendNotice ⟨v.entry 1 0 s.plan, false⟩

/-- A port event that is posted once a plan period (Table 10.6). -/
def State.postOnce (s : State) (p off : Nat) : State :=
  if (s.port p).seen.contains off then s
  else (s.setPort p { s.port p with seen := off :: (s.port p).seen }).post (12 * p + off)

/-- A violation of Table 5.11: the port's event, and a notice where one is due. -/
def State.violation (s : State) (v : Violation) : State :=
  let s1 := s.postOnce v.port 7
  if noticeAllowed s1 v then s1.noteViolation v else s1

/-- A violation of a frame is reported unless one of the same frame has been (R171). -/
def State.report (s : State) (x : RxFrame) (v : Violation) : State := if x.reported then s else s.violation v

/-- NOTICE_INTERVAL_END (R167): an interval that ends with a count sends a summary; one without frees its entry. -/
def execNoticeIntervalEnd (p : Fin 16) (sa : BitVec 48) (code : BitVec 8) (t : Nat) (s : State) : Out :=
  let s1 := s.atTime t
  let a := portA s1.img p.val
  let tab := (s1.port a).notices
  match tab.find? (fun e => e.2.sa == sa && e.2.code == code) with
  | none => .next s1
  | some (k, e) =>
    if s1.now < e.endAt then .next s1
    else if e.count = 0 then .next (s1.setPort a { s1.port a with notices := Table.erase k tab })
    else
      let s2 := s1.setPort a { s1.port a with
        notices := Table.insert k { e with count := 0, endAt := e.endAt + noticeMsNs s1 } tab }
      .next (s2.sendNotice ⟨e, true⟩)

/-! ### Notices received (R169, R489) -/

/-- A received notice keeps Table 5.8. `b` is the frame from DA on, without FCS. -/
def noticeOkFrame (b : List Byte) : Bool :=
  let o := 14 + tagLen b
  b.length == 60 + tagLen b && beAt o 1 b == 1 && inRange 1 10 (beAt (o + 1) 1 b) && decide (beAt (o + 2) 1 b < 8) &&
    decide (beAt (o + 3) 1 b < 16) && (slice (o + 34) 12 b).all (· == 0)

/-- The words of a log entry (Table 17.9). -/
def noticeWords (p : Nat) (t : Tick) (b : List Byte) : List Word :=
  let o := 14 + tagLen b
  [at_ 47 1 ||| at_ 40 p, BitVec.ofNat 48 t, saOf b] ++
    (List.range 6).map (fun k => BitVec.ofNat 48 (beAt (o + 6 * k) 6 b))

/-- PARTNER_NOTICE_RECEIVE (R169): a received frame of EtherType 0x88B6 is counted, checked, logged, and its event
posted. -/
def execPartnerNoticeReceive (f : Nat) (s : State) : Out :=
  match s.rxFrame f with
  | none => .next s
  | some x =>
    if x.kind != .notice then .next s
    else
      let p := x.rx.port.val
      let s1 := (s.dropRx f).bumpPort p 38 1
      if !noticeOkFrame x.body then .next (s1.bumpPort p 11 1)
      else
        let l := s1.noticeLog
        let k := if l.present then (l.newest + 1) % 16 else 0
        .next (({ s1 with noticeLog := ⟨Table.put [] k (noticeWords p s1.plan x.body) l.entries, k, true⟩ }).post (12 * p + 9))

end Sys2Proof.Machine
end

