-- ==== Sys2Proof/Machine/Changes.lean ====
section
/-!
DEFINITION. Staged changes of streams: what each does to a context (03_streams.md, 07_key_generations.md), the state that
a stream will hold (R88), and the operations that take effect at a boundary.
-/

namespace Sys2Proof.Machine

/-! ### Words of a context under a change -/

/-- The twin link of w0, bits 30 to 15. -/
def linkBits : Word := at_ 15 0xFFFF

/-- Replaces the words w0 to w10 that a mask names, bit 10 for w0 (R389). The twin link is not among what a change may
alter, so w0 keeps the link it has at that boundary (R100). -/
def modifyCtx (c : Context) (mask : BitVec 11) (v : List Word) : Context :=
  let w (i : Nat) (old : Word) : Word := if bit mask (10 - i) then v.getD i 0 else old
  { c with
    w0 := (w 0 c.w0 &&& ~~~ linkBits) ||| (c.w0 &&& linkBits), w1 := w 1 c.w1, w2 := w 2 c.w2, w3 := w 3 c.w3, w4 := w 4 c.w4, w5 := w 5 c.w5,
    w6 := w 6 c.w6, w7 := w 7 c.w7, w8 := w 8 c.w8, w9 := w 9 c.w9, w10 := w 10 c.w10 }

/-- The flags of R84 clear. -/
def clearFlags (c : Context) : Context := ((c.setRollRequested false).setTxExhausted false).setKeyRefused false

/-- R213 steps 2 to 4 at tick t: step 4 excepts SEAL streams alone, and under suite 0x6 no count is loaded (Table 7.1). -/
def rollCtx (c : Context) (t : Tick) (first : Nat) : Context :=
  let c1 : Context := { c with prv := c.cur, cur := c.nxt, nxt := .zero, w11 := BitVec.ofNat 48 (t + c.grace) }
  if c.isSealRec then c1 else if c.isRecord then clearFlags c1 else clearFlags (c1.setTxCount first)

/-- R210: the next generation where a current one is valid, else the current one with its first transmit count. -/
def installCtx (c : Context) (i : Install) : Context :=
  if c.cur.valid then { c with nxt := i.gen }
  else if c.isRecord then { c with cur := i.gen }
  else ({ c with cur := i.gen }).setTxCount i.first

/-- The context after a change that takes effect at tick t; `first` is the first count of an installed next generation. -/
def applyCtx (first : Nat) (c : Context) (t : Tick) : Change → Context
  | .create n => n
  | .modify mask v => modifyCtx c mask v
  | .arm _ _ _ => c.setSt 2
  | .disarm => c.setSt 1
  | .retire => c.setSt 3
  | .twin o => c.setTwin true o
  | .unlink => c.setTwin false 0
  | .install i => if i.roll then rollCtx (installCtx c i) t i.first else installCtx c i
  | .roll _ => rollCtx c t first
  | .mode _ | .budget _ | .invalidate | .deleteChain | .gateOffline | .gateOnline | .portReset | .activate _ => c

/-! ### Staging (R18, R73, R88, R508) -/

def stagedOf (s : State) (o : Obj) : List Staged := s.staged.filter (fun c => c.obj == o)

/-- The latest tick for which an object has a staged change. -/
def lastStaged (s : State) (o : Obj) : Option Tick :=
  (stagedOf s o).foldl (fun b c => some (max c.tick (b.getD 0))) none

/-- The state that stream h will hold after every change staged for it (R88). A retirement stages the end of the link for
the twin as well (R100). -/
def futureStream (s : State) (h : Nat) : Context :=
  (stagedOf s (.stream h)).foldl (fun c x => applyCtx (s.aux_ h).firstCount c x.tick x.chg) (s.stream h)

def isStreamObj : Obj → Bool
  | .stream _ => true
  | _ => false

/-- Free staged contexts (R18). -/
def freeStaged (s : State) : Nat := 4096 - (s.staged.filter (fun c => isStreamObj c.obj)).length

/-- Free grace-table entries (R217). -/
def freeGrace (s : State) : Nat := 4096 - s.grace.length

/-- The tick to which NEXT resolves (R380): the next boundary, or later than every staged change of the object. -/
def nextTick (s : State) (o : Obj) (d : Nat) : Tick := max (tickNow s d + 1) ((lastStaged s o).elim 0 (· + 1))

def State.stage (s : State) (c : Staged) : State := { s with staged := s.staged ++ [c] }

/-! ### Grace entries (R217, R218) -/

def graceOf (s : State) (h g : Nat) : Option GraceEntry := s.grace.find? (fun e => e.handle == h && e.gen == g)

def State.dropGrace (s : State) (h : Nat) (p : GraceEntry → Bool) : State :=
  { s with grace := s.grace.filter (fun e => !(e.handle == h && p e)) }

/-- The oldest entry of a generation of stream h that guards a next generation is freed. -/
def State.dropNext (s : State) (h g : Nat) : State :=
  match s.grace.find? (fun e => e.handle == h && e.gen == g && !e.previous) with
  | some e => { s with grace := s.grace.erase e }
  | none => s

/-- Takes an entry for a generation of stream h. -/
def State.takeGrace (s : State) (h g : Nat) : State := { s with grace := s.grace ++ [⟨h, g, 0, 0, false, false⟩] }

/-- The early window of the next generation opens: its entry is an empty replay state (R218). -/
def State.openEarly (s : State) (h : Nat) : State :=
  let g := (s.stream h).nxt
  if g.valid then
    { s with grace := s.grace.map (fun e => if e.handle = h && e.gen == g.num && !e.previous && !e.opened then
      { e with hi := 0, map := 0, opened := true } else e) }
  else s

/-- A frame in flight for which the replay state of a generation is kept: one that selected it at V0, or one whose version,
taken at classification, has it as the current generation and that has not come to its V0 (R19, R22). R218 says nothing of
the second once its window has closed: DESIGN CHOICE, log 47. -/
def inFlight (s : State) (h g : Nat) : Bool :=
  s.rx.any (fun x => x.handle == h && x.kind == .protected_ &&
    (if x.v0 then x.gen == g else x.ctx.cur.valid && x.ctx.cur.num == g))

/-- The entry of each closed generation is freed once no frame in flight selected it, also where a later roll has made
another generation the previous one (R216, R223). -/
def State.freeGrace (s : State) (h : Nat) : State :=
  s.dropGrace h (fun e => e.previous && (s.aux_ h).closed.contains e.gen && !inFlight s h e.gen)

/-- The previous generation of stream h has closed. -/
def prvClosed (s : State) (h : Nat) : Bool := (s.aux_ h).closed.contains (s.stream h).prv.num

/-! ### Slots of generations (R91, R212, R216) -/

/-- A slot that a generation word of the context names. R212 does not say whether the words of a previous generation that
has closed still name theirs: DESIGN CHOICE, log 47: they do not. -/
def namesSlot (c : Context) (closed : Bool) (k : Nat) : Bool :=
  (c.cur.valid && c.cur.slot == k) || (c.nxt.valid && c.nxt.slot == k) || (c.prv.valid && !closed && c.prv.slot == k)

/-- The streams that share slots with stream h: itself, its live twin, and a twin that is being retired and still names it,
since the slots that both name stay until the second is freed (R100). -/
def slotSharers (s : State) (h : Nat) : List Nat :=
  let c := s.stream h
  h :: ((s.streams.filter (fun e => (c.twinValid && e.1 == c.twin && !e.2.free) ||
    (e.2.retiring && e.2.twinValid && e.2.twin == h))).map (·.1))

/-- A slot that a generation has ceased to use is invalidated, unless another generation word of the stream or of its twin
names it. -/
def State.releaseSlot (s : State) (h k : Nat) : State :=
  if (slotSharers s h).any (fun g => namesSlot (s.stream g) (prvClosed s g) k) then s else s.invalidate k

/-- The previous generation closes (R216). -/
def State.closePrev (s : State) (h : Nat) : State :=
  let c := s.stream h
  let a := s.aux_ h
  if c.prv.valid && !prvClosed s h then
    ((s.setAux h { a with closed := c.prv.num :: a.closed }).releaseSlot h c.prv.slot).freeGrace h
  else s

/-! ### Rolls and installs at their boundary -/

/-- A frame of stream h that has still to take its transmit count under a generation (R113). -/
def awaitsCount (s : State) (h g : Nat) : Bool :=
  s.tx.any (fun x => x.handle == h && x.stage == .offered && x.count.isNone && x.ctx.cur.num == g)

/-- The counts kept when the current generation of stream h is rolled away: those of earlier generations, and its own,
each for as long as a frame classified under it waits for its count (R19, R113). -/
def keptCounts (s : State) (h : Nat) : List OldCount :=
  let c := s.stream h
  (⟨c.cur.num, c.txCount, c.txExhausted⟩ :: (s.aux_ h).oldCounts.filter (fun o => o.gen != c.cur.num)).filter
    (fun o => awaitsCount s h o.gen)

/-- R213 at tick t: words, transmit count, exchange of the replay states. -/
def State.commitRoll (s : State) (h : Nat) (t : Tick) (first : Nat) : State :=
  let c := s.stream h
  let a := s.aux_ h
  if !c.nxt.valid then s
  else
    let e := s.grace.find? (fun e => e.handle == h && e.gen == c.nxt.num && !e.previous)
    let c1 := rollCtx c t first
    let c2 := if c.opens then
      { c1.setHighest ((e.map (fun x => x.hi.toNat)).getD 0) with w28 := (e.map (·.map)).getD 0 } else c1
    let g := s.grace.map (fun x => if x.handle = h && x.gen == c.nxt.num && !x.previous then
      ⟨h, c.cur.num, BitVec.ofNat 64 c.highest, c.w28, true, true⟩ else x)
    let s1 := ({ s with grace := g }).setStream h c2
    let s2 := s1.setAux h { a with
      closed := a.closed.filter (fun g => g != c.cur.num && inFlight s h g), oldCounts := keptCounts s h,
      firstCount := 0, follow := false, followAsked := false, followWait := false }
    if c.grace = 0 then s2.closePrev h else s2

/-- The slot of an installed generation takes its use limit (R145). -/
def State.limitSlot (s : State) (k : Nat) (limit : Word) : State :=
  s.setSlot k { s.slot k with u1 := if limit = 0 then unlimited else limit }

/-- An install at its boundary (R145, R210, R212, R221, R392). -/
def State.commitInstall (s : State) (h : Nat) (t : Tick) (i : Install) : State :=
  let c := s.stream h
  let s1 := s.limitSlot i.gen.slot i.limit
  let fresh := (s.aux_ h).limitPosted.filter (· != i.gen.num)
  if !c.cur.valid then
    ((s1.setStream h (installCtx c i)).dropGrace h (fun e => e.gen == i.gen.num && !e.previous)).setAux h
      { s1.aux_ h with limitPosted := fresh }
  else
    let s2 := s1.setStream h { c with nxt := i.gen }
    let s3 := if c.nxt.valid then
        (if (s.aux_ h).follow then s2.dropNext h c.nxt.num else s2).releaseSlot h c.nxt.slot
      else s2
    let rolls := (stagedOf s (.stream h)).filter (fun x => x.chg == .roll i.gen.num)
    let s4 := s3.setAux h { s3.aux_ h with
      firstCount := i.first, follow := i.follow && rolls.isEmpty, followAsked := false, followWait := false,
      limitPosted := fresh }
    if i.roll then s4.commitRoll h t i.first
    else if i.follow || rolls.any (fun x => decide (x.tick ≤ t + c.grace)) then s4.openEarly h else s4

/-! ### Arming, disarming, retiring, creating, modifying at their boundary -/

/-- What a stream is charged as it stands: a P-class stream while Armed, a C-class one other than CLEAR once created. -/
def charged (c : Context) : Demand :=
  if c.armed && c.classP || (c.created || c.armed) && c.classC && !c.isClear then demandOf c else .zero

/-- What stream h is charged: item by item the largest of what it is charged now and after each change staged for it
(R63, R89). -/
def chargeOf (s : State) (h : Nat) : Demand :=
  ((stagedOf s (.stream h)).foldl (fun (a : Demand × Context) x =>
    let c := applyCtx (s.aux_ h).firstCount a.2 x.tick x.chg
    (a.1.max (charged c), c)) (charged (s.stream h), s.stream h)).1

/-- The charge is computed afresh: a grant adds to it at once, a release falls at its boundary. -/
def State.recharge (s : State) (h : Nat) : State := s.setDemand h (chargeOf s h)

/-- The ring of a context as it begins, with counts at zero. -/
def ringOf (c : Context) : Ring := { Ring.zero with base := c.ringBase, entries := c.ringEntries }

/-- Creation (R85). -/
def State.commitCreate (s : State) (h : Nat) (c : Context) : State :=
  ((s.setStream h c).setAux h .zero).setRing h (ringOf c)

/-- A change of configuration; a new base or size restarts the ring's counts (R389). The charge falls to the new one. -/
def State.commitModify (s : State) (h : Nat) (mask : BitVec 11) (v : List Word) : State :=
  let c := s.stream h
  let c1 := modifyCtx c mask v
  let r := s.ring h
  let s1 := s.setStream h c1
  let s2 := if c1.ringBase = c.ringBase && c1.ringEntries = c.ringEntries then s1
    else s1.setRing h { ringOf c1 with
      era := r.era + 1, eras := r.eras ++ [(r.base, r.entries)], outs := r.outs, waiting := r.waiting, h0 := r.h0,
      h1 := r.h1, h2 := r.h2, lostC := r.lostC, lostR := r.lostR, changed := true }
  s2.recharge h

/-- Arming: the header words read at staging are in force (R330), and a stopped ring is checked again (R359). -/
def State.commitArm (s : State) (h : Nat) (h0 h1 h2 : Word) : State :=
  let s1 := s.setStream h ((s.stream h).setSt 2)
  (s1.setRing h { s1.ring h with h0 := h0, h1 := h1, h2 := h2 }).recheckRing h

/-- The unbegun descriptors of stream h complete with a status; of the ring alone where `ringOnly`. -/
def State.failHeld (s : State) (h status : Nat) (ringOnly : Bool) : State :=
  let s1 := (s.tx.filter (fun x => x.handle == h && unbegun x && (!ringOnly || x.entry.isSome))).foldl (fun t x =>
    t.completeTx x status false) s
  (s1.jobs.filter (fun j => j.handle == h && !j.begun)).foldl (fun t j => t.endRecord j status) s1

/-- Disarming: held descriptors complete with NOT_ARMED (R336), and a P-class admission is released (R63). -/
def State.commitDisarm (s : State) (h : Nat) : State :=
  let c := s.stream h
  let s1 := (s.setStream h (c.setSt 1)).failHeld h stNotArmed true
  s1.recharge h

/-- The V2 records of a stream's open holds are decided (R90). -/
def State.closeHolds (s : State) (p : V2Rec → Bool) (code : BitVec 5) : State :=
  { s with v2 := s.v2.map (fun v => if v.code.isNone && p v then { v with code := some code, decidedAt := s.plan } else v) }

/-- Retirement (R90, R100); the twin's own change clears its link too. -/
def State.commitRetire (s : State) (h : Nat) : State :=
  let c := s.stream h
  let s1 := s.setStream h (c.setSt 3)
  let s2 := if c.twinValid && (s1.stream c.twin).twin == h then
    s1.setStream c.twin ((s1.stream c.twin).setTwin false 0) else s1
  let s3 := (s2.failHeld h stRetired false).closeHolds (·.handle == h) 0x16
  let s4 := (s3.dropGrace h (fun _ => true)).recharge h
  s4.setAux h { s4.aux_ h with retireTick := s4.plan }

/-- A staged change of stream h takes effect at its tick. -/
def State.commitStream (s : State) (h : Nat) (t : Tick) : Change → State
  | .create c => s.commitCreate h c
  | .modify mask v => s.commitModify h mask v
  | .arm h0 h1 h2 => s.commitArm h h0 h1 h2
  | .disarm => s.commitDisarm h
  | .retire => s.commitRetire h
  | .twin o => s.setStream h ((s.stream h).setTwin true o)
  | .unlink => s.setStream h ((s.stream h).setTwin false 0)
  | .install i => s.commitInstall h t i
  | .roll _ => s.commitRoll h t (s.aux_ h).firstCount
  | .mode _ | .budget _ | .invalidate | .deleteChain | .gateOffline | .gateOnline | .portReset | .activate _ => s

/-! ### The roll of a followed generation (R221) -/

/-- The tick of a follow roll: the next tick, after every staged change, or the close tick in force if that is later. -/
def followTick (s : State) (h : Nat) : Tick :=
  let c := futureStream s h
  max (nextTick s (.stream h) c.tickDomain) (if c.prv.valid then c.closeTick else 0)

/-- Yarrow stages a roll to the followed next generation, or posts staging-miss and tries again at later boundaries. -/
def State.stageFollow (s : State) (h : Nat) : State :=
  let c := s.stream h
  let f := futureStream s h
  let a := s.aux_ h
  if !a.follow || !c.nxt.valid then s
  else if !f.nxt.valid || f.nxt.num ≠ c.nxt.num || f.retiring then s.setAux h { a with followWait := false }
  else if freeStaged s = 0 then
    (s.setAux h { a with followWait := true }).post (412 + 6 * c.tickDomain)
  else
    (s.setAux h { a with follow := false, followWait := false }).stage
      ⟨.stream h, c.tickDomain, followTick s h, .roll c.nxt.num⟩

/-- The first V1 PASS under the next generation asks for the roll; later ones ask for nothing, since a roll that could not
be staged is tried again at boundaries only (R221). -/
def State.askFollow (s : State) (h : Nat) : State :=
  let a := s.aux_ h
  if a.followAsked then s else (s.setAux h { a with followAsked := true }).stageFollow h

end Sys2Proof.Machine
end

