-- ==== Sys2Proof/Machine/Bindweed.lean ====
section
/-!
DEFINITION. Bindweed (06_bindweed.md): the fate of a received frame (Table 6.6), disclosures and the resolution of holds,
V2 records, and the publisher's keys, pebble banks, anchors and standalone disclosures. The records of the three Bindweed
regions, which no requester class may access (R182), are kept in `State.pebbles`, `State.vers` and `State.v2` and not as
bytes of DRAM; `pebbleWords`, `verRecord` and `holdRecord` give their words (Tables 6.4, 6.5 and 6.7; log 60).
-/

namespace Sys2Proof.Machine

/-! ### Received trailers (R153, R157) -/

def trFlags (t : List Byte) : Nat := beAt 2 1 t
def trDelay (t : List Byte) : Nat := beAt 3 1 t
def trPub (t : List Byte) : BitVec 32 := BitVec.ofNat 32 (beAt 4 4 t)
def trInterval (t : List Byte) : Nat := beAt 8 6 t
def trKey (t : List Byte) : List Byte := slice 14 32 t
def trTag (t : List Byte) : List Byte := slice 46 8 t
def trAnchor (t : List Byte) : List Byte := t.drop 54

/-- The length of the trailer that ends a GSV body (R157). The spec does not say how a receiver finds where a trailer
begins: DESIGN CHOICE, log 48: 86 bytes where Type 0xB1, length 86 and Flags [7] stand 86 bytes from the end, else 54. -/
def trailerLen (body : List Byte) : Nat :=
  let t := body.drop (body.length - 86)
  if 86 ≤ body.length && beAt 0 1 t == 0xB1 && beAt 1 1 t == 86 && decide (128 ≤ trFlags t) then 86 else min 54 body.length

/-- The fixed fields of a trailer are wrong. -/
def trailerBad (t : List Byte) : Bool :=
  t.length < 54 || beAt 0 1 t != 0xB1 || beAt 1 1 t != t.length || (decide (128 ≤ trFlags t) != (t.length == 86)) ||
    trFlags t % 32 != 0 || trFlags t / 64 % 2 == 1 || !inRange 1 4 (trDelay t)

/-! ### The records of the regions (Tables 6.4, 6.5, 6.7) -/

/-- A key or commitment in the six words of Table 6.4 w2 to w7. -/
def keyWords (k : List Byte) : List Word :=
  (List.range 5).map (fun j => BitVec.ofNat 48 (beAt (6 * j) 6 k)) ++ [at_ 32 (beAt 30 2 k)]

/-- The key that six such words hold. -/
def keyOfWords (w : List Word) : List Byte :=
  (List.range 5).flatMap (fun j => natToBytes 6 (w.getD j 0).toNat) ++ natToBytes 2 (fld (w.getD 5 0) 32 16)

/-- The words of a verified chain's record (Table 6.5). -/
def verRecord (v : Ver) : List Word :=
  let z : List Byte := []
  [BitVec.ofNat 48 v.v, at_ 16 v.publisher.toNat ||| at_ 0 v.count.toNat] ++ keyWords v.key ++
    [BitVec.ofNat 48 v.inStart,
     at_ 32 v.inCount.toNat ||| at_ 31 (boolNat v.inValid) ||| at_ 30 (boolNat v.anchorValid) ||| at_ 29 (boolNat v.invalid) |||
       at_ 28 (boolNat v.installed) ||| at_ 24 (v.len - 1) ||| at_ 22 (v.delay - 1) ||| at_ 20 v.td ||| at_ 10 v.margin |||
       at_ 4 (v.late - 1)] ++
    keyWords (if v.anchorValid then v.anchor else z) ++ keyWords v.inKey ++ [at_ 16 v.anchorSeg, 0]

/-- The words of a hold record (Table 6.7). -/
def holdRecord (v : V2Rec) : List Word :=
  [BitVec.ofNat 48 v.interval, at_ 33 v.handle ||| at_ 13 v.seq.toNat ||| at_ 0 v.chain, BitVec.ofNat 48 (beAt 0 6 v.digest),
   BitVec.ofNat 48 (beAt 6 6 v.digest), at_ 16 (beAt 12 4 v.digest), BitVec.ofNat 48 (beAt 0 6 v.tag),
   at_ 32 (beAt 6 2 v.tag) ||| at_ 31 (boolNat v.code.isNone), BitVec.ofNat 48 v.arrival]

/-! ### The fate of a frame (Table 6.6) -/

/-- The segment of the newest verified key, or of the first interval that an installed commitment leads to. -/
def Ver.seg (v : Ver) : Nat := if v.keyed then v.v / 65536 else (v.v + 1) / 65536

/-- The last part of row 2: the interval lies where no key or anchor of the chain reaches. -/
def outOfReach (v : Ver) (i : Nat) : Bool :=
  let g := i / 65536
  decide (v.seg < g) && !(g == v.seg + 1 && v.anchorValid && v.anchorSeg == g) && (!v.inValid || decide (i < v.inStart))

/-- The key of interval i could already be public (row 4). -/
def tooLate (s : State) (v : Ver) (i : Nat) : Bool :=
  (v.keyed && decide (i ≤ v.v)) ||
    decide ((tickInstant (domFreq s v.td) ((i + v.delay) * v.len) : Int) - v.margin * 1000 ≤ keeperTime s)

/-- The first of rows 1 to 4 of Table 6.6 that applies at V0, with its verdict code; row 7 where none does. -/
def bwFate (s : State) (n : Nat) (t : List Byte) : Nat × Nat :=
  match s.ver n with
  | none => (2, 0x17)
  | some v =>
    let i := trInterval t
    if trailerBad t || (v.installed && trPub t != v.publisher) || trDelay t != v.delay then (1, 0x11)
    else if !v.installed || v.invalid || outOfReach v i then (2, 0x17)
    else if verInterval s v + 1 < i then (3, 0x11)
    else if tooLate s v i then (4, 0x13)
    else (7, 0)

/-! ### Holds -/

/-- The lowest record of the hold table that holds nothing. -/
def freeHold (s : State) : Nat :=
  let used := (s.v2.filter V2Rec.held).map (·.slot)
  ((List.range (used.length + 1)).find? (fun k => !used.contains k)).getD 0

def holdTableFull (s : State) : Bool := decide (2 ^ s.img.bwHoldN ≤ (s.v2.filter V2Rec.held).length)

/-- The open holds that satisfy a test are decided; hold-closed is posted for each where `ev` is set. -/
def State.decideHolds (s : State) (p : V2Rec → Bool) (code : BitVec 5) (ev : Bool) : State :=
  let n := (s.v2.filter (fun v => v.openHold && p v)).length
  (s.closeHolds (fun v => v.held && p v) code).posts (if ev then List.replicate n 474 else [])

/-! ### Disclosures (R196 to R198, R205) -/

/-- A disclosed key leads to a commitment (c, C) under R176. -/
def leadsTo (pub : Nat) (j : Nat) (k : List Byte) (c : Nat) (commit : List Byte) : Bool :=
  walkDown pub (j - c) j k == commit

/-- A passing disclosure: the newest key, and the holds it can resolve are due. -/
def State.keyPasses (s : State) (n : Nat) (v : Ver) (j : Nat) (k : List Byte) : State :=
  let s1 := s.storeVer n { v with v := j, key := k, keyed := true }
  { s1 with bw := { s1.bw with resolve := s1.bw.resolve ++ [(n, j, k)] } }

/-- A renewal takes effect (R205). -/
def State.renewalTakes (s : State) (n : Nat) (v : Ver) (j : Nat) (k : List Byte) : State :=
  let v1 : Ver := { v with
    count := v.inCount, inValid := false, inStart := 0, inCount := 0, inKey := [], anchorValid := false, anchor := [],
    anchorSeg := 0, invalid := false, v := v.inStart - 1 }
  (((s.setVer n v1).decideHolds (fun x => x.chain == n && decide (x.interval < v.inStart)) 0x12 true).post 476).keyPasses n v1 j k

/-- What R196 checks a key of interval j against: the incoming commitment, the newest verified key, or the anchor of the next
segment; or why it checks nothing. -/
inductive KeyCheck where
  | incoming
  | newest
  | anchor
  | ignored
  | unverifiable
  | impossible
  deriving DecidableEq, Repr

/-- The step of R196 that judges a key of interval j. Beyond one segment from a renewal's start no walk reaches, and step 5
applies (R202). -/
def keyCheck (v : Ver) (j : Nat) : KeyCheck :=
  let g := j / 65536
  if v.inValid && decide (v.inStart ≤ j) then
    (if g = v.inStart / 65536 then .incoming else if 65536 < j + 1 - v.inStart then .unverifiable else .impossible)
  else if v.installed && decide (j ≤ v.v) then .ignored
  else if v.installed && g == v.seg then .newest
  else if v.installed && g == v.seg + 1 && v.anchorValid && v.anchorSeg == g then .anchor
  else .unverifiable

/-- The steps that the check of a key of interval j walks (R176, R202). -/
def keyGap (v : Ver) (j : Nat) : Nat :=
  match keyCheck v j with
  | .incoming => j + 1 - v.inStart
  | .newest => j - v.v
  | .anchor => j % 65536 + 1
  | .ignored | .unverifiable | .impossible => 0

/-- The fields of a received GSV frame that a frame tag covers before the trailer: head and APDU. -/
def rxHead (x : RxFrame) : List Byte := x.body.take 12 ++ slice (12 + tagLen x.body) 10 x.body
def rxApdu (x : RxFrame) : List Byte := x.plain.drop (22 + tagLen x.body)

/-- A violation that a received GSV frame commits; a frame of a GSV_SUB stream matches no DUPLEX stream. -/
def gsvViolation (x : RxFrame) (code : Nat) : Violation :=
  let o := 12 + tagLen x.body
  { port := x.rx.port.val, code := code, sa := saOf x.body, fcsGood := x.rx.fcsGood, etherType := etherTypeOf x.body,
    subject := BitVec.ofNat 64 (beAt 0 6 x.body * 65536 + beAt (o + 2) 2 x.body), seqNo := BitVec.ofNat 64 (beAt (o + 20) 6 x.body),
    keyRef := BitVec.ofNat 32 (beAt (o + 14) 4 x.body), vlan := outerTag x.body, duplex := none }

/-- The violation that a standalone frame commits. -/
def standaloneViolation (x : RxFrame) (code : Nat) : Violation :=
  { gsvViolation x code with seqNo := 0, keyRef := 0 }

/-- A V2 record that is still to be written gets DISCLOSURE_INVALID (R196). -/
def State.invalidDisclosure (s : State) (x : RxFrame) : State :=
  { s with v2 := s.v2.map (fun v => if v.handle = x.handle && v.seq == x.seq then
    { v with code := some 0x11, decidedAt := s.plan } else v) }

/-- A disclosed key that fails its check is counted and posted, the frame that carried it gets DISCLOSURE_INVALID, and the
wrong disclosure is reported (R196, Table 5.11). -/
def State.refuseKey (s : State) (w : KeyWalk) : State :=
  let s1 := ({ s with bw := { s.bw with refused := s.bw.refused + 1 } }).post 473
  let s2 := if w.decides then s1.invalidDisclosure w.frame else s1
  s2.report w.frame (if w.frame.kind == .standalone then standaloneViolation w.frame 9 else gsvViolation w.frame 9)

/-- R196 for a disclosed key whose steps have run. -/
def State.judgeKey (s : State) (w : KeyWalk) : State :=
  match s.ver w.chain with
  | none => s
  | some v =>
    let n := w.chain
    let j := w.interval
    let pub := v.publisher.toNat
    match keyCheck v j with
    | .incoming => if leadsTo pub j w.key (v.inStart - 1) v.inKey then s.renewalTakes n v j w.key else s.refuseKey w
    | .newest => if leadsTo pub j w.key v.v v.key then s.keyPasses n v j w.key else s.refuseKey w
    | .anchor => if leadsTo pub j w.key (j / 65536 * 65536 - 1) v.anchor then s.keyPasses n { v with anchorValid := false } j w.key
        else s.refuseKey w
    | .ignored => s
    | .impossible => s.refuseKey w
    | .unverifiable => { s with bw := { s.bw with unverifiable := s.bw.unverifiable + 1 } }

/-- The steps that one verified chain may run in a plan period (R202). -/
def stepLimit : Nat := 1024

/-- The half of the Keccak reserve that Speedwell keeps for recomputation, in permutations of a plan period (R178). -/
def recomputeHalf (s : State) : Nat := (100 - s.tcfg.keccakShare) * planPerms s / 200

/-- 24 permutations an interval for a chain of length L in domain td, in units of 1 / (720,720 × f_plan) a period (R178):
every L divides 720,720. -/
def recomputation (s : State) (td len : Nat) : Nat := 24 * domFreq s td * (720720 / len)

/-- What publisher chains take of that half, rounded up (R178). -/
def publisherShare (s : State) : Nat :=
  ceilDiv ((s.pubs.map (fun e => recomputation s e.2.td e.2.len)).foldl (· + ·) 0) (720720 * planFreq s)

/-- The steps that verified chains may still run in this plan period: a step is one permutation, and the half of the reserve
that publisher chains leave bounds the gaps of all chains together (R202). -/
def reserveLeft (s : State) : Nat :=
  recomputeHalf s - publisherShare s - (s.bw.steps.map (·.2)).foldl (· + ·) 0

/-- The disclosed keys of chain n are checked in the order in which they came, as far as the chain's steps of this plan
period and the reserve reach (R202); the others wait for the next. A gap of one step is what admission charges the chain
for. The core that runs the steps, or waits for the reserve (R64), is core 0 (log 18). -/
def State.runWalks (n : Nat) : Nat → State → State
  | 0, s => s
  | k + 1, s =>
    match s.bw.walks.find? (fun w => w.chain == n) with
    | none => s
    | some w =>
      let gap := ((s.ver n).map (fun v => keyGap v w.interval)).getD 0
      let used := Table.get 0 n s.bw.steps
      let left := if gap ≤ 1 then 1 else min (stepLimit - used) (reserveLeft s)
      let s1 := (s.postIf (decide (64 < gap) && w.run == 0 && decide (0 < left)) 477)
      if gap ≤ w.run + left then
        let s2 : State := { s1 with bw := { s1.bw with
          walks := s1.bw.walks.erase w
          steps := if gap ≤ 1 then s1.bw.steps else Table.put 0 n (used + (gap - w.run)) s1.bw.steps } }
        State.runWalks n k ((if w.run < gap then s2.coreWorks 10 else s2).judgeKey w)
      else
        let go : KeyWalk := { w with run := w.run + left }
        let s2 : State := { s1 with bw := { s1.bw with
          walks := s1.bw.walks.map (fun y => if y = w then go else y), steps := Table.put 0 n (used + left) s1.bw.steps } }
        (if 0 < left then s2.coreWorks 10 else s2).post 234

/-- A frame's disclosed key is taken under R196: at once, or behind the keys of its chain that are still being checked. -/
def State.disclose (s : State) (w : KeyWalk) : State :=
  let busy := s.bw.walks.any (fun y => y.chain == w.chain)
  let s1 : State := { s with bw := { s.bw with walks := s.bw.walks ++ [w] } }
  if busy then s1 else State.runWalks w.chain 1 s1

/-- A new plan period gives every chain its steps afresh (R202). -/
def State.newSteps (s : State) : State :=
  let s1 : State := { s with bw := { s.bw with steps := [] } }
  ((s.bw.walks.map (·.chain)).eraseDups).foldl (fun x n => State.runWalks n x.bw.walks.length x) s1

/-! ### Arrival (R193, R194) -/

/-- A V2 record takes its place behind the stream's earlier ones. -/
def State.addV2 (s : State) (v : V2Rec) : State := { s with v2 := s.v2 ++ [v] }

/-- Invalid is set in the record of the chain (R200). -/
def chainInvalid (s : State) (n : Nat) : Bool := ((s.ver n).map (·.invalid)).getD true

/-- The fate of a frame whose V1 passed: rows 1 to 4 as decided at V0, then row 5, then the hold of row 7, which is closed
at once where the chain has been marked invalid since V0 (R200). -/
def bwOutcome (s : State) (x : RxFrame) : Nat × Nat :=
  if x.fate.1 = 7 && holdTableFull s then (5, 0x15)
  else if x.fate.1 = 7 && chainInvalid s x.ctx.chain then (2, 0x17)
  else x.fate

/-- The V2 record of a frame that a row of Table 6.6 decides or gives a hold. -/
def newV2 (s : State) (x : RxFrame) (fate : Nat × Nat) : V2Rec :=
  let t := x.trailer
  let hold := fate.1 == 7
  { slot := if hold then freeHold s else 0, handle := x.handle, seq := x.seq, chain := x.ctx.chain, interval := trInterval t,
    digest := if hold then (sha3 (bwInput (rxHead x) (rxApdu x) t)).take 16 else [],
    tag := if hold then trTag t else [], arrival := x.v0Tick, anchor := if hold then trAnchor t else [],
    code := if hold then none else some (BitVec.ofNat 5 fate.2), decidedAt := s.plan }

/-- A frame of a Bindweed stream whose V1 passed: its fate (R193), and then its disclosed key (R194). The frame digest of a
hold is work of core 0 (Table 6.2, log 18). A frame that the chain's Invalid flag has given CHAIN_INVALID keeps it though
its key be refused: R196 and R200 differ there, DESIGN CHOICE, log 44. -/
def State.bwArrive (s : State) (x : RxFrame) : State :=
  let t := x.trailer
  let fate := bwOutcome s x
  let sa := s.verAccess x.ctx.chain false
  let s0 := if fate.1 = 7 then (sa.holdAccess (freeHold s) true).coreWorks 10 else sa
  let s1 := s0.addV2 (newV2 s x fate)
  let s2 := match fate.1 with
    | 1 => s1.post 473
    | 3 => ({ s1 with bw := { s1.bw with early := s1.bw.early + 1 } }).post 473
    | 5 => s1.post 474
    | _ => s1
  let told := decide (fate.2 = 0x11 ∨ fate.2 = 0x13)
  let s3 := if told then s2.report x (gsvViolation x 9) else s2
  if fate.1 = 1 || fate.1 = 3 || trFlags t / 32 % 2 == 1 then s3
  else s3.disclose ⟨x.ctx.chain, trInterval t - trDelay t, trKey t, 0, { x with reported := x.reported || told },
    fate.1 != 2 || !chainInvalid s x.ctx.chain⟩

/-! ### Meanings: disclosures and holds -/

/-- A received standalone frame breaks R156, whose list has no wrong type byte. -/
def standaloneBad (b : List Byte) : Bool :=
  let t := b.drop (16 + tagLen b)
  t.length != 54 || beAt 1 1 t != 54 || trFlags t / 64 != 1 || trFlags t % 32 != 0 ||
    beAt 46 8 t != 0 || decide (8 ≤ trDelay t)

/-- The GSV_SUB stream with Bindweed on that a standalone frame matches (R156). The spec does not say what happens where two
such streams differ in EtherType alone, nor whether the stream must be Armed: DESIGN CHOICE, log 44: the lowest handle
takes the key, and a stream that is Created takes it too. -/
def standaloneMatch (s : State) (p : Nat) (b : List Byte) : Option (Nat × Context) :=
  s.streams.find? (fun e =>
    let c := e.2
    c.isGsvSub && c.bindweed && (c.armed || c.created) && (portGroup s.img p).any (c.portMask.testBit ·) && vlanMeets c (vidOf b) &&
      c.matchAddr == beAt 0 6 b && c.matchId == beAt (14 + tagLen b) 2 b)

/-- STANDALONE_DISCLOSURE_RECEIVE (R156): its disclosed key goes to the stream's verified chain; it never reaches the
consumer. -/
def execStandaloneDisclosureReceive (f : Nat) (s : State) : Out :=
  match s.rxFrame f with
  | none => .next s
  | some x =>
    if x.kind != .standalone then .next s
    else
      let p := x.rx.port.val
      let s1 := s.dropRx f
      if standaloneBad x.body then .next ((s1.bumpPort p 11 1).report x (standaloneViolation x 0))
      else
        match standaloneMatch s1 p x.body with
        | none => .next (s1.bumpPort p 12 1)
        | some (_, c) =>
          let t := x.body.drop (16 + tagLen x.body)
          if trFlags t / 32 % 2 == 1 then .next s1
          else .next (s1.disclose ⟨c.chain, trInterval t - trDelay t, trKey t, 0, x, false⟩)

/-- A different anchor under the publisher's own tag marks the chain invalid (R199, R200). -/
def State.takeAnchor (s : State) (n i : Nat) (a : List Byte) : State :=
  match s.ver n with
  | none => s
  | some v =>
    let g := i / 65536 + 1
    if a.isEmpty then s
    else if v.anchorValid && v.anchorSeg == g then
      if v.anchor == a then s
      else ((s.storeVer n { v with invalid := true }).post 475).decideHolds (fun x => x.chain == n) 0x17 false
    else s.storeVer n { v with anchorValid := true, anchorSeg := g, anchor := a }

/-- One hold is checked under its MAC key (R197 step 3), and its anchor taken on a pass (R199). -/
def State.checkHold (s : State) (mk : Key) (x : V2Rec) : State :=
  if !(s.v2.any (fun v => v.openHold && v.handle == x.handle && v.seq == x.seq)) then s
  else
    let ok := bwTag mk x.digest == x.tag
    let s1 := (s.holdAccess x.slot false).closeHolds (fun v => v.handle == x.handle && v.seq == x.seq) (if ok then 0 else 0x10)
    if ok then s1.takeAnchor x.chain x.interval x.anchor else s1

/-- The holds of one interval: MK(i) is derived by a Keccak core into a pool slot, each tag is checked on an open slice that
has fetched it, and the slot is invalidated (R197). A derivation under a domain key that is not live is abandoned (R235),
and a fetch that fails checks nothing (R29): whether the step was done. -/
def State.resolveInterval (s : State) (u core : Nat) (cellBad : Bool) (n : Nat) (v : Ver) (j : Nat) (k : List Byte) (i p : Nat) :
    Bool × State :=
  if !(s.slot (slotDomain v.domain)).live then (false, s)
  else
    let mk := macKeyOf (walkDown v.publisher.toNat (j - i) j k)
    let s1 := (s.coreWorks core).writeSlot p mk (childAttr s (slotDomain v.domain) (some v.domain) true 2 5) unlimited
    match s1.fetch u p useBwmac cellBad with
    | (.ok key, s2) =>
      (true, (((s2.busyPulse (busyEvent u)).v2.filter (fun x => x.openHold && x.chain == n && x.interval == i)).foldl
        (fun t x => t.checkHold key.whole x) (s2.busyPulse (busyEvent u))).invalidate p)
    | (_, s2) => (false, s2.invalidate p)

/-- A disclosed key has no more holds to resolve, or can resolve none. -/
def State.resolved (s : State) (e : Nat × Nat × List Byte) : State :=
  { s with bw := { s.bw with resolve := s.bw.resolve.erase e } }

/-- HOLD_RESOLUTION (R197): after a passing disclosure the MAC key of one of the intervals it resolves is derived and the
tags of its holds are checked; it waits for a free slot of the pool (Table 6.9). Where the step fails, the holds stay
open for a later key or for R198. -/
def execHoldResolution (chain : BitVec 13) (slice : Fin 3) (core : Fin 2) (cellBad : Bool) (s : State) : Out :=
  let n := chain.toNat
  match (if halted s then none else s.bw.resolve.find? (fun e => e.1 == n)) with
  | none => .next s
  | some (c, j, k) =>
    match s.ver n, resolvable s n j with
    | some v, i :: rest =>
      match freePool s with
      | none => .next s
      | some p =>
        let (done, s1) := s.resolveInterval (3 + slice.val) (10 + core.val) cellBad n v j k i p
        .next (if done && !rest.isEmpty then s1 else s1.resolved (c, j, k))
    | _, _ => .next (s.resolved (c, j, k))

/-- HOLD_CLOSE_MISSING (R198): holds that have waited past the late limit are closed. -/
def execHoldCloseMissing (chain : BitVec 13) (s : State) : Out :=
  match s.ver chain.toNat with
  | none => .next s
  | some v =>
    let now := verInterval s v
    .next (s.decideHolds (fun x => x.chain == chain.toNat && decide (x.interval + v.delay + v.late < now)) 0x12 true)

/-- HOLD_EXPIRED (R134): a hold whose record would not be written before 2^19 further frames of its stream is closed. -/
def execHoldExpired (h : Handle) (s : State) : Out :=
  let next := (s.stream h.toNat).seqNext
  .next (s.decideHolds (fun x => x.handle == h.toNat && decide (2 ^ 19 ≤ (next + 2 ^ 20 - x.seq.toNat) % 2 ^ 20)) 0x14 true)

/-- V2_RECORD_WRITE (R133, R201): the stream's oldest V2 record, once it is decided, takes its entry in the ring, or waits
for one. A frozen ring holds every count (R348). -/
def execV2RecordWrite (h : Handle) (s : State) : Out :=
  match (if frozen s then none else s.v2.find? (fun x => x.handle == h.toNat)) with
  | none => .next s
  | some x =>
    match x.code with
    | none => .next s
    | some c =>
      let s1 : State := { s with v2 := s.v2.erase x }
      .next (s1.outputOrWait h.toNat (v2Output h.toNat x.chain (v2Word c.toNat h.toNat x.seq.toNat) x.interval x.decidedAt))

/-! ### Publishing (R177 to R190) -/

/-! #### Pebble banks (R179 to R183) -/

/-- The pebble records of a bank begin at this record of the chain's area (Table 6.3). -/
def bankBase (block half : Bool) : Nat := 128 * boolNat block + 64 * boolNat half

/-- The words of a pebble record (Table 6.4). -/
def pebbleWords (c : Nat) (block half : Bool) (i : Nat) (k : List Byte) : List Word :=
  [BitVec.ofNat 48 i, at_ 38 c ||| at_ 37 (boolNat block) ||| at_ 36 (boolNat half) ||| at_ 35 1] ++ keyWords k

/-- The physical address of record r of chain c (R179). -/
def pebbleAddr (s : State) (c r : Nat) : Nat := s.img.bwPebble.toNat + 16384 * c + 64 * r

/-- Intervals between the records of a bank. -/
def bankStride (block : Bool) : Nat := if block then 16 else 1024

/-- Record k of a bank holds the key of this interval (Table 6.3). -/
def pebbleInterval (b : Bank) (k : Nat) : Nat := b.first + bankStride b.block * (k + 1) - 1

/-- The bank for the interval i of a chain that its seed slot, kind and first interval name. -/
def wantedBank (v : Pub) (block : Bool) (i : Nat) : Nat × Nat :=
  let n := if block then 1024 else 65536
  ((v.seedOf i).getD 0, i / n * n)

/-- The bank that is filled for such a name. -/
def Pub.bank (v : Pub) (block : Bool) (want : Nat × Nat) : Option Bank :=
  v.banks.find? (fun b => b.block == block && b.seed == want.1 && b.first == want.2)

/-- The interval from which the chain's present work counts: the one in force, or N before it. -/
def pubNow (s : State) (v : Pub) : Nat := max (pubInterval s v) v.start

/-- The first interval after i that another bank serves: the next block or segment, or the start of a renewal before it. -/
def nextServed (v : Pub) (block : Bool) (i : Nat) : Nat :=
  let n := if block then 1024 else 65536
  ((v.seeds.map (·.2.1)).filter (fun x => decide (i < x))).foldl min ((i / n + 1) * n)

/-- The segment bank that a renewal's earlier chain keeps at interval i: that of the segment of interval N − 1, until N + d
(R206). -/
def keptBanks (v : Pub) (i : Nat) : List (Nat × Nat) :=
  (((v.seeds.map (·.2.1)).drop 1).filter (fun n => decide (n ≤ i) && decide (i < n + v.delay))).map
    (fun n => wantedBank v false (n - 1))

/-- The banks that a chain needs: for the interval in force, for the next that another bank serves, and, of segment banks,
the earlier chain's that still serves a disclosure (R179, R206). There are two halves and R206 may want three banks: DESIGN
CHOICE, log 61: the last of this order waits until a half is free. -/
def wantedBanks (s : State) (v : Pub) (block : Bool) : List (Nat × Nat) :=
  let i := pubNow s v
  let kept := if block then [] else keptBanks v i
  (wantedBank v block i :: kept ++ [wantedBank v block (nextServed v block i)]).eraseDups

/-- The half that a bank to be filled takes: its own where it is there to be rebuilt, else one that no needed bank holds. -/
def freeHalf (s : State) (v : Pub) (block : Bool) (want : Nat × Nat) : Option Bool :=
  match v.bank block want with
  | some b => some b.half
  | none => [false, true].find? (fun h => !v.banks.any (fun b =>
      b.block == block && b.half == h && (wantedBanks s v block).contains (b.seed, b.first)))

/-- The keys of the records of a bank from record n down: record n holds the key k of interval i, and each record below it
the key `stride` intervals lower. -/
def bankKeys (pub stride : Nat) : Nat → Nat → List Byte → List (Nat × Nat × List Byte)
  | 0, _, _ => []
  | n + 1, i, k => (n, i, k) :: bankKeys pub stride n (i - stride) (walkDown pub stride i k)

/-- A bank is written, record by record, in place of what its half held (R182). The area is one 4 KiB block of the region,
so one check of the access serves its 64 records (log 60). -/
def State.writeBank (s : State) (c : Nat) (v : Pub) (b : Bank) (keys : List (Nat × Nat × List Byte)) : State :=
  match s.ownAccess (pebbleAddr s c (bankBase b.block b.half)) true with
  | (false, s1) => s1
  | (true, s1) =>
    let p := keys.foldl (fun m e =>
      Table.put [] (256 * c + bankBase b.block b.half + e.1) (pebbleWords c b.block b.half e.2.1 e.2.2) m) s1.pebbles
    ({ s1 with pebbles := p }).setPub c { v with
      banks := v.banks.filter (fun (x : Bank) => !(x.block == b.block && x.half == b.half)) ++ [b] }

/-- A bank found at fault is posted and will be rebuilt (R183). -/
def State.faultBank (s : State) (c : Nat) (v : Pub) (b : Bank) : State :=
  (s.setPub c { v with banks := v.banks.map (fun x => if x = b then { x with faulty := true } else x) }).post 472

/-- The words that a read of a record gives, if it is not poisoned. -/
def readWords (stored : List Word) : RecordRead → Option (List Word)
  | .stored => some stored
  | .poison => none
  | .other w => some w

/-- The record is the one that Quecy expects: index, chain, kind, bank and valid bit (R183). -/
def pebbleFits (c : Nat) (b : Bank) (k : Nat) (w : List Word) : Bool :=
  w.getD 0 0 == BitVec.ofNat 48 (pebbleInterval b k) &&
    fld (w.getD 1 0) 35 13 == fld ((pebbleWords c b.block b.half 0 []).getD 1 0) 35 13

/-- Record k of a bank is read through the memory plane (R182, R183): its key, or a pebble fault. -/
def State.readPebble (s : State) (c : Nat) (v : Pub) (b : Bank) (k : Nat) (r : RecordRead) : Option (List Byte) × State :=
  let n := bankBase b.block b.half + k
  match s.ownAccess (pebbleAddr s c n) false with
  | (false, s1) => (none, s1.faultBank c v b)
  | (true, s1) =>
    match readWords (Table.get [] (256 * c + n) s1.pebbles) r with
    | none => (none, s1.faultBank c v b)
    | some w => if pebbleFits c b k w then (some (keyOfWords (w.drop 2)), s1) else (none, s1.faultBank c v b)

/-- Whether a segment bank may be filled now: that of the segment in force at any time, that of the next in the first
61,440 positions, unless it is rebuilt or the seed in force has only begun in this segment (R180, R183). -/
def mayFillSegment (s : State) (v : Pub) (want : Nat × Nat) : Bool :=
  let i := pubNow s v
  want.2 ≤ i || decide (i % 65536 ≤ 61439) || (v.bank false want).isSome || decide (v.inForce / 65536 = i / 65536) ||
    want.1 != (wantedBank v false i).1

/-- The banks that are missing or at fault. -/
def lacking (s : State) (v : Pub) (block : Bool) : List (Nat × Nat) :=
  (wantedBanks s v block).filter (fun w => ((v.bank block w).map (·.faulty)).getD true)

/-- A segment bank is filled from the segment seed, with its anchor (R180). -/
def State.fillSegment (s : State) (u c : Nat) (cellBad : Bool) (v : Pub) (want : Nat × Nat) (half : Bool) : State :=
  match s.coreFetch u want.1 useKdf cellBad with
  | (.ok seed, s1) =>
    let pub := v.publisher.toNat
    let top := want.2 + 65535
    let keys := bankKeys pub 1024 64 top (bwStep pub top (segSeed seed.whole (want.2 / 65536)))
    (s1.coreWorks u).writeBank c v ⟨false, half, want.1, want.2, chainAnchor seed.whole pub (want.2 / 65536), false⟩ keys
  | (_, s1) => s1

/-- A block bank is filled from the segment bank's record at its top (R180), or, where it is rebuilt, from the segment seed
(R183). -/
def State.fillBlock (s : State) (u c : Nat) (cellBad : Bool) (top : RecordRead) (v : Pub) (want : Nat × Nat) (half : Bool) : State :=
  let pub := v.publisher.toNat
  let last := want.2 + 1023
  let b : Bank := ⟨true, half, want.1, want.2, [], false⟩
  if (v.bank true want).isSome then
    match s.coreFetch u want.1 useKdf cellBad with
    | (.ok seed, s1) => (s1.coreWorks u).writeBank c v b (bankKeys pub 16 64 last (chainKey seed.whole pub last))
    | (_, s1) => s1
  else
    match (v.bank false (want.1, want.2 / 65536 * 65536)).filter (fun x => !x.faulty) with
    | none => s
    | some g =>
      match s.readPebble c v g (want.2 % 65536 / 1024) top with
      | (some k, s1) => (s1.coreWorks u).writeBank c v b (bankKeys pub 16 64 last k)
      | (none, s1) => s1

/-- PEBBLE_BANK_FILL (R180, R183): the first segment or block bank that is needed and is missing or at fault. -/
def execPebbleBankFill (chain : BitVec 10) (segment : Bool) (core : Fin 2) (top : RecordRead) (cellBad : Bool) (s : State) : Out :=
  let c := chain.toNat
  match (if halted s then none else s.pub c) with
  | none => .next s
  | some v =>
    match (lacking s v (!segment)).find? (fun w => !segment || mayFillSegment s v w) with
    | none => .next s
    | some want =>
      match freeHalf s v (!segment) want with
      | none => .next s
      | some half =>
        .next (if segment then s.fillSegment (10 + core.val) c cellBad v want half
          else s.fillBlock (10 + core.val) c cellBad top v want half)

/-! #### Interval keys (R180, R181, R184, R185) -/

/-- The next interval whose keys are to be made ready: the one in force where they are late, else the one that follows. -/
def pubTarget (s : State) (v : Pub) : Nat :=
  let x := pubInterval s v
  if decide (v.start ≤ x) && (pubReady v x).isNone then x else x + 1

/-- The key of interval j, in an earlier segment or of an earlier chain, that a trailer of interval i is to disclose: from
the earlier chain's segment bank where that is kept (R206), else from the segment seed (R181). -/
def State.oldKey (s : State) (u c : Nat) (v : Pub) (i j : Nat) (segment : RecordRead) (cellBad : Bool) :
    Option (List Byte) × State :=
  let want := wantedBank v false j
  let pub := v.publisher.toNat
  match (if (keptBanks v i).contains want then (v.bank false want).filter (fun b => !b.faulty) else none) with
  | some b =>
    let k := j % 65536 / 1024
    let (r, s1) := s.readPebble c v b k segment
    (r.map (walkDown pub (pebbleInterval b k - j) (pebbleInterval b k)), s1)
  | none =>
    match s.coreFetch u want.1 useKdf cellBad with
    | (.ok seed, s1) => (some (chainKey seed.whole pub j), s1)
    | (_, s1) => (none, s1)

/-- The key that interval i discloses, where one is due (R184, R186): d steps below its own key, or an older one. -/
def State.disclosedFor (s : State) (u c : Nat) (v : Pub) (i : Nat) (k : List Byte) (segment : RecordRead) (cellBad : Bool) :
    Option (List Byte) × State :=
  let j := i - v.delay
  if i < v.start + v.delay then (none, s)
  else if v.seedOf j = v.seedOf i && decide (j / 65536 = i / 65536) then (some (walkDown v.publisher.toNat v.delay i k), s)
  else s.oldKey u c v i j segment cellBad

/-- A MAC-key slot takes the key of interval i in place of that of interval i − 2: its old key is scrubbed first (R230, log
61). -/
def State.writeMac (s : State) (k seed dom : Nat) (key : Key) : State :=
  let s1 := if (s.slot k).valid then s.scrub k else s
  s1.writeSlot k key (childAttr s1 seed (some dom) false 2 5) unlimited

/-- The slot can take a key: it is Empty, or holds one that is live. -/
def macWritable (s : State) (k : Nat) : Bool := (s.slot k).empty_ || (s.slot k).live

/-- The keys of interval i are ready: its MAC key, unless the interval has begun without it (R185), and what it discloses. -/
def State.makeReady (s : State) (c : Nat) (seed i : Nat) (late : Bool) (k : List Byte) (disclosed : Option (List Byte)) : State :=
  match s.pub c with
  | none => s
  | some v =>
    let s1 := if late then s else s.writeMac (slotMac c (i % 2 == 1)) seed v.domain (macKeyOf k)
    s1.setPub c { v with ready := ⟨i, !late, disclosed⟩ :: (v.ready.filter (fun r => r.interval != i)).take 7 }

/-- INTERVAL_KEY_PREPARE (R180 to R185): K(I) is found from the record of I's block bank and MK(I) written in place of MK(I −
2), and the key that I discloses computed in the same pass; a wrong pebble has its bank rebuilt. Below a seed that is no
longer live nothing is written (R235). -/
def execIntervalKeyPrepare (chain : BitVec 10) (core : Fin 2) (block segment : RecordRead) (cellBad : Bool) (s : State) : Out :=
  let c := chain.toNat
  let u := 10 + core.val
  match (if halted s then none else s.pub c) with
  | none => .next s
  | some v =>
    let i := pubTarget s v
    let late := decide (i ≤ pubInterval s v)
    let want := wantedBank v true i
    match (if i < v.start || (pubReady v i).isSome then none else (v.bank true want).filter (fun b => !b.faulty)) with
    | none => .next s
    | some b =>
      if !(s.slot want.1).live || (!late && !macWritable s (slotMac c (i % 2 == 1))) then .next s
      else
        let r := i % 1024 / 16
        match s.readPebble c v b r block with
        | (none, s1) => .next s1
        | (some top, s1) =>
          let k := walkDown v.publisher.toNat (pebbleInterval b r - i) (pebbleInterval b r) top
          let (d, s2) := s1.disclosedFor u c v i k segment cellBad
          .next (if (s2.slot want.1).live then (s2.makeReady c want.1 i late k d).coreWorks u else s2.coreWorks u)

/-- PUBLISHER_KEY_LATE (R185): the MAC key of the interval in force is not ready; counted and posted once an interval. -/
def execPublisherKeyLate (chain : BitVec 10) (s : State) : Out :=
  let n := chain.toNat
  match s.pub n with
  | none => .next s
  | some v =>
    let x := pubInterval s v
    if x < v.start || (pubReady v x).map (·.mac) == some true || v.latePosted == some x then .next s
    else
      let s1 := s.setPub n { v with latePosted := some x }
      .next (({ s1 with bw := { s1.bw with keyLate := s1.bw.keyLate + 1 } }).post 470)

/-- ANCHOR_STARVED (R190): no stream has carried the next segment's anchor by position 64,512. -/
def execAnchorStarved (chain : BitVec 10) (s : State) : Out :=
  let n := chain.toNat
  match s.pub n with
  | none => .next s
  | some v =>
    let x := pubInterval s v
    let g := ((v.seedOf x).getD 0, x / 65536 + 1)
    if decide (v.start ≤ x) && decide (64512 ≤ x % 65536) && v.carried != some g && v.starved != some g then
      .next ((s.setPub n { v with starved := some g }).post 471)
    else .next s

/-- PUBLISHER_RENEWAL_START (R206, Table 6.10): the start interval of a renewal passes; d intervals later the earlier
chain's seed slot is invalidated. -/
def execPublisherRenewalStart (chain : BitVec 10) (s : State) : Out :=
  let n := chain.toNat
  match s.pub n with
  | none => .next s
  | some v =>
    let x := pubInterval s v
    match v.seeds.find? (fun e => decide (v.inForce < e.2.1) && decide (e.2.1 ≤ x)) with
    | some e => .next ((s.setPub n { v with inForce := e.2.1 }).post 476)
    | none =>
      match v.seeds with
      | a :: b :: rest =>
        if b.2.1 + v.delay ≤ x then
          .next ((s.setPub n { v with seeds := b :: rest, banks := v.banks.filter (fun y => y.seed != a.1) }).invalidate a.1)
        else .next s
      | _ => .next s

/-! ### Standalone disclosures (R188) -/

/-- A standalone disclosure is due in interval x: the stream sealed in an interval i ≤ x − 1 − d and has sent no trailer of
interval i + d or later. -/
def disclosureDue (v : Pub) (a : StreamAux) (x : Nat) : Bool := a.sealedIn.any (fun i => decide (i + v.delay + 1 ≤ x))

/-- STANDALONE_DISCLOSURE_SEND (R155, R188): at the boundary of interval j + 1 the key of interval j + 1 − d goes out on
the stream's ports. While none is up, or the mode carries no traffic, it cannot go out, and its intervals stay undisclosed
until a later boundary, as R188 does not say: DESIGN CHOICE, log 44. -/
def execStandaloneDisclosureSend (h : Handle) (s : State) : Out :=
  match owedOf s h.toNat with
  | none => .next s
  | some (a, c) =>
    match s.pub c.chain with
    | none => .next s
    | some v =>
      let x := pubInterval s v
      match (if disclosureDue v a x then (pubReady v x).bind (·.disclosed) else none) with
      | some k =>
        let bytes := natToBytes 6 a.da.toNat ++ natToBytes 6 (stationOf s.img (lowPort c.portMask)).toNat ++ a.vlan ++
          [0x88, 0xB5] ++ natToBytes 2 c.matchId ++ bwTrailer 64 v.delay v.publisher.toNat x k []
        let s1 := s.setOwed h.toNat (stillOwed v a x)
        if upPorts s c.portMask = 0 || !trafficMode s then .next s
        else .next { s1 with tx := s1.tx ++ [ownFrame s .standalone c.portMask bytes], nextFrame := s1.nextFrame + 1 }
      | none => .next s

end Sys2Proof.Machine
end

