-- ==== Sys2Proof/Machine/Ingress.lean ====
section
/-!
DEFINITION. Frames received (R69, R92 to R97, R121 to R142, R160, R161, R303, R304, R509): the MAC's checks, redundancy
framing, classification, the V0 checks, plaintext, the V1 word, CLEAR frames, the PTP bypass and HSR forwarding. A frame
comes whole with FRAME_CLASSIFY; the rows that follow take it through its stages.
-/

namespace Sys2Proof.Machine

/-! ### Fields of the security headers (Tables 5.2 and 5.3) -/

/-- Where the EtherType stands. -/
def rxOff (b : List Byte) : Nat := 12 + tagLen b

def tci (b : List Byte) : BitVec 8 := BitVec.ofNat 8 (beAt (rxOff b + 2) 1 b)
def tciEs (b : List Byte) : Bool := bit (tci b) 6
def tciSc (b : List Byte) : Bool := bit (tci b) 5
def tciE (b : List Byte) : Bool := bit (tci b) 3
def tciAn (b : List Byte) : Nat := fld (tci b) 0 2
def shortLen (b : List Byte) : Nat := beAt (rxOff b + 3) 1 b
def pn32 (b : List Byte) : Nat := beAt (rxOff b + 4) 4 b
/-- The bytes of the SecTAG. -/
def secTagLen (b : List Byte) : Nat := if tciSc b then 16 else 8
/-- The first byte after the SecTAG. -/
def macEnd (b : List Byte) : Nat := rxOff b + secTagLen b

def gsvAppid (b : List Byte) : Nat := beAt (rxOff b + 2) 2 b
def gsvLength (b : List Byte) : Nat := beAt (rxOff b + 4) 2 b
def gsvRes1 (b : List Byte) : BitVec 16 := BitVec.ofNat 16 (beAt (rxOff b + 6) 2 b)
def gsvRes2 (b : List Byte) : BitVec 16 := BitVec.ofNat 16 (beAt (rxOff b + 8) 2 b)
def gsvExtOf (b : List Byte) : List Byte := slice (rxOff b + 10) 16 b
def gsvKeyId (b : List Byte) : Nat := beAt 4 4 (gsvExtOf b)
def gsvCounter (b : List Byte) : Nat := beAt 10 6 (gsvExtOf b)
/-- The first byte after the security extension header. -/
def gsvEnd (b : List Byte) : Nat := rxOff b + 26

/-! ### Matching (R92, R93) -/

/-- The stream may take a frame of this port and VLAN. -/
def rxMatches (s : State) (p : Nat) (b : List Byte) (c : Context) : Bool :=
  (portGroup s.img p).any (c.portMask.testBit ·) && vlanMeets c (vidOf b)

def findStream (s : State) (p : Nat) (b : List Byte) (ok : Context → Bool) : Option (Nat × Context) :=
  s.streams.find? (fun e => (e.2.armed || e.2.created) && rxMatches s p b e.2 && ok e.2)

/-- The match SCI of a SECY_RX stream or a DUPLEX opening half. -/
def matchSci (c : Context) : Nat := c.matchAddr * 65536 + c.matchId

/-- The SCI of a MACsec frame, carried or implied (R93). -/
def frameSci (s : State) (p : Nat) (b : List Byte) : Option Nat :=
  if tciSc b then some (beAt (rxOff b + 8) 8 b)
  else if tciEs b then some ((saOf b).toNat * 65536 + 1)
  else
    match s.streams.filter (fun e => (e.2.isSecyRx || e.2.isDuplex) && !e.2.free && rxMatches s p b e.2) with
    | [e] => some (matchSci e.2)
    | _ => none

def macStream (s : State) (p : Nat) (b : List Byte) : Option (Nat × Context) :=
  match frameSci s p b with
  | some sci => findStream s p b (fun c => (c.isSecyRx || c.isDuplex) && matchSci c == sci)
  | none => none

def gsvStream (s : State) (p : Nat) (b : List Byte) : Option (Nat × Context) :=
  findStream s p b (fun c => c.isGsvSub && c.etherType == etherTypeOf b && c.matchAddr == beAt 0 6 b &&
    c.matchId == gsvAppid b)

def clearStream (s : State) (p : Nat) (b : List Byte) : Option (Nat × Context) :=
  findStream s p b (fun c => c.isClear && c.etherType == etherTypeOf b && (!c.addrValid || c.matchAddr == beAt 0 6 b))

/-- The catch-all stream, where it may take an unmatched frame of this port (R102). -/
def catchAll (s : State) (p : Nat) : Option (Nat × Context) :=
  let h := s.img.catchAll.toNat
  let c := s.stream h
  if s.img.unmatched == 1 && c.isClear && c.armed && (portGroup s.img p).any (c.portMask.testBit ·) then some (h, c)
  else none

/-! ### Violations of received frames (Tables 5.8 and 5.11) -/

/-- The SCI of a MACsec frame, carried or implied: that of the stream it matched, or, of a frame that matched none, what its
header gives. -/
def rxSci (s : State) (x : RxFrame) : Nat :=
  if x.handle = noHandle then (frameSci s x.rx.port.val x.body).getD 0 else matchSci x.ctx

/-- A violation of a MACsec frame, with its PN as far as it is known. A frame that matched a DUPLEX stream names it, whether
or not it is Armed when its notice goes out (R165). -/
def macViolation (s : State) (x : RxFrame) (code pn : Nat) : Violation :=
  { port := x.rx.port.val, code := code, sa := saOf x.body, fcsGood := x.rx.fcsGood, etherType := 0x88E5,
    subject := BitVec.ofNat 64 (rxSci s x), seqNo := BitVec.ofNat 64 pn,
    keyRef := BitVec.ofNat 32 (tciAn x.body), vlan := outerTag x.body,
    duplex := if x.ctx.isDuplex then some x.handle else none }

/-- A violation of a protected frame. -/
def rxViolation (s : State) (x : RxFrame) (code pn : Nat) : Violation :=
  if etherTypeOf x.body = 0x88E5 then macViolation s x code pn else gsvViolation x code

/-- An anomaly of redundancy framing: no subject and no key reference. Table 5.8 leaves open whether the SCI, or the DA and
APPID, of a MACsec or GSV frame stand in a notice of code 6: DESIGN CHOICE, log 46: zeros. -/
def redViolation (r : RxIn) (code seqNo : Nat) : Violation :=
  { port := r.port.val, code := code, sa := saOf r.bytes, fcsGood := r.fcsGood, etherType := etherTypeOf r.bytes,
    subject := 0, seqNo := BitVec.ofNat 64 seqNo, keyRef := 0, vlan := outerTag r.bytes, duplex := none }

/-! ### Tables of a pair (R139, R160) -/

def forgetNs : Nat := 400000000

/-- The entry is not yet forgotten. -/
def DupEntry.fresh (e : DupEntry) (now : Nat) : Bool := decide (now < e.at_ + forgetNs)

/-- The frame is recorded in the duplicate-discard table of its pair. -/
def isDuplicate (s : State) (p : Nat) : Option (BitVec 48 × BitVec 16) → Bool
  | none => false
  | some (sa, q) => (s.pair (portA s.img p)).dup.any (fun e => e.sa == sa && e.seqNo == q && e.fresh s.now)

/-- A table of 8,192 entries takes another, oldest first. -/
def pushEntry (t : List DupEntry) (e : DupEntry) : List DupEntry := (if 8192 ≤ t.length then t.drop 1 else t) ++ [e]

/-- A frame is recorded in the duplicate-discard table; an eviction is counted (R140, R142). -/
def State.recordCopy (s : State) (p : Nat) : Option (BitVec 48 × BitVec 16) → State
  | none => s
  | some (sa, q) =>
    let a := portA s.img p
    let t := (s.pair a).dup.filter (fun e => e.fresh s.now)
    let s1 := if 8192 ≤ t.length then s.bumpPair a 1 else s
    s1.setPair a { s1.pair a with dup := pushEntry t ⟨sa, q, p, s.now⟩ }

/-- DUPLICATE_ENTRY_FORGET (R139). -/
def execDuplicateEntryForget (p : Fin 16) (t : Nat) (s : State) : Out :=
  let s1 := s.atTime t
  let a := portA s1.img p.val
  .next (s1.setPair a { s1.pair a with dup := (s1.pair a).dup.filter (fun e => e.fresh s1.now) })

/-- HSR_FORWARD_ENTRY_FORGET (R160). -/
def execHsrForwardEntryForget (p : Fin 16) (t : Nat) (s : State) : Out :=
  let s1 := s.atTime t
  let a := portA s1.img p.val
  .next (s1.setPair a { s1.pair a with fwd := (s1.pair a).fwd.filter (fun e => e.fresh s1.now) })

/-! ### Frames take their place -/

/-- A received frame at its classification. -/
def rxNew (s : State) (kind : RxKind) (r : RxIn) (body : List Byte) (key : Option (BitVec 48 × BitVec 16)) (h : Nat)
    (c : Context) : RxFrame :=
  { id := s.nextFrame, kind := kind, rx := r, body := body, key := key, handle := h, ctx := c, demoted := false,
    v0 := false, seq := 0, gen := 0, genWords := .zero, keyVal := .zero, pn := 0, fate := (7, 0), v0Tick := 0,
    keyRefused := false, lengthBad := false, tagOk := false, plain := [], trailer := [], placed := 0, v0Placed := false,
    entry := none, buffered := false, bufHeld := false, aborted := r.aborted, bufferAbort := false, digest := none, slice := 0,
    traced := false, reported := false }

def State.pushRx (s : State) (x : RxFrame) : State := { s with rx := s.rx ++ [x], nextFrame := s.nextFrame + 1 }

/-- An anomaly of the redundancy framing that a frame showed is reported, now that the frame is not discarded for want of
buffer (R166). -/
def State.tell (s : State) (anomaly : Option Violation) : State := anomaly.elim s s.violation

/-- The anomaly has a notice of its own (Table 5.11). -/
def hasNotice (anomaly : Option Violation) : Bool := anomaly.any (fun v => decide (v.code ≠ 0))

/-- The anomaly of a frame that matched a DUPLEX stream names it, for the form of its notice (R165). -/
def ofStream (x : RxFrame) (anomaly : Option Violation) : Option Violation :=
  anomaly.map (fun v => { v with duplex := if x.ctx.isDuplex then some x.handle else none })

/-- A frame is kept, and its anomaly reported; where the anomaly has a notice, that is the one report of the frame. R171
orders the checks of Table 4.8 and R509, among which the redundancy framing is not: DESIGN CHOICE, log 46: it goes
first. -/
def State.keepRx (s : State) (x : RxFrame) (anomaly : Option Violation) : State :=
  (s.pushRx { x with reported := hasNotice anomaly }).tell (ofStream x anomaly)

/-- The bytes held in the ingress buffer of port p's quad. -/
def quadBytes (s : State) (p : Nat) : Nat :=
  ((s.rx.filter (fun x => x.kind != .hsr && x.rx.port.val / 4 == p / 4)).map (fun x => x.rx.bytes.length)).foldl (· + ·) 0

def quadBuffer : Nat := 524288

/-- A tagged frame has ended: its trace record falls due, with an outcome of zero where the frame has no V1 word (R472,
log 47). -/
def State.endTrace (s : State) (x : RxFrame) (unit seq code : Nat) : State :=
  if x.traced then s.traceEnd x.id false (traceW0 false x.rx.port.val x.ctx.cls x.demoted unit x.handle)
    (traceW1 seq (wireLen x.rx.bytes) code)
  else s

/-- A tagged frame that goes no further than its classification keeps its number for its trace record. -/
def State.endTagged (s : State) (x : RxFrame) : State :=
  if x.traced then { s.endTrace x 0 0 0 with nextFrame := s.nextFrame + 1 } else s

/-- A classified frame goes into its quad's buffer, or is discarded (R69): P class only when it is full. R69 gives no second
filling for C class: DESIGN CHOICE, log 47: B and C class alike are discarded from seven-eighths full. A frame that fills
the buffer is cut. The anomaly of a discarded frame posts the port's event and draws no notice (R166, R316). -/
def State.bufferRx (s : State) (x : RxFrame) (cls : Nat) (anomaly : Option Violation) : State :=
  let p := x.rx.port.val
  let occ := quadBytes s p
  if quadBuffer ≤ occ || (quadBuffer * 7 / 8 ≤ occ && cls ≠ 0) then
    let s1 := ((s.endTagged x).bumpPort p (16 - cls) 1).postOnce p 6
    if anomaly.isSome then s1.postOnce p 7 else s1
  else s.keepRx { x with bufferAbort := decide (quadBuffer < occ + x.rx.bytes.length) } anomaly

/-- The trace considers a frame at its classification to a stream (R471). -/
def State.tagRx (s : State) (x : RxFrame) : RxFrame × State :=
  let (t, s1) := s.traceFrame x.id false x.handle x.ctx.domain
  ({ x with traced := t }, s1)

/-- A frame classified to a stream counts, with its length under R3 (Table 16.9). -/
def State.countClassified (s : State) (h d len : Nat) : State := (s.count 0x300 h d 1).count 0x309 h d len

/-! ### Steps 3 to 7 of Table 3.8 -/

/-- A protected frame that matches no stream (R97); an anomaly with a notice that it showed before is what is reported
(R171). -/
def State.noStream (s : State) (x : RxFrame) (v : Violation) (anomaly : Option Violation) : State :=
  let s1 := ((s.bumpPort x.rx.port.val 12 1).postOnce x.rx.port.val 8).tell anomaly
  if hasNotice anomaly then s1 else s1.violation v

/-- A protected frame whose header is complete goes to its stream. One that matches a Created stream is dropped at its V0
check, and no other count than that of code 0x30E is kept of it (R94). -/
def State.classifyProtected (s : State) (r : RxIn) (body : List Byte) (key : Option (BitVec 48 × BitVec 16))
    (anomaly : Option Violation) (found : Option (Nat × Context)) : State :=
  match found with
  | none =>
    let x := rxNew s .protected_ r body key noHandle .zero
    s.noStream x (rxViolation s x 0x0A (if etherTypeOf body = 0x88E5 then pn32 body else gsvCounter body)) anomaly
  | some (h, c) =>
    let (x, s1) := s.tagRx (rxNew s .protected_ r body key h c)
    if c.armed then (s1.countClassified h c.domain (wireLen r.bytes)).bufferRx x c.cls anomaly else s1.keepRx x anomaly

/-- The class in which a received frame of a CLEAR stream stands in the discard order (R69, R103): C while the frames of
its stream in this plan period, those that still wait for delivery among them, are within the C rate. -/
def clearClass (s : State) (h : Nat) (c : Context) : Nat :=
  let waiting := (s.rx.filter (fun x => x.kind == .clear && x.handle == h)).length
  if c.classC && decide ((s.aux_ h).clearIn + waiting < c.cRate) then 1 else 2

/-- An unprotected frame goes to a CLEAR stream, to the catch-all, or nowhere (R94, R102, R103). -/
def State.classifyClear (s : State) (r : RxIn) (body : List Byte) (key : Option (BitVec 48 × BitVec 16))
    (anomaly : Option Violation) : State :=
  let p := r.port.val
  let place := match clearStream s p body with
    | some e => some e
    | none => catchAll s p
  match place with
  | none => (s.bumpPort p 13 1).tell anomaly
  | some (h, c) =>
    let (x, s1) := s.tagRx (rxNew s .clear r body key h c)
    if !c.armed then ((s1.endTagged x).count 0x30E h c.domain 1).tell anomaly
    else (s1.countClassified h c.domain (wireLen r.bytes)).bufferRx x (clearClass s h c) anomaly

/-- A GSV frame marked with a security extension (step 5 of Table 3.8). -/
def gsvSecured (body : List Byte) : Bool :=
  let et := etherTypeOf body
  (et == 0x88B8 || et == 0x88BA) && decide (rxOff body + 8 ≤ body.length) && Config.gsvMarked (gsvRes1 body)

/-- Steps 3 to 7. A frame that ends before its security header does is a runt (R121), and any other frame that is not
whole and good is dropped unseen (R303). -/
def State.classifyBody (s : State) (r : RxIn) (body : List Byte) (key : Option (BitVec 48 × BitVec 16))
    (anomaly : Option Violation) : State :=
  let p := r.port.val
  let et := etherTypeOf body
  let good := r.fcsGood && !r.aborted
  let cutShort (t : State) : State := (if 60 ≤ r.bytes.length then t.bumpPort p 5 1 else t).tell anomaly
  if et = 0x88E5 then
    if body.length < macEnd body then cutShort s else s.classifyProtected r body key anomaly (macStream s p body)
  else if gsvSecured body then
    if body.length < gsvEnd body then cutShort s else s.classifyProtected r body key anomaly (gsvStream s p body)
  else if !good then s
  else if et = 0x88B5 then s.keepRx (rxNew s .standalone r body key noHandle .zero) anomaly
  else if et = 0x88B6 then s.keepRx (rxNew s .notice r body key noHandle .zero) anomaly
  else s.classifyClear r body key anomaly

/-- The MAC passes the frame to the classifier: whole and good, or as it comes in, where it is protected (R121, R303). -/
def passesMac (r : RxIn) (body : List Byte) : Bool :=
  (r.fcsGood && !r.aborted) || etherTypeOf body == 0x88E5 || gsvSecured body

/-- A frame that the MAC passes to the classifier counts, with its length under R3 (Table 10.4). -/
def State.countReceived (s : State) (r : RxIn) (body : List Byte) : State :=
  if passesMac r body then (s.bumpPort r.port.val 0 1).bumpPort r.port.val 1 (wireLen r.bytes) else s

/-! ### Step 2: redundancy framing (R158 to R160) -/

/-- The frame is recorded, or waits, as forwarded from port p. -/
def forwarded (s : State) (p : Nat) (sa : BitVec 48) (q : BitVec 16) : Bool :=
  (s.pair (portA s.img p)).fwd.any (fun e => e.sa == sa && e.seqNo == q && e.port == p && e.fresh s.now) ||
    s.rx.any (fun x => x.kind == .hsr && x.rx.port.val == p && x.key == some (sa, q))

/-- The apparent PRP trailer of a frame: its suffix and a LAN identifier stand at the end (Table 5.7). -/
def prpTrailer (b : List Byte) : Option (Nat × Nat × Nat) :=
  let t := b.drop (b.length - 6)
  let w := beAt 2 2 t
  if 20 ≤ b.length && beAt 4 2 t == 0x88FB && (w / 4096 == 0xA || w / 4096 == 0xB) then
    some (beAt 0 2 t, w / 4096, w % 4096) else none

/-- A frame on a port of a PRP pair: its trailer is taken off, and the anomalies of a whole and good frame are counted
(Table 5.11). -/
def State.receivePrp (s : State) (a : Nat) (r : RxIn) : State :=
  let p := r.port.val
  match (if r.aborted then none else prpTrailer r.bytes) with
  | none => s.classifyBody r r.bytes none none
  | some (q, lan, size) =>
    let inner := r.bytes.take (r.bytes.length - 6)
    if size ≠ (Config.lsduSize false inner).toNat then
      if r.fcsGood then (s.bumpPort p 32 1).classifyBody r r.bytes none (some (redViolation r 0 q))
      else s.classifyBody r r.bytes none none
    else
      let key := some (saOf inner, BitVec.ofNat 16 q)
      if lan = (if p = a then 0xA else 0xB) || !r.fcsGood then s.classifyBody r inner key none
      else (s.bumpPort p 31 1).classifyBody r inner key (some (redViolation r 6 q))

/-- A frame on a port of an HSR pair: forwarded, also where it ends in an error, unless R160 excepts it, and delivered to
Quecy's own classifier, which counts it, where it is addressed to it, or is a forwarded multicast. The LSDU size of a frame
that was not received to its end says nothing, and makes its tag not malformed. -/
def State.receiveHsr (s : State) (a : Nat) (r : RxIn) (whole : Bool) : State :=
  let p := r.port.val
  let b := r.bytes
  if beAt 12 2 b != 0x892F || b.length < 18 then
    if r.aborted || !r.fcsGood then s else (s.bumpPort p 33 1).violation (redViolation r 6 0)
  else
    let inner := b.take 12 ++ b.drop 18
    let q := BitVec.ofNat 16 (beAt 16 2 b)
    if whole && beAt 14 2 b % 4096 != (Config.lsduSize true inner).toNat then
      (s.bumpPort p 34 1).violation (redViolation { r with bytes := inner } 6 q.toNat)
    else
      let own := stationOf s.img p
      let barred := saOf b == own || daOf b == own
      let again := forwarded s p (saOf b) q
      let fwd := !barred && !again
      let s1 := if again && !barred then s.bumpPair a 3 else s
      let s2 := if fwd then s1.pushRx (rxNew s1 .hsr r b (some (saOf b, q)) noHandle .zero) else s1
      if daOf b == own || (fwd && isGroup (daOf b)) then
        (s2.countReceived r inner).classifyBody r inner (some (saOf b, q)) none
      else s2

/-! ### The MAC (R303, R304) -/

/-- The port receives: its link is up in a mode in which traffic flows, and the classifier works. -/
def receiving (s : State) (p : Nat) : Bool :=
  (s.port p).up && trafficMode s && s.classifying && portEnabled s.img p && s.retention.isNone

/-- The frame passes the unicast filter of its port; an HSR pair takes every frame, to forward it. -/
def addressPasses (s : State) (p : Nat) (da : BitVec 48) : Bool :=
  isGroup da || da == stationOf s.img p || (portCfg s.img p).allUnicast ||
    (match pairOf s.img p with
      | some (_, _, 2) => true
      | _ => false)

/-- A receive error, or the maximum length, ends the frame before its end (R303, R304). -/
def cutAtMac (s : State) (r : RxIn) : Bool := r.aborted || decide ((portCfg s.img r.port.val).maxLen < r.bytes.length + 4)

/-- The frame as it ends at the MAC: cut at the maximum length, its last four bytes then standing for the FCS, and aborted
where it was cut, ended by an error, or is a runt. -/
def macFrame (s : State) (r : RxIn) : RxIn :=
  { r with
    bytes := r.bytes.take ((portCfg s.img r.port.val).maxLen - 4)
    fcsGood := r.fcsGood && !cutAtMac s r
    aborted := cutAtMac s r || decide (r.bytes.length < 60) }

/-- The counters of a frame that is not whole and good (Table 10.4): a receive error, a length over the maximum, a wrong FCS
of a frame that neither cut short, and a runt, each for itself. -/
def State.macCounts (s : State) (r : RxIn) : State :=
  let p := r.port.val
  let s1 := if r.aborted then s.bumpPort p 7 1 else s
  let s2 := if (portCfg s.img p).maxLen < r.bytes.length + 4 then s1.bumpPort p 6 1
    else if r.aborted || r.fcsGood then s1 else s1.bumpPort p 4 1
  if r.bytes.length < 60 then s2.bumpPort p 5 1 else s2

/-- FRAME_CLASSIFY (R92, R303): the MAC's checks, then the steps of Table 3.8 in order. A frame that ends before its
EtherType is complete is counted and goes no further. -/
def execFrameClassify (r : RxIn) (s : State) : Out :=
  let p := r.port.val
  if !receiving s p then .next s
  else
    let s1 := s.macCounts r
    let x := macFrame s r
    let good := x.fcsGood && !x.aborted
    let et := etherTypeOf x.bytes
    if x.bytes.length < 14 then .next s1
    else if !addressPasses s p (daOf x.bytes) then .next (if good then s1.bumpPort p 9 1 else s1)
    else if et = 0x8808 then .next (if good then s1.bumpPort p 8 1 else s1)
    else
      let s2 := s1.countReceived x x.bytes
      if et = 0x88F7 then .next (if good then s2.pushRx (rxNew s2 .ptp x x.bytes none noHandle .zero) else s2)
      else
        match pairOf s.img p with
        | some (a, _, 1) => .next (s2.receivePrp a x)
        | some (a, _, 2) => .next (s1.receiveHsr a x (!cutAtMac s r))
        | _ => .next (s2.classifyBody x x.bytes none none)

/-! ### Replay state (R137, R138, R218) -/

/-- The highest accepted PN and the replay map that guard a generation of stream h. A frame classified before a roll finds
the old generation's state in its entry, which stays while such a frame is in flight (log 47). -/
def replayState (s : State) (h g : Nat) : Nat × Word :=
  let c := s.stream h
  if c.cur.valid && c.cur.num == g then (c.highest, c.w28)
  else ((graceOf s h g).map (fun e => (e.hi.toNat, e.map))).getD (0, 0)

def lowestPn (c : Context) (hi : Nat) : Nat := hi - c.replayWindow

/-- The map marks a PN below the highest. -/
def mapMarks (hi : Nat) (m : Word) (pn : Nat) : Bool := decide (pn < hi) && decide (hi - pn ≤ 48) && bit m (hi - 1 - pn)

/-- A PN that the state has recorded (R138). -/
def pnRecorded (hi : Nat) (m : Word) (pn : Nat) : Bool := pn == hi || mapMarks hi m pn

/-- The state after PN has been accepted (R138). -/
def acceptPn (hi : Nat) (m : Word) (pn : Nat) : Nat × Word :=
  if hi < pn then
    let d := pn - hi
    (pn, if d ≤ 48 then (m <<< d) ||| at_ (d - 1) 1 else 0)
  else if pn < hi && hi - pn ≤ 48 then (hi, m ||| at_ (hi - 1 - pn) 1)
  else (hi, m)

/-- What an accepted PN of generation g makes of running words, for a snapshot that includes the frame (R20). -/
def pnTaken (g pn : Nat) (c : Context) : Context :=
  if c.cur.valid && c.cur.num == g then
    let (hi, m) := acceptPn c.highest c.w28 pn
    { c.setHighest hi with w28 := m }
  else c

/-- The state that guards generation g takes a PN. -/
def State.takePn (s : State) (h g pn : Nat) : State :=
  let (hi, m) := replayState s h g
  let (hi2, m2) := acceptPn hi m pn
  let c := s.stream h
  if c.cur.valid && c.cur.num == g then s.setStream h { c.setHighest hi2 with w28 := m2 }
  else { s with grace := s.grace.map (fun e =>
    if e.handle = h && e.gen == g then { e with hi := BitVec.ofNat 64 hi2, map := m2 } else e) }

/-- The 64-bit PN under suite 0x2 (R112, IEEE 802.1AEbw; log 6). -/
def recoverPn (lowest low32 : Nat) : Nat :=
  let hi := lowest / 2 ^ 32
  let up := lowest.testBit 31 && !low32.testBit 31
  ((if up then hi + 1 else hi) * 2 ^ 32 + low32) % 2 ^ 64

/-! ### The generation that a frame selects (R218, Table 7.2) -/

/-- The frame's identifier names this generation (Table 7.1). -/
def genNamed (b : List Byte) (c : Context) (g : Gen) : Bool :=
  g.valid && (if c.isMacsec then g.an == tciAn b else g.ssci == gsvKeyId b)

/-- The generation of the version that the frame took at classification, where it is open now. -/
def selectGen (s : State) (x : RxFrame) : Option Gen :=
  let c := x.ctx
  let now := s.stream x.handle
  let prvOpen := now.prv.num == c.prv.num && now.prv.valid && !prvClosed s x.handle
  let nxtOpen := s.grace.any (fun e => e.handle == x.handle && e.gen == c.nxt.num && e.opened && !e.previous) ||
    (now.cur.valid && now.cur.num == c.nxt.num && decide (c.grace ≠ 0))
  if genNamed x.body c c.cur then some c.cur
  else if genNamed x.body c c.prv && prvOpen then some c.prv
  else if genNamed x.body c c.nxt && nxtOpen then some c.nxt
  else none

/-! ### V0 (Table 4.8) -/

/-- Check 1 on a SecTAG (R148), but for what rests on the recovered PN. -/
def secTagBad (c : Context) (x : RxFrame) : Bool :=
  let b := x.body
  bit (tci b) 7 || bit (tci b) 4 || (tciEs b && tciSc b) || bit (tci b) 3 != bit (tci b) 2 || decide (47 < shortLen b) ||
    decide (b.length < macEnd b + 16) || (c.suite == 1 && pn32 b == 0)

/-- Check 1 on a security extension header (R152). -/
def gsvExtBad (c : Context) (x : RxFrame) : Bool :=
  let b := x.body
  let e := gsvExtOf b
  beAt 0 1 e != 1 || beAt 1 1 e != c.suite || beAt 2 1 e != icvLen c || decide (1 < beAt 3 1 e) || beAt 8 2 e != 0 ||
    (beAt 3 1 e == 1) != c.bindweed || !Config.gsvReservedOk (gsvRes1 b) (gsvRes2 b) ||
    decide (gsvLength b < (if c.bindweed then 78 else 24))

def headerBad (c : Context) (x : RxFrame) : Bool := if c.isMacsec then secTagBad c x else gsvExtBad c x

/-- The PN or frame counter of a frame under the replay state of its generation. -/
def framePn (c : Context) (x : RxFrame) (hi : Nat) : Nat :=
  if !c.isMacsec then gsvCounter x.body
  else if c.suite = 2 then recoverPn (lowestPn c hi) (pn32 x.body)
  else pn32 x.body

/-- How the V0 checks end. -/
inductive V0Result where
  | pass (g : Gen) (pn : Nat)
  | malformed
  | unknownGen
  | replay (below : Bool) (pn : Nat)
  | notArmed
  | duplicate
  deriving DecidableEq, Repr

/-- The checks of Table 4.8 in order, but for two on which other rules decide otherwise: DESIGN CHOICE, log 47. A frame of a
stream that was only Created has no other count than not armed (R94), so that Armed goes first. A copy whose twin has been
recorded is a duplicate and draws no notice (R138, R141, R142, Tables 5.11 and 7.6), so that the duplicate table goes before
the replay pre-check. -/
def v0Checks (s : State) (x : RxFrame) : V0Result :=
  let c := x.ctx
  if !c.armed then .notArmed
  else if headerBad c x then .malformed
  else
    match selectGen s x with
    | none => .unknownGen
    | some g =>
      let (hi, m) := replayState s x.handle g.num
      let pn := framePn c x hi
      if c.isMacsec && c.suite == 2 && pn == 0 then .malformed
      else if isDuplicate s x.rx.port.val x.key then .duplicate
      else if c.replayProtect && decide (pn < lowestPn c hi) then .replay true pn
      else if c.replayProtect && pnRecorded hi m pn then .replay false pn
      else .pass g pn

/-- The PN or frame counter that a notice of a dropped frame shows, recovered to 64 bits under suite 0x2 (Table 5.8): from
the state of the generation that the frame selects, or, where it selects none, of the current one (log 49). -/
def noticedPn (s : State) (x : RxFrame) : Nat :=
  let g := ((selectGen s x).map (·.num)).getD (s.stream x.handle).cur.num
  framePn x.ctx x (replayState s x.handle g).1

/-- A frame dropped at V0: counters, and the notice of Table 5.11. -/
def State.dropV0 (s : State) (x : RxFrame) (v : V0Result) : State :=
  let h := x.handle
  let d := x.ctx.domain
  let p := x.rx.port.val
  let s1 := ((s.dropRx x.id).endTrace x 0 0 0).freeGrace h
  match v with
  | .malformed => (s1.bumpPort p 10 1).report x (rxViolation s x (if x.ctx.isMacsec then 1 else 7) (noticedPn s x))
  | .unknownGen => (s1.count 0x30F h d 1).report x (rxViolation s x 4 (noticedPn s x))
  | .replay below pn =>
    (((s1.onShots h x.id (·.bumpReplay)).setStream h (s1.stream h).bumpReplay).count 0x30A h d 1).report x
      (rxViolation s x (if below then 3 else 2) pn)
  | .notArmed => s1.count 0x30E h d 1
  | .duplicate => s1.bumpPair (portA s1.img p) 0
  | .pass _ _ => s1

/-! ### What the open slice makes of a frame (R110, R136) -/

/-- User data, ICV and whether a length disagrees, of a MACsec frame (R136). -/
def macParts (b : List Byte) : List Byte × List Byte × Bool :=
  let rest := b.drop (macEnd b)
  let sl := shortLen b
  if sl = 0 then
    let n := rest.length - 16
    (rest.take n, rest.drop n, decide (n < 48))
  else (rest.take sl, slice sl 16 rest,
    decide (rest.length < sl + 16) || (decide (sl + 16 < rest.length) && b.length != 60))

/-- Body, tag and whether a length disagrees, of a GSV frame with a tag of t bytes (R136). -/
def gsvParts (b : List Byte) (t : Nat) : List Byte × List Byte × Bool :=
  let tagAt := rxOff b + 2 + gsvLength b
  (slice (gsvEnd b) (tagAt - gsvEnd b) b, slice tagAt t b,
    decide (b.length < tagAt + t) || (decide (tagAt + t < b.length) && b.length != 60))

/-- What the digest engine hashes for a received frame of suite 0x5 (R123, Table 4.4). -/
def rxDigestInput (x : RxFrame) : List Byte :=
  rxHead x ++ gsvExtOf x.body ++ (gsvParts x.body 32).1

/-- The frame opened under a key: delivered bytes, trailer, tag, lengths. -/
def openRx (x : RxFrame) (g : Gen) (pn : Nat) (sci : Nat) (key : Key) : RxFrame :=
  let c := x.ctx
  let b := x.body
  if c.isMacsec then
    let (ud, icv, bad) := macParts b
    let ssci := if c.isDuplex then c.partnerSsci else g.ssci
    let (ok, plain) := macsecOpen key (macsecIv c.suite sci ssci g.salt pn) (confBytes c) (tciE b) (b.take 12)
      (slice (rxOff b) (secTagLen b) b) ud icv
    { x with tagOk := ok, plain := b.take (rxOff b) ++ plain, lengthBad := bad }
  else
    let (body, tag, bad) := gsvParts b (icvLen c)
    let (ok, plain) := if c.suite = 5 then (false, body)
      else gsvOpen key c.suite (slice 4 12 (gsvExtOf b)) (rxHead x) (gsvExtOf b) body tag
    let n := if c.bindweed then trailerLen plain else 0
    { x with
      tagOk := ok
      plain := b.take (rxOff b + 10) ++ plain.take (plain.length - n)
      trailer := plain.drop (plain.length - n)
      lengthBad := bad }

/-! ### Receive buffers (R338, Table 12.4) -/

/-- The frame's completion takes an entry, or is lost; where buffers are in use the gate judges the entry's, unless it is
offline and the transfer waits (R361). -/
def State.receiveEntry (s : State) (h : Nat) : Option Nat × Bool × State :=
  match s.allot h with
  | (none, _) => (none, false, s.loseCompletion h)
  | (some e, s1) =>
    let r := s1.ring h
    let d := (s1.stream h).domain
    if !bufferMode r || !gateServing s1 d then (some e, false, s1)
    else
      match deputyRefusal s1 d h (bufferAddr r e) (bufferStride r) true with
      | some f => (some e, false, s1.logGate d f)
      | none => (some e, true, s1)

/-- The bytes of a frame of stream h that has taken an entry wait for the domain's gate (R361). -/
def bufferWaits (s : State) (h : Nat) (entry : Option Nat) : Bool :=
  entry.isSome && bufferMode (s.ring h) && !gateServing s (s.stream h).domain

/-- Delivered bytes from an offset on go into the frame's buffer, as far as it reaches. -/
def State.fillBuffer (s : State) (x : RxFrame) (off : Nat) (bs : List Byte) : State :=
  match x.entry, x.buffered with
  | some e, true =>
    let r := s.ring x.handle
    s.writeHost (bufferAddr r e + off) (bs.take (bufferStride r - off))
  | _, _ => s

/-! ### Meanings: V0, plaintext -/

/-- The V0 word of a frame takes its place where there is room. -/
def State.placeV0 (s : State) (x : RxFrame) : State :=
  if s.ingressRoom then
    (s.place (verdictBeat (v0Word x.handle x.seq.toNat))).setRx { x with v0Placed := true }
  else s.setRx x

/-- The stream's next frame sequence (R95). -/
def State.nextSeq (s : State) (h : Nat) : BitVec 20 × State :=
  let c := s.stream h
  (BitVec.ofNat 20 c.seqNext, s.setStream h (c.setSeqNext (c.seqNext + 1)))

/-- What a frame that passes V0 makes of running words: policing under its own version, and the frame sequence. -/
def passedV0 (w : Nat) (ctx c : Context) : Context :=
  let c1 := if ctx.classP then policed w ctx ctx.isDuplex false c else c
  c1.setSeqNext (c1.seqNext + 1)

/-- The payload of a protected frame: user data, or the body under the security extension. -/
def rxPayload (x : RxFrame) : Nat :=
  if x.ctx.isMacsec then (macParts x.body).1.length else (gsvParts x.body (icvLen x.ctx)).1.length

/-- The slots that a received frame takes on its open slice. -/
def rxSlots (x : RxFrame) : Nat := if takesSlots x.ctx then frameSlots (rxPayload x) else 0

/-- A received frame that takes slots has its turn among the frames of its direction (R55). -/
def openTurn (s : State) (x : RxFrame) : Bool :=
  !takesSlots x.ctx || mayEnter s .ingress (serviceRank (rxClass s x) (s.aux_ x.handle).usedOpen x.ctx.cRate) x.id

/-- The frame opened under its key, with its fate where its chain is to judge it (R193). -/
def openedRx (s : State) (y : RxFrame) (g : Gen) (pn : Nat) (key : Shares) : RxFrame :=
  let z := openRx y g pn (matchSci y.ctx) key.whole
  let w := if y.ctx.isGsvSub && y.ctx.bindweed then { z with fate := bwFate s y.ctx.chain z.trailer } else z
  { w with keyVal := key }

/-- A frame passes V0: policing, frame sequence, entry, and the fetch of its key (R29, R67, R95, R121, R143). -/
def State.passV0 (s : State) (x : RxFrame) (g : Gen) (pn sl : Nat) (cellBad : Bool) : State :=
  let h := x.handle
  let c := x.ctx
  let s0 := s.onShots h x.id (passedV0 (burstPeriods s) c)
  let (dem, s1) := if c.classP then s0.police h c c.isDuplex false else (false, s0)
  let (q, s2) := s1.nextSeq h
  let (e, buf, s3) := (s2.count 0x301 h c.domain 1).receiveEntry h
  let y := { x with
    demoted := dem, v0 := true, seq := q, gen := g.num, genWords := g, pn := BitVec.ofNat 64 pn, entry := e, buffered := buf,
    bufHeld := bufferWaits s3 h e, slice := sl, v0Tick := s.plan }
  let (r, s4) := s3.fetchFrame (3 + sl) c g useOpen cellBad
  if s4.mode == .lockdown then s4
  else
    match r with
    | .ok key =>
      let s5 := s4.useSlots h true (rxSlots x)
      (if takesSlots c then s5.busyPulse (194 + 4 * (3 + sl)) else s5).placeV0 (openedRx s5 y g pn key)
    | bad => ((s4.onShots h x.id (fetchMarked g.slot)).fetchFailed h g bad).placeV0 { y with keyRefused := true }

/-- V0_CHECK (R55, R121): at the last byte of the security header the checks of Table 4.8; a frame that passes gets its V0
word once its turn has come, one that fails is dropped. `ended` says that the frame had ended by then: one that is not
whole and good is then dropped unseen, with no V0 word (R303, R304). -/
def execV0Check (f : Nat) (sl : Fin 3) (cellBad ended : Bool) (t : Nat) (s : State) : Out :=
  let s1 := s.atTime t
  match s1.rxFrame f with
  | none => .next s1
  | some x =>
    if x.kind != .protected_ || x.v0 then .next s1
    else if ended && (x.aborted || !x.rx.fcsGood) then .next (((s1.dropRx f).endTrace x 0 0 0).freeGrace x.handle)
    else
      match v0Checks s1 x with
      | .pass g pn => .next (if openTurn s1 x then s1.passV0 x g pn sl.val cellBad else s1)
      | v => .next (s1.dropV0 x v)

/-- The next beat of a frame's delivered bytes. -/
def nextBeat (x : RxFrame) (bypass : Bool) : Beat :=
  let off := 64 * x.placed
  { data := slice off 64 x.plain, stamp := false, handle := if bypass then 0 else x.handle,
    seq := if bypass then 0 else x.seq, last := decide (x.plain.length ≤ off + 64), port := x.rx.port.val, bypass := bypass,
    va := if x.v0Placed || bypass then none else some (v0Word x.handle x.seq.toNat), vb := none }

/-- Every delivered byte is placed. -/
def allPlaced (x : RxFrame) : Bool := decide (x.plain.length ≤ 64 * x.placed)

/-- PLAINTEXT_BEAT (R122, R127): the next beat of plaintext, with or behind the V0 word, where the queue has room. -/
def execPlaintextBeat (f : Nat) (s : State) : Out :=
  match s.rxFrame f with
  | none => .next s
  | some x =>
    if x.kind != .protected_ || !x.v0 || !s.ingressRoom then .next s
    else if allPlaced x then .next (if x.v0Placed then s else s.placeV0 x)
    else
      let b := nextBeat x false
      .next (((s.place b).fillBuffer x (64 * x.placed) b.data).setRx { x with placed := x.placed + 1, v0Placed := true })

/-! ### V1 (R132, R138, R509) -/

/-- No earlier frame of the stream still awaits its V1 word (R129). -/
def v1Turn (s : State) (x : RxFrame) : Bool :=
  s.rx.all (fun y => y.id == x.id || y.handle != x.handle || !y.v0 ||
    decide ((x.seq.toNat + 2 ^ 20 - y.seq.toNat) % 2 ^ 20 ≥ 2 ^ 19))

/-- The code of conditions 1 to 5 of R509, and 0 where none holds. -/
def earlyCode (x : RxFrame) : Nat :=
  if x.aborted then 5
  else if x.bufferAbort then 6
  else if !x.rx.fcsGood then 3
  else if x.keyRefused then 7
  else if x.lengthBad then 4
  else 0

/-- The code of steps 7 and 8 of R509 for a frame whose tag is right. -/
def lateCode (s : State) (x : RxFrame) : Nat :=
  let (hi, m) := replayState s x.handle x.gen
  if isDuplicate s x.rx.port.val x.key then 9
  else if x.ctx.replayProtect && pnRecorded hi m x.pn.toNat then 8
  else 0

/-- The bytes of a frame that have been delivered. -/
def deliveredLen (x : RxFrame) : Nat := if x.keyRefused then 0 else min (64 * x.placed) x.plain.length

/-- The receive completion of a frame with its closing verdict word (R337, Table 11.7). -/
def State.completeRx (s : State) (x : RxFrame) (word : Word) : State :=
  match x.entry with
  | none => s
  | some e =>
    let clear := x.kind == .clear
    let r := s.ring x.handle
    let held := if x.bufHeld then (x.plain.take (deliveredLen x)).take (bufferStride r) else []
    let buf := x.buffered || !held.isEmpty
    s.output x.handle e (rxCompletion x.handle (buf && decide (bufferStride r < x.plain.length)) buf x.rx.port.val word
      (if clear then 0 else BitVec.ofNat 48 x.pn.toNat)
      (if !clear && x.ctx.suite == 2 then x.pn.toNat / 2 ^ 48 else 0) (deliveredLen x))
      (if held.isEmpty then 0 else bufferAddr r e) held

/-- What a V1 code makes of running words (R132, R138), for a snapshot that includes the frame (R20). -/
def judgedV1 (x : RxFrame) (code : Nat) (c : Context) : Context :=
  if code = 0 then (pnTaken x.gen x.pn.toNat c).bumpFrames
  else if code = 9 then c
  else if code = 8 then c.bumpReplay
  else c.bumpFailures

/-- The counters, and the notice, that follow a failing code (R132, Table 5.11). -/
def State.failV1 (s : State) (x : RxFrame) (code : Nat) : State :=
  let h := x.handle
  let d := x.ctx.domain
  let p := x.rx.port.val
  let s1 := (s.bumpPort p (16 + code) 1).count 0x303 h d 1
  let s2 := if code = 9 then s1.bumpPair (portA s1.img p) 0
    else if code = 8 then (s1.setStream h (s1.stream h).bumpReplay).count 0x30A h d 1
    else s1.setStream h (s1.stream h).bumpFailures
  let s3 := if code = 7 then s2.count 0x30B h d 1 else s2
  let pn := x.pn.toNat
  if code = 4 then s3.report x (rxViolation s x 5 pn)
  else if code = 8 then s3.report x (rxViolation s x 2 pn)
  else if code = 1 || code = 2 || code = 0x0A then s3.report x (rxViolation s x (if x.ctx.isMacsec then 8 else 0) pn)
  else s3

/-- A frame passes V1 (R138, R140, R193, R221). -/
def State.passV1 (s : State) (x : RxFrame) : State :=
  let h := x.handle
  let s1 := ((s.takePn h x.gen x.pn.toNat).recordCopy x.rx.port.val x.key).count 0x302 h x.ctx.domain 1
  let s2 := s1.setStream h (s1.stream h).bumpFrames
  let s3 := if x.ctx.isGsvSub && x.ctx.bindweed then s2.bwArrive x else s2
  if (s3.stream h).nxt.valid && (s3.stream h).nxt.num == x.gen then s3.askFollow h else s3

/-- The blocks of a frame cut in the block count as discarded, where they have entered the slice (R468). -/
def State.discardRx (s : State) (x : RxFrame) (code : Nat) : State :=
  if (code = 5 || code = 6) && !x.keyRefused then s.discardBlocks (3 + x.slice) (if x.ctx.classP && !x.demoted then 0 else 1) (rxSlots x) else s

/-- The V1 word is placed, with the V0 word if that still waits; the completion is written and the frame leaves. -/
def State.giveV1 (s : State) (x : RxFrame) (code : Nat) : State :=
  let h := x.handle
  let w := v1Word code h x.seq.toNat
  let beat := if x.v0Placed then verdictBeat w else { verdictBeat (v0Word h x.seq.toNat) with vb := some w }
  let s1 := ((s.place beat).dropRx x.id).onShots h x.id (judgedV1 x code)
  let s2 := s1.endTrace x (3 + x.slice) x.seq.toNat code
  let s3 := if code = 0 then s2.passV1 x else s2.failV1 x code
  ((s3.completeRx x w).freeGrace h).discardRx x code

/-- A frame is ready for its V1 word: it has its V0, it is the stream's turn, the queue has room, and its plaintext is
placed unless it was cut. -/
def v1Ready (s : State) (x : RxFrame) : Bool :=
  x.kind == .protected_ && x.v0 && s.ingressRoom && v1Turn s x && (allPlaced x || x.aborted || x.bufferAbort)

/-- V1_VERDICT (R138, R509): the first condition that a frame meets at its end gives its V1 word. A frame of suite 0x5 that
meets none of the first five goes to the digest engine (R123), which counts as one use of its slot (R245). -/
def execV1Verdict (f : Nat) (t : Nat) (s : State) : Out :=
  let s1 := s.atTime t
  match s1.rxFrame f with
  | none => .next s1
  | some x =>
    if !v1Ready s1 x || x.digest.isSome then .next s1
    else
      let e := earlyCode x
      if e ≠ 0 then .next (s1.giveV1 x e)
      else if x.ctx.suite == 5 then
        let s2 : State := { s1 with out := { s1.out with digestReq := some (rxDigestInput x) } }
        .next (((s2.setRx { x with digest := some (false, false) }).countUse x.genWords.slot).post 489)
      else if !x.tagOk then .next (s1.giveV1 x (if x.ctx.isMacsec && x.ctx.checkMode then 2 else 1))
      else .next (s1.giveV1 x (lateCode s1 x))

/-- DIGEST_OPEN_RESULT (R37, R123): the digest engine's result gives a frame of suite 0x5 its V1 word. -/
def execDigestOpenResult (f : Nat) (r : DigestResult) (t : Nat) (s : State) : Out :=
  if !wfDigest r then .refused .illFormed
  else
    let s1 := s.atTime t
    match s1.rxFrame f with
    | none => .next s1
    | some x =>
      if !v1Ready s1 x || x.digest.isNone then .next s1
      else
        let s2 := s1.digestEvents r
        if r.truncated then .next (s2.giveV1 x 0x0B)
        else if !(digestPairOk r && r.flag) then .next (s2.giveV1 x 0x0A)
        else .next (s2.giveV1 x (lateCode s2 x))

/-! ### CLEAR frames, the bypass, forwarding, and the consumer -/

/-- All beats of a frame that is released whole. -/
def wholeBeats : Nat → Bool → RxFrame → List Beat
  | 0, _, _ => []
  | n + 1, bypass, x => nextBeat x bypass :: wholeBeats n bypass { x with placed := x.placed + 1, v0Placed := true }

def beatCount (n : Nat) : Nat := ceilDiv n 64

/-- CLEAR_FRAME_DELIVERY (R128, R140): the frame's V0 word and bytes, once its FCS has been found good; its completion
carries the V0 word. A copy already recorded is dropped; a frame that goes on counts in its plan period (R67, R103). The
spec says of w30 that a CLEAR stream counts frames and bytes in it, and Table 3.6 gives it frames alone: DESIGN CHOICE,
log 47: frames. -/
def execClearFrameDelivery (f : Nat) (t : Nat) (s : State) : Out :=
  let s1 := s.atTime t
  match s1.rxFrame f with
  | none => .next s1
  | some x =>
    let n := beatCount x.body.length
    if x.kind != .clear || decide (2048 < s1.ingress.length + n) then .next s1
    else if isDuplicate s1 x.rx.port.val x.key then
      .next (((s1.dropRx f).endTrace x 0 0 0).bumpPair (portA s1.img x.rx.port.val) 0)
    else
      let h := x.handle
      let s0 := if x.ctx.classC then (s1.policeClear h x.ctx true).2 else s1
      let (q, s2) := (s0.onShots h f (fun c => (c.setSeqNext (c.seqNext + 1)).bumpFrames)).nextSeq h
      let (e, buf, s3) := (s2.count 0x301 h x.ctx.domain 1).receiveEntry h
      let y := { x with
        v0 := true, seq := q, plain := x.body, entry := e, buffered := buf, bufHeld := bufferWaits s3 h e }
      let s4 := ((s3.dropRx f).placeAll (wholeBeats n false y)).fillBuffer y 0 y.plain
      let s5 := (s4.recordCopy x.rx.port.val x.key).setStream h (s4.stream h).bumpFrames
      let s6 := s5.endTrace x 0 q.toNat 0
      .next (s6.completeRx { y with placed := n } (v0Word h q.toNat))

/-- The timestamp beat of a PTP event message (R324). -/
def stampBeat (x : RxFrame) : Beat :=
  { data := natToBytesLE 64 (x.rx.seconds.toNat * 2 ^ 32 + x.rx.nanos.toNat), stamp := true, handle := 0, seq := 0,
    last := false, port := x.rx.port.val, bypass := true, va := none, vb := none }

/-- PTP_BYPASS (R161, R324): an event message is preceded by its timestamp; no verdict word, no slots. -/
def execPtpBypass (f : Nat) (s : State) : Out :=
  match s.rxFrame f with
  | none => .next s
  | some x =>
    let y := { x with plain := x.body }
    let ev := ptpEvent x.body
    let beats := (if ev then [stampBeat x] else []) ++ wholeBeats (beatCount x.body.length) true y
    if x.kind != .ptp || decide (2048 < s.ingress.length + beats.length) then .next s
    else .next ((if ev then s.bumpPort x.rx.port.val 39 1 else s).dropRx f |>.placeAll beats)

/-- HSR_FORWARD (R160, R308): the frame goes out of the pair's other port, bytes unchanged, and is recorded; to a port
that is down it is dropped and counted. -/
def execHsrForward (f : Nat) (t : Nat) (s : State) : Out :=
  let s1 := s.atTime t
  match s1.rxFrame f with
  | none => .next s1
  | some x =>
    if x.kind != .hsr then .next s1
    else
      match pairOf s1.img x.rx.port.val, x.key with
      | some (a, b, _), some (sa, q) =>
        let p := x.rx.port.val
        let other := if p = a then b else a
        let s2 := s1.dropRx f
        if !(s2.port other).up then .next (s2.bumpPair a 4)
        else
          let v := s2.pair a
          let s3 := (s2.setPair a { v with fwd := pushEntry (v.fwd.filter (fun e => e.fresh s2.now)) ⟨sa, q, p, s2.now⟩ }).bumpPair a 2
          let y : TxFrame := { ownFrame s3 .hsr (2 ^ other) x.body with badFcs := !x.rx.fcsGood }
          .next { s3 with tx := s3.tx ++ [y], nextFrame := s3.nextFrame + 1 }
      | _, _ => .next (s1.dropRx f)

/-- INGRESS_BEAT_TAKEN (R326): the consumer takes the oldest beat. -/
def execIngressBeatTaken (s : State) : Out := .next { s with ingress := s.ingress.drop 1 }

end Sys2Proof.Machine
end

