-- ==== Sys2Proof/Machine/Boundary.lean ====
section
/-!
DEFINITION. The plan boundary (R74) and what commits there: ticks, staged changes of every object, close ticks and early
windows, mode changes, the activation of an image, and the records of the period that ends.
-/

namespace Sys2Proof.Machine

/-! ### Responses that a boundary completes (R374) -/

def errStateCode : Nat := 0x06

/-- The words of a response from a0 on; the mode and the tick word of other responses are filled in when it is written. -/
def answerWords (status detail tick : Nat) (ws : List Word) : List Word :=
  [at_ 40 status ||| at_ 0 detail, BitVec.ofNat 48 tick] ++ ws

/-- The detail of ERR_STATE (Table 13.10): stream, slot, generation. -/
def stateDetail (c : Option Context) (slotSt : Option Nat) : Nat :=
  ((c.map Context.st).getD 7) * 2 ^ 29 + (slotSt.getD 3) * 2 ^ 27 +
    ((c.map (fun x => if x.cur.valid then x.cur.num else 0)).getD 0)

/-- Running words w24 to w31. -/
def runningWords (c : Context) : List Word := c.words.drop 24

/-- A frame of stream h numbered below b is in the block, between its classification and its end. -/
def inBlock (s : State) (h b : Nat) : Bool :=
  s.tx.any (fun x => (x.kind == .stream || x.kind == .clear || x.kind == .ptp || x.kind == .sealedNotice) && x.handle == h && decide (x.id < b)) ||
  s.rx.any (fun x => (x.kind == .protected_ || x.kind == .clear) && x.handle == h && decide (x.id < b))

/-- The response words of a snapshot, once the frames that it includes have left the block. -/
def shotWords (s : State) (x : Shot) : Option (List Word) :=
  if inBlock s x.handle x.bound then none else some (answerWords 0 0 x.tick (runningWords x.ctx))

/-- Where a command for a snapshot stands once plan tick n begins: a stream that is Free gives none (R390), and a stream
with frames in the block gives its own when they have left (R20). -/
def snapPhase (s : State) (n : Tick) (c : Cmd) : CmdPhase :=
  match c.phase with
  | .snapshot h t =>
    if n < t then c.phase
    else if (s.stream h).free then .answered (answerWords errStateCode (stateDetail (some .zero) none) 0 [])
    else if inBlock s h s.nextFrame then .settling
    else .answered (answerWords 0 0 t (runningWords (s.stream h)))
  | p => p

/-- The snapshot that a command takes at plan tick n of a stream with frames in the block. -/
def snapShot (s : State) (n : Tick) (c : Cmd) : Option Shot :=
  match c.phase with
  | .snapshot h t => if snapPhase s n c = .settling then some ⟨c.id, h, t, s.nextFrame, s.stream h⟩ else none
  | _ => none

/-- The snapshots that fall due at plan tick n show the state before its changes, with the effect of every frame
classified before it (R20, R390). Snapshots whose command has been answered go. -/
def State.streamSnapshots (s : State) (n : Tick) : State :=
  { s with
    shots := s.shots.filter (fun x => s.cmds.any (fun c => c.id == x.cmd)) ++ s.cmds.filterMap (snapShot s n)
    cmds := s.cmds.map (fun c => { c with phase := snapPhase s n c }) }

/-! ### Ticks (R44, R45, R50) -/

/-- The least and the greatest instant at which R49 lets the plan period in progress end: (1 ∓ 5 × 10⁻⁴) of its nominal
length after it began. -/
def periodEnds (s : State) : Nat × Nat :=
  (s.ticks.lastAt + ceilDiv (1999 * 10 ^ 9) (2000 * planFreq s), s.ticks.lastAt + 2001 * 10 ^ 9 / (2000 * planFreq s))

/-- Speedwell slews towards the time bus: the keeper is aligned, the bus is valid or in holdover, and the offset is 1 ms or
less (R49). -/
def slews (s : State) : Bool :=
  let off := keeperTime s - busTime s
  s.ticks.aligned && (s.ticks.valid || s.ticks.hold) && decide (-1000000 ≤ off) && decide (off ≤ 1000000)

/-- The instant at which the next plan boundary falls while Speedwell slews: that of R44 on the time bus, or the end of the
shortest or longest period nearest to it (R49). -/
def slewedTo (s : State) : Nat :=
  let due := (tickInstant (planFreq s) (s.plan + 1) : Int) - busTime s + s.now
  max (periodEnds s).1 (min (periodEnds s).2 due.toNat)

/-- The plan period in progress may end now: at its instant, less the 16 ns of R49, while Speedwell slews; else once it has
lasted its least length, for no rule says how a keeper that runs free meets it. -/
def periodLasted (s : State) : Bool :=
  decide ((periodEnds s).1 ≤ s.now) && (!slews s || decide (slewedTo s ≤ s.now + 16))

/-- The plan tick that a boundary would begin now; none where none passes. After an alignment the boundaries skipped are
applied at one, and none passes before the next one due; at any other time a plan period keeps its shortest length. -/
def nextPlan (s : State) : Option Tick :=
  let f := planFreq s
  let t := keeperTime s
  if !s.ticks.running || f = 0 || t < 0 then none
  else if !s.ticks.jump then (if periodLasted s then some (s.plan + 1) else none)
  else if t < tickInstant f (s.plan + 1) then none
  else some (max (s.plan + 1) (ticksAt f t.toNat))

/-- The instant at which the boundary of plan tick n passed: now, or, if that is past, the one to which Speedwell slews or
the end of the longest period (R49); after an alignment, the instant at which the keeper reached the tick. -/
def boundaryAt (s : State) (n : Tick) : Nat :=
  let f := planFreq s
  if s.ticks.jump then ((tickInstant f n : Int) - s.ticks.keeper).toNat
  else min s.now (if slews s then slewedTo s else (periodEnds s).2)

/-- Tick n of domain d comes before tick m of domain e: by instant, then by domain number (R74). -/
def tickBefore (s : State) (d n e m : Nat) : Bool :=
  let i := tickInstant (domFreq s (realDom s d)) n
  let j := tickInstant (domFreq s (realDom s e)) m
  decide (i < j) || (i == j && decide (realDom s d < realDom s e))

/-- Inserts into a list kept in order, after its equals. -/
def insertBy {α : Type} (before : α → α → Bool) (x : α) : List α → List α
  | [] => [x]
  | y :: l => if before x y then x :: y :: l else y :: insertBy before x l

def sortBy {α : Type} (before : α → α → Bool) (l : List α) : List α := l.foldl (fun m x => insertBy before x m) []

/-- The tick that domain k holds once plan tick n has begun (R45); an index never decreases (R49). -/
def idxAt (s : State) (n : Tick) (k : Nat) : Tick := max (tickNow s k) (ticksAt (domFreq s k) (tickInstant (planFreq s) n))

/-- The domain whose next boundary comes first, among domains with a tick index and the index they are to reach. -/
def firstTick (s : State) (l : List (Nat × Tick × Tick)) : Option Nat :=
  (l.filter (fun e => decide (e.2.1 < e.2.2))).foldl (fun b e => match b with
    | none => some e.1
    | some d => if tickBefore s e.1 (e.2.1 + 1) d (((l.find? (fun x => x.1 == d)).map (·.2.1)).getD 0 + 1) then some e.1 else b) none

/-- The boundary events of the tick boundaries that pass together, `k` in number, one by one in the order of their instants
and, at equal instants, of domain number (R74). -/
def State.postTicks : Nat → List (Nat × Tick × Tick) → State → State
  | 0, _, s => s
  | k + 1, l, s =>
    match firstTick s l with
    | none => s
    | some d => State.postTicks k (l.map (fun e => if e.1 = d then (e.1, e.2.1 + 1, e.2.2) else e)) (s.post (410 + 6 * d))

/-- Step 2 of R74: the plan index, every slower index, and the boundary events, in the order of the instants. At its
boundary the keeper stands at the instant of R44, however it slewed there (R49). -/
def State.advanceTicks (s : State) (n : Tick) : State :=
  let doms := enabledDoms s
  let s1 : State := { s with ticks := { s.ticks with
    plan := n
    idx := doms.foldl (fun t k => Table.put 0 k (idxAt s n k) t) s.ticks.idx
    keeper := if s.ticks.jump then s.ticks.keeper else (tickInstant (planFreq s) n : Int) - boundaryAt s n
    jump := false
    lastAt := boundaryAt s n } }
  let l := doms.map (fun k => (k, tickNow s k, idxAt s n k))
  State.postTicks ((l.map (fun e => e.2.2 - e.2.1)).foldl (· + ·) 0) l s1

/-! ### Modes -/

/-- The lifecycle allows Service (Table 14.4). -/
def lifecycleServes (s : State) : Bool := s.fuses.lifecycle == 1 || s.fuses.lifecycle == 2

/-- A staged change commits no later than plan tick t (R74). -/
def commitsBy (s : State) (t : Tick) (c : Staged) : Bool := !tickBefore s 4 t c.dom c.tick

/-- An image will be active at plan tick t. -/
def activeAt (s : State) (t : Tick) : Bool := s.active.isSome || s.staged.any (fun c => c.obj == .image && commitsBy s t c)

/-- Every stream will be Free at plan tick t. -/
def allFreeAt (s : State) (t : Tick) : Bool :=
  s.streams.isEmpty && s.staged.all (fun c => !(isStreamObj c.obj && commitsBy s t c))

/-- No Bindweed chain will exist at plan tick t. -/
def noChainAt (s : State) (t : Tick) : Bool :=
  let gone (verified : Bool) (n : Nat) : Bool := s.staged.any (fun c => c.obj == .chain verified n && commitsBy s t c)
  s.pubs.all (fun e => gone false e.1) && s.vers.all (fun e => gone true e.1)

/-- The transition of Table 14.2 from a mode, with its condition as it will stand at plan tick t (R412). -/
def modeLegal (s : State) (t : Tick) (frm dest : Mode) : Bool :=
  match frm, dest with
  | .commission, .service => activeAt s t && lifecycleServes s
  | .service, .commission => allFreeAt s t
  | .commission, .drill => activeAt s t && allFreeAt s t && noChainAt s t
  | .service, .drill => activeAt s t && allFreeAt s t && noChainAt s t
  | .service, .dormant => s.staged.isEmpty
  | .dormant, .service => true
  | _, _ => false

/-- Every port's link is down (R310). Frames that were received before are processed normally (R308, log 51). -/
def State.allDown (s : State) : State := (List.range 16).foldl (fun x p => if portExists x.img p then x.declareDown p [] else x) s

/-- The domains whose key, or record root, Drill derives again: those to which the image allocates blocks, and those that
have one (R239, R242). -/
def drillDomains (s : State) (slotOf : Nat → Nat) : List Nat :=
  (List.range 16).filter (fun d => (allocatedDomains s.img).contains d || (s.slot (slotOf d)).valid)

/-- What has begun under a domain key or a record root that Drill invalidates is abandoned: a derivation of a record key or
of a chain seed answers ERR_STATE, an import when its key comes (R235). -/
def State.abandonBegun (s : State) : State :=
  let hit (c : Cmd) : Bool := (begunWith c).isSome &&
    (fld c.hdr 40 8 == 0x30 || (fld c.hdr 40 8 == 0x29 && fld (c.words.getD 1 0) 20 3 == 2))
  let target (c : Cmd) : Nat := if fld c.hdr 40 8 = 0x30 then fld (c.words.getD 1 0) 0 17 else fld (c.words.getD 1 0) 31 17
  { s with
    cmds := s.cmds.map (fun c => if hit c then { c with
      phase := .answered (answerWords errStateCode (stateDetail none (some (s.slot (target c)).st)) 0 []) } else c)
    imports := s.imports.map (fun i => { i with abandoned := true }) }

/-- Drill (R435): domain keys, record roots and memory keys are invalidated and derived again from the drill ladder key,
the record roots from a drill SEAL epoch key in the pool; the memory plane is reset; the Drill flag is set. -/
def State.enterDrill (s : State) : State :=
  let ks := (List.range 16).map slotDomain ++ (List.range 16).map slotRoot ++
    ((List.range 15).map (fun i => slotMemA (i + 1))) ++ ((List.range 15).map (fun i => slotMemB (i + 1)))
  let s1 := ks.foldl (fun x k => if (x.slot k).empty_ then x else (x.invalidate k).scrub k) s.abandonBegun
  let s2 := s1.deriveSlot slotPool slotDrill none "SEAL" [] maskKdf 0 false unlimited
  let s3 := (s2.deriveTree slotDrill slotPool (drillDomains s slotDomain) (drillDomains s slotRoot) s2.mem.ids).resetMemPlane
  (({ s3 with mode := .drill, ladder := { s3.ladder with drill := true } }).txRise).post 498

/-- Words w0, w1 and w9 of a verified chain's record (Table 6.5). -/
def verWords (v : Ver) : List Word := [0, 1, 9].map (fun k => (verRecord v).getD k 0)

/-- The outputs of finished work on ring h are written. -/
def State.writeReady : Nat → Handle → State → State
  | 0, _, s => s
  | n + 1, h, s => match execOutputWrite h s with
    | .next t => State.writeReady n h t
    | _ => s

/-- No frame starts any more on any port (R311): a frame that is going out, or has gone out, on one port of a pair has no
other copy to come. -/
def State.noMoreStarts (s : State) : State :=
  (s.tx.filter (fun x => x.stage == .onWire && decide (x.ports ≠ 0))).foldl (fun t x =>
    let t1 := ((List.range 16).filter (bit x.ports ·)).foldl (fun y p => y.oneCopyLess p x) t
    t1.endIfDone { x with ports := 0 }) s

/-- The open interface frames that have begun: E_READY stays low, so their supply has ended, and they end short (log 63). -/
def State.endSupply (s : State) : State :=
  (s.tx.filter (fun x => x.iface && !x.ended && x.stage != .offered && x.stage != .ready)).foldl
    (fun t x => (t.endShort x.handle).skipHandle x.handle) s

/-- What Dormant and a retention restart begin with (R430, R437): no more is taken or classified, and each port finishes the
frame it is sending. -/
def State.quiesce (s : State) : State := (State.endSupply { s with eReady := false, classifying := false }).noMoreStarts

/-- The decided V2 records of stream h are written. -/
def State.writeV2 : Nat → Handle → State → State
  | 0, _, s => s
  | n + 1, h, s => match execV2RecordWrite h s with
    | .next t => State.writeV2 n h t
    | _ => s

/-- What follows once the frames have ended (R430, R437, R443): the links go down, the outputs of finished work are written,
Teasel is flushed, and the copies of R443 are taken. -/
def State.settle (s : State) : State :=
  let s1 := s.allDown
  let s2 := (s1.v2.map (·.handle)).foldl (fun x h => x.writeV2 1 (BitVec.ofNat 15 h)) s1
  let s3 := (s2.rings.map (·.1)).foldl (fun x h => x.writeReady (x.ring h).outs.length (BitVec.ofNat 15 h)) s2
  let s4 := s3.flushTeasel
  { s4 with vers := s4.vers.map (fun e => (e.1, { e.2 with flushed := verWords e.2 })) }

/-- Dormant (R437) begins; DORMANT_POWER_DOWN goes on once the frames have ended. -/
def State.enterDormant (s : State) : State :=
  let s1 := s.quiesce
  ({ s1 with mode := .dormant, power := { s1.power with
    dormantReached := false, exiting := false, entering := true, pd1 := true, pd1Since := s1.now } }).post 498

/-- A mode change at its boundary: what was answered OK takes effect (R381, log 22). The way out of Dormant only begins here
(R453). Out of Drill and of Lockdown no mode change leads (Table 14.2, R433, R436). -/
def State.commitMode (s : State) (m : Mode) : State :=
  if s.mode == .drill || s.mode == .lockdown then s
  else match m with
  | .drill => s.enterDrill
  | .dormant => s.enterDormant
  | .commission => (({ s with mode := .commission }).allDown).post 498
  | _ =>
    if s.mode == .dormant then { s with power := { s.power with exiting := true, clkReq := true, pd1 := true } }
    else (({ s with mode := m }).txRise).post 498

/-! ### Image activation (R300, R427) -/

/-- The slot is verified again: an image overwritten since its command was answered is refused with no effect. Changed ports
undergo a port reset, and every gate comes online. `cut` names the frames that are still being received. -/
def State.commitImage (s : State) (slotB : Bool) (cut : List Nat) : State :=
  match verifyImage s.fuses (s.nv.slotOf slotB).bytes with
  | .bad _ _ => s
  | .good img =>
    let ps := (List.range 16).filter (fun p => portChanged s.img img p)
    let off := (List.range 17).filter (fun g => !(s.gate g).online)
    let s1 := ps.foldl (fun x p => x.declareDown p cut) s
    let s2 := s1.activateImage slotB img
    let s3 := ps.foldl (fun x p => (x.fitPort p).resetPort p cut) s2
    let s4 := (List.range 17).foldl (fun x g => x.setGate g { x.gate g with changed := true }) s3
    s4.posts (off.map (fun g => 377 + 2 * g))

/-! ### Other objects -/

/-- LATENCY_BUDGET at its boundary (R447). -/
def State.setBudget (s : State) (d : Option Nat) (v : BitVec 32) : State :=
  match d with
  | some k => { s with power := { s.power with domainBudget := Table.put 0xFFFFFFFF k v s.power.domainBudget } }
  | none => { s with power := { s.power with engineBudget := v } }

/-- CHAIN_DELETE at its boundary (R402). -/
def State.deleteChain (s : State) (verified : Bool) (n : Nat) : State :=
  if verified then { s with
    vers := Table.erase n s.vers
    bw := { s.bw with
      resolve := s.bw.resolve.filter (fun e => e.1 != n), walks := s.bw.walks.filter (fun w => w.chain != n) } }
  else
    match s.pub n with
    | none => s
    | some v => { s.invalidateAll (v.seeds.map (·.1) ++ [slotMac n false, slotMac n true]) with pubs := Table.erase n s.pubs }

/-- The previous generation closes where its close tick has begun. -/
def State.closeIfDue (s : State) (h : Nat) : State :=
  let c := s.stream h
  if c.prv.valid && decide (c.closeTick ≤ tickNow s c.tickDomain) then s.closePrev h else s

/-- The early window of a staged roll opens where tick T − G has begun (R218). -/
def State.earlyIfDue (s : State) (h : Nat) : State :=
  let c := s.stream h
  if (stagedOf s (.stream h)).any (fun x => match x.chg with
      | .roll g => c.nxt.valid && g == c.nxt.num && decide (x.tick ≤ tickNow s c.tickDomain + c.grace)
      | _ => false) then s.openEarly h else s

/-- A staged change takes effect. `cut` names the frames that are still being received on a port that is reset;
STAGED_CHANGE_COMMIT names none (log 51). -/
def State.commitChange (s : State) (cut : List Nat) (c : Staged) : State :=
  match c.obj, c.chg with
  | .stream h, x =>
    let k := s.stream h
    (if k.prv.valid && decide (k.closeTick ≤ c.tick) then s.closePrev h else s).commitStream h c.tick x
  | .mode, .mode m => s.commitMode m
  | .image, .activate b => s.commitImage b cut
  | .budget d, .budget v => s.setBudget d v
  | .slot n, _ => s.invalidate n
  | .chain verified n, _ => s.deleteChain verified n
  | .gate g, .gateOffline => goOffline g s
  | .gate g, _ => goOnline g s
  | .port p, _ => s.resetPort p cut
  | _, _ => s

/-- The changes that are due, in the order of R74. -/
def dueOrder (s : State) : List Staged :=
  sortBy (fun a b => tickBefore s a.dom a.tick b.dom b.tick) (s.staged.filter (stagedDue s))

/-- Step 4 of R74: every staged change whose tick has begun. Entry into Lockdown discards the rest (R371). -/
def State.commitDue (s : State) (cut : List Nat) : State :=
  (dueOrder s).foldl (fun x c => if x.mode == .lockdown then x else (x.unstage c).commitChange cut c) s

/-- A change with which the rest level is computed afresh (R448). -/
def movesRest (c : Staged) : Bool :=
  match c.chg with
  | .budget _ => true
  | .arm _ _ _ => true
  | .disarm => true
  | .retire => true
  | _ => false

/-! ### The period that ends -/

/-- Stopped rings of a domain whose gate changed are checked again (R359). -/
def State.recheckGates (s : State) : State :=
  let gs := (s.gates.filter (fun e => e.2.changed)).map (·.1)
  let s1 := (s.rings.map (·.1)).foldl (fun x h => if gs.contains (x.stream h).domain then x.recheckRing h else x) s
  gs.foldl (fun x g => x.setGate g { x.gate g with changed := false }) s1

/-- What the PCS of a port has counted in the period (R315): its counters, and the event of the first uncorrectable codeword
(R316). -/
def State.pcsCounts (s : State) (c : PcsCount) : State :=
  let p := c.port.val
  if !portExists s.img p then s
  else
    let s1 := ((s.bumpPort p 43 c.corrected).bumpPort p 44 c.uncorrectable).bumpPort p 45 c.invalid
    if c.uncorrectable = 0 then s1 else s1.postOnce p 5

/-- Work stays withheld in a direction only while P-class frames that were in the block at the overrun wait (R70). -/
def stillWithheld (s : State) : List (Dir × Nat) :=
  s.ovr.withheld.filter (fun e => (turnsOf s e.1).any (fun t => t.1 == 0 && decide (t.2 < e.2)))

/-- What was counted in the period that ends. -/
def State.countPeriod (s : State) (cycles : Nat) (ledger : List (List Nat)) (pcs : List PcsCount) : State :=
  (pcs.foldl State.pcsCounts s).endOfPeriodCounts cycles ledger

/-- Headers and overruns of the period that ends. -/
def State.endPeriod (s : State) : State :=
  let s1 := s.writeHeaders
  ({ s1 with ovr := { s1.ovr.endPeriod with withheld := stillWithheld s1 } }).recheckGates

/-- What is once a plan period begins anew: policing counts (R74 step 5), the slots of C-class streams (R55), interrupts and
starvation of rings, port events, the steps of verified chains (R202), Eyebright's rings and messages. -/
def State.beginPeriod (s : State) : State :=
  let s1 : State := { s with
    streams := s.streams.map (fun e => (e.1, resetPolicing e.2))
    aux := (s.aux.map (fun e => (e.1, { e.2 with clearIn := 0, clearOut := 0, usedSeal := 0, usedOpen := 0 }))).filter (fun e => decide (e.2 ≠ StreamAux.zero))
    rings := (s.rings.map (fun e => (e.1, { e.2 with raised := false, starved := false }))).filter
      (fun e => decide (e.2 ≠ Ring.zero))
    ports := (s.ports.map (fun e => (e.1, { e.2 with seen := [] }))).filter (fun e => decide (e.2 ≠ PortState.zero)) }
  (s1.newSteps).eyeRingsBoundary.count 0x30C 0 0 1

/-- The plan boundary that begins plan tick n (R74). The snapshot of Eyebright includes no posting made at the boundary
(R469). -/
def State.boundary (s : State) (n : Tick) (cycles : Nat) (ledger : List (List Nat)) (pcs : List PcsCount) : State :=
  let s1 := (((s.countPeriod cycles ledger pcs).takeSnapshot n).endPeriod).streamSnapshots n
  let s2 := s1.advanceTicks n
  let due := dueOrder s2
  let s3 := s2.commitDue (pcs.flatMap (·.cut))
  let hs := s3.streams.map (·.1)
  let s4 := hs.foldl State.closeIfDue s3
  let s5 := hs.foldl State.earlyIfDue s4
  let s6 := if due.any movesRest then s5.updateRest else s5
  s6.beginPeriod

/-! ### Meanings -/

/-- PLAN_BOUNDARY (R74): `cycles` and `ledger` are the cipher cycles of the period that ends and what each unit did in
them (R467), `pcs` what the PCS of each port counted in it (R315). -/
def execPlanBoundary (t : Nat) (cycles : Nat) (ledger : List (List Nat)) (pcs : List PcsCount) (s : State) : Out :=
  if !wfLedger cycles ledger then .refused .illFormed
  else
    let s1 := s.atTime t
    match nextPlan s1 with
    | none => .next s1
    | some n => .next (s1.boundary n cycles ledger pcs)

/-- The due change of an object that passes a test is taken from the staging area and takes effect. -/
def State.commitOne (s : State) (o : Obj) (ok : Change → Bool) : State :=
  match dueChange s o ok with
  | some c => (s.unstage c).commitChange [] c
  | none => s

/-- STAGED_CHANGE_COMMIT (R21): every change whose tick has begun is visible from here. -/
def execStagedChangeCommit (s : State) : Out := .next (s.commitDue [])

def isArm : Change → Bool
  | .arm _ _ _ => true
  | _ => false

def isInstall : Change → Bool
  | .install _ => true
  | _ => false

def isRoll : Change → Bool
  | .roll _ => true
  | _ => false

/-- STREAM_ARM_COMMIT (R85). -/
def execStreamArmCommit (h : Handle) (s : State) : Out := .next (s.commitOne (.stream h.toNat) isArm)

/-- STREAM_DISARM_COMMIT (R336). -/
def execStreamDisarmCommit (h : Handle) (s : State) : Out := .next (s.commitOne (.stream h.toNat) (· == .disarm))

/-- RETIREMENT_COMMIT (R90). -/
def execRetirementCommit (h : Handle) (s : State) : Out := .next (s.commitOne (.stream h.toNat) (· == .retire))

/-- GEN_INSTALL_COMMIT (R212). -/
def execGenInstallCommit (h : Handle) (s : State) : Out := .next (s.commitOne (.stream h.toNat) isInstall)

/-- ROLL_COMMIT (R213). -/
def execRollCommit (h : Handle) (s : State) : Out := .next (s.commitOne (.stream h.toNat) isRoll)

/-- EARLY_WINDOW_OPEN (R218). -/
def execEarlyWindowOpen (h : Handle) (s : State) : Out := .next (s.earlyIfDue h.toNat)

/-- CLOSE_TICK (R216). -/
def execCloseTick (h : Handle) (s : State) : Out := .next (s.closeIfDue h.toNat)

/-- GRACE_ENTRY_FREE (R216). -/
def execGraceEntryFree (h : Handle) (s : State) : Out := .next (s.freeGrace h.toNat)

/-- FOLLOW_ROLL_RETRY (R221): a follow roll that the full staging area refused is tried again. -/
def execFollowRollRetry (h : Handle) (s : State) : Out :=
  .next (if (s.aux_ h.toNat).followWait then s.stageFollow h.toNat else s)

/-- INVALIDATION_COMMIT (R233). -/
def execInvalidationCommit (slot : SlotIx) (s : State) : Out := .next (s.commitOne (.slot slot.toNat) (· == .invalidate))

/-- GATE_OFFLINE_COMMIT (R361). -/
def execGateOfflineCommit (g : Fin 17) (s : State) : Out := .next (s.commitOne (.gate g.val) (· == .gateOffline))

/-- GATE_ONLINE_COMMIT (R361). -/
def execGateOnlineCommit (g : Fin 17) (s : State) : Out := .next (s.commitOne (.gate g.val) (· == .gateOnline))

/-- IMAGE_ACTIVATION_COMMIT (R300, R427). -/
def execImageActivationCommit (cut : List Nat) (s : State) : Out :=
  match dueChange s .image (fun _ => true) with
  | some c => .next ((s.unstage c).commitChange cut c)
  | none => .next s

/-- DRILL_ENTRY (R435). -/
def execDrillEntry (s : State) : Out := .next (s.commitOne .mode (· == .mode .drill))

/-- DORMANT_ENTRY (R437). -/
def execDormantEntry (s : State) : Out := .next (s.commitOne .mode (· == .mode .dormant))

/-- COMMISSION_SERVICE_CHANGE (R412): between Commission and Service. -/
def execCommissionServiceChange (s : State) : Out :=
  if s.mode == .dormant then .next s
  else .next (s.commitOne .mode (fun c => c == .mode .service || c == .mode .commission))

end Sys2Proof.Machine
end

