-- ==== Sys2Proof/Machine/Mailbox.lean ====
section
/-!
DEFINITION. Mailboxes (13_yarrow_and_pyfer.md, "Mailbox pages" and "Submission, acceptance and response"): pages, doorbells,
acceptance in rotation, responses, and Yarrow's rest in Dormant.
-/

namespace Sys2Proof.Machine

def mbMgmt : Nat := 16
def mbAttest : Nat := 17

/-- The page of a mailbox in the register window (Table 17.4). -/
def offMb (m : Nat) : Nat := 0x1000 * (m + 1)

/-- READY (R370); in a retention restart a mailbox of a domain is not ready (R430), and while a reset is held none is
(Table 13.2). -/
def mbReady (s : State) (m : Nat) : Bool :=
  !windowHeld s && match s.mode with
  | .assay | .lockdown => m == mbAttest
  | .dormant => m == mbMgmt || m == mbAttest
  | _ => s.retention.isNone || m == mbMgmt || m == mbAttest

/-- Accepted commands of a mailbox that have no response yet. -/
def mbQueue (s : State) (m : Nat) : List Cmd := s.cmds.filter (fun c => c.mbox == m)

/-- MB_STATUS (Table 13.2). -/
def mbStatusWord (s : State) (m : Nat) : Word :=
  let b := s.mbox m
  at_ 47 (boolNat (mbReady s m)) ||| at_ 46 (boolNat b.reqBusy) ||| at_ 45 (boolNat b.rspValid) |||
    at_ 40 (mbQueue s m).length ||| at_ 32 b.lastError.toNat ||| at_ 16 b.acceptedSeq.toNat

/-- MB_COUNTS (Table 13.4). -/
def mbCountsWord (b : Mailbox) : Word := at_ 24 b.protoErrors.toNat ||| at_ 0 b.stateRefusals.toNat

/-- A read of a mailbox page (Table 13.1). -/
def mbRead (s : State) (m off : Nat) : Word :=
  let b := s.mbox m
  if off = 0 then mbStatusWord s m
  else if off = 0x10 then mbCountsWord b
  else if off = 0x200 then b.reqHdr
  else if 0x208 ≤ off ∧ off < 0x400 then Table.get 0 ((off - 0x208) / 8) b.req
  else if off = 0x400 then b.rspHdr
  else if 0x408 ≤ off ∧ off < 0x600 then Table.get 0 ((off - 0x408) / 8) b.rsp
  else 0

/-! ### Doorbells (R366, R368, R369) -/

/-- A protocol error of Table 13.5. -/
def State.protocolError (s : State) (m cause : Nat) : State :=
  let b := s.mbox m
  (s.setMbox m { b with lastError := BitVec.ofNat 8 cause, protoErrors := satAdd b.protoErrors 1 }).post (242 + 4 * m)

/-- In Dormant a submission wakes PD1 and raises CLK_REQ (R370, R443). -/
def State.wakeYarrow (s : State) : State :=
  if s.mode == .dormant then { s with power := { s.power with pd1 := true, clkReq := true, pd1Since := s.now } } else s

/-- SUBMIT. -/
def State.mbSubmit (s : State) (m : Nat) : State :=
  let b := s.mbox m
  if b.reqBusy || !mbReady s m then s.protocolError m 1
  else (s.setMbox m { b with reqBusy := true }).wakeYarrow

/-- ACK. -/
def State.mbAck (s : State) (m : Nat) : State :=
  let b := s.mbox m
  if b.rspValid then s.setMbox m { b with rspValid := false } else s.protocolError m 3

/-- A write of MB_DOORBELL (Table 13.3). -/
def State.mbDoorbell (s : State) (m : Nat) (w : Word) : State :=
  if w = at_ 40 1 then s.mbSubmit m
  else if w = at_ 40 2 then s.mbAck m
  else s.protocolError m 4

/-- A write of the request area; while REQ_BUSY it is discarded (Table 13.5). -/
def State.mbRequest (s : State) (m off : Nat) (w : Word) : State :=
  let b := s.mbox m
  if b.reqBusy then s.protocolError m 2
  else if off = 0x200 then s.setMbox m { b with reqHdr := w }
  else s.setMbox m { b with req := Table.put 0 ((off - 0x208) / 8) w b.req }

/-- A write to a mailbox page; read-only and reserved locations ignore it (R8). -/
def State.mbWrite (s : State) (m off : Nat) (w : Word) : State :=
  if off = 8 then s.mbDoorbell m w
  else if 0x200 ≤ off ∧ off < 0x400 then s.mbRequest m off w
  else s

/-- MB_SUBMIT (R366). -/
def execMbSubmit (cls : Cls) (m : Fin 18) (s : State) : Out :=
  .next (s.regWrite cls (offMb m.val + 8) (fun x => x.mbSubmit m.val))

/-- MB_ACK (R368). -/
def execMbAck (cls : Cls) (m : Fin 18) (s : State) : Out :=
  .next (s.regWrite cls (offMb m.val + 8) (fun x => x.mbAck m.val))

/-- MB_DOORBELL_RESERVED_OPERATION (R369): the word written decides, as in every write of MB_DOORBELL. -/
def execMbDoorbellReserved (cls : Cls) (m : Fin 18) (v : Container) (s : State) : Out :=
  .next (s.regWrite cls (offMb m.val + 8) (fun x => x.mbDoorbell m.val (toWord v)))

/-! ### The Pyfer header (Table 13.6) -/

namespace Cmd

def opcode (c : Cmd) : Nat := fld c.hdr 40 8
def domain (c : Cmd) : Nat := fld c.hdr 36 4
def flags (c : Cmd) : Nat := fld c.hdr 33 3
def isNext (c : Cmd) : Bool := bit c.hdr 32
def seqField (c : Cmd) : Nat := fld c.hdr 16 16
def len (c : Cmd) : Nat := fld c.hdr 0 16
/-- Payload word qk. -/
def q (c : Cmd) (k : Nat) : Word := c.words.getD k 0

end Cmd

/-! ### Acceptance (R367) -/

/-- The mailbox whose request the rotation takes next. -/
def nextAccept (s : State) : Option Nat :=
  ((List.range 18).map (fun i => (s.rotation + i) % 18)).find? (fun m =>
    (s.mbox m).reqBusy && mbReady s m && decide ((mbQueue s m).length < 16))

/-- A request for Lockdown that passes checks 1 to 3 and 5 of R377, q0 and NEXT not judged (R386). -/
def asksLockdown (c : Cmd) : Bool :=
  c.mbox == mbMgmt && c.opcode == 0x08 && c.len == 2 && c.flags == 0 && c.domain == 0 && c.q 1 == 5

/-- REQUEST_ACCEPT (R367): header and words are copied into the queue, with the ticks in force (R379). A request for
Lockdown acts on acceptance (R386). -/
def execRequestAccept (t : Nat) (s : State) : Out :=
  let s1 := s.atTime t
  match (if s1.power.pd1 && s1.retention.isNone then nextAccept s1 else none) with
  | none => .next s1
  | some m =>
    let b := s1.mbox m
    let hdr := b.reqHdr
    let c : Cmd := {
      id := s1.nextCmd, mbox := m, hdr := hdr,
      words := (List.range (min 63 (fld hdr 0 16))).map (fun k => Table.get 0 k b.req),
      plan := s1.plan, ticks := s1.ticks.idx, phase := .waiting }
    let s2 := (s1.setMbox m { b with reqBusy := false, acceptedSeq := BitVec.ofNat 16 (fld hdr 16 16) }).post (240 + 4 * m)
    let s3 : State := { s2 with
      cmds := s2.cmds ++ [c], nextCmd := s2.nextCmd + 1, rotation := (m + 1) % 18,
      power := { s2.power with pd1Since := s2.now } }
    if asksLockdown c then .next (s3.lockdown 8) else .next s3

/-! ### Commands and modes (Table 13.11) -/

/-- A row of Table 13.11: lengths; mailboxes (4 domain, 2 management, 1 attestation); the tick it is stamped with (0 none,
1 of the stream, 2 of the plan); modes (8 Commission, 4 Service, 2 Drill, 1 Dormant). -/
structure OpInfo where
  op : Nat
  lenLo : Nat
  lenHi : Nat
  boxes : Nat
  tick : Nat
  modes : Nat
  deriving DecidableEq, Repr

def opTable : List OpInfo := [
  ⟨0x01, 1, 62, 7, 0, 15⟩, ⟨0x02, 1, 1, 7, 0, 15⟩, ⟨0x08, 2, 2, 2, 2, 15⟩, ⟨0x09, 1, 1, 2, 0, 14⟩,
  ⟨0x0A, 2, 2, 6, 2, 6⟩, ⟨0x10, 13, 13, 6, 1, 6⟩, ⟨0x11, 13, 13, 6, 1, 6⟩, ⟨0x12, 2, 2, 6, 1, 6⟩,
  ⟨0x13, 2, 2, 6, 1, 6⟩, ⟨0x14, 2, 2, 6, 1, 6⟩, ⟨0x15, 2, 2, 6, 0, 7⟩, ⟨0x16, 2, 2, 6, 2, 6⟩,
  ⟨0x17, 2, 2, 6, 1, 6⟩, ⟨0x20, 8, 8, 6, 1, 6⟩, ⟨0x21, 2, 2, 6, 1, 6⟩, ⟨0x28, 4, 4, 6, 0, 6⟩,
  ⟨0x29, 4, 4, 6, 0, 6⟩, ⟨0x2A, 2, 2, 6, 2, 6⟩, ⟨0x2B, 2, 2, 6, 0, 15⟩, ⟨0x30, 4, 4, 6, 0, 6⟩,
  ⟨0x31, 2, 2, 6, 0, 6⟩, ⟨0x32, 13, 13, 6, 0, 6⟩, ⟨0x33, 2, 2, 6, 2, 6⟩, ⟨0x34, 2, 2, 6, 0, 7⟩,
  ⟨0x40, 2, 2, 2, 2, 14⟩, ⟨0x41, 5, 5, 2, 0, 14⟩, ⟨0x42, 2, 2, 2, 2, 14⟩, ⟨0x43, 2, 2, 2, 0, 15⟩,
  ⟨0x48, 2, 2, 2, 2, 6⟩, ⟨0x50, 62, 62, 2, 0, 12⟩, ⟨0x51, 2, 2, 2, 2, 12⟩, ⟨0x52, 1, 1, 2, 0, 15⟩,
  ⟨0x60, 7, 7, 1, 0, 15⟩]

def opInfo (op : Nat) : Option OpInfo := opTable.find? (fun i => i.op == op)

/-- An opcode of an engine command (R373); LATENCY_BUDGET is one with Engine-wide set. -/
def engineCommand (c : Cmd) : Bool :=
  [0x01, 0x02, 0x08, 0x09, 0x40, 0x41, 0x42, 0x43, 0x48, 0x50, 0x51, 0x52].contains c.opcode ||
    (c.opcode == 0x0A && bit (c.q 1) 47)

/-! ### Responses (R368, R374) -/

def errStagingMissCode : Nat := 0x0A

/-- The words as written (Table 13.8, R374): the mode in force, and the plan tick of the writing except where the tick word
holds an effective or a named tick. STREAM_READ shows the words live at the response (Table 13.13). -/
def responseWords (s : State) (c : Cmd) (ws : List Word) : List Word :=
  let a0 := ws.getD 0 0
  let status := fld a0 40 8
  let stamped := status == errStagingMissCode || (status == 0 && ((opInfo c.opcode).map (fun i => decide (i.tick ≠ 0))).getD false)
  let rest := if c.opcode = 0x15 && status == 0 then (s.stream (fld (c.q 1) 0 15)).words.take 24 else ws.drop 2
  [setFld a0 32 8 (modeCode (reportedMode s)), if stamped then ws.getD 1 0 else BitVec.ofNat 48 s.plan] ++ rest

/-- The response header (Table 13.6). -/
def responseHdr (c : Cmd) (n : Nat) : Word :=
  at_ 40 c.opcode ||| at_ 36 c.domain ||| at_ 35 1 ||| at_ 16 c.seqField ||| at_ 0 n

/-- Words stored at rising indices. -/
def putWords (t : Table Word) : Nat → List Word → Table Word
  | _, [] => t
  | k, w :: ws => putWords (Table.put 0 k w t) (k + 1) ws

/-- The answer that a command has: the one it was given, its snapshot once the frames that this includes have left the
block (R20), or ERR_OPCODE for a reserved opcode (Table 13.9). -/
def answerOf (s : State) (c : Cmd) : Option (List Word) :=
  match c.phase with
  | .answered ws => some ws
  | .settling => (s.shots.find? (fun x => x.cmd == c.id)).bind (shotWords s)
  | .waiting => if (opInfo c.opcode).isNone then some (answerWords 0x01 0 0 []) else none
  | _ => none

/-- RESPONSE_WRITE (R368): the oldest command of the mailbox, once it has its answer and the response area is free. -/
def execResponseWrite (m : Fin 18) (s : State) : Out :=
  let b := s.mbox m.val
  match (mbQueue s m.val).head? with
  | none => .next s
  | some c =>
    match (if b.rspValid || restartHeld s then none else answerOf s c) with
    | none => .next s
    | some ws =>
      let out := responseWords s c ws
      let refused := fld (out.getD 0 0) 40 8 == errStateCode
      let b1 : Mailbox := { b with
        rsp := putWords b.rsp 0 out
        rspHdr := responseHdr c out.length
        rspValid := true
        stateRefusals := if refused then satAdd b.stateRefusals 1 else b.stateRefusals }
      let s1 : State := { s with
        cmds := s.cmds.filter (fun x => x.id != c.id)
        power := { s.power with pd1Since := s.now } }
      .next (((s1.setMbox m.val b1).post (241 + 4 * m.val)).postIf refused (243 + 4 * m.val))

/-! ### Yarrow's rest (R370, R443) -/

/-- YARROW_REST: in Dormant, 1 ms with no command pending. -/
def execYarrowRest (t : Nat) (s : State) : Out :=
  let s1 := s.atTime t
  let work := !s1.cmds.isEmpty || (nextAccept s1).isSome
  if s1.cipherStopped && s1.power.pd1 && !s1.power.exiting && !work && decide (s1.power.pd1Since + 1000000 ≤ s1.now) then
    .next { s1 with power := { s1.power with pd1 := false, clkReq := false } }
  else .next s1

end Sys2Proof.Machine
end

