-- ==== Sys2Proof/Machine/Commands.lean ====
section
/-!
DEFINITION. How Yarrow executes a Pyfer command (R375 to R383, R508), and the engine, gate, port, image and attestation
commands (13_yarrow_and_pyfer.md).
-/

namespace Sys2Proof.Machine

/-! ### Status codes (Table 13.9) -/

def eOpcode : Nat := 0x01
def eLength : Nat := 0x02
def eMalformed : Nat := 0x03
def eDomain : Nat := 0x04
def eRange : Nat := 0x05
def eState : Nat := 0x06
def eConflict : Nat := 0x07
def ePolicy : Nat := 0x08
def eAdmission : Nat := 0x09
def eSlot : Nat := 0x0B
def eGeneration : Nat := 0x0C
def eKeyBus : Nat := 0x0D
def eRule : Nat := 0x0E
def eImage : Nat := 0x0F
def eStatement : Nat := 0x10
def rResource : Nat := 0x20
def rEntropy : Nat := 0x21

/-! ### Results and checks -/

/-- What executing a command comes to: a failure with status, detail and the events it posts; one that another part of the
block refused, which has logged it; a missed boundary (R23); done, with effective tick, response words and state; or still
under way. -/
inductive Res where
  | fail (status detail : Nat) (events : List Nat)
  | refused (status detail : Nat) (s : State)
  | miss (tick dom : Nat) (posted : Bool)
  | done (tick : Nat) (words : List Word) (s : State)
  | wait (phase : CmdPhase) (s : State)

/-- A check of R377: it fails where the flag is set, with this status and detail. -/
abbrev Check := Bool × Nat × Nat

/-- The first check that fails (R377). -/
def failOf (cs : List Check) : Option (Nat × Nat) := (cs.find? (·.1)).map (·.2)

/-- The detail of ERR_STATE where neither stream nor slot is named. -/
def noObject : Nat := stateDetail none none

/-- The mailbox's bit in a row of the table. -/
def boxBit (m : Nat) : Nat := if m < 16 then 4 else if m = 16 then 2 else 1

/-- The command is allowed in the mode in force (Table 13.11). Gate commands in Commission need an active image. -/
def modeAllows (s : State) (c : Cmd) (i : OpInfo) : Bool :=
  let gate := decide (0x40 ≤ c.opcode) && decide (c.opcode ≤ 0x43)
  match s.mode with
  | .assay | .lockdown => c.mbox == mbAttest
  | .commission => i.modes &&& 8 != 0 && (!gate || s.active.isSome)
  | .service => i.modes &&& 4 != 0
  | .drill => i.modes &&& 2 != 0
  | .dormant => i.modes &&& 1 != 0

/-- The detail of a mode failure: the stream and the slot that the command names (Table 13.10, Table 13.11). -/
def modeDetail (s : State) (c : Cmd) : Nat :=
  let op := c.opcode
  let names := (decide (0x10 ≤ op) && decide (op ≤ 0x17)) || op == 0x20 || op == 0x21
  let slot := if op = 0x20 || op = 0x28 || op = 0x29 then some (fld (c.q 1) 31 17)
    else if op = 0x2A || op = 0x2B || op = 0x30 then some (fld (c.q 1) 0 17) else none
  stateDetail (if names then some (futureStream s (fld (c.q 1) 0 15)) else none) (slot.map (fun k => (s.slot k).st))

/-- Checks 1 to 4 of R377. -/
def commonChecks (s : State) (c : Cmd) (i : OpInfo) : List Check := [
  (i.boxes &&& boxBit c.mbox == 0, eOpcode, 0),
  (decide (c.len < i.lenLo) || decide (i.lenHi < c.len), eLength, 0),
  (if c.mbox < 16 then c.domain != c.mbox
   else if c.mbox = 16 then engineCommand c && c.domain != 0
   else c.domain != 0, eDomain, 0),
  (c.flags != 0, eMalformed, 0),
  (if i.tick = 0 then c.q 0 != 0 || c.isNext else c.isNext && c.q 0 != 0, eMalformed, 0),
  (!modeAllows s c i, eState, modeDetail s c)]

/-- Checks 1 to 4, then the command's own; a command that has begun has passed them. -/
def judge (s : State) (c : Cmd) (f : State → Cmd → Res) : Res :=
  match opInfo c.opcode with
  | none => .fail eOpcode 0 []
  | some i =>
    match (if (begunWith c).isSome then none else failOf (commonChecks s c i)) with
    | some (st, d) => .fail st d []
    | none => f s c

/-- A list of checks, then what follows where all pass. -/
def checked (cs : List Check) (r : Res) : Res :=
  match failOf cs with
  | some (st, d) => .fail st d []
  | none => r

def State.setPhase (s : State) (id : Nat) (p : CmdPhase) : State :=
  { s with cmds := s.cmds.map (fun c => if c.id = id then { c with phase := p } else c) }

/-- The command has its answer. -/
def State.answer (s : State) (id : Nat) (ws : List Word) : State := s.setPhase id (.answered ws)

/-- The result is recorded; RETRY_ENTROPY posts its event (Table 8.8). -/
def State.finish (s : State) (c : Cmd) : Res → State
  | .fail st d evs => ((s.postIf (st == rEntropy) 465).posts evs).answer c.id (answerWords st d 0 [])
  | .refused st d s' => s'.answer c.id (answerWords st d 0 [])
  | .miss t d posted => (s.postIf posted (412 + 6 * realDom s d)).answer c.id (answerWords errStagingMissCode 0 t [])
  | .done t ws s' => s'.answer c.id (answerWords 0 0 t ws)
  | .wait p s' => s'.setPhase c.id p

/-- The command that Yarrow executes next: one that has begun, else the oldest accepted one still waiting (R367), while none
is on the key bus. A retention restart lets a key operation that has begun come to its end (R430). -/
def frontCmd (s : State) : Option Cmd :=
  if s.cmds.any (fun c => c.phase == .keyBus) then none
  else
    match s.cmds.find? (fun c => (begunWith c).isSome) with
    | some c => some c
    | none => if s.retention.isSome then none
      else s.cmds.find? (fun c => c.phase == .waiting && (opInfo c.opcode).isSome)

/-- The front command is executed, where it has this opcode. -/
def execPyfer (op : Nat) (f : State → Cmd → Res) (s : State) : Out :=
  match frontCmd s with
  | none => .next s
  | some c => if c.opcode = op then .next (s.finish c (judge s c f)) else .next s

/-! ### Effective ticks (R378 to R380, R508) -/

/-- The tick of domain d (4 the plan) in force at acceptance. -/
def acceptTick (c : Cmd) (d : Nat) : Tick := if d = 4 then c.plan else Table.get 0 d c.ticks

/-- An explicit tick more than 2^31 ticks ahead (R379). -/
def tickFar (c : Cmd) (d : Nat) : Bool := !c.isNext && decide (acceptTick c d + 2 ^ 31 < (c.q 0).toNat)

/-- The tick for which the command would stage a change of these objects. -/
def effTick (s : State) (c : Cmd) (os : List Obj) (d : Nat) : Tick :=
  if c.isNext then os.foldl (fun m o => max m (nextTick s o d)) 0 else (c.q 0).toNat

/-- An object has a change staged for this tick or a later one (R73, R88, R508). -/
def orderBad (s : State) (os : List Obj) (t : Tick) : Bool :=
  os.any (fun o => match lastStaged s o with
    | some l => decide (t ≤ l)
    | none => false)

/-- Check 13: staged for tick t, unless its boundary has passed (R23, R379). -/
def stageRes (s : State) (c : Cmd) (d : Nat) (t : Tick) (words : List Word) (s' : State) : Res :=
  if !c.isNext && decide (t ≤ acceptTick c d) then .miss t d false
  else if !c.isNext && decide (t ≤ tickNow s d) then .miss t d true
  else .done t words s'

/-- A plan-tick command that changes one object: checks 5, 8 and 13 around its own. -/
def stagePlan (s : State) (c : Cmd) (o : Obj) (chg : Change) (detail : Nat) (early late : List Check) : Res :=
  let t := effTick s c [o] 4
  checked (early ++ [(tickFar c 4, eRange, 0)] ++ late ++ [(orderBad s [o] t, eState, detail)])
    (stageRes s c 4 t [] (s.stage ⟨o, 4, t, chg⟩))

/-! ### Engine commands (R385 to R387, R447) -/

def echoRes (s : State) (c : Cmd) : Res := .done 0 ((c.words.take c.len).drop 1) s

/-- ECHO (R385). -/
def execEcho (s : State) : Out := execPyfer 0x01 echoRes s

/-- STATUS a2 to a4 (Table 13.12). -/
def statusWords (s : State) : List Word :=
  [at_ 40 (modeCode (reportedMode s)) ||| at_ 32 s.ticks.quality ||| at_ 24 (entropyState s) ||| at_ 22 s.power.level,
   at_ 32 (freeStaged s) ||| at_ 16 (Machine.freeGrace s) ||| at_ 0 (min 0xFFFF (armedStreams s Context.classP)),
   at_ 32 0x0401 ||| at_ 16 0x0004]

/-- STATUS (R385). -/
def execStatus (s : State) : Out := execPyfer 0x02 (fun s _ => .done 0 (statusWords s) s) s

/-- The mode of a code (Table 8.10). -/
def modeOf (n : Nat) : Mode :=
  match n with
  | 0 => .assay
  | 1 => .commission
  | 2 => .service
  | 3 => .drill
  | 4 => .dormant
  | _ => .lockdown

/-- The mode that will be in force after every staged mode change. -/
def futureMode (s : State) : Mode :=
  (stagedOf s .mode).foldl (fun m c => match c.chg with
    | .mode x => x
    | _ => m) s.mode

/-- A request for Dormant is executed once every command accepted before it is answered (R371). -/
def modeRes (s : State) (c : Cmd) : Res :=
  let m := modeOf (fld (c.q 1) 0 8)
  if m == .dormant && s.cmds.any (fun x => decide (x.id < c.id)) then .wait .waiting s
  else stagePlan s c .mode (.mode m) noObject
    [(fld (c.q 1) 8 40 != 0, eMalformed, 0), (decide (5 < fld (c.q 1) 0 8), eRange, 0)]
    [(!modeLegal s (effTick s c [.mode] 4) (futureMode s) m, eState, noObject)]

/-- MODE_REQUEST (R386, R412). -/
def execModeRequest (s : State) : Out := execPyfer 0x08 modeRes s

def realignRes (s : State) (_ : Cmd) : Res :=
  checked [(anyArmed s Context.classP || !(s.ticks.valid || s.ticks.hold), eState, noObject)] (.done 0 [] s.align)

/-- TIME_REALIGN (R50, R387). -/
def execTimeRealign (s : State) : Out := execPyfer 0x09 realignRes s

/-- The blocks that would be held, or rest too deep, in state `hyp` are awake (R449). -/
def State.wakeAs (s hyp : State) : State :=
  { s with power := { s.power with rest := (List.range 12).foldl (fun t u =>
      if unitHeld hyp u || decide (restLevelOf hyp < Table.get 0 u t) then Table.put 0 u 0 t else t) s.power.rest } }

def budgetRes (s : State) (c : Cmd) : Res :=
  let wide := bit (c.q 1) 47
  let d := if wide then none else some c.domain
  let v := BitVec.ofNat 32 (fld (c.q 1) 0 32)
  stagePlan (s.wakeAs (s.setBudget d v)) c (.budget d) (.budget v) noObject
    [(fld (c.q 1) 32 15 != 0, eMalformed, 0)] [(wide && c.mbox != mbMgmt, ePolicy, 0)]

/-- LATENCY_BUDGET (R447, R449). -/
def execLatencyBudget (s : State) : Out := execPyfer 0x0A budgetRes s

/-! ### Gate commands (R361, R403, R404) -/

/-- The gate number of q1. -/
def gateArg (c : Cmd) : Nat := fld (c.q 1) 0 5

def gateChecks (c : Cmd) (lo : Nat) : List Check :=
  [(fld (c.q 1) lo (48 - lo) != 0, eMalformed, 0), (decide (16 < gateArg c), eRange, 0)]

def gateOfflineRes (s : State) (c : Cmd) : Res :=
  stagePlan s c (.gate (gateArg c)) .gateOffline noObject (gateChecks c 5) []

/-- GATE_OFFLINE (R361). -/
def execGateOffline (s : State) : Out := execPyfer 0x40 gateOfflineRes s

def gateWriteRes (s : State) (c : Cmd) : Res :=
  let g := gateArg c
  let v := s.gate g
  checked (gateChecks c 10 ++ [(v.online, eState, noObject)])
    (.done 0 [] (s.setGate g { v with
      rules := Table.put (0, 0, 0) (fld (c.q 1) 5 5) (c.q 2, c.q 3, c.q 4) v.rules, changed := true }))

/-- GATE_WRITE (R361, R404). -/
def execGateWrite (s : State) : Out := execPyfer 0x41 gateWriteRes s

/-- The gate will be online after every change staged for it. -/
def futureOnline (s : State) (g : Nat) : Bool :=
  (stagedOf s (.gate g)).foldl (fun _ c => c.chg == .gateOnline) (s.gate g).online

def gateOnlineRes (s : State) (c : Cmd) : Res :=
  let g := gateArg c
  let n := fld (c.q 1) 5 6
  let t := effTick s c [.gate g] 4
  let rules := (s.gate g).rules
  match failOf (gateChecks c 11 ++ [(decide (32 < n), eRange, 0), (tickFar c 4, eRange, 0),
      (futureOnline s g, eState, noObject), (orderBad s [.gate g] t, eState, noObject)]) with
  | some (st, d) => .fail st d []
  | none =>
    if validRules rules ≠ n then .fail eRule (1 * 2 ^ 24) [377 + 2 * g]
    else
      match firstBadRule g s.mem.ids (guardedNow s) rules with
      | some k => .fail eRule (2 * 2 ^ 24 + k) [377 + 2 * g]
      | none => stageRes s c 4 t [] (s.stage ⟨.gate g, 4, t, .gateOnline⟩)

/-- GATE_ONLINE (R361, R404). -/
def execGateOnline (s : State) : Out := execPyfer 0x42 gateOnlineRes s

def gateReadRes (s : State) (c : Cmd) : Res :=
  let v := s.gate (gateArg c)
  let (w0, w1, w2) := Table.get (0, 0, 0) (fld (c.q 1) 5 5) v.rules
  checked (gateChecks c 10) (.done 0 [w0, w1, w2, at_ 47 (boolNat v.online)] s)

/-- GATE_READ (R403). -/
def execGateRead (s : State) : Out := execPyfer 0x43 gateReadRes s

/-! ### Port and image commands (R405 to R407, R419) -/

def portResetRes (s : State) (c : Cmd) : Res :=
  let p := fld (c.q 1) 0 4
  stagePlan s c (.port p) .portReset noObject
    [(fld (c.q 1) 4 44 != 0, eMalformed, 0), (!portExists s.img p, eRange, 0)] []

/-- PORT_RESET (R405). -/
def execPortReset (s : State) : Out := execPyfer 0x48 portResetRes s

/-- The slot is the active one. -/
def slotActive (s : State) (slotB : Bool) : Bool := (s.active.map (·.slotB)) == some slotB

/-- The slot after a write: one that completes the declared length has the slot verified and the result recorded. -/
def imgWrite (fuses : Fuses) (old : ImgSlot) (start : Bool) (data : List Byte) : ImgSlot :=
  let base := if start then [] else old.bytes
  let bytes := base ++ data
  let was := !start && imgComplete base
  if !was && imgComplete bytes then
    match verifyImage fuses bytes with
    | .good _ => ⟨bytes, true, imgVersion bytes⟩
    | .bad _ _ => ⟨bytes, false, 0⟩
  else { (if start then ImgSlot.empty else old) with bytes := bytes }

def imageWriteRes (s : State) (c : Cmd) : Res :=
  let b := bit (c.q 1) 47
  let start := bit (c.q 1) 46
  let n := fld (c.q 1) 32 9
  let off := fld (c.q 1) 0 32
  let old := s.nv.slotOf b
  let data := ((c.words.drop 2).flatMap (fun w => natToBytes 6 w.toNat)).take n
  checked [
    (fld (c.q 1) 41 5 != 0, eMalformed, 0),
    (n == 0 || decide (360 < n), eRange, 0),
    (off != (if start then 0 else old.bytes.length) || decide (65536 < off + n), eRange, 0),
    (slotActive s b, eState, noObject)]
    (.done 0 [] { s with nv := s.nv.setSlot b (imgWrite s.fuses old start data) })

/-- IMAGE_WRITE (R406, R419). -/
def execImageWrite (s : State) : Out := execPyfer 0x50 imageWriteRes s

def imageActivateRes (s : State) (c : Cmd) : Res :=
  let b := bit (c.q 1) 47
  let t := effTick s c [.image] 4
  match failOf [(fld (c.q 1) 0 47 != 0, eMalformed, 0), (tickFar c 4, eRange, 0), (orderBad s [.image] t, eState, noObject)] with
  | some (st, d) => .fail st d []
  | none =>
    match verifyImage s.fuses (s.nv.slotOf b).bytes with
    | .bad cause type => .fail eImage (cause * 2 ^ 24 + type) []
    | .good img =>
      checked [(activationBlocked s img, eState, noObject)] (stageRes s c 4 t [] (s.stage ⟨.image, 4, t, .activate b⟩))

/-- IMAGE_ACTIVATE (R407, R427). -/
def execImageActivate (s : State) : Out := execPyfer 0x51 imageActivateRes s

/-- The code of the active slot (Tables 8.9 and 13.19). -/
def activeCode (s : State) : Nat :=
  match s.active with
  | some a => boolNat a.slotB
  | none => 0xFF

def imageInfoWords (s : State) : List Word :=
  let w (i : ImgSlot) : Word := at_ 47 (boolNat i.verified) ||| at_ 0 i.version.toNat
  [at_ 40 (activeCode s), w s.nv.slotA, w s.nv.slotB]

/-- IMAGE_INFO (R403). -/
def execImageInfo (s : State) : Out := execPyfer 0x52 (fun s _ => .done 0 (imageInfoWords s) s) s

/-! ### Attestation (R259, R260, R408) -/

/-- Bit i of a mask for every index of a list that a test passes. -/
def maskWhere (n : Nat) (p : Nat → Bool) : Nat := ((List.range n).map (fun i => if p i then 2 ^ i else 0)).foldl (· + ·) 0

/-- Bytes 240 to 265 of the statement: the counts and masks, zero where R260 says so, and the activations. -/
def umazCounts (s : State) : List Byte :=
  let live := s.mode != .lockdown && (s.mode != .assay || s.ladder.formed)
  let n (w v : Nat) : List Byte := natToBytes w (if live then v else 0)
  n 4 (s.slots.filter (fun e => e.2.live)).length ++
    n 2 (maskWhere 16 (fun d => (s.slot (slotDomain d)).live)) ++
    n 2 (maskWhere 16 (fun i => decide (0 < i) && (s.slot (slotMemA i)).live && (s.slot (slotMemB i)).live)) ++
    n 2 (armedStreams s Context.classP) ++ n 2 (armedStreams s (fun c => !c.classP)) ++
    n 2 (s.pubs.filter (fun e => e.2.seeds.any (fun x => x.2.1 == e.2.inForce && (s.slot x.1).live))).length ++
    n 2 (s.vers.filter (fun e => e.2.installed)).length ++
    n 4 s.ladder.cellFaults.toNat ++ n 4 s.ladder.fetchRefusals.toNat ++ natToBytes 2 s.ladder.activations.toNat

/-- Bytes 0 to 63 of the statement (Table 8.9): who states, and in which mode. -/
def umazHead (s : State) (nonce : List Byte) : List Byte :=
  let l := s.ladder
  let flags := boolNat (s.mode == .lockdown) + 2 * boolNat l.drill + 4 * boolNat s.ent.degraded +
    8 * boolNat (s.ticks.quality != 0) + 16 * boolNat l.formed
  [0x55, 0x4D, 0x41, 0x5A, 1] ++ natToBytes 1 flags ++ natToBytes 2 320 ++ nonce ++ natToBytes 16 l.deviceId.toNat ++
    [0xB1] ++ natToBytes 1 s.fuses.lifecycle.toNat ++ natToBytes 2 0x0401 ++ natToBytes 2 4 ++
    natToBytes 1 (modeCode (reportedMode s)) ++ natToBytes 1 s.cause.toNat

/-- Measurements, the image in force and the state of the engine. -/
def umazMeasures (s : State) : List Byte :=
  let a := s.active.getD ⟨false, 0, 0⟩
  natToBytes 48 s.ladder.ladderBmr.toNat ++ natToBytes 48 s.bmr.toNat ++ natToBytes 48 a.digest.toNat ++
    natToBytes 4 a.version.toNat ++ natToBytes 1 (activeCode s) ++ natToBytes 1 s.ticks.quality ++
    natToBytes 1 (entropyState s) ++ natToBytes 1 s.tamperLatch.toNat

/-- The epoch, the plan tick, the time bus and the sequence number of the statement. -/
def umazTimes (s : State) : List Byte :=
  natToBytes 6 s.ladder.epoch.toNat ++ natToBytes 6 s.plan ++ natToBytes 6 (busNow s / 10 ^ 9) ++
    natToBytes 4 (busNow s % 10 ^ 9) ++ natToBytes 2 s.ladder.umazSeq.toNat

/-- The statement but for its content check (Table 8.9). -/
def umazBody (s : State) (nonce : List Byte) : List Byte :=
  umazHead s nonce ++ umazMeasures s ++ umazTimes s ++ umazCounts s ++ List.replicate 22 0

/-- Bytes packed six to a word, the last word filled with zeros (R259). -/
def packWords : Nat → List Byte → List Word
  | 0, _ => []
  | n + 1, b => BitVec.ofNat 48 (bytesToNat ((b ++ List.replicate 6 0).take 6)) :: packWords n (b.drop 6)

/-- Words unpacked to bytes, six from each. -/
def unpackWords (ws : List Word) : List Byte := ws.flatMap (fun w => natToBytes 6 w.toNat)

def umazRes (s : State) (c : Cmd) : Res :=
  checked [(fld (c.q 6) 0 32 != 0, eMalformed, 0)]
    (let s1 : State := { s with ladder := { s.ladder with umazSeq := s.ladder.umazSeq + 1 } }
     let body := umazBody s1 ((unpackWords (c.words.drop 1)).take 32)
     .done 0 (packWords 54 (body ++ sha3 body)) (s1.coreWorks 10))

/-- UMAZ_REQUEST (R259, R408). -/
def execUmazRequest (s : State) : Out := execPyfer 0x60 umazRes s

end Sys2Proof.Machine
end

