-- ==== Sys2Proof/Machine/CmdStreams.lean ====
section
/-!
DEFINITION. The stream and generation commands (R384, R388 to R394): the ranges of a context, the conflict rule, and what
each command checks and stages.
-/

namespace Sys2Proof.Machine

/-! ### Checks shared by the stream commands -/

/-- The handle of q1 where nothing else is in the word (Table 13.13). -/
def handleArg (c : Cmd) : Nat := fld (c.q 1) 0 15

/-- The domain that owns a handle: of the stream, or of the ring block where the stream is Free (R35, R79). -/
def streamOwner (s : State) (h : Nat) (x : Context) : Option Nat := if x.free then blockDomain s h else some x.domain

/-- The stream is not the header's domain's (check 6). -/
def notOwner (s : State) (c : Cmd) (h : Nat) (x : Context) : Bool := streamOwner s h x != some c.domain

/-- A reserved field of w1 to w10 that is not zero (Table 3.4). -/
def ctxReserved (x : Context) : Bool :=
  fld x.w1 0 2 != 0 || fld x.w3 0 15 != 0 || fld x.w4 0 10 != 0 || fld x.w5 0 16 != 0 || fld x.w6 32 2 != 0 ||
    fld x.w9 32 7 != 0 || fld x.w9 0 19 != 0 || fld x.w10 0 16 != 0

/-- Type and class combine (Table 3.1). -/
def classOk (x : Context) : Bool :=
  if x.type = 0 || 8 < x.type then false
  else if x.isRecord then x.cls == 2
  else if x.isClear then x.cls == 1 || x.cls == 2
  else decide (x.cls ≤ 2)

/-- Type and suite combine (Table 3.2). -/
def suiteOk (x : Context) : Bool :=
  if x.isMacsec then x.suite == 1 || x.suite == 2
  else if x.isGsv then decide (3 ≤ x.suite) && decide (x.suite ≤ 5)
  else if x.isRecord then x.suite == 6
  else x.isClear && x.suite == 0

/-- One existing, enabled port, or one pair; no port for a record stream (R104, R297, Table 3.1). -/
def portsOk (img : ImgCfg) (x : Context) : Bool :=
  if x.isRecord then x.portMask == 0
  else (List.range 16).any (fun p => portEnabled img p &&
    (x.portMask == 2 ^ p || x.portMask == ((portGroup img p).map (2 ^ ·)).foldl (· + ·) 0))

/-- The chain that a Bindweed stream names exists, with no deletion staged, in its domain and tick domain (R172, R388). -/
def chainOk (s : State) (x : Context) : Bool :=
  !x.bindweed ||
    (if x.type = 3 then
      match s.pub x.chain with
      | some v => (stagedOf s (.chain false x.chain)).isEmpty && v.domain == x.domain && v.td == x.tickDomain
      | none => false
    else
      match s.ver x.chain with
      | some v => (stagedOf s (.chain true x.chain)).isEmpty && v.domain == x.domain && v.td == x.tickDomain
      | none => false)

/-- Every field of a context is in its range (R59, R77, R78, R104, R297, R388, Table 3.4). -/
def ctxInRange (s : State) (x : Context) : Bool :=
  classOk x && suiteOk x && (!x.bindweed || x.isGsv) && (!x.echo || (x.classP && x.seals)) &&
    bit s.tcfg.enable x.tickDomain && x.vlanMode != 3 && portsOk s.img x &&
    decide (x.payload ≤ 1500) && decide (x.hashLen ≤ 1600) &&
    (x.cls == 2 || x.steady != 0) && (x.burstAllow == 0 || isGoose x) && ((x.cls == 1) == (x.cRate != 0)) &&
    (if x.isGsv then x.etherType == 0x88B8 || x.etherType == 0x88BA else x.isClear || x.etherType == 0) &&
    (!x.opens || x.addrValid) && (x.confOffset == 0 || (x.isMacsec && x.confOffset != 3)) &&
    decide (x.ringSizeCode ≤ 10) && fld x.w8 0 12 == 0 && chainOk s x

/-- What a change carries for a handle that is Free is judged by each value's own range (R389). -/
def valuesInRange (s : State) (mask : BitVec 11) (x : Context) : Bool :=
  let on (i : Nat) : Bool := bit mask (10 - i)
  (!on 0 || (decide (1 ≤ x.type) && decide (x.type ≤ 8) && x.cls != 3 && bit s.tcfg.enable x.tickDomain)) &&
    (!on 1 || x.vlanMode != 3) && (!on 4 || (decide (x.payload ≤ 1500) && decide (x.hashLen ≤ 1600))) &&
    (!on 6 || (decide (x.suite ≤ 6) && x.confOffset != 3)) && (!on 8 || fld x.w8 0 12 == 0) &&
    (!on 9 || decide (x.ringSizeCode ≤ 10))

/-- The clear policy forbids the stream (R101). -/
def clearForbidden (s : State) (x : Context) : Bool :=
  x.isClear && ((List.range 16).any (fun p => x.portMask.testBit p && !bit s.img.clearPorts p) ||
    !s.img.clearTypes.contains (BitVec.ofNat 16 x.etherType))

/-- The match fields of an opening or CLEAR stream: kind, EtherType, identifier, address (R95, Table 3.8). The spec does not
say whether two CLEAR streams of one EtherType have equal match fields where only one sets w3 [15]: DESIGN CHOICE, log
31: they have not, and a frame that meets both goes to the lower handle. -/
def matchKey (x : Context) : Option (Nat × Nat × Nat × Option Nat) :=
  if x.isSecyRx || x.isDuplex then some (0, 0, x.matchId, some x.matchAddr)
  else if x.isGsvSub then some (1, x.etherType, x.matchId, some x.matchAddr)
  else if x.isClear then some (2, x.etherType, 0, if x.addrValid then some x.matchAddr else none)
  else none

/-- One frame can meet both VLAN conditions (R95). -/
def vlanOverlap (a b : Context) : Bool :=
  if a.vlanMode = 2 && b.vlanMode = 2 then a.vid == b.vid
  else !((a.vlanMode == 1 && b.vlanMode == 2) || (a.vlanMode == 2 && b.vlanMode == 1))

/-- Handles of streams that are live or whose creation is staged. -/
def knownHandles (s : State) : List Nat :=
  s.streams.map (·.1) ++ s.staged.filterMap (fun c => match c.obj with
    | .stream h => some h
    | _ => none)

/-- The contexts that stream k holds from an instant on: the one then in force, and the one after each change staged for
later. -/
def heldFrom (s : State) (k at_ : Nat) : List Context :=
  ((stagedOf s (.stream k)).foldl (fun (a : List Context × Context) x =>
    let c := applyCtx (s.aux_ k).firstCount a.2 x.tick x.chg
    if tickInstant (domFreq s (realDom s x.dom)) x.tick ≤ at_ then ([c], c) else (a.1 ++ [c], c)) ([s.stream k], s.stream k)).1

/-- The stream would conflict with another at some time from tick t of domain d on (R95): no two may at any instant. -/
def conflicts (s : State) (h : Nat) (x : Context) (d : Nat) (t : Tick) : Bool :=
  (matchKey x).isSome && (knownHandles s).any (fun k => k != h &&
    (heldFrom s k (tickInstant (domFreq s d) t)).any (fun y =>
      !y.free && matchKey y == matchKey x && y.portMask &&& x.portMask != 0 && vlanOverlap y x))

/-- The domain's gate refuses the ring's extent (R357, Table 12.4). -/
def ringRefusal (s : State) (h : Nat) (x : Context) : Option GateFault :=
  let n := 64 + 32 * x.ringEntries
  deputyFirst s x.domain h [(x.ringBase, n, false), (x.ringBase, n, true)]

/-- The failing check of Table 2.6 once a change is staged, as the answer that reports it (R62, R75). -/
def admission (s : State) (h : Nat) (c : Staged) (r : Demand → Res) : Res :=
  let d := chargeOf (s.stage c) h
  match admitFail s h d with
  | some f => .fail eAdmission f.detail [415 + 6 * (realDom s c.dom)]
  | none => r d

/-- No staged context is free (R18). -/
def noRoom (s : State) (n : Nat) : Check := (decide (freeStaged s < n), rResource, 1)

/-! ### Creating and modifying -/

/-- The context that a STREAM_CREATE carries (R388). -/
def createCtx (c : Cmd) : Context :=
  { Context.zero with
    w0 := c.q 1, w1 := c.q 2, w2 := c.q 3, w3 := c.q 4, w4 := c.q 5, w5 := c.q 6, w6 := c.q 7, w7 := c.q 8,
    w8 := c.q 9, w9 := c.q 10, w10 := c.q 11, w11 := c.q 12 }

/-- The default roll threshold (Table 7.1, R209). -/
def defaultThreshold (suite : Nat) : Word :=
  if suite = 1 then 0xFF00_0000 else if 2 ≤ suite && suite ≤ 5 then 0xFF00_0000_0000 else 0

/-- The context as created: state Created, and the default threshold where none is named (R85, R209). -/
def createdCtx (x : Context) : Context :=
  let y := x.setSt 1
  if y.w7 = 0 then { y with w7 := defaultThreshold y.suite } else y

def createRes (s : State) (c : Cmd) : Res :=
  let x := createCtx c
  let h := x.handle
  let d := x.tickDomain
  let t := effTick s c [.stream h] d
  match failOf [
      (ctxReserved x, eMalformed, 0),
      (x.st != 0 || fld x.w0 15 16 != 0 || x.w11 != 0 || !ctxInRange s x || tickFar c d, eRange, 0),
      (x.domain != c.domain || blockDomain s h != some c.domain, eDomain, 0)] with
  | some (st, dt) => .fail st dt []
  | none =>
    match ringRefusal s h x with
    | some f => .refused eDomain 0 (s.logGate x.domain f)
    | none =>
      let now := futureStream s h
      let chg : Staged := ⟨.stream h, d, t, .create (createdCtx x)⟩
      checked [
        (clearForbidden s x, ePolicy, 0),
        (!now.free || orderBad s [.stream h] t, eState, stateDetail (some now) none),
        (conflicts s h x d t, eConflict, 0),
        noRoom s 1]
        (if x.classC && !x.isClear then
          admission s h chg (fun dm => stageRes s c d t [waitWord (s.setDemand h dm) x] ((s.setDemand h dm).stage chg))
        else stageRes s c d t [0] (s.stage chg))

/-- STREAM_CREATE (R80, R85, R87, R388). -/
def execStreamCreate (s : State) : Out := execPyfer 0x10 createRes s

/-- The bits of w0 to w10 that a change may alter in Created, and in Armed (R389). -/
def alterable (armed : Bool) (i : Nat) : Word :=
  if armed then
    (if i = 4 || i = 5 || i = 7 then BitVec.allOnes 48 else if i = 6 then at_ 34 0x3F ||| at_ 0 0xFFFFFFFF else 0)
  else if i = 0 then at_ 31 3
  else BitVec.allOnes 48

/-- A field of a replaced word that may not alter differs from its value at the effective tick (R389). -/
def altersFixed (x : Context) (mask : BitVec 11) (vals : List Word) : Bool :=
  (List.range 11).any (fun i => bit mask (10 - i) &&
    (x.words.getD i 0 ^^^ vals.getD i 0) &&& ~~~ alterable x.armed i != 0)

def modifyRes (s : State) (c : Cmd) : Res :=
  let mask := BitVec.ofNat 11 (fld (c.q 1) 37 11)
  let vals := (List.range 11).map (fun i => c.q (i + 2))
  let h := handleArg c
  let x := futureStream s h
  let y := modifyCtx x mask vals
  let d := x.tickDomain
  let t := effTick s c [.stream h] d
  let chg : Staged := ⟨.stream h, d, t, .modify mask vals⟩
  let detail := stateDetail (some x) none
  let readmit := (y.w4 != x.w4 || y.w5 != x.w5) && (x.armed && x.classP || x.classC && !x.isClear)
  checked [
    (fld (c.q 1) 15 22 != 0 || (List.range 11).any (fun i => !bit mask (10 - i) && vals.getD i 0 != 0) || ctxReserved y,
      eMalformed, 0),
    (tickFar c d || !(if x.free then valuesInRange s mask y else ctxInRange s y), eRange, 0),
    (notOwner s c h x, eDomain, 0),
    (!x.free && clearForbidden s y, ePolicy, 0),
    (!(x.created || x.armed) || orderBad s [.stream h] t || altersFixed x mask vals, eState, detail),
    ((y.w1 != x.w1 || y.w2 != x.w2 || y.w3 != x.w3) && conflicts s h y d t, eConflict, 0),
    noRoom s 1]
    (if readmit then
      admission s h chg (fun dm =>
        stageRes s c d t [waitWord (s.setDemand h dm) y] ((s.setDemand h dm).stage chg))
    else stageRes s c d t [0] (s.stage chg))

/-- STREAM_MODIFY (R86, R89, R389). -/
def execStreamModify (s : State) : Out := execPyfer 0x11 modifyRes s

/-! ### Arming, disarming, retiring -/

/-- A ring header that breaks R330: a container with bits above 47, a reserved field, a reserved delivery code. -/
def ringHeaderBad (h0 h1 h2 : Container) : Bool :=
  badContainer h0 || badContainer h1 || badContainer h2 || fld h0 0 45 != 0 || decide (1 < fld h0 46 2) || fld h2 8 40 != 0

def armRes (h0 h1 h2 : Container) (s : State) (c : Cmd) : Res :=
  let h := handleArg c
  let x := futureStream s h
  let d := x.tickDomain
  let t := effTick s c [.stream h] d
  let chg : Staged := ⟨.stream h, d, t, .arm (toWord h0) (toWord h1) (toWord h2)⟩
  let s1 := s.stage chg
  let awake (z : State) : State := z.wakeAs (z.setStream h (x.setSt 2))
  match failOf [
      (fld (c.q 1) 15 33 != 0, eMalformed, 0),
      (tickFar c d, eRange, 0),
      (notOwner s c h x, eDomain, 0)] with
  | some (st, dt) => .fail st dt []
  | none =>
    match (if x.created then ringRefusal s h x else none) with
    | some f => .refused eDomain 0 (s.logGate x.domain f)
    | none =>
      checked [
        (x.classP && x.suite == 5 && s.tcfg.lease == 0, ePolicy, 0),
        (!x.created || !(x.cur.valid || x.isClear) || orderBad s [.stream h] t, eState, stateDetail (some x) none),
        (ringHeaderBad h0 h1 h2, eMalformed, 0),
        noRoom s 1]
        (if x.classP then
          admission s h chg (fun dm =>
            stageRes s c d t [waitWord (s.setDemand h dm) x] (awake (s1.setDemand h dm)))
        else stageRes s c d t [0] (awake s1))

/-- STREAM_ARM (R61, R78, R330, R390): `h0` to `h2` are the first containers of the ring header as read from host memory. -/
def execStreamArm (h0 h1 h2 : Container) (s : State) : Out := execPyfer 0x12 (armRes h0 h1 h2) s

/-- Disarm and retire: one change of a stream in one of these states; a retirement changes the stream's twin too, whose
link ends (R100, R508). -/
def simpleChange (chg : Change) (legal : Context → Bool) (twin : Context → Option Nat) (s : State) (c : Cmd) : Res :=
  let h := handleArg c
  let x := futureStream s h
  let d := x.tickDomain
  let g := twin x
  let os := Obj.stream h :: (g.map Obj.stream).toList
  let t := effTick s c os d
  let s1 := s.stage ⟨.stream h, d, t, chg⟩
  checked [
    (fld (c.q 1) 15 33 != 0, eMalformed, 0),
    (tickFar c d, eRange, 0),
    (notOwner s c h x, eDomain, 0),
    (!legal x || orderBad s os t, eState, stateDetail (some x) none),
    noRoom s os.length]
    (stageRes s c d t [] (match g with
      | some o => s1.stage ⟨.stream o, d, t, .unlink⟩
      | none => s1))

def disarmRes : State → Cmd → Res := simpleChange .disarm Context.armed (fun _ => none)

/-- STREAM_DISARM (R85). -/
def execStreamDisarm (s : State) : Out := execPyfer 0x13 disarmRes s

def retireRes : State → Cmd → Res := simpleChange .retire (fun x => x.created || x.armed)
  (fun x => if x.twinValid then some x.twin else none)

/-- STREAM_RETIRE (R90). -/
def execStreamRetire (s : State) : Out := execPyfer 0x14 retireRes s

/-! ### Reading -/

def readRes (s : State) (c : Cmd) : Res :=
  let x := s.stream (handleArg c)
  checked [
    (fld (c.q 1) 15 33 != 0, eMalformed, 0),
    (notOwner s c (handleArg c) x, eDomain, 0),
    (x.free, eState, stateDetail (some x) none)]
    (.done 0 (x.words.take 24) s)

/-- STREAM_READ (R390): the words are those live when the response is written. -/
def execStreamRead (s : State) : Out := execPyfer 0x15 readRes s

/-- The stream as it stands just before plan tick t: after the changes whose boundary passes before it (R74, R390). -/
def streamBefore (s : State) (h : Nat) (t : Tick) : Context :=
  (stagedOf s (.stream h)).foldl (fun c x =>
    if tickInstant (domFreq s (realDom s x.dom)) x.tick ≤ tickInstant (planFreq s) (t - 1) then
      applyCtx (s.aux_ h).firstCount c x.tick x.chg else c) (s.stream h)

def snapshotRes (s : State) (c : Cmd) : Res :=
  let h := handleArg c
  let t := if c.isNext then s.plan + 1 else (c.q 0).toNat
  let x := streamBefore s h t
  checked [
    (fld (c.q 1) 15 33 != 0, eMalformed, 0),
    (tickFar c 4, eRange, 0),
    (notOwner s c h x, eDomain, 0),
    (x.free, eState, stateDetail (some x) none)]
    (match stageRes s c 4 t [] s with
     | .done _ _ s' => .wait (.snapshot h t) s'
     | r => r)

/-- STREAM_SNAPSHOT (R20, R390): taken at the boundary of its tick. -/
def execStreamSnapshot (s : State) : Out := execPyfer 0x16 snapshotRes s

/-! ### Twins -/

def twinRes (s : State) (c : Cmd) : Res :=
  let sub := fld (c.q 1) 15 15
  let pub := handleArg c
  let xs := futureStream s sub
  let xp := futureStream s pub
  let d := xp.tickDomain
  let os : List Obj := [.stream pub, .stream sub]
  let t := effTick s c os d
  let notReady (x : Context) : Bool := !x.created || x.twinValid
  checked [
    (fld (c.q 1) 30 18 != 0, eMalformed, 0),
    (tickFar c d, eRange, 0),
    (!xs.free && !xp.free && !(xp.isGsvPub && xs.isGsvSub && xs.tickDomain == d), eRange, 0),
    (notOwner s c pub xp || notOwner s c sub xs, eDomain, 0),
    (notReady xp || orderBad s [.stream pub] t, eState, stateDetail (some xp) none),
    (notReady xs || orderBad s [.stream sub] t, eState, stateDetail (some xs) none),
    noRoom s 2]
    (stageRes s c d t [] ((s.stage ⟨.stream pub, d, t, .twin sub⟩).stage ⟨.stream sub, d, t, .twin pub⟩))

/-- TWIN_LINK (R100). -/
def execTwinLink (s : State) : Out := execPyfer 0x17 twinRes s

/-! ### Generations -/

/-- The streams that a generation command changes: the stream, and the twin that it will have then (R100). -/
def twinTargets (s : State) (h : Nat) : List Nat :=
  let x := futureStream s h
  h :: (if x.twinValid then [x.twin] else [])

/-- The value by which a suite tells generations apart (Table 7.1). -/
def identOf (suite : Nat) (g : Gen) : Nat :=
  if suite = 1 || suite = 2 then g.an else if suite = 6 then g.num else g.ssci

/-- The uses that an install needs of its slot (R229). -/
def neededUses (x : Context) (twinned : Bool) : List Nat :=
  if x.suite = 5 then [useHmac]
  else if x.isRecord then [useRecord]
  else if twinned || x.isDuplex then [useSeal, useOpen]
  else if x.seals then [useSeal]
  else [useOpen]

/-- The domain to which a key slot belongs: by its block, by its place, or by what it holds (R34, R226, Table 8.1). -/
def slotOwner (s : State) (k : Nat) : Option Nat :=
  if k < 65536 then slotBlockDomain s k
  else if slotDomain 0 ≤ k && k ≤ slotDomain 15 then some (k - slotDomain 0)
  else if slotRoot 0 ≤ k && k ≤ slotRoot 15 then some (k - slotRoot 0)
  else if (s.slot k).domainValid then some (s.slot k).domain
  else none

/-- The slot lies in a domain's subtree (R211). -/
def inSubtree (s : State) (k d : Nat) : Bool :=
  slotOwner s k == some d && (!(s.slot k).valid || ((s.slot k).domainValid && (s.slot k).domain == d))

/-- The previous generation may still open at tick t. -/
def prevOpen (x : Context) (t : Tick) : Bool := x.prv.valid && decide (t < x.closeTick)

/-- A generation that is not later than the current one, or whose identifier is in use (R211). -/
def genRefused (x : Context) (t : Tick) (g : Gen) : Bool :=
  (x.cur.valid && (!genLater g.num x.cur.num || identOf x.suite g == identOf x.suite x.cur)) ||
    (prevOpen x t && identOf x.suite g == identOf x.suite x.prv)

/-- What a GEN_INSTALL carries (Table 13.14), with the salt in force. -/
def installOf (c : Cmd) (salt : Nat) : Install :=
  let q2 := c.q 2
  { gen := ⟨at_ 31 (fld (c.q 1) 31 17) ||| at_ 15 (fld (c.q 1) 15 16) ||| at_ 14 1 ||| at_ 12 (fld q2 14 2),
      at_ 16 (fld q2 16 32), BitVec.ofNat 48 (salt >>> 48), BitVec.ofNat 48 salt⟩
    first := if bit q2 10 then fld (c.q 6) 32 16 * 2 ^ 48 + (c.q 5).toNat else 1
    limit := c.q 7
    follow := bit q2 13
    roll := bit q2 12 }

/-- A field of the install that its stream does not allow (R392, R393, Table 13.14). -/
def installBadRange (x : Context) (c : Cmd) (i : Install) : Bool :=
  let q2 := c.q 2
  let given := (c.q 3).toNat + (c.q 4).toNat
  x.isClear || (i.follow && !x.isSecyRx) || (bit q2 11 && (x.suite != 2 || given != 0)) ||
    (fld q2 14 2 != 0 && !(x.suite == 1 || x.suite == 2)) ||
    (fld q2 16 32 != 0 && (x.suite == 1 || x.suite == 6)) || (given != 0 && x.suite != 2) ||
    i.first == 0 || decide (lastCount x.suite < i.first)

/-- The grace-table entries that an install takes for stream h: a follow install onto a current generation, and a roll of
a stream that opens frames (R214, R221). -/
def installNeeds (x : Context) (i : Install) : Bool := (i.follow && x.cur.valid) || (i.roll && x.opens)

/-- The answer of Table 13.10 where a fresh entropy word cannot be had. -/
def entropyDetail (s : State) : Nat := if s.ent.fail then 2 else 1

/-- GEN_INSTALL. One that generates its salt draws an entropy word once its checks pass, and goes on with it in its next row
(R255, R393). -/
def installRes (s : State) (c : Cmd) : Res :=
  let h := handleArg c
  let x := futureStream s h
  let d := x.tickDomain
  let q2 := c.q 2
  let draws := bit q2 11
  let word := begunWith c
  let salt := if draws then fld (Config.freeKey (word.getD s.draws)) 0 96 else (c.q 3).toNat * 2 ^ 48 + (c.q 4).toNat
  let i := installOf c salt
  let k := i.gen.slot
  let hs := twinTargets s h
  let t := effTick s c (hs.map Obj.stream) d
  let bad (y : Context) (g : Nat) : Bool :=
    !(y.created || y.armed) || orderBad s [.stream g] t || (i.roll && (!y.cur.valid || prevOpen y t))
  let need := (hs.filter (fun g => installNeeds (futureStream s g) i)).length
  let s2 := hs.foldl (fun z g =>
    (if installNeeds (futureStream s g) i then z.takeGrace g i.gen.num else z).stage ⟨.stream g, d, t, .install i⟩) s
  checked [
    (fld q2 0 10 != 0 || fld (c.q 6) 0 32 != 0, eMalformed, 0),
    (tickFar c d || decide (slotCount ≤ k) || (i.follow && i.roll) || (!x.free && installBadRange x c i), eRange, 0),
    (notOwner s c h x || (!x.free && !inSubtree s k x.domain), eDomain, 0),
    (hs.any (fun g => bad (futureStream s g) g), eState, stateDetail (some x) (some (s.slot k).st)),
    (!(s.slot k).live || (neededUses x (decide (1 < hs.length))).any (fun u => !bit (s.slot k).attr u), eSlot, 0),
    (hs.any (fun g => genRefused (futureStream s g) t i.gen), eGeneration, 0),
    noRoom s hs.length,
    (decide (Machine.freeGrace s < need), rResource, 2),
    (draws && word.isNone && !entropyUsable s, rEntropy, entropyDetail s),
    (word.isSome && s.ent.fail, rEntropy, 4)]
    (if draws && word.isNone then .wait (.begun s.draws) (s.draw.post 488)
     else stageRes s c d t (if draws then [i.gen.g2, i.gen.g3] else []) s2)

/-- GEN_INSTALL (R210, R211, R391 to R393): one row, or, where it generates its salt, two: the word is drawn in the first, and
the health-failure flag looked at again in the second (R255). -/
def execGenInstall (s : State) : Out := execPyfer 0x20 installRes s

/-- A roll that R214 refuses for one stream. -/
def rollRefused (x : Context) (t : Tick) (g : Nat) : Bool :=
  (x.cur.valid && x.cur.num == g) || !x.nxt.valid || x.nxt.num != g || prevOpen x t

/-- An entry that guards a generation of stream h before its roll. -/
def holdsNext (s : State) (h g : Nat) : Bool := s.grace.any (fun e => e.handle == h && e.gen == g && !e.previous)

/-- The roll takes over the entry of a follow install, and with it the roll that Yarrow would stage (R221). -/
def State.takeRoll (s : State) (h g : Nat) (opens : Bool) : State :=
  let a := s.aux_ h
  let s1 := if opens && !holdsNext s h g then s.takeGrace h g else s
  if (s.stream h).nxt.valid && (s.stream h).nxt.num == g then s1.setAux h { a with follow := false, followAsked := false, followWait := false }
  else s1

def rollRes (s : State) (c : Cmd) : Res :=
  let h := handleArg c
  let g := fld (c.q 1) 15 16
  let d := (futureStream s h).tickDomain
  let hs := twinTargets s h
  let t := effTick s c (hs.map Obj.stream) d
  let bad (k : Nat) : Bool :=
    let y := futureStream s k
    !(y.created || y.armed) || orderBad s [.stream k] t || rollRefused y t g
  let need := (hs.filter (fun k => (futureStream s k).opens && !holdsNext s k g)).length
  let s2 := hs.foldl (fun z k => (z.takeRoll k g (futureStream s k).opens).stage ⟨.stream k, d, t, .roll g⟩) s
  checked [
    (fld (c.q 1) 31 17 != 0, eMalformed, 0),
    (tickFar c d, eRange, 0),
    (notOwner s c h (futureStream s h), eDomain, 0),
    (hs.any bad, eState, stateDetail (some (futureStream s h)) none),
    noRoom s hs.length,
    (decide (Machine.freeGrace s < need), rResource, 2)]
    (stageRes s c d t [] s2)

/-- GEN_ROLL (R213, R214, R394). -/
def execGenRoll (s : State) : Out := execPyfer 0x21 rollRes s

end Sys2Proof.Machine
end

