-- ==== Sys2Proof/Machine/CmdKeys.lean ====
section
/-!
DEFINITION. The key commands and the exchange on the key bus (R226, R227, R230, R235, R243 to R246, R395 to R398).
-/

namespace Sys2Proof.Machine

/-! ### Checks -/

/-- The target slot of IMPORT and DERIVE. -/
def targetArg (c : Cmd) : Nat := fld (c.q 1) 31 17

/-- The slot of INVALIDATE and KEY_READ. -/
def slotArg (c : Cmd) : Nat := fld (c.q 1) 0 17

/-- The detail of ERR_STATE where a slot alone is named (Table 13.10). -/
def slotDetail (s : State) (k : Nat) : Nat := stateDetail none (some (s.slot k).st)

/-- A use limit as commanded, zero for none (Table 13.15). -/
def limitOf (w : Word) : Word := if w = 0 then unlimited else w

/-- Checks 6 to 8 of a command that writes a stream slot of its domain (R226, R227, R230). -/
def writeChecks (s : State) (c : Cmd) (k : Nat) : List Check := [
  (decide (k < 65536) && slotBlockDomain s k != some c.domain, eDomain, 0),
  (decide (65536 ≤ k), ePolicy, 0),
  (!(s.slot k).empty_, eState, slotDetail s k)]

/-- Check 12 of a derivation or an import: its share split takes no entropy word (Table 8.7, R252). -/
def splitCheck (s : State) : Check :=
  (degradedRefuse s || !s.keyCtl.seeded, rEntropy, if degradedRefuse s then 3 else 1)

/-! ### Import -/

/-- A free keyed-digest slot among those assigned to Quecy (R245). -/
def freeDigest (s : State) : Option Nat :=
  ((List.range s.img.digestCount).map (· + s.img.digestFirst)).find? (fun n => !s.keyCtl.digestUsed.contains n)

def State.sendBus (s : State) (m : KeyBusMsg) : State := { s with out := { s.out with keyBus := some m } }

/-- The keyed-digest slot that an import of these uses would take (R245). -/
def digestFor (s : State) (c : Cmd) : Option Nat := if bit (c.q 1) 24 then freeDigest s else none

/-- The request is sent, naming the keyed-digest slot that the key of a digest-bound slot is to go to, and the command waits
for the answer (R243 step 1, R245). -/
def State.startImport (s : State) (c : Cmd) (t : Nat) : State :=
  let uses := BitVec.ofNat 7 (fld (c.q 1) 24 7)
  let ref := digestFor s c
  let s1 : State := { s with
    imports := s.imports ++ [⟨c.id, BitVec.ofNat 32 (fld (c.q 2) 16 32), c.domain, targetArg c, uses, bit (c.q 1) 23,
      limitOf (c.q 3), t, ref, false⟩]
    keyCtl := { s.keyCtl with digestUsed := ref.toList ++ s.keyCtl.digestUsed } }
  s1.sendBus (.request (BitVec.ofNat 32 (fld (c.q 2) 16 32)) c.domain ref)

def importRes (busy : Bool) (s : State) (c : Cmd) : Res :=
  let k := targetArg c
  let uses := fld (c.q 1) 24 7
  let hmac := bit (c.q 1) 24
  checked ([
    (fld (c.q 1) 0 23 != 0 || fld (c.q 2) 0 16 != 0, eMalformed, 0),
    (decide (slotCount ≤ k) || (hmac && uses != 1), eRange, 0)] ++
    (writeChecks s c k).take 2 ++ [(hmac && s.mode == .drill, ePolicy, 0)] ++ (writeChecks s c k).drop 2 ++ [
    (!(s.slot (slotDomain c.domain)).live, eSlot, 0),
    (hmac && (freeDigest s).isNone, rResource, 4),
    splitCheck s])
    (if busy then
      .refused rResource 3 (s.sendBus (.request (BitVec.ofNat 32 (fld (c.q 2) 16 32)) c.domain (digestFor s c)))
    else .wait .keyBus (s.startImport c s.now))

/-- KEY_IMPORT (R243, R396): `busy` is the key bus's busy indication. -/
def execKeyImport (busy : Bool) (t : Nat) (s : State) : Out := execPyfer 0x28 (importRes busy) (s.atTime t)

/-- The import ends; a keyed-digest slot that it held and does not use is free again. -/
def State.endImport (s : State) (i : Import) (keep : Bool) : State :=
  { s with
    imports := s.imports.filter (fun j => j.cmd != i.cmd)
    keyCtl := match keep, i.digestRef with
      | false, some d => { s.keyCtl with digestUsed := s.keyCtl.digestUsed.filter (· != d) }
      | _, _ => s.keyCtl }

/-- A refusal of Table 13.16 (R244). -/
def State.refuseImport (s : State) (i : Import) (cause : Nat) : State :=
  (((s.endImport i false).sendBus (.refusal i.handle cause)).post 463).answer i.cmd (answerWords eKeyBus (cause * 2 ^ 24) 0 [])

/-- The first cause of Table 13.16 that an answer gives (R244). -/
def importCause (i : Import) (r : KeyBusReply) : Option Nat :=
  if r.handle != i.handle then some 1
  else if r.domain.toNat != i.domain then some 2
  else if r.bits != 256 then some 3
  else if i.uses &&& r.uses == 0 then some 4
  else if !r.checkOk then some 5
  else none

/-- The slot is written as the import says: digest-bound, whitened in Drill, or as it came (R231, R243, R245, R246). -/
def State.writeImport (s : State) (i : Import) (r : KeyBusReply) : State :=
  let d := slotDomain i.domain
  let key := r.share0 ^^^ r.share1
  let uses := (i.uses &&& r.uses).toNat
  match i.digestRef with
  | some n =>
    (s.setSlot i.slot { KeySlot.empty with
      attr := childAttr s d (some i.domain) i.expire uses 4, u1 := i.limit, digestRef := some n }).post 458
  | none =>
    if s.mode == .drill then
      s.deriveSlot i.slot d (some i.domain) "DRILLIMP" (keyBytes key) uses 3 i.expire i.limit
    else s.writeSlot i.slot key (childAttr s d (some i.domain) i.expire uses 2) i.limit

/-- KEY_BUS_RESPONSE (R243, R244, R235): the write and its acknowledgement, a refusal, or the write abandoned; also where the
derivation that whitens a key in Drill finds its parent refused (log 33). -/
def execKeyBusResponse (r : KeyBusReply) (s : State) : Out :=
  match s.imports with
  | [] => .next s
  | i :: _ =>
    match importCause i r with
    | some cause => .next (s.refuseImport i cause)
    | none =>
      let live := (s.slot (slotDomain i.domain)).live && !i.abandoned
      if !live || !(s.slot i.slot).empty_ then
        .next (((s.endImport i false).sendBus (.refusal i.handle (if live then 0 else 7))).answer i.cmd
          (answerWords eState (slotDetail s i.slot) 0 []))
      else
        let s1 := (s.endImport i true).writeImport i r
        if (s1.slot i.slot).empty_ then
          .next ((s1.sendBus (.refusal i.handle 7)).answer i.cmd (answerWords eState (slotDetail s i.slot) 0 []))
        else
          .next ((s1.sendBus (.ack i.handle i.slot)).answer i.cmd (answerWords 0 0 0 [(s1.slot i.slot).attr]))

/-- IMPORT_TIMEOUT (R244): no completion within 10 µs of the request. -/
def execImportTimeout (t : Nat) (s : State) : Out :=
  let s1 := s.atTime t
  match s1.imports with
  | [] => .next s1
  | i :: _ => if i.since + 10000 ≤ s1.now then .next (s1.refuseImport i 6) else .next s1

/-! ### Derivation -/

/-- The slot from which a kind is derived: the ladder key or the SEAL epoch key in force, or the record root (Table 8.6,
R238, R242). -/
def deriveParent (s : State) (kind d : Nat) : Nat :=
  if kind = 2 then slotRoot d
  else if s.mode == .drill then (if kind = 0 then slotDrill else slotPool)
  else (if kind = 0 then slotDevice else slotSeal)

/-- The derivation of Table 8.6, by core u. -/
def State.deriveKind (s : State) (u : Nat) (cellBad : Bool) (c : Cmd) (kind : Nat) : Fetch × State :=
  let d := c.domain
  let k := targetArg c
  let p := deriveParent s kind d
  let lim := limitOf (c.q 3)
  if kind = 0 then s.deriveBy u cellBad k p (some d) "DOM" (natToBytes 1 d) maskKdf 0 false lim
  else if kind = 1 then s.deriveBy u cellBad k p (some d) "SEALD" (natToBytes 1 d) maskKdf 0 false lim
  else s.deriveBy u cellBad k p (some d) "REC" (natToBytes 4 (fld (c.q 2) 16 32) ++ natToBytes 2 (fld (c.q 2) 0 16)) 16 1
    (bit (c.q 1) 23) lim

/-- The kind of KEY_DERIVE. -/
def kindOf (c : Cmd) : Nat := fld (c.q 1) 20 3

/-- The derivation has begun (Table 8.5): under a parent that has ceased to be live, or that refuses the fetch, the write is
abandoned (R235; a refused fetch so too, log 33), and none is made to a slot that is no longer Empty (R230). -/
def deriveEnd (u : Nat) (cellBad : Bool) (s : State) (c : Cmd) : Res :=
  let k := targetArg c
  if !(s.slot (deriveParent s (kindOf c) c.domain)).live || !(s.slot k).empty_ then .fail eState (slotDetail s k) []
  else
    match s.deriveKind u cellBad c (kindOf c) with
    | (.ok _, s1) => .done 0 [(s1.slot k).attr] s1
    | (_, s1) => .refused eState (slotDetail s k) s1

def deriveRes (u : Nat) (cellBad : Bool) (s : State) (c : Cmd) : Res :=
  if (begunWith c).isSome then deriveEnd u cellBad s c
  else
    let k := targetArg c
    let kind := kindOf c
    let d := c.domain
    checked ([
      (fld (c.q 1) 24 7 != 0 || fld (c.q 1) 0 20 != 0 || (decide (kind ≤ 1) && c.q 2 != 0), eMalformed, 0),
      (decide (2 < kind) || (kind == 0 && k != slotDomain d) || (kind == 1 && k != slotRoot d) ||
        (kind == 2 && decide (65536 ≤ k)), eRange, 0)] ++
      (if kind = 2 then writeChecks s c k
       else [(c.mbox != mbMgmt, ePolicy, 0), (!(s.slot k).empty_, eState, slotDetail s k)]) ++ [
      (!(s.slot (deriveParent s kind d)).live, eSlot, 0),
      splitCheck s])
      (.wait (.begun s.draws) s)

/-- KEY_DERIVE (R235, R238, R397), in two rows: the command is checked and begins, then a Keccak core fetches the parent and
the slot is written. -/
def execKeyDerive (core : Fin 2) (cellBad : Bool) (s : State) : Out := execPyfer 0x29 (deriveRes (10 + core.val) cellBad) s

/-! ### Invalidation and reading -/

/-- A domain key or record root. -/
def domainSlot (k : Nat) : Bool := decide (slotDomain 0 ≤ k) && decide (k ≤ slotRoot 15)

def invalidateRes (s : State) (c : Cmd) : Res :=
  let k := slotArg c
  stagePlan s c (.slot k) .invalidate (slotDetail s k)
    [(fld (c.q 1) 17 31 != 0, eMalformed, 0), (decide (slotCount ≤ k), eRange, 0)]
    [(match slotOwner s k with
      | some d => d != c.domain
      | none => decide (k < 65536), eDomain, 0),
     (decide (65536 ≤ k) && !(domainSlot k && c.mbox == mbMgmt), ePolicy, 0)]

/-- KEY_INVALIDATE (R227, R233, R398). -/
def execKeyInvalidate (s : State) : Out := execPyfer 0x2A invalidateRes s

def keyReadRes (s : State) (c : Cmd) : Res :=
  let k := slotArg c
  let v := s.slot k
  checked [
    (fld (c.q 1) 17 31 != 0, eMalformed, 0),
    (decide (slotCount ≤ k), eRange, 0),
    (slotOwner s k != some c.domain && !(c.mbox == mbMgmt && decide (65536 ≤ k)), eDomain, 0)]
    (.done 0 [v.attr, v.u0, v.u1] s)

/-- KEY_READ (R30, R227). -/
def execKeyRead (s : State) : Out := execPyfer 0x2B keyReadRes s

end Sys2Proof.Machine
end

