-- ==== Sys2Proof/Machine/CmdChains.lean ====
section
/-!
DEFINITION. The Bindweed chain commands (R172, R177, R178, R203 to R206, R399 to R402; the Keccak cores are woken for a new
chain, R449), and the staging miss of any
tick-stamped command (R23).
-/

namespace Sys2Proof.Machine

/-! ### Shared parts -/

/-- The interval in force when a command was accepted, of length `len` in domain td (R173). -/
def acceptInterval (c : Cmd) (td len : Nat) : Nat := acceptTick c td / len

/-- A CHAIN_DELETE is staged for the chain. -/
def deleteStaged (s : State) (verified : Bool) (n : Nat) : Bool := !(stagedOf s (.chain verified n)).isEmpty

/-- The domain of a chain that exists. -/
def chainDomain (s : State) (verified : Bool) (n : Nat) : Option Nat :=
  if verified then (s.ver n).map (·.domain) else (s.pub n).map (·.domain)

/-- The chain exists in another domain (check 6). -/
def otherChain (s : State) (c : Cmd) (verified : Bool) (n : Nat) : Bool :=
  match chainDomain s verified n with
  | some d => d != c.domain
  | none => false

/-- The active image places no Bindweed regions (Table 14.9). -/
def noRegions (s : State) : Check := (s.img.bwId == 0, ePolicy, 0)

/-- The stream, as it is or as it will be, names the chain (R402). -/
def namesChain (verified : Bool) (n : Nat) (x : Context) : Bool :=
  !x.free && x.bindweed && x.chain == n && (if verified then x.isGsvSub else x.isGsvPub)

def chainNamed (s : State) (verified : Bool) (n : Nat) : Bool :=
  (knownHandles s).any (fun h => namesChain verified n (s.stream h) || namesChain verified n (futureStream s h))

/-! ### CHAIN_CREATE -/

structure ChainArgs where
  index : Nat
  renew : Bool
  len : Nat
  delay : Nat
  td : Nat
  expire : Bool
  slot : Nat
  publisher : BitVec 32
  count : BitVec 16
  start : Nat

/-- The words of CHAIN_CREATE (Table 13.17). -/
def chainArgs (c : Cmd) : ChainArgs where
  index := fld (c.q 1) 38 10
  renew := bit (c.q 1) 37
  len := fld (c.q 1) 33 4 + 1
  delay := fld (c.q 1) 31 2 + 1
  td := fld (c.q 1) 29 2
  expire := bit (c.q 1) 28
  slot := fld (c.q 1) 0 17
  publisher := BitVec.ofNat 32 (fld (c.q 2) 16 32)
  count := BitVec.ofNat 16 (fld (c.q 2) 0 16)
  start := (c.q 3).toNat

/-- The count of a publisher chain's last seed. -/
def Pub.lastCount (v : Pub) : BitVec 16 := ((v.seeds.getLast?).map (fun e => e.2.2)).getD 0

/-- A renewal that does not fit its chain (R400). -/
def renewBad (s : State) (a : ChainArgs) : Bool :=
  a.renew && (match s.pub a.index with
    | none => true
    | some v => v.publisher != a.publisher || v.len != a.len || v.delay != a.delay || v.td != a.td ||
        !genLater a.count.toNat v.lastCount.toNat || v.seeds.any (fun e => decide (a.start ≤ e.2.1)))

/-- The shortfall of R178 with one chain more, zero where it fits. -/
def recomputationShort (s : State) (td len : Nat) : Nat :=
  let unit := 720720 * planFreq s
  let sum := (s.pubs.map (fun e => recomputation s e.2.td e.2.len)).foldl (· + ·) (recomputation s td len)
  ceilDiv (sum - recomputeHalf s * unit) unit

/-- The anchor statement (Table 6.8). -/
def anchorStatement (s : State) (a : ChainArgs) (seed : Key) : List Byte :=
  [1, 0, BitVec.ofNat 8 a.len, BitVec.ofNat 8 a.delay] ++ natToBytes 4 a.publisher.toNat ++ natToBytes 4 (domFreq s a.td) ++
    natToBytes 6 s.tcfg.origin.toNat ++ natToBytes 2 a.count.toNat ++ natToBytes 6 a.start ++ List.replicate 6 0 ++
    chainCommitment seed a.publisher.toNat a.start

/-- The chain as it begins. -/
def newPub (d : Nat) (a : ChainArgs) : Pub where
  domain := d
  td := a.td
  len := a.len
  delay := a.delay
  publisher := a.publisher
  seeds := [(a.slot, a.start, a.count)]
  inForce := a.start
  ready := []
  latePosted := none
  banks := []
  carried := none
  starved := none

/-- The pebble area of chain n is zero (R182). -/
def State.zeroPebbles (s : State) (n : Nat) : State := { s with pebbles := s.pebbles.filter (fun e => e.1 / 256 != n) }

/-- The chain exists with its new seed: created, its pebble area zeroed, or renewed (R182, R206). -/
def State.createChain (s : State) (d : Nat) (a : ChainArgs) : State :=
  match (if a.renew then s.pub a.index else none) with
  | some v => s.setPub a.index { v with seeds := v.seeds ++ [(a.slot, a.start, a.count)] }
  | none => (s.zeroPebbles a.index).setPub a.index (newPub d a)

/-- The seed is derived from the domain key and the entropy word drawn (R177, Table 8.6). -/
def State.deriveSeed (s : State) (u : Nat) (cellBad : Bool) (d word : Nat) (a : ChainArgs) : Fetch × State :=
  s.deriveBy u cellBad a.slot (slotDomain d) (some d) "BWSEED"
    (natToBytes 2 a.index ++ natToBytes 4 a.publisher.toNat ++ natToBytes 2 a.count.toNat ++ keyBytes (Config.freeKey word))
    maskKdf 1 a.expire unlimited

/-- The command has drawn its word: the health-failure flag is looked at again (R255), and under a domain key that has ceased
to be live, or that refuses the fetch, the write is abandoned (R235; log 33). The core then fetches the seed for the
commitment of the statement (R203). -/
def chainCreateEnd (u : Nat) (cellBad : Bool) (word : Nat) (s : State) (c : Cmd) : Res :=
  let a := chainArgs c
  let d := c.domain
  if s.ent.fail then .fail rEntropy 4 []
  else if !(s.slot (slotDomain d)).live then .fail eState (slotDetail s a.slot) []
  else
    match s.deriveSeed u cellBad d word a with
    | (.ok _, s1) =>
      match s1.coreFetch u a.slot useKdf false with
      | (.ok seed, s2) =>
        let s3 := (s2.coreWorks u).createChain d a
        .done 0 (packWords 11 (anchorStatement s a seed.whole)) (s3.wakeAs s3)
      | (_, s2) => .refused eState (slotDetail s a.slot) s2
    | (_, s1) => .refused eState (slotDetail s a.slot) s1

def chainCreateRes (u : Nat) (cellBad : Bool) (s : State) (c : Cmd) : Res :=
  match begunWith c with
  | some w => chainCreateEnd u cellBad w s c
  | none =>
    let a := chainArgs c
    let d := c.domain
    let short := if a.renew then 0 else recomputationShort s a.td a.len
    checked [
      (fld (c.q 1) 17 11 != 0, eMalformed, 0),
      (!bit s.tcfg.enable a.td || decide (65536 ≤ a.slot) || a.publisher == 0 || a.publisher == BitVec.allOnes 32 ||
        decide (a.start < acceptInterval c a.td a.len + 2) || renewBad s a, eRange, 0),
      (otherChain s c false a.index || slotBlockDomain s a.slot != some d, eDomain, 0),
      noRegions s,
      ((!a.renew && (s.pub a.index).isSome) || !(s.slot a.slot).empty_, eState, slotDetail s a.slot),
      (!(s.slot (slotDomain d)).live, eSlot, 0),
      (short != 0, eAdmission, (AdmFail.mk 5 0 short).detail),
      (!entropyUsable s, rEntropy, entropyDetail s)]
      (.wait (.begun s.draws) (s.draw.post 488))

/-- CHAIN_CREATE (R177, R178, R203, R235, R255, R400), in two rows: the command is checked and draws its entropy word, then a
Keccak core derives the seed. -/
def execChainCreate (core : Fin 2) (cellBad : Bool) (s : State) : Out := execPyfer 0x30 (chainCreateRes (10 + core.val) cellBad) s

/-! ### CHAIN_VERIFIER and CHAIN_INSTALL -/

/-- The verified chain of q1. -/
def verArg (c : Cmd) : Nat := fld (c.q 1) 35 13

/-- A verified chain as it is created: empty (R191). -/
def newVer (c : Cmd) : Ver where
  domain := c.domain
  td := fld (c.q 1) 27 2
  len := fld (c.q 1) 31 4 + 1
  delay := fld (c.q 1) 29 2 + 1
  margin := fld (c.q 1) 11 10
  late := fld (c.q 1) 21 6 + 1
  v := 0
  publisher := 0
  count := 0
  key := []
  keyed := false
  inStart := 0
  inCount := 0
  inKey := []
  inValid := false
  anchorValid := false
  anchorSeg := 0
  anchor := []
  invalid := false
  installed := false
  flushed := []

def verifierRes (s : State) (c : Cmd) : Res :=
  let v := newVer c
  checked [
    (fld (c.q 1) 0 11 != 0, eMalformed, 0),
    (!bit s.tcfg.enable v.td || decide (1000 < v.margin), eRange, 0),
    (otherChain s c true (verArg c), eDomain, 0),
    noRegions s,
    ((s.ver (verArg c)).isSome, eState, noObject)]
    (let s1 := s.storeVer (verArg c) v
     .done 0 [] (s1.wakeAs s1))

/-- CHAIN_VERIFIER (R191, R192). -/
def execChainVerifier (s : State) : Out := execPyfer 0x31 verifierRes s

/-- The 64 bytes of the statement (R399). -/
def statementOf (c : Cmd) : List Byte := (unpackWords ((List.range 11).map (fun i => c.q (i + 2)))).take 64

def stStart (b : List Byte) : Nat := beAt 20 6 b
def stCount (b : List Byte) : BitVec 16 := BitVec.ofNat 16 (beAt 18 2 b)
def stPublisher (b : List Byte) : BitVec 32 := BitVec.ofNat 32 (beAt 4 4 b)

/-- The first cause of Table 13.18 that a statement gives for a chain. -/
def statementCause (s : State) (v : Ver) (b : List Byte) : Option Nat :=
  if beAt 0 1 b != 1 || beAt 1 1 b != 0 || beAt 26 6 b != 0 then some 1
  else if beAt 2 1 b != v.len || beAt 3 1 b != v.delay || (v.installed && stPublisher b != v.publisher) then some 2
  else if beAt 8 4 b != domFreq s v.td || beAt 12 6 b != s.tcfg.origin.toNat then some 3
  else if stStart b / 65536 < verInterval s v / 65536 then some 4
  else if (v.installed && !genLater (stCount b).toNat v.count.toNat) ||
      (v.inValid && !genLater (stCount b).toNat v.inCount.toNat) then some 5
  else none

/-- The chain with a statement installed (R205). -/
def installStatement (v : Ver) (b : List Byte) : Ver :=
  if v.installed then
    { v with inStart := stStart b, inCount := stCount b, inKey := slice 32 32 b, inValid := true }
  else
    { v with
      v := (stStart b + (2 ^ 48 - 1)) % 2 ^ 48, key := slice 32 32 b, publisher := stPublisher b, count := stCount b
      installed := true }

def chainInstallRes (s : State) (c : Cmd) : Res :=
  let n := verArg c
  let b := statementOf c
  checked [
    (fld (c.q 1) 0 35 != 0 || fld (c.q 12) 0 16 != 0, eMalformed, 0),
    (otherChain s c true n, eDomain, 0)]
    (match s.ver n with
     | none => .fail eState noObject []
     | some v =>
       match statementCause s v b with
       | some k => .fail eStatement (k * 2 ^ 24) []
       | none => .done 0 [] (s.storeVer n (installStatement v b)))

/-- CHAIN_INSTALL (R204, R205, R401). -/
def execChainInstall (s : State) : Out := execPyfer 0x32 chainInstallRes s

/-! ### CHAIN_DELETE and CHAIN_READ -/

/-- Kind and index of DELETE and READ. -/
def kindArg (c : Cmd) : Bool := bit (c.q 1) 47
def indexArg (c : Cmd) : Nat := fld (c.q 1) 34 13

/-- A stream of the publisher chain, live or freed, still owes a disclosure (R188, R402). -/
def disclosuresLeft (s : State) (n : Nat) : Bool :=
  match s.pub n with
  | none => false
  | some v => (s.streams.map (·.1) ++ s.bw.owed.map (·.1)).any (fun h => match owedOf s h with
      | some (a, c) => c.chain == n && a.sealedIn.any (fun x => decide (v.start ≤ x))
      | none => false)

def deleteRes (s : State) (c : Cmd) : Res :=
  let ver := kindArg c
  let n := indexArg c
  stagePlan s c (.chain ver n) .deleteChain noObject
    [(fld (c.q 1) 0 34 != 0, eMalformed, 0), (!ver && decide (1023 < n), eRange, 0)]
    [(otherChain s c ver n, eDomain, 0),
     ((chainDomain s ver n).isNone || deleteStaged s ver n || chainNamed s ver n || (!ver && disclosuresLeft s n), eState, noObject)]

/-- CHAIN_DELETE (R402). -/
def execChainDelete (s : State) : Out := execPyfer 0x33 deleteRes s

/-- a2 to a4 of CHAIN_READ (Table 13.17); in Dormant the copy that was flushed (R443). -/
def chainWords (s : State) (verified : Bool) (n : Nat) : Option (List Word) :=
  if verified then (s.ver n).map (fun v => if s.mode == .dormant then v.flushed else verWords v)
  else (s.pub n).map (fun v =>
    let count := ((v.seeds.find? (fun e => e.2.1 == v.inForce)).map (fun e => e.2.2.toNat)).getD 0
    [BitVec.ofNat 48 (pubInterval s v), at_ 16 v.publisher.toNat ||| at_ 0 count,
     at_ 47 (boolNat (v.seeds.any (fun e => decide (v.inForce < e.2.1))))])

def chainReadRes (s : State) (c : Cmd) : Res :=
  checked [
    (fld (c.q 1) 0 34 != 0, eMalformed, 0),
    (!kindArg c && decide (1023 < indexArg c), eRange, 0),
    (otherChain s c (kindArg c) (indexArg c), eDomain, 0)]
    (match chainWords s (kindArg c) (indexArg c) with
     | some ws => .done 0 ws s
     | none => .fail eState noObject [])

/-- CHAIN_READ (R399). -/
def execChainRead (s : State) : Out := execPyfer 0x34 chainReadRes s

/-! ### A missed boundary -/

/-- How each tick-stamped command is judged. -/
def stampedRes (op : Nat) : State → Cmd → Res :=
  match op with
  | 0x08 => modeRes
  | 0x0A => budgetRes
  | 0x10 => createRes
  | 0x11 => modifyRes
  | 0x12 => armRes 0 0 0
  | 0x13 => disarmRes
  | 0x14 => retireRes
  | 0x16 => snapshotRes
  | 0x17 => twinRes
  | 0x20 => installRes
  | 0x21 => rollRes
  | 0x2A => invalidateRes
  | 0x33 => deleteRes
  | 0x40 => gateOfflineRes
  | 0x42 => gateOnlineRes
  | 0x48 => portResetRes
  | 0x51 => imageActivateRes
  | _ => fun _ _ => .fail eOpcode 0 []

/-- STAGING_MISS (R23, R379): the command that Yarrow comes to has passed its checks, and the boundary that it names passed
after it was accepted. -/
def execStagingMiss (s : State) : Out :=
  match frontCmd s with
  | none => .next s
  | some c =>
    match judge s c (stampedRes c.opcode) with
    | .miss t d true => .next (s.finish c (.miss t d true))
    | _ => .next s

end Sys2Proof.Machine
end

