-- ==== Sys2Proof/Machine/Modes.lean ====
section
/-!
DEFINITION. Start-up, resets and modes (14_modes_and_startup.md, 15_power_and_clocks.md): Assay and its waits, cold and
engine reset, the retention restart, tamper, and the power-down and exit of Dormant.
-/

namespace Sys2Proof.Machine

/-! ### Assay (Table 14.5) -/

def State.setStep (s : State) (n : Nat) : State := { s with assay := { s.assay with step := n } }

/-- The store's answer to the counter advance is a new epoch (R418). -/
def counterGood (s : State) (ok : Bool) (value : Word) : Bool := ok && decide (s.nv.counter.toNat < value.toNat)

/-- Gate g takes the rules of an image and is online. -/
def State.loadGate (img : ImgCfg) (s : State) (g : Nat) : State :=
  (s.setGate g { s.gate g with rules := ruleTable (img.gates.getD g []), online := true }).post (377 + 2 * g)

/-- Step 10: the configuration of an image, or none, is loaded. -/
def State.loadImage (s : State) (img : ImgCfg) : State :=
  let on := s.active.isSome
  let s1 : State := { s.resetMemPlane with
    img := img
    tcfg := if on then img.ticks else .default
    mem := { s.resetMemPlane.mem with ids := img.memIds, regions := img.regions }
    assay := { s.assay with loading := false } }
  if on then (List.range 17).foldl (State.loadGate img) s1 else s1

/-- Step 11: the ticks start (R50, R53), and the mode of Table 14.2 is entered. -/
def State.finishAssay (s : State) : State :=
  let m := if s.active.isSome && s.img.startMode == 2 && lifecycleServes s then Mode.service else .commission
  let s1 := if s.ticks.valid || s.ticks.hold then s.align
    else { s with ticks := { s.ticks with running := true, keeper := -(s.now : Int) } }
  let s2 : State := { s1 with
    ticks := { s1.ticks with lastAt := s1.now }
    mode := m, assay := { s1.assay with step := 15 }, eReady := true, classifying := true
    power := { s1.power with pd1 := true, pd1Since := s1.now, clkReq := true } }
  (s2.txRise.post 498).updateRest

/-- A tamper input rises during step 8, which is a key operation: the derivation stops, its target is left Empty, and
Lockdown follows (R257, Table 14.13). -/
def State.assayTamper (s : State) (k : Fin 4) : State :=
  (((({ s with
    tamperLatch := s.tamperLatch ||| BitVec.ofNat 4 (2 ^ k.val)
    tamperLevel := s.tamperLevel ||| BitVec.ofNat 4 (2 ^ k.val) }).setStep 8).post (492 + k.val)).post 468).lockdown (1 + k.val)

/-- Steps 8 to 11: ladder, BMR, configuration, mode. -/
def State.assayLadder (s : State) : State :=
  let img := match s.active with
    | some a => (match verifyImage s.fuses (s.nv.slotOf a.slotB).bytes with
      | .good i => i
      | .bad _ _ => ImgCfg.none)
    | none => ImgCfg.none
  let s1 := ((({ s with img := img }).setStep 8).formLadder img.memIds).requestReseed true
  let s2 := match s1.active with
    | some a => { s1 with bmr := Config.bmrExtend s1.bmr a.digest, out := { s1.out with extend := some a.digest } }
    | none => s1
  (s2.loadImage img).finishAssay

/-- Step 7: the epoch, or the failure that is tried again (R418); then step 8, in which a tamper input may rise. -/
def State.assayCounter (s : State) (ok : Bool) (value : Word) (tamper : Option (Fin 4)) : State :=
  if counterGood s ok value then
    let s1 : State := { s with
      nv := { s.nv with counter := value }, ladder := { s.ladder with epoch := value }
      assay := { s.assay with retry := false } }
    match tamper with
    | some k => s1.assayTamper k
    | none => s1.assayLadder
  else ({ s with assay := { s.assay with step := 7, retry := true, retryFrom := s.now } }).post 498

/-- The owner key digest by which an image is judged: none exists in lifecycle Blank (Table 14.4, R423). -/
def assayFuses (f : Fuses) : Fuses := if f.lifecycle = 0 then { f with ownerDigest := 0 } else f

/-- The slot becomes the active one; its configuration is loaded at step 10. -/
def State.choose (s : State) (slotB : Bool) : State :=
  let b := (s.nv.slotOf slotB).bytes
  { s with active := some ⟨slotB, imgDigest b, imgVersion b⟩, assay := { s.assay with loading := true } }

/-- Step 6: the slot that the marker names, or the other (R423). -/
def State.assayImage (s : State) : State :=
  let first := s.nv.marker.getD false
  match verifyImage (assayFuses s.fuses) (s.nv.slotOf first).bytes with
  | .good _ => s.choose first
  | .bad c _ =>
    let s1 := ({ s with assay := { s.assay with fallback := true, cause1 := BitVec.ofNat 8 c } }).post 498
    match verifyImage (assayFuses s.fuses) (s.nv.slotOf (!first)).bytes with
    | .good _ => s1.choose (!first)
    | .bad c2 _ => { s1 with assay := { s1.assay with cause2 := BitVec.ofNat 8 c2 } }

/-- A lifecycle that is Decommissioned or treated so (Table 14.4). -/
def decommissioned (s : State) : Bool := decide (3 ≤ s.fuses.lifecycle.toNat)

/-- Step 5: scramble key, local generators, reseed request. -/
def State.assaySeed (s : State) : State :=
  let s1 : State := { s.draw with keyCtl := { s.keyCtl with scramble := s.drawn, seeded := true, maskPos := 0 } }
  ((s1.post 488).reseedGenerators).requestReseed false

/-- Steps 5 and 6; where the lifecycle ends Assay there, Lockdown (Table 14.4). -/
def State.assayChoose (s : State) : State :=
  let s1 := (s.setStep 5).assaySeed
  if decommissioned s1 then ({ s1 with fuses := { s1.fuses with root := 0 } }).lockdown 9
  else s1.assayImage.setStep 7

/-- Steps 4 to 8, with the store's answer and the tamper input of step 8. -/
def State.assayEntropy (s : State) (ok : Bool) (value : Word) (tamper : Option (Fin 4)) : State :=
  if !entropyUsable s then s.setStep 4
  else
    let s1 := s.assayChoose
    if s1.mode == .lockdown then s1 else s1.assayCounter ok value tamper

/-- A health failure during step 5: the flag rises, and Assay is back at step 4 (R38, R254). -/
def State.assayHealth (s : State) : State :=
  if !entropyUsable s then s.setStep 4
  else (({ s with ent := { s.ent with fail := true, failAt := s.now, buffered := 0 } }).setLevel 487 true).setStep 4

/-- ASSAY (R416): from the release of a reset, the steps in order until one has to wait. -/
def execAssay (i : AssayIn) (t : Nat) (s : State) : Out :=
  let s1 := s.atTime t
  if s1.mode != .assay || s1.assay.step != 0 then .next s1
  else
    let s2 := ({ s1 with tamperLevel := i.tamper, power := { s1.power with clkReq := true } }).setStep 1
    match (List.range 4).find? (fun k => bit i.tamper k) with
    | some k => .next (s2.lockdown (1 + k))
    | none =>
      let s3 := ({ s2 with fuses := ⟨i.root, i.lifecycle, i.ownerDigest, i.rollbackFloor, i.entropyWait, i.debugLock⟩ }).setStep 3
      if !i.katPass then .next (s3.lockdown 6)
      else
        let s4 : State := { s3 with assay := { s3.assay with waitFrom := s3.now } }
        .next (if i.healthFails then s4.assayHealth else s4.assayEntropy i.counterOk i.counterValue i.tamper8)

/-- ENTROPY_READY (R38, R416): the port's ready flag is high. Where the port is usable Assay goes on from step 4, with the
store's answer to step 7, and local generators that wait are reseeded (R430). -/
def execEntropyReady (t : Nat) (counterOk : Bool) (counterValue : Word) (s : State) : Out :=
  let s1 := (({ s.atTime t with ent := { s.ent with ready := true } }).setLevel 486 true)
  if s1.ent.fail then .next s1
  else if s1.mode == .assay && s1.assay.step == 4 then .next (s1.assayEntropy counterOk counterValue none)
  else if s1.ent.reseedWait then .next (({ s1 with ent := { s1.ent with reseedWait := false } }).reseedGenerators)
  else .next s1

/-- ENTROPY_RECOVERED (R256): the flag falls with ready high; the reseed of R253, the first word discarded, each local
generator reseeded, the degraded flag cleared. Where Assay waits for entropy it goes on from step 5, as far as step 7,
whose answer COUNTER_ADVANCE_RETRY brings (R417). -/
def execEntropyRecovered (s : State) : Out :=
  if s.ent.fail && s.ent.ready then
    let s1 := ({ s with ent := { s.ent with fail := false, failAt := 0, degraded := false } }).setLevel 487 false
    let s2 := (s1.requestReseed s1.ladder.formed)
    let s3 := { s2.draw with ent := { s2.ent with reseedWait := false } }
    let s4 := if s3.keyCtl.seeded then s3.reseedGenerators else s3
    let s5 := (s4.post 488).post 467
    .next (if s5.mode == .assay && s5.assay.step == 4 then s5.assayChoose else s5)
  else .next s

/-- The entropy wait limit in nanoseconds (Table 14.3). -/
def waitLimit (f : Fuses) : Nat := if f.entropyWait = 0 then 500000000 else 200000000 * f.entropyWait.toNat

/-- ENTROPY_WAIT_TIMEOUT (R417). -/
def execEntropyWaitTimeout (t : Nat) (s : State) : Out :=
  let s1 := s.atTime t
  let a := s1.assay
  if s1.mode == .assay && a.step == 4 && !a.timeout && decide (a.waitFrom + waitLimit s1.fuses ≤ s1.now) then
    .next (({ s1 with assay := { a with timeout := true } }).post 498)
  else .next s1

/-- COUNTER_ADVANCE_RETRY (R418): every 10 ms after a failure, and the first advance where no other row brought its
answer. -/
def execCounterAdvanceRetry (t : Nat) (ok : Bool) (value : Word) (s : State) : Out :=
  let s1 := s.atTime t
  if s1.mode == .assay && s1.assay.step == 7 && (!s1.assay.retry || decide (s1.assay.retryFrom + 10000000 ≤ s1.now)) then
    .next (s1.assayCounter ok value none)
  else .next s1

/-! ### Cold and engine reset (Table 14.12) -/

/-- The state after release: what lies outside the block stays (its clock, the store, memories and the commands that
wait), and an engine reset keeps the tamper latch. Every register has its Reset value (R11): the tamper levels are read
anew by Assay step 1, and the flags of the entropy port and of the time bus by the rows that bring them (log 35). -/
def State.hardReset (s : State) (cold : Bool) : State :=
  let r : State := { State.reset with
    pending := s.pending
    now := s.now
    draws := s.draws
    nv := s.nv
    hostMem := s.hostMem
    dram := s.dram
    power := { Power.reset with clkReq := !cold }
    tamperLatch := if cold then 0 else s.tamperLatch }
  r

/-- COLD_RESET (R428, R496). -/
def execColdReset (t : Nat) (s : State) : Out := .next ((s.atTime t).hardReset true)

/-- ENGINE_RESET (R428, R496). -/
def execEngineReset (t : Nat) (s : State) : Out := .next ((s.atTime t).hardReset false)

/-! ### Retention restart (R430) -/

/-- Staged changes, queued commands, and the grants and entries that went with them (R382). -/
def State.dropStaged (s : State) : State :=
  let s1 := s.discardCommands
  let s2 : State := { s1 with grace := s1.grace.filter (fun e => e.previous ||
    ((s1.stream e.handle).nxt.valid && (s1.stream e.handle).nxt.num == e.gen && (s1.aux_ e.handle).follow)) }
  (s.adm.map (·.1) ++ s.streams.map (·.1)).foldl State.recharge s2

/-- The work of a retention restart that is held (R430): the links go down, outputs are written, Teasel is flushed, and
commands and staged changes are discarded (R371, R382). -/
def State.ackRestart (s : State) (r : Retention) : State :=
  let s1 := State.settle { s with retention := none }
  if s1.mode == .lockdown then s1 else { s1.dropStaged with retention := some { r with ack := true } }

/-- A retention restart that is held has done its work. -/
def State.holdRestart (s : State) (r : Retention) : State :=
  if !r.ack && restartHeld s then s.ackRestart r else s

/-- RETENTION_RESTART_REQUEST: outside Assay and Lockdown (R428). What is under way is finished first; RET_ACK is high from
then on (log 21). -/
def execRetentionRestartRequest (t : Nat) (s : State) : Out :=
  let s1 := s.atTime t
  match s1.retention with
  | some r => .next (s1.holdRestart r)
  | none =>
    if s1.mode == .assay || s1.mode == .lockdown then .next s1
    else
      let r : Retention := ⟨s1.mode, false⟩
      .next (({ s1.quiesce with retention := some r }).holdRestart r)

/-- Expire-at-reset slots are scrubbed, and publisher chains whose seed in force was one are lost (R207, R235). -/
def State.scrubExpired (s : State) : State :=
  let gone := (s.slots.filter (fun e => e.2.expire && !e.2.empty_)).map (·.1)
  let s1 := gone.foldl State.scrub s
  let live := s1.pubs.filter (fun e => !e.2.seeds.any (fun x => x.2.1 == e.2.inForce && gone.contains x.1))
  { s1 with pubs := live.map (fun e => (e.1, { e.2 with seeds := e.2.seeds.filter (fun x => !gone.contains x.1) })) }

/-- After Dormant or a retention restart the banks of every publisher chain are to be rebuilt from its seed; chains whose
regions have not been retained are lost (R207). -/
def State.surviveChains (s : State) : State :=
  if bit s.mem.poisonSpaces s.img.bwId then
    { s with pubs := [], vers := [], bw := { s.bw with resolve := [], walks := [] } }
  else { s with pubs := s.pubs.map (fun e => (e.1, { e.2 with banks := e.2.banks.map (fun b => { b with faulty := true }) })) }

/-- The registers that do not keep their value take their reset value (R429, R480, R315). -/
def State.resetRegisters (s : State) : State :=
  { s with
    eye := .reset
    ovr := { s.ovr with cntE := 0, cntI := 0, cntK := 0 }
    ports := (s.ports.map (fun e => (e.1, { e.2 with
      up := false, conds := [], inReset := false, resetAt := 0, ctr := [], seen := [] }))).filter
        (fun e => decide (e.2 ≠ PortState.zero))
    pairs := (s.pairs.map (fun e => (e.1, { e.2 with ctr := [] }))).filter (fun e => decide (e.2 ≠ PairState.zero))
    noticeLog := ⟨[], 0, false⟩
    gates := (s.gates.map (fun e => (e.1, { e.2 with
      log := [], newest := 0, present := false, lost := 0, doorbellErr := 0, offerRefused := 0 }))).filter
        (fun e => decide (e.2 ≠ Gate.zero))
    mail := (s.mail.map (fun e => (e.1, { e.2 with
      lastError := 0, acceptedSeq := 0, reqHdr := 0, req := [], reqBusy := false }))).filter
      (fun e => decide (e.2 ≠ Mailbox.zero))
    mem := { s.mem with log := [], newest := 0, present := false, lost := 0, unread := 0, frozen := false }
    bus := ⟨0, false⟩ }

/-- Caches and buffers of PD19 come back empty (R452), and the slices without the key parts they held (R440). -/
def State.emptyCaches (s : State) : State :=
  { (s.dropKeys (fun _ => true)) with mem := { (s.dropKeys (fun _ => true)).mem with ccache := [], tcache := [], wmb := [] } }

/-- The units run again after Dormant or a retention restart. -/
def State.resume (s : State) : State :=
  ({ s with
    eReady := true, classifying := true
    power := { s.power with
      rest := [], pd1 := true, pd1Since := s.now, clkReq := true
      dormantReached := false, exiting := false, entering := false } }).txRise

/-- The power registers after a retention restart (R480, R443): PD1 awake and CLK_REQ high, and in Dormant the domains go
down once more. -/
def State.restartPower (s : State) : State :=
  { s with power := { s.power with level := 0, pd1 := true, pd1Since := s.now, clkReq := true, dormantReached := false } }

/-- RETENTION_RESTART_RELEASE (R428 to R430, R291): known-answer tests, expired slots, the clean flag, and back to the mode
held at the request. -/
def execRetentionRestartRelease (katPass : Bool) (s : State) : Out :=
  match s.retention with
  | none => .next s
  | some r =>
    if !restartHeld s then .next s
    else
      let s0 := s.holdRestart r
      let s1 := ((s0.resetRegisters.restartPower.emptyCaches).setLevel 486 s.ent.ready).setLevel 487 s.ent.fail
      let s2 : State := { s1.setLevel 496 s.ticks.valid with retention := none }
      if s0.mode == .lockdown then .next s0
      else if !katPass then .next (s2.lockdown 6)
      else
        let s3 := s2.scrubExpired
        let s4 := (if s3.mem.clean then s3 else s3.poisonAllSpaces).surviveChains
        let s5 := if entropyUsable s4 then s4.reseedGenerators
          else { s4 with ent := { s4.ent with reseedWait := true } }
        .next (if r.former == .dormant then s5 else s5.resume.updateRest)

/-! ### Tamper (R257, R431) -/

/-- A key operation is in progress (R257): an import, a derivation or binding that has begun, or, as the row tells, one that
this model makes in one step: a derivation of Yarrow's own, an invalidation, a scrub, a masking refresh (log 36). None is
before the key store's machinery works. -/
def keyOperation (s : State) (now : Bool) : Bool := (now && s.keyCtl.seeded) || !s.imports.isEmpty || keyBegun s

/-- The keyed-digest slots that imports had begun to fill are cleared (R257 step 2). -/
def State.clearBegun (s : State) : State := (s.imports.filterMap (·.digestRef)).foldl State.clearDigest s

/-- TAMPER_INPUT: latch and event in every phase, then Lockdown, unless a reset is held, at whose release Assay step 1
reads the level (Table 14.13). `keyOp` says that the key store was in the middle of an operation. -/
def execTamperInput (k : Fin 4) (keyOp : Bool) (s : State) : Out :=
  let s1 := ({ s with
    tamperLatch := s.tamperLatch ||| BitVec.ofNat 4 (2 ^ k.val)
    tamperLevel := s.tamperLevel ||| BitVec.ofNat 4 (2 ^ k.val) }).post (492 + k.val)
  if s1.mode == .lockdown || (s1.mode == .assay && s1.assay.step == 0) then .next s1
  else .next ((s1.clearBegun.postIf (keyOperation s1 keyOp) 468).lockdown (1 + k.val))

/-! ### Dormant (R437, R443, R452, R453) -/

/-- DORMANT_POWER_DOWN: once no frame is under way and no access to memory waits, the links go down, outputs are written,
Teasel is flushed, and the domains go down in order; PD1 stays for requests and commands that wait, and for the exit. -/
def execDormantPowerDown (s : State) : Out :=
  if s.mode != .dormant || s.power.dormantReached || s.retention.isSome || !framesEnded s ||
      !s.mem.waits.isEmpty || !s.mem.held.isEmpty then .next s
  else
    let s1 := s.settle
    if s1.mode == .lockdown then .next s1
    else
      let s2 := s1.emptyCaches
      let busy := !s2.cmds.isEmpty || (nextAccept s2).isSome || s2.power.exiting
      .next (({ s2 with power := { s2.power with
        dormantReached := true, entering := false, pd1 := busy, clkReq := busy } }).post 499)

/-- DORMANT_EXIT: the sequence of Table 15.6, from the boundary of the MODE_REQUEST that ended Dormant. -/
def execDormantExit (katPass : Bool) (s : State) : Out :=
  if !s.cipherStopped || !s.power.exiting || s.retention.isSome then .next s
  else if !katPass then .next (s.lockdown 6)
  else .next ((((({ s with mode := .service }).surviveChains).resume).post 498).post 499)

end Sys2Proof.Machine
end

