-- ==== Sys2Proof/Machine/Registers.lean ====
section
/-!
DEFINITION. The register window (17_register_map.md): what every register reads as, what a write to every register does,
and the reads and writes that clear.
-/

namespace Sys2Proof.Machine

/-! ### Identification (Table 17.2) -/

/-- Yarrow has started: before Assay step 1 ends (R481). -/
def yarrowStarted (s : State) : Bool := s.mode != .assay || decide (2 ≤ s.assay.step)

def idRead (s : State) (o : Nat) : Word :=
  if o = 0 then 0x515545435934
  else if o = 8 then at_ 40 0xB1 ||| (if yarrowStarted s then at_ 24 0x0401 ||| at_ 8 0x0004 else 0)
  else if o = 0x10 then
    (List.range 16).foldl (fun w p => if portExists s.img p then w ||| at_ (32 + p) 1 else w) 0 |||
      (List.range 4).foldl (fun w q => w ||| at_ (16 + 4 * q) (s.img.quads.getD q 0)) 0
  else 0

/-! ### Doorbells (Table 17.3) -/

def doorbellRead (s : State) (h : Nat) : Word := at_ 40 (ringState s h) ||| at_ 0 (s.ring h).head

/-- A write of a doorbell container: POST, RELEASE, or ignored (R332). -/
def State.doorbellWrite (s : State) (h : Nat) (w : Word) : State :=
  if fld w 40 8 = 1 then s.doorbellPost h (fld w 32 8) (fld w 0 32)
  else if fld w 40 8 = 2 then s.doorbellRelease h (fld w 32 8) (fld w 0 32)
  else s.doorbellError h

/-! ### Gate fault logs (Tables 12.5 and 17.5) -/

def glogRead (s : State) (g o : Nat) : Word :=
  let x := s.gate g
  if o < 0x200 then (Table.get [] (o / 32) x.log).getD (o % 32 / 8) 0
  else if o = 0x200 then
    at_ 47 (boolNat (x.online && !gateBoot s)) ||| at_ 46 (boolNat (gateBoot s)) ||| at_ 40 (validRules x.rules) |||
      at_ 4 (boolNat x.present) ||| at_ 0 x.newest
  else if o = 0x208 then x.lost
  else if o = 0x218 then x.doorbellErr
  else if o = 0x220 then x.offerRefused
  else 0

/-- The clear of a gate's log: an entry written or merged in the same cycle survives as entry 0 (R484). -/
def Gate.clearLog (x : Gate) (same : Bool) : Gate :=
  if same && x.present then { x with log := Table.put [] 0 (Table.get [] x.newest x.log) [], newest := 0 }
  else { x with log := [], newest := 0, present := false }

/-- A write of GLOG_CLEAR of gate g. -/
def State.glogClearWrite (s : State) (g : Nat) (w : Word) (same : Bool) : State :=
  if bit w 0 then s.setGate g ((s.gate g).clearLog same) else s

def offGlogClear (g : Nat) : Nat := 0x60210 + 0x1000 * g

/-- GLOG_CLEAR (R483, R484). -/
def execGlogClear (cls : Cls) (g : Fin 17) (v : Container) (same : Bool) (s : State) : Out :=
  .next (s.regWrite cls (offGlogClear g.val) (fun x => x.glogClearWrite g.val (toWord v) same))

/-! ### Engine status (Table 17.6) -/

def assayWord (s : State) : Word :=
  let a := s.assay
  at_ 44 a.step ||| at_ 43 (boolNat a.timeout) ||| at_ 42 (boolNat a.retry) ||| at_ 41 (boolNat a.fallback) |||
    at_ 24 a.cause1.toNat ||| at_ 16 a.cause2.toNat |||
    at_ 8 (match s.active with
      | some x => boolNat x.slotB
      | none => 0xFF)

def tickStatusWord (s : State) : Word :=
  at_ 40 s.ticks.quality ||| at_ 38 (planDom s) ||| at_ 34 s.tcfg.enable.toNat ||| at_ 33 (boolNat s.ticks.valid) |||
    at_ 32 (boolNat s.ticks.hold)

/-- SPW_STATUS. R217 has Eyebright count the grace table's occupancy and Table 16.9 has no code for it: DESIGN CHOICE, log
47: it shows as the free entries of this register and of STATUS. -/
def spwWord (s : State) : Word :=
  at_ 47 (boolNat s.ovr.overload) ||| at_ 32 (min 0xFF s.ovr.run) ||| at_ 16 (freeStaged s) ||| at_ 0 (Machine.freeGrace s)

def engineRead (s : State) (o : Nat) : Word :=
  if o = 0 then
    at_ 40 (modeCode (reportedMode s)) ||| at_ 32 s.cause.toNat ||| at_ 31 (boolNat (alive s)) ||| at_ 30 (boolNat s.fatal) |||
      at_ 16 (entropyState s)
  else if o = 8 then at_ 4 s.tamperLevel.toNat ||| at_ 0 s.tamperLatch.toNat
  else if o = 0x10 then assayWord s
  else if o = 0x18 then tickStatusWord s
  else if o = 0x20 then BitVec.ofNat 48 s.plan
  else if 0x28 ≤ o ∧ o < 0x48 then
    if bit s.tcfg.enable ((o - 0x28) / 8) then BitVec.ofNat 48 (tickNow s ((o - 0x28) / 8)) else 0
  else if o = 0x48 then spwWord s
  else if o = 0x50 then s.ovr.cntE
  else if o = 0x58 then s.ovr.cntI
  else if o = 0x60 then s.ovr.cntK
  else 0

/-! ### Events and interrupts (Tables 16.4 and 16.5) -/

def evRead (s : State) (o : Nat) : Word :=
  let e := s.eye
  if o < 0x58 then statusWord e.status (o / 8)
  else if 0x60 ≤ o ∧ o < 0xB8 then statusWord e.level ((o - 0x60) / 8)
  else if 0xC0 ≤ o ∧ o < 0x118 then statusWord e.enable ((o - 0xC0) / 8)
  else if 0x120 ≤ o ∧ o < 0x178 then statusWord e.log ((o - 0x120) / 8)
  else if 0x200 ≤ o ∧ o < 0x3F8 then Table.get 0 ((o - 0x200) / 8) e.routes
  else if o = 0x400 then e.pendingMask.setWidth 48
  else if o = 0x408 then e.armed.setWidth 48
  else if o = 0x410 then e.ringLatch.setWidth 48
  else if o = 0x418 then e.auto.setWidth 48
  else 0

/-- 48 of the 528 source bits replaced. -/
def putSources (v : BitVec 528) (k : Nat) (w : Word) : BitVec 528 := setFld v (48 * k) 48 w.toNat

/-- The bits of EV_ROUTE_k that are stored: bit 6j + 5 is Reserved. -/
def routeMask : Word := (List.range 8).foldl (fun m j => m ||| at_ (6 * j) 0x1F) 0

/-- A write of INT_MODE: a message that goes from EOI to auto mode disarmed is armed (Table 16.6), and one that was due
to be sent stays due (R458). -/
def Eye.setAuto (e : Eye) (m : BitVec 32) : Eye :=
  let turned := m &&& ~~~e.auto
  { e with auto := m, armed := e.armed ||| turned, want := e.want ||| (turned &&& e.pendingMask &&& e.armed) }

def State.evWrite (s : State) (o : Nat) (w : Word) : State :=
  if o < 0x58 then s.clearStatus (o / 8) w []
  else if 0xC0 ≤ o ∧ o < 0x118 then s.onEye (fun e => { e with enable := putSources e.enable ((o - 0xC0) / 8) w })
  else if 0x120 ≤ o ∧ o < 0x178 then s.onEye (fun e => { e with log := putSources e.log ((o - 0x120) / 8) w })
  else if 0x200 ≤ o ∧ o < 0x3F8 then
    s.onEye (fun e => { e with routes := Table.put 0 ((o - 0x200) / 8) (w &&& routeMask) e.routes })
  else if o = 0x418 then s.onEye (fun e => e.setAuto (w.setWidth 32))
  else if o = 0x420 then s.writeEoi w
  else s

/-! ### Counters and the slot ledger (R461, Table 16.8, R467) -/

/-- CTR_SEL_n as it reads: Invalid by R462, Reserved zero. -/
def selRead (n : Nat) (w : Word) : Word := setFld (setFld w 12 11 0) 23 1 (boolNat (selInvalid n w))

/-- A write of CTR_SEL_n: Invalid is not stored; a Reserved field that is not zero makes the select invalid (R462). A level
counts under the old select up to here, and under the new one from here on (R466). -/
def State.selWrite (s : State) (n : Nat) (w : Word) : State :=
  (s.settleLevel n).onEye (fun e => { e with
    sel := Table.put 0 n (setFld w 23 1 0) e.sel, since := Table.put 0 n (s.now + 1) e.since })

def ctrPageRead (s : State) (o : Nat) : Word :=
  if o < 0x200 then Table.get 0 (o / 8) s.eye.ctr
  else if o < 0x400 then selRead ((o - 0x200) / 8) (Table.get 0 ((o - 0x200) / 8) s.eye.sel)
  else if o < 0x700 then Table.get 0 ((o - 0x400) / 8) s.eye.ledger
  else 0

def State.ctrPageWrite (s : State) (o : Nat) (w : Word) : State :=
  if o < 0x200 then s.writeCounter (o / 8) w 0
  else if o < 0x400 then s.selWrite ((o - 0x200) / 8) w
  else s

/-! ### Eyebright's rings (Table 16.12) -/

def eyeRingOfIndex : Nat → EyeRing
  | 0 => .snap
  | 1 => .trace
  | _ => .evlog

def eyeRingPageRead (s : State) (o : Nat) : Word :=
  let q := s.eye.ringOf (eyeRingOfIndex (o / 0x40))
  if o = 0x68 then s.eye.seed.setWidth 48
  else if 0xC0 ≤ o then 0
  else if o % 0x40 = 0 then q.base
  else if o % 0x40 = 8 then q.ctrl
  else if o % 0x40 = 0x10 then q.head.setWidth 48
  else if o % 0x40 = 0x18 then q.release.setWidth 48
  else if o % 0x40 = 0x20 then q.lost
  else 0

/-- The base of a ring: bits [10:0] are zero. -/
def State.writeEyeBase (s : State) (r : EyeRing) (w : Word) : State :=
  { s with eye := s.eye.setRing r { s.eye.ringOf r with base := w &&& 0xFFFFFFFFF800 } }

/-- TRACE_SEED: a write of zero loads 1. -/
def State.writeSeed (s : State) (w : Word) : State :=
  { s with eye := { s.eye with seed := if fld w 0 32 = 0 then 1 else w.setWidth 32 } }

def State.eyeRingPageWrite (s : State) (o : Nat) (w : Word) : State :=
  let r := eyeRingOfIndex (o / 0x40)
  if o = 0x68 then s.writeSeed w
  else if 0xC0 ≤ o then s
  else if o % 0x40 = 0 then s.writeEyeBase r w
  else if o % 0x40 = 8 then s.writeEyeCtrl r w
  else if o % 0x40 = 0x18 then s.writeEyeRelease r w
  else s

/-! ### Power and latency (Table 17.7) -/

/-- Yarrow is idle: it has had no work for 204.8 ns, and is gated at rest levels 1 and 2 (Table 15.1, R444). -/
def yarrowIdle (s : State) : Bool :=
  s.cmds.isEmpty && s.imports.isEmpty && (nextAccept s).isNone && decide (2048 ≤ 10 * (s.now - s.power.pd1Since))

/-- How deep a block of units rests: as deep as the unit that rests least. -/
def restDepth (s : State) (units : List Nat) : Nat := units.foldl (fun m u => min m (Table.get 0 u s.power.rest)) 2

/-- State of a power domain: 0 off, 1 gated, 2 on, 3 retention (Tables 15.1 and 17.7, R439). -/
def domainState (s : State) (k : Nat) : Nat :=
  let down := s.cipherStopped
  let locked := s.mode == .lockdown
  let block (units : List Nat) : Nat := if down || locked then 0 else 2 - restDepth s units
  if k = 0 then 2
  else if k = 1 then
    if locked then 2 else if down then (if s.power.pd1 then 2 else 0)
    else if 1 ≤ s.power.level && yarrowIdle s then 1 else 2
  else if k ≤ 3 then (if down then 3 else 2)
  else if k ≤ 7 then
    if down || locked || s.img.quads.getD (k - 4) 0 == 0 || (s.mode == .assay && decide (s.assay.step < 10)) then 0 else 2
  else if k ≤ 17 then block [k - 8]
  else if k = 18 then (if locked then 2 else block [10, 11])
  else (if down then 1 else 2)

def pwrWord (s : State) : Word :=
  at_ 46 s.power.level ||| at_ 45 (boolNat (sealHeld s)) ||| at_ 44 (boolNat (openHeld s)) |||
    at_ 43 (boolNat (keccakHeld s)) ||| at_ 42 (boolNat s.power.dormantReached) ||| at_ 41 (boolNat s.power.exiting) |||
    (List.range 20).foldl (fun w k => w ||| at_ (2 * k) (domainState s k)) 0

def powerRead (s : State) (o : Nat) : Word :=
  if o = 0 then pwrWord s
  else if o = 8 then BitVec.ofNat 48 (smallestBudget s)
  else if o = 0x10 then s.power.engineBudget.setWidth 48
  else if 0x40 ≤ o ∧ o < 0xC0 then (Table.get 0xFFFFFFFF ((o - 0x40) / 8) s.power.domainBudget).setWidth 48
  else 0

/-! ### Ports (Tables 10.4, 10.5 and 17.8) -/

def portStatusWord (s : State) (p : Nat) : Word :=
  if !portExists s.img p then 0
  else
    let x := s.port p
    let has (c : LinkCond) : Nat := boolNat (x.conds.contains c)
    at_ 47 1 ||| at_ 46 (boolNat (portEnabled s.img p)) ||| at_ 45 (boolNat x.up) ||| at_ 44 (has .localFault) |||
      at_ 43 (has .remoteFault) ||| at_ 42 (has .highBer) ||| at_ 41 (boolNat (txEnable s p)) |||
      at_ 40 (boolNat x.inReset) ||| at_ 31 (portFec s.img p) |||
      (match pairOf s.img p with
        | some (a, b, m) => at_ 38 m ||| at_ 37 (boolNat (p == a)) ||| at_ 33 (if p = a then b else a)
        | none => 0)

def portPageRead (s : State) (o : Nat) : Word :=
  let p := o / 0x200
  let i := o % 0x200 / 8
  if i < 46 then (if portExists s.img p then Table.get 0 i (s.port p).ctr else 0)
  else if 48 ≤ i ∧ i < 54 then
    (if (pairOf s.img p).any (fun q => q.1 == p) then Table.get 0 (i - 48) (s.pair p).ctr else 0)
  else if i = 56 then portStatusWord s p
  else 0

/-! ### Received-notice log (Table 17.9) -/

def nlogRead (s : State) (o : Nat) : Word :=
  if o < 0x800 then (Table.get [] (o / 128) s.noticeLog.entries).getD (o % 128 / 8) 0
  else if o = 0x800 then at_ 4 (boolNat s.noticeLog.present) ||| at_ 0 s.noticeLog.newest
  else 0

/-! ### Memory fault log and memory tables (Table 17.10) -/

def mflogRead (s : State) (o : Nat) : Word :=
  if o < 0x400 then (Table.get [] (o / 32) s.mem.log).getD (o % 32 / 8) 0
  else if o = 0x400 then
    at_ 47 (boolNat s.mem.frozen) ||| at_ 5 (boolNat s.mem.present) ||| at_ 0 s.mem.newest
  else if o = 0x408 then s.mem.lost
  else 0

def memTableRead (s : State) (o : Nat) : Word :=
  if 8 ≤ o ∧ o < 0x80 then s.mem.ids.getD (o / 8 - 1) 0
  else if 0x100 ≤ o ∧ o < 0x300 then
    let r := s.mem.regions.getD ((o - 0x100) / 16) (0, 0)
    if o % 16 = 0 then r.1 else r.2
  else if o = 0x300 then at_ 41 s.mem.poisonNodes.length ||| at_ 1 (fld s.mem.poisonSpaces 1 15)
  else 0

/-! ### The window (Tables 17.1 and 17.4) -/

/-- What the register at an offset reads as; a reserved page and an unnamed offset read zero (R476). -/
def regValue (s : State) (off : Nat) : Word :=
  let page := off / 4096
  let o := off % 4096
  if page = 0 then idRead s o
  else if page ≤ 0x12 then mbRead s (page - 1) o
  else if page < 0x20 then 0
  else if page < 0x60 then doorbellRead s (512 * (page - 0x20) + o / 8)
  else if page ≤ 0x70 then glogRead s (page - 0x60) o
  else if page = 0x80 then engineRead s o
  else if page = 0x81 then evRead s o
  else if page = 0x82 then ctrPageRead s o
  else if page = 0x83 then eyeRingPageRead s o
  else if page = 0x84 then powerRead s o
  else if page = 0x90 ∨ page = 0x91 then portPageRead s (off - 0x90000)
  else if page = 0x92 then nlogRead s o
  else if page = 0x93 then mflogRead s o
  else if page = 0x94 then memTableRead s o
  else 0

/-- The RC fields: GLOG_LOST, x_LOST and MFLOG_LOST. -/
def isRc (off : Nat) : Bool :=
  (decide (0x60000 ≤ off) && decide (off < 0x71000) && off % 4096 == 0x208) ||
    (off == 0x83020 || off == 0x83060 || off == 0x830A0) || off == 0x93408

/-- An RC field takes a value. -/
def State.putRc (s : State) (off : Nat) (w : Word) : State :=
  if off = 0x93408 then { s with mem := { s.mem with lost := w } }
  else if 0x83000 ≤ off then
    let r := eyeRingOfIndex ((off - 0x83000) / 0x40)
    { s with eye := s.eye.setRing r { s.eye.ringOf r with lost := w } }
  else s.setGate ((off - 0x60000) / 4096) { s.gate ((off - 0x60000) / 4096) with lost := w }

/-- The hardware update of an RC field in a cycle. -/
def State.updateRc (s : State) (off update : Nat) : State :=
  if isRc off && decide (update ≠ 0) then s.putRc off (satAdd (regValue s off) update) else s

/-- An RC field after a read: cleared, with the update of the same cycle, which a clearing read keeps; a debug read
clears nothing (R13, R478). -/
def rcAfter (debug : Bool) (v : Word) (update : Nat) : Word := satAdd (if debug then v else 0) update

/-- A read that the window allows: a counter of Eyebright (R464), an RC field (R13, R478), or any other register. A read of a
word of a memory fault log entry reads the entry (R490, log 35). -/
def State.regAccess (s : State) (cls : Cls) (off update : Nat) : State :=
  if 0x82000 ≤ off ∧ off < 0x82200 then s.readCounter ((off - 0x82000) / 8)
  else
    let v := regValue s off
    let s1 : State := { s with
      bus := ⟨v, false⟩
      mem := if 0x93000 ≤ off ∧ off < 0x93400 then { s.mem with unread := setBit s.mem.unread ((off - 0x93000) / 32) false }
        else s.mem }
    if isRc off then s1.putRc off (rcAfter (cls.toNat == 17) v update) else s1

/-- The refusal of an access: Table 12.2's, or WINDOW for one that is not 8 bytes at an aligned offset (R476). -/
def accessRefusal (s : State) (cls : Cls) (off size : Nat) (write : Bool) : Option Nat :=
  match windowRefusal s cls (off / 4096) write with
  | some c => some c
  | none => if off % 8 = 0 ∧ size = 8 then none else some 7

/-- RC_FIELD_READ (R13, R476 to R479): a read of any register; `update` is what hardware adds to an RC field in the same
cycle. A refused read clears nothing. -/
def execRcFieldRead (cls : Cls) (off : BitVec 20) (size update : Nat) (s : State) : Out :=
  if windowHeld s then .next { s with bus := ⟨0, true⟩ }
  else match accessRefusal s cls off.toNat size false with
  | some c => .next ((s.updateRc off.toNat update).windowFault cls off.toNat false c)
  | none => .next (s.regAccess cls off.toNat update)

/-- A write that the window allows; one to a read-only register, a reserved page or an unnamed offset is ignored (R8,
R476). -/
def State.regStore (s : State) (off : Nat) (w : Word) : State :=
  let page := off / 4096
  let o := off % 4096
  if 1 ≤ page ∧ page ≤ 0x12 then s.mbWrite (page - 1) o w
  else if 0x20 ≤ page ∧ page < 0x60 then s.doorbellWrite (512 * (page - 0x20) + o / 8) w
  else if 0x60 ≤ page ∧ page ≤ 0x70 then (if o = 0x210 then s.glogClearWrite (page - 0x60) w false else s)
  else if page = 0x81 then s.evWrite o w
  else if page = 0x82 then s.ctrPageWrite o w
  else if page = 0x83 then s.eyeRingPageWrite o w
  else s

/-- REGISTER_WRITE (R476): bits [63:48] of the container are discarded (R5). -/
def execRegisterWrite (cls : Cls) (off : BitVec 20) (size : Nat) (v : Container) (s : State) : Out :=
  if windowHeld s then .next s
  else match accessRefusal s cls off.toNat size true with
  | some c => .next (s.windowFault cls off.toNat true c)
  | none => .next (s.regStore off.toNat (toWord v))

end Sys2Proof.Machine
end

