-- ==== Sys2Proof/Machine/Dispatch.lean ====
section
/-!
DEFINITION. The effect of each command: one arm a constructor, each a direct call of its meaning.
-/

namespace Sys2Proof.Machine

def exec (i : Instr) (s : State) : Host.Outcome State Fault Refusal :=
  match i with
  | .mbSubmit cls m => Sys2Proof.Machine.execMbSubmit cls m s
  | .mbAck cls m => Sys2Proof.Machine.execMbAck cls m s
  | .mbDoorbellReserved cls m v => Sys2Proof.Machine.execMbDoorbellReserved cls m v s
  | .requestAccept at_ => Sys2Proof.Machine.execRequestAccept at_ s
  | .responseWrite m => Sys2Proof.Machine.execResponseWrite m s
  | .yarrowRest at_ => Sys2Proof.Machine.execYarrowRest at_ s
  | .echo => Sys2Proof.Machine.execEcho s
  | .status => Sys2Proof.Machine.execStatus s
  | .modeRequest => Sys2Proof.Machine.execModeRequest s
  | .timeRealign => Sys2Proof.Machine.execTimeRealign s
  | .latencyBudget => Sys2Proof.Machine.execLatencyBudget s
  | .streamCreate => Sys2Proof.Machine.execStreamCreate s
  | .streamModify => Sys2Proof.Machine.execStreamModify s
  | .streamArm h0 h1 h2 => Sys2Proof.Machine.execStreamArm h0 h1 h2 s
  | .streamDisarm => Sys2Proof.Machine.execStreamDisarm s
  | .streamRetire => Sys2Proof.Machine.execStreamRetire s
  | .streamRead => Sys2Proof.Machine.execStreamRead s
  | .streamSnapshot => Sys2Proof.Machine.execStreamSnapshot s
  | .twinLink => Sys2Proof.Machine.execTwinLink s
  | .genInstall => Sys2Proof.Machine.execGenInstall s
  | .genRoll => Sys2Proof.Machine.execGenRoll s
  | .keyImport busy at_ => Sys2Proof.Machine.execKeyImport busy at_ s
  | .keyDerive core cellBad => Sys2Proof.Machine.execKeyDerive core cellBad s
  | .keyInvalidate => Sys2Proof.Machine.execKeyInvalidate s
  | .keyRead => Sys2Proof.Machine.execKeyRead s
  | .chainCreate core cellBad => Sys2Proof.Machine.execChainCreate core cellBad s
  | .chainVerifier => Sys2Proof.Machine.execChainVerifier s
  | .chainInstall => Sys2Proof.Machine.execChainInstall s
  | .chainDelete => Sys2Proof.Machine.execChainDelete s
  | .chainRead => Sys2Proof.Machine.execChainRead s
  | .gateOffline => Sys2Proof.Machine.execGateOffline s
  | .gateWrite => Sys2Proof.Machine.execGateWrite s
  | .gateOnline => Sys2Proof.Machine.execGateOnline s
  | .gateRead => Sys2Proof.Machine.execGateRead s
  | .portReset => Sys2Proof.Machine.execPortReset s
  | .imageWrite => Sys2Proof.Machine.execImageWrite s
  | .imageActivate => Sys2Proof.Machine.execImageActivate s
  | .imageInfo => Sys2Proof.Machine.execImageInfo s
  | .umazRequest => Sys2Proof.Machine.execUmazRequest s
  | .planBoundary at_ cycles ledger pcs => Sys2Proof.Machine.execPlanBoundary at_ cycles ledger pcs s
  | .stagedChangeCommit => Sys2Proof.Machine.execStagedChangeCommit s
  | .streamArmCommit h => Sys2Proof.Machine.execStreamArmCommit h s
  | .streamDisarmCommit h => Sys2Proof.Machine.execStreamDisarmCommit h s
  | .retirementCommit h => Sys2Proof.Machine.execRetirementCommit h s
  | .streamFreed h => Sys2Proof.Machine.execStreamFreed h s
  | .genInstallCommit h => Sys2Proof.Machine.execGenInstallCommit h s
  | .rollCommit h => Sys2Proof.Machine.execRollCommit h s
  | .earlyWindowOpen h => Sys2Proof.Machine.execEarlyWindowOpen h s
  | .closeTick h => Sys2Proof.Machine.execCloseTick h s
  | .graceEntryFree h => Sys2Proof.Machine.execGraceEntryFree h s
  | .followRollRetry h => Sys2Proof.Machine.execFollowRollRetry h s
  | .stagingMiss => Sys2Proof.Machine.execStagingMiss s
  | .invalidationCommit slot => Sys2Proof.Machine.execInvalidationCommit slot s
  | .sweepSlot => Sys2Proof.Machine.execSweepSlot s
  | .maskingRefresh bad => Sys2Proof.Machine.execMaskingRefresh bad s
  | .localGeneratorReseed g => Sys2Proof.Machine.execLocalGeneratorReseed g s
  | .keyBusResponse r => Sys2Proof.Machine.execKeyBusResponse r s
  | .importTimeout at_ => Sys2Proof.Machine.execImportTimeout at_ s
  | .entropyHealthFailure at_ => Sys2Proof.Machine.execEntropyHealthFailure at_ s
  | .maskingDegraded at_ => Sys2Proof.Machine.execMaskingDegraded at_ s
  | .entropyRecovered => Sys2Proof.Machine.execEntropyRecovered s
  | .entropyReady at_ counterOk counterValue => Sys2Proof.Machine.execEntropyReady at_ counterOk counterValue s
  | .entropyWaitTimeout at_ => Sys2Proof.Machine.execEntropyWaitTimeout at_ s
  | .coldReset at_ => Sys2Proof.Machine.execColdReset at_ s
  | .engineReset at_ => Sys2Proof.Machine.execEngineReset at_ s
  | .assay found at_ => Sys2Proof.Machine.execAssay found at_ s
  | .counterAdvanceRetry at_ ok value => Sys2Proof.Machine.execCounterAdvanceRetry at_ ok value s
  | .retentionRestartRequest at_ => Sys2Proof.Machine.execRetentionRestartRequest at_ s
  | .retentionRestartRelease katPass => Sys2Proof.Machine.execRetentionRestartRelease katPass s
  | .portResetRequest p at_ cut => Sys2Proof.Machine.execPortResetRequest p at_ cut s
  | .portResetRequestFall p => Sys2Proof.Machine.execPortResetRequestFall p s
  | .portResetAction p at_ cut => Sys2Proof.Machine.execPortResetAction p at_ cut s
  | .portResetComplete p at_ => Sys2Proof.Machine.execPortResetComplete p at_ s
  | .tamperInput k keyOp => Sys2Proof.Machine.execTamperInput k keyOp s
  | .drillEntry => Sys2Proof.Machine.execDrillEntry s
  | .dormantEntry => Sys2Proof.Machine.execDormantEntry s
  | .dormantPowerDown => Sys2Proof.Machine.execDormantPowerDown s
  | .dormantExit katPass => Sys2Proof.Machine.execDormantExit katPass s
  | .commissionServiceChange => Sys2Proof.Machine.execCommissionServiceChange s
  | .imageActivationCommit cut => Sys2Proof.Machine.execImageActivationCommit cut s
  | .gateOfflineCommit g => Sys2Proof.Machine.execGateOfflineCommit g s
  | .gateOnlineCommit g => Sys2Proof.Machine.execGateOnlineCommit g s
  | .timeAlign seconds nanos valid hold => Sys2Proof.Machine.execTimeAlign seconds nanos valid hold s
  | .qualityChange seconds nanos valid hold => Sys2Proof.Machine.execQualityChange seconds nanos valid hold s
  | .ppsEdge seconds nanos => Sys2Proof.Machine.execPpsEdge seconds nanos s
  | .burstWindowEnd h opening => Sys2Proof.Machine.execBurstWindowEnd h opening s
  | .overrun d => Sys2Proof.Machine.execOverrun d s
  | .planOverloadSet => Sys2Proof.Machine.execPlanOverloadSet s
  | .planOverloadClear => Sys2Proof.Machine.execPlanOverloadClear s
  | .egressHeaderBeat b => Sys2Proof.Machine.execEgressHeaderBeat b s
  | .egressDataBeat b => Sys2Proof.Machine.execEgressDataBeat b s
  | .doorbellPost cls h rsvd count => Sys2Proof.Machine.execDoorbellPost cls h rsvd count s
  | .doorbellRelease cls h rsvd count => Sys2Proof.Machine.execDoorbellRelease cls h rsvd count s
  | .descriptorFetch h desc source readOk => Sys2Proof.Machine.execDescriptorFetch h desc source readOk s
  | .ringRecheck h => Sys2Proof.Machine.execRingRecheck h s
  | .sealSliceEntry f slice cellBad macBad => Sys2Proof.Machine.execSealSliceEntry f slice cellBad macBad s
  | .sealSupplyCheck f => Sys2Proof.Machine.execSealSupplyCheck f s
  | .digestSealResult f r => Sys2Proof.Machine.execDigestSealResult f r s
  | .sealEcho f slice upset cellBad => Sys2Proof.Machine.execSealEcho f slice upset cellBad s
  | .frameStart p => Sys2Proof.Machine.execFrameStart p s
  | .transmitComplete f p seconds nanos => Sys2Proof.Machine.execTransmitComplete f p seconds nanos s
  | .outputWrite h => Sys2Proof.Machine.execOutputWrite h s
  | .ringInterrupt h => Sys2Proof.Machine.execRingInterrupt h s
  | .ringStarved h => Sys2Proof.Machine.execRingStarved h s
  | .recordChunk h header data readOk slice cellBad resumptions => Sys2Proof.Machine.execRecordChunk h header data readOk slice cellBad resumptions s
  | .recordStart => Sys2Proof.Machine.execRecordStart s
  | .frameClassify r => Sys2Proof.Machine.execFrameClassify r s
  | .v0Check f slice cellBad ended at_ => Sys2Proof.Machine.execV0Check f slice cellBad ended at_ s
  | .plaintextBeat f => Sys2Proof.Machine.execPlaintextBeat f s
  | .v1Verdict f at_ => Sys2Proof.Machine.execV1Verdict f at_ s
  | .digestOpenResult f r at_ => Sys2Proof.Machine.execDigestOpenResult f r at_ s
  | .duplicateEntryForget p at_ => Sys2Proof.Machine.execDuplicateEntryForget p at_ s
  | .hsrForwardEntryForget p at_ => Sys2Proof.Machine.execHsrForwardEntryForget p at_ s
  | .clearFrameDelivery f at_ => Sys2Proof.Machine.execClearFrameDelivery f at_ s
  | .ptpBypass f => Sys2Proof.Machine.execPtpBypass f s
  | .hsrForward f at_ => Sys2Proof.Machine.execHsrForward f at_ s
  | .standaloneDisclosureReceive f => Sys2Proof.Machine.execStandaloneDisclosureReceive f s
  | .partnerNoticeReceive f => Sys2Proof.Machine.execPartnerNoticeReceive f s
  | .noticeIntervalEnd p sa code at_ => Sys2Proof.Machine.execNoticeIntervalEnd p sa code at_ s
  | .noticeToken p at_ => Sys2Proof.Machine.execNoticeToken p at_ s
  | .holdResolution chain slice core cellBad => Sys2Proof.Machine.execHoldResolution chain slice core cellBad s
  | .holdCloseMissing chain => Sys2Proof.Machine.execHoldCloseMissing chain s
  | .holdExpired h => Sys2Proof.Machine.execHoldExpired h s
  | .v2RecordWrite h => Sys2Proof.Machine.execV2RecordWrite h s
  | .intervalKeyPrepare chain core block segment cellBad => Sys2Proof.Machine.execIntervalKeyPrepare chain core block segment cellBad s
  | .publisherKeyLate chain => Sys2Proof.Machine.execPublisherKeyLate chain s
  | .standaloneDisclosureSend h => Sys2Proof.Machine.execStandaloneDisclosureSend h s
  | .pebbleBankFill chain segment core top cellBad => Sys2Proof.Machine.execPebbleBankFill chain segment core top cellBad s
  | .anchorStarved chain => Sys2Proof.Machine.execAnchorStarved chain s
  | .publisherRenewalStart chain => Sys2Proof.Machine.execPublisherRenewalStart chain s
  | .memoryAccess a at_ u => Sys2Proof.Machine.execMemoryAccess a at_ u s
  | .memoryReadReturn acc lines badA badB chip => Sys2Proof.Machine.execMemoryReadReturn acc lines badA badB chip s
  | .writeMergeDrain at_ lines u => Sys2Proof.Machine.execWriteMergeDrain at_ lines u s
  | .nodeWriteback id level node lines u => Sys2Proof.Machine.execNodeWriteback id level node lines u s
  | .linkDown p c present at_ cut => Sys2Proof.Machine.execLinkDown p c present at_ cut s
  | .linkUp p at_ partner => Sys2Proof.Machine.execLinkUp p at_ partner s
  | .restEntry unit at_ => Sys2Proof.Machine.execRestEntry unit at_ s
  | .restExit unit at_ => Sys2Proof.Machine.execRestExit unit at_ s
  | .snapshotWrite => Sys2Proof.Machine.execSnapshotWrite s
  | .eventLogRecordClose => Sys2Proof.Machine.execEventLogRecordClose s
  | .eventLogWrite => Sys2Proof.Machine.execEventLogWrite s
  | .traceRecordWrite f stages v2tick => Sys2Proof.Machine.execTraceRecordWrite f stages v2tick s
  | .interruptSend m => Sys2Proof.Machine.execInterruptSend m s
  | .intEoi cls v => Sys2Proof.Machine.execIntEoi cls v s
  | .evStatusClear cls k v posting => Sys2Proof.Machine.execEvStatusClear cls k v posting s
  | .counterWrite cls n v increment => Sys2Proof.Machine.execCounterWrite cls n v increment s
  | .chainedCounterLowRead cls j => Sys2Proof.Machine.execChainedCounterLowRead cls j s
  | .rcFieldRead cls off size update => Sys2Proof.Machine.execRcFieldRead cls off size update s
  | .glogClear cls g v same => Sys2Proof.Machine.execGlogClear cls g v same s
  | .eyebrightReleaseWrite cls r v => Sys2Proof.Machine.execEyebrightReleaseWrite cls r v s
  | .eyebrightRingControl cls r v => Sys2Proof.Machine.execEyebrightRingControl cls r v s
  | .registerWrite cls off size v => Sys2Proof.Machine.execRegisterWrite cls off size v s
  | .ingressBeatTaken => Sys2Proof.Machine.execIngressBeatTaken s
  | .entropyReadyLoss => Sys2Proof.Machine.execEntropyReadyLoss s

end Sys2Proof.Machine
end

