-- ==== Sys2Proof/Safety.lean ====
section
/-!
DEFINITION. What counts as a safe state and a safe step, and the terms in which the statements name a command that is
about to be executed.
-/

namespace Sys2Proof.Machine

/-! ### Safe states -/

/-- Host memory and DRAM are in their canonical form. -/
def State.canonical (s : State) : Prop := Memory.wf s.hostMem = true ∧ Memory.wf s.dram = true

/-- A cold or an engine reset: what alone ends Lockdown and Drill (R434, R436). -/
def isReset : Instr → Bool
  | .coldReset _ => true
  | .engineReset _ => true
  | _ => false

/-! ### A Pyfer command about to be executed -/

/-- The oldest accepted command that waits is `c`, its opcode is `op`, and it passes checks 1 to 4 of R377. -/
def Front (s : State) (c : Cmd) (op : Nat) : Prop :=
  frontCmd s = some c ∧ c.opcode = op ∧ begunWith c = none ∧ ∃ i, opInfo op = some i ∧ failOf (commonChecks s c i) = none

/-- The command that has begun is `c`, of opcode `op`, with the entropy word numbered `w` (R235, R255). -/
def Begun (s : State) (c : Cmd) (op w : Nat) : Prop := frontCmd s = some c ∧ c.opcode = op ∧ begunWith c = some w

/-- The tick of a command on these objects of domain `d` (4 the plan) is not beyond 2^31 ticks, is later than every
change staged for them, and its boundary has passed neither at acceptance nor since (R378 to R380, R508). -/
def Timely (s : State) (c : Cmd) (os : List Obj) (d : Nat) : Prop :=
  tickFar c d = false ∧ orderBad s os (effTick s c os d) = false ∧
    (c.isNext = true ∨ (acceptTick c d < effTick s c os d ∧ tickNow s d < effTick s c os d))

/-- The words of an answer with status OK, effective tick and response words (Table 13.8). -/
def okWords (tick : Tick) (ws : List Word) : List Word := [0, BitVec.ofNat 48 tick] ++ ws

/-- The row of the table that executes an opcode of Table 13.11. -/
def pyferRow (op : Nat) : Instr → Bool
  | .echo => op == 0x01
  | .status => op == 0x02
  | .modeRequest => op == 0x08
  | .timeRealign => op == 0x09
  | .latencyBudget => op == 0x0A
  | .streamCreate => op == 0x10
  | .streamModify => op == 0x11
  | .streamArm _ _ _ => op == 0x12
  | .streamDisarm => op == 0x13
  | .streamRetire => op == 0x14
  | .streamRead => op == 0x15
  | .streamSnapshot => op == 0x16
  | .twinLink => op == 0x17
  | .genInstall => op == 0x20
  | .genRoll => op == 0x21
  | .keyImport _ _ => op == 0x28
  | .keyDerive _ _ => op == 0x29
  | .keyInvalidate => op == 0x2A
  | .keyRead => op == 0x2B
  | .chainCreate _ _ => op == 0x30
  | .chainVerifier => op == 0x31
  | .chainInstall => op == 0x32
  | .chainDelete => op == 0x33
  | .chainRead => op == 0x34
  | .gateOffline => op == 0x40
  | .gateWrite => op == 0x41
  | .gateOnline => op == 0x42
  | .gateRead => op == 0x43
  | .portReset => op == 0x48
  | .imageWrite => op == 0x50
  | .imageActivate => op == 0x51
  | .imageInfo => op == 0x52
  | .umazRequest => op == 0x60
  | _ => false

end Sys2Proof.Machine
end

