-- ==== Sys2Proof/Certificates/Slice0/Obligations.lean ====
section
/-!
DEFINITION. The statements for the provers, family by family of the commands.
-/

open Sys2Proof Sys2Proof.Machine

/-- For every command c and state s whose queue is c followed by rest, step of s is exec of c on s with the queue's
rest; on an empty queue the block idles, which is the model's own choice (log 1). (spec/opcode_table.json,
01_planes_and_levels.md) -/
def Obligations.StepRunsFrontCommand : Prop :=
  (∀ (c : Instr) (rest : List Instr) (s : State), s.pending = c :: rest →
    step s = exec c { s with pending := rest }) ∧
  ∀ s : State, s.pending = [] → step s = .next s

/-- After reset the mode is Assay with no step completed and no Lockdown cause; every stream context is Free, every key
slot Empty, no admission is granted, nothing is staged, no command waits or is accepted, no gate is online, every
budget is 0xFFFF_FFFF, every event bit is clear and every message armed. The registers whose reset value the spec
does not give are the model's choice (log 2). (R11, R428, Table 14.12, R447, log 2) -/
def Obligations.ResetState : Prop :=
  State.reset.mode = .assay ∧ State.reset.assay.step = 0 ∧ State.reset.cause = 0 ∧ State.reset.fatal = false ∧ State.reset.pending = [] ∧
  (∀ h, State.reset.stream h = .zero) ∧ (∀ h, (State.reset.stream h).free = true) ∧
  (∀ k, State.reset.slot k = .empty) ∧ State.reset.staged = [] ∧ State.reset.cmds = [] ∧ State.reset.adm = [] ∧
  (∀ g, (State.reset.gate g).online = false) ∧ (∀ r, State.reset.ring r = .zero) ∧
  State.reset.active = none ∧ State.reset.tamperLatch = 0 ∧
  State.reset.power.engineBudget = 0xFFFF_FFFF ∧
  (∀ d, Table.get 0xFFFF_FFFF d State.reset.power.domainBudget = 0xFFFF_FFFF) ∧
  State.reset.eye.status = 0 ∧ State.reset.eye.enable = 0 ∧ State.reset.eye.armed = 0xFFFF_FFFF ∧
  State.reset.plan = 0

/-- The invariant that every step keeps holds at reset: host memory and DRAM list addresses in rising order and no byte
equal to what an unlisted address reads as. (R340, R262, log 9) -/
def Obligations.ResetMemoryCanonical : Prop :=
  State.reset.canonical

/-- From every state whose host memory and DRAM are in canonical form, whatever command is at the front of the queue, a
step that answers a next state leaves both in canonical form. (R340, R262, log 9) -/
def Obligations.MemoryStaysCanonical : Prop :=
  ∀ s t : State, s.canonical → step s = .next t → t.canonical

/-- Entering Lockdown from another mode latches the cause. In Lockdown, every command other than a cold reset or an
engine reset that answers a next state leaves the mode Lockdown and the Lockdown cause and the fatal output as they
are; a cold or an engine reset lowers the fatal output and leads to Assay. (R433) -/
def Obligations.LockdownEndsOnlyByReset : Prop :=
  (∀ (s : State) (k : Nat), s.mode ≠ .lockdown →
    (s.lockdown k).mode = .lockdown ∧ (s.lockdown k).cause = BitVec.ofNat 8 k) ∧
  (∀ (c : Instr) (s t : State), s.mode = .lockdown → isReset c = false → exec c s = .next t →
    t.mode = .lockdown ∧ t.cause = s.cause ∧ t.fatal = s.fatal) ∧
  ∀ (at_ : Nat) (s : State),
    (∃ t, exec (.coldReset at_) s = .next t ∧ t.mode = .assay ∧ t.fatal = false) ∧
    ∃ t, exec (.engineReset at_) s = .next t ∧ t.mode = .assay ∧ t.fatal = false

/-- In Drill, every command other than a cold reset or an engine reset that answers a next state leaves the mode Drill
or enters Lockdown. (R436) -/
def Obligations.DrillEndsOnlyByLockdownOrReset : Prop :=
  ∀ (c : Instr) (s t : State), s.mode = .drill → isReset c = false → exec c s = .next t →
    t.mode = .drill ∨ t.mode = .lockdown

/-- The lifecycle, owner key digest, rollback floor, entropy wait limit and debug lock that Assay read are held: every
command that is not a cold reset, an engine reset or a step of Assay leaves them as they are. (R413, Table 14.3) -/
def Obligations.FuseFieldsHeld : Prop :=
  ∀ (c : Instr) (s t : State), isReset c = false → (∀ i at_, c ≠ .assay i at_) → exec c s = .next t →
    t.fuses.lifecycle = s.fuses.lifecycle ∧ t.fuses.ownerDigest = s.fuses.ownerDigest ∧
    t.fuses.rollbackFloor = s.fuses.rollbackFloor ∧ t.fuses.entropyWait = s.fuses.entropyWait ∧
    t.fuses.debugLock = s.fuses.debugLock

/-- Every command other than a cold reset keeps each tamper latch bit that is set; a rising tamper input k sets latch
bit k. (R431, Table 14.12) -/
def Obligations.TamperLatchHolds : Prop :=
  (∀ (c : Instr) (s t : State), (∀ at_, c ≠ .coldReset at_) → exec c s = .next t →
    s.tamperLatch &&& t.tamperLatch = s.tamperLatch) ∧
  ∀ (k : Fin 4) (keyOp : Bool) (s : State),
    ∃ t, exec (.tamperInput k keyOp) s = .next t ∧ t.tamperLatch.getLsbD k.val = true

/-- For every command that can be formed and every state, exec answers a next state, and the queue of that state is the
queue exec was given: commands are taken from the front by step alone and come only from outside. A command that
cannot be formed (an operand list of the wrong length, a ledger that does not add up) is refused by name.
(spec/opcode_table.json, log 1) -/
def Obligations.CommandsLeaveQueue : Prop :=
  ∀ (c : Instr) (s : State),
    (c.wf = true → ∃ t, exec c s = .next t ∧ t.pending = s.pending) ∧
    (c.wf = false → exec c s = .refused .illFormed)

/-- For a class that the window admits to the mailbox: SUBMIT sets REQ_BUSY where the request area is free and the
mailbox is ready (in Dormant it also wakes PD1 and raises CLK_REQ), and is a protocol error of cause 1 otherwise;
ACK clears RSP_VALID, and is a protocol error of cause 3 where there is no response; any other doorbell word is a
protocol error of cause 4. A protocol error sets Last error, advances the count up to its highest value and posts
the mailbox's event; nothing else changes. (R366, R368, R369, R370, R443, Table 13.3, Table 13.5) -/
def Obligations.MailboxDoorbells : Prop :=
  ∀ (cls : Cls) (m : Fin 18) (s : State), windowHeld s = false → windowRefusal s cls (m.val + 1) true = none →
    (((s.mbox m.val).reqBusy = false ∧ mbReady s m.val = true →
        ∃ p, exec (.mbSubmit cls m) s =
            .next { s.setMbox m.val { s.mbox m.val with reqBusy := true } with power := p } ∧
          (s.mode ≠ .dormant → p = s.power) ∧
          (s.mode = .dormant → p = { s.power with pd1 := true, clkReq := true, pd1Since := s.now })) ∧
      ((s.mbox m.val).reqBusy = true ∨ mbReady s m.val = false →
        exec (.mbSubmit cls m) s = .next ((s.setMbox m.val { s.mbox m.val with
          lastError := 1, protoErrors := satAdd (s.mbox m.val).protoErrors 1 }).post (242 + 4 * m.val))) ∧
      ((s.mbox m.val).rspValid = true →
        exec (.mbAck cls m) s = .next (s.setMbox m.val { s.mbox m.val with rspValid := false })) ∧
      ((s.mbox m.val).rspValid = false →
        exec (.mbAck cls m) s = .next ((s.setMbox m.val { s.mbox m.val with
          lastError := 3, protoErrors := satAdd (s.mbox m.val).protoErrors 1 }).post (242 + 4 * m.val))) ∧
      ∀ v : Container, toWord v ≠ at_ 40 1 → toWord v ≠ at_ 40 2 →
        exec (.mbDoorbellReserved cls m v) s = .next ((s.setMbox m.val { s.mbox m.val with
          lastError := 4, protoErrors := satAdd (s.mbox m.val).protoErrors 1 }).post (242 + 4 * m.val)))

/-- A doorbell or register write of a class that Table 12.2 does not admit to the page has none of its effect: the fault
is logged in the gate of the class and that gate's event is posted, and nothing but that gate and the event block
changes. Writes of the domain, management, attestation, debug and reserved classes are all covered, with the cause
the window gives. (R351, R360, R476, Table 12.2) -/
def Obligations.WindowRefusesAndLogs : Prop :=
  ∀ (cls : Cls) (m : Fin 18) (cause : Nat) (s t : State), windowHeld s = false →
    windowRefusal s cls (m.val + 1) true = some cause →
    (exec (.mbSubmit cls m) s = .next t ∨ exec (.mbAck cls m) s = .next t ∨
      ∃ v, exec (.mbDoorbellReserved cls m v) s = .next t) →
    (∀ k, t.mbox k = s.mbox k) ∧ t = { s with gates := t.gates, eye := t.eye } ∧
    (∀ g, g ≠ gateOfCls cls → t.gate g = s.gate g) ∧ (t.gate (gateOfCls cls)).present = true

/-- While PD1 is awake and no retention restart is in progress, REQUEST_ACCEPT answers a next state: the mailbox that
the rotation gives next has its header and words copied into the queue with the ticks in force, its Accepted
sequence updated and REQ_BUSY cleared; the rotation goes on behind it, PD1's idle time starts again and its request-
accepted event is posted. A request for Lockdown from the management mailbox that passes checks 1 to 3 and 5 acts on
acceptance, with cause 8. Nothing else changes. Where the rotation gives no mailbox, PD1 rests or a restart is in
progress, only the model's clock moves. (R367, R379, R386, R370) -/
def Obligations.RequestAccepted : Prop :=
  ∀ (now : Nat) (s : State),
    (∀ (m : Nat) (c : Cmd) (u t : State), s.power.pd1 = true → s.retention = none → nextAccept s = some m →
      c = { id := s.nextCmd, mbox := m, hdr := (s.mbox m).reqHdr,
            words := (List.range (min 63 (fld (s.mbox m).reqHdr 0 16))).map (fun k => Table.get 0 k (s.mbox m).req),
            plan := s.plan, ticks := s.ticks.idx, phase := .waiting } →
      u = ((s.atTime now).setMbox m { s.mbox m with
        reqBusy := false, acceptedSeq := BitVec.ofNat 16 (fld (s.mbox m).reqHdr 16 16) }).post (240 + 4 * m) →
      t = { u with
        cmds := s.cmds ++ [c], nextCmd := s.nextCmd + 1, rotation := (m + 1) % 18,
        power := { s.power with pd1Since := max s.now now } } →
      exec (.requestAccept now) s = .next (if asksLockdown c then t.lockdown 8 else t) ∧
      t.mbox m = { s.mbox m with
        reqBusy := false, acceptedSeq := BitVec.ofNat 16 (fld (s.mbox m).reqHdr 16 16) } ∧
      ∀ k, k ≠ m → t.mbox k = s.mbox k) ∧
    (s.power.pd1 = false ∨ s.retention ≠ none ∨ nextAccept s = none →
      exec (.requestAccept now) s = .next (s.atTime now))

/-- While RSP_VALID is 0 and no retention restart is held, RESPONSE_WRITE answers a next state in which the oldest
command of the mailbox, which has an answer, has its response words and header written in the layout of Tables 13.6
and 13.8 (the first word the answer's first with the mode that Quecy reports) and RSP_VALID set; the command leaves
the queue, PD1's idle time starts again and the response event is posted; an ERR_STATE response advances the state
refusals, up to their highest value, and posts their event. Nothing else changes. Where the area is taken, a restart
is held or the oldest command has no answer yet, nothing changes. (R368, R374, Table 13.6, Table 13.8) -/
def Obligations.ResponseWritten : Prop :=
  ∀ (m : Fin 18) (c : Cmd) (s : State), (mbQueue s m.val).head? = some c →
    (∀ (ws out : List Word) (b : Mailbox) (u : State), (s.mbox m.val).rspValid = false → restartHeld s = false → answerOf s c = some ws →
      out = responseWords s c ws →
      b = { s.mbox m.val with
        rsp := putWords (s.mbox m.val).rsp 0 out
        rspHdr := at_ 40 c.opcode ||| at_ 36 c.domain ||| at_ 35 1 ||| at_ 16 c.seqField ||| at_ 0 out.length
        rspValid := true
        stateRefusals := if fld (out.getD 0 0) 40 8 = 0x06 then satAdd (s.mbox m.val).stateRefusals 1
          else (s.mbox m.val).stateRefusals } →
      u = State.setMbox { s with
        cmds := s.cmds.filter (fun x => x.id != c.id), power := { s.power with pd1Since := s.now } } m.val b →
      out.head? = some (setFld (ws.getD 0 0) 32 8 (modeCode (reportedMode s))) ∧
      exec (.responseWrite m) s = .next (if fld (out.getD 0 0) 40 8 = 0x06
        then (u.post (241 + 4 * m.val)).post (243 + 4 * m.val) else u.post (241 + 4 * m.val))) ∧
    ((s.mbox m.val).rspValid = true ∨ restartHeld s = true ∨ answerOf s c = none → exec (.responseWrite m) s = .next s)

/-- A command that passes checks 1 to 4 of R377 is answered OK: ECHO with its own words, STATUS with the mode that Quecy
reports, time quality, entropy state, rest level, free staged contexts and grace entries and armed P-class streams
in the places of Table 13.12, GATE_READ with the three words of the rule and the gate's online bit, IMAGE_INFO with
the active slot and the two slots' verification and version, UMAZ_REQUEST with the statement over the new sequence
number and the requester's nonce. Only the command's answer changes, and for UMAZ_REQUEST the statement sequence
number and what the Keccak core that computes it posts. (R385, R403, R408, Table 13.12, Table 13.19, R259) -/
def Obligations.QueryCommandsAnswer : Prop :=
  ∀ (c : Cmd) (s : State),
    (Front s c 0x01 → exec .echo s = .next (s.answer c.id (okWords 0 ((c.words.take c.len).drop 1)))) ∧
    (Front s c 0x02 → exec .status s = .next (s.answer c.id (okWords 0
      [at_ 40 (modeCode (reportedMode s)) ||| at_ 32 s.ticks.quality ||| at_ 24 (entropyState s) ||| at_ 22 s.power.level,
       at_ 32 (freeStaged s) ||| at_ 16 (4096 - s.grace.length) ||| at_ 0 (min 0xFFFF (armedStreams s Context.classP)),
       at_ 32 0x0401 ||| at_ 16 0x0004]))) ∧
    (Front s c 0x43 → fld (c.q 1) 10 38 = 0 → fld (c.q 1) 0 5 ≤ 16 →
      exec .gateRead s = .next (s.answer c.id (okWords 0
        [(Table.get (0, 0, 0) (fld (c.q 1) 5 5) (s.gate (fld (c.q 1) 0 5)).rules).1,
         (Table.get (0, 0, 0) (fld (c.q 1) 5 5) (s.gate (fld (c.q 1) 0 5)).rules).2.1,
         (Table.get (0, 0, 0) (fld (c.q 1) 5 5) (s.gate (fld (c.q 1) 0 5)).rules).2.2,
         at_ 47 (boolNat (s.gate (fld (c.q 1) 0 5)).online)]))) ∧
    (Front s c 0x52 → exec .imageInfo s = .next (s.answer c.id (okWords 0
      [at_ 40 (match s.active with
         | some a => boolNat a.slotB
         | none => 0xFF),
       at_ 47 (boolNat s.nv.slotA.verified) ||| at_ 0 s.nv.slotA.version.toNat,
       at_ 47 (boolNat s.nv.slotB.verified) ||| at_ 0 s.nv.slotB.version.toNat]))) ∧
    (Front s c 0x60 → fld (c.q 6) 0 32 = 0 →
      ∃ u : State, u = { s with ladder := { s.ladder with umazSeq := s.ladder.umazSeq + 1 } } ∧
        exec .umazRequest s = .next ((u.coreWorks 10).answer c.id (okWords 0
          (packWords 54 (umazBody u ((unpackWords (c.words.drop 1)).take 32) ++
            sha3 (umazBody u ((unpackWords (c.words.drop 1)).take 32)))))))

/-- A command that passes checks 1 to 4, whose reserved bits are zero, whose operand is in range, whose tick is timely
and whose own condition holds (the transition listed and its condition met as it will stand at the tick; for Engine-
wide the management mailbox; the gate not already online, its count of valid rules right and every rule legal; the
port present; the image verified and its activation not blocked) stages exactly its change for the tick and is
answered OK with that tick. Nothing else changes (LATENCY_BUDGET also wakes the units that the new budget holds
awake). (R361, R378, R379, R380, R386, R405, R407, R447, R508) -/
def Obligations.PlanTickCommandsStage : Prop :=
  ∀ (c : Cmd) (s : State),
    (Front s c 0x08 → fld (c.q 1) 8 40 = 0 → fld (c.q 1) 0 8 ≤ 5 →
      modeLegal s (effTick s c [.mode] 4) (futureMode s) (modeOf (fld (c.q 1) 0 8)) = true →
      (modeOf (fld (c.q 1) 0 8) = .dormant → ∀ x ∈ s.cmds, c.id ≤ x.id) → Timely s c [.mode] 4 →
      exec .modeRequest s = .next ((s.stage ⟨.mode, 4, effTick s c [.mode] 4, .mode (modeOf (fld (c.q 1) 0 8))⟩).answer
        c.id (okWords (effTick s c [.mode] 4) []))) ∧
    (∀ d, Front s c 0x0A → fld (c.q 1) 32 15 = 0 → (bit (c.q 1) 47 = true → c.mbox = 16) →
      d = (if bit (c.q 1) 47 then none else some c.domain) → Timely s c [.budget d] 4 →
      exec .latencyBudget s = .next
        (((s.wakeAs (s.setBudget d (BitVec.ofNat 32 (fld (c.q 1) 0 32)))).stage
          ⟨.budget d, 4, effTick s c [.budget d] 4, .budget (BitVec.ofNat 32 (fld (c.q 1) 0 32))⟩).answer
          c.id (okWords (effTick s c [.budget d] 4) []))) ∧
    (∀ g, g = fld (c.q 1) 0 5 → Front s c 0x40 → fld (c.q 1) 5 43 = 0 → g ≤ 16 → Timely s c [.gate g] 4 →
      exec .gateOffline s = .next ((s.stage ⟨.gate g, 4, effTick s c [.gate g] 4, .gateOffline⟩).answer
        c.id (okWords (effTick s c [.gate g] 4) []))) ∧
    (∀ g, g = fld (c.q 1) 0 5 → Front s c 0x42 → fld (c.q 1) 11 37 = 0 → g ≤ 16 → fld (c.q 1) 5 6 ≤ 32 →
      futureOnline s g = false → validRules (s.gate g).rules = fld (c.q 1) 5 6 →
      firstBadRule g s.mem.ids (guardedNow s) (s.gate g).rules = none → Timely s c [.gate g] 4 →
      exec .gateOnline s = .next ((s.stage ⟨.gate g, 4, effTick s c [.gate g] 4, .gateOnline⟩).answer
        c.id (okWords (effTick s c [.gate g] 4) []))) ∧
    (∀ p, p = fld (c.q 1) 0 4 → Front s c 0x48 → fld (c.q 1) 4 44 = 0 → portExists s.img p = true →
      Timely s c [.port p] 4 →
      exec .portReset s = .next ((s.stage ⟨.port p, 4, effTick s c [.port p] 4, .portReset⟩).answer
        c.id (okWords (effTick s c [.port p] 4) []))) ∧
    (∀ img, Front s c 0x51 → fld (c.q 1) 0 47 = 0 → verifyImage s.fuses (s.nv.slotOf (bit (c.q 1) 47)).bytes = .good img →
      activationBlocked s img = false → Timely s c [.image] 4 →
      exec .imageActivate s = .next ((s.stage ⟨.image, 4, effTick s c [.image] 4, .activate (bit (c.q 1) 47)⟩).answer
        c.id (okWords (effTick s c [.image] 4) [])))

/-- A command that passes checks 1 to 4: TIME_REALIGN, with no P-class stream armed and the time bus valid or in hold,
aligns the keeper; GATE_WRITE, its reserved bits zero, the gate in range and offline, puts the three words into the
numbered rule of that gate; IMAGE_WRITE, its reserved bits zero, 1 to 360 bytes, the offset the next one (0 with
Start) and within 65,536, and the slot not the active one, appends the bytes to that slot and verifies it once the
declared length is complete. Each is answered OK and nothing else changes. (R50, R387, R361, R404, R406, R419) -/
def Obligations.RealignGateWriteImageWrite : Prop :=
  ∀ (c : Cmd) (s : State),
    (Front s c 0x09 → anyArmed s Context.classP = false → (s.ticks.valid = true ∨ s.ticks.hold = true) →
      exec .timeRealign s = .next (s.align.answer c.id (okWords 0 []))) ∧
    (∀ g, g = fld (c.q 1) 0 5 → Front s c 0x41 → fld (c.q 1) 10 38 = 0 → g ≤ 16 → (s.gate g).online = false →
      exec .gateWrite s = .next ((s.setGate g { s.gate g with
        rules := Table.put (0, 0, 0) (fld (c.q 1) 5 5) (c.q 2, c.q 3, c.q 4) (s.gate g).rules,
        changed := true }).answer c.id (okWords 0 []))) ∧
    (∀ b start n old data, b = bit (c.q 1) 47 → start = bit (c.q 1) 46 → n = fld (c.q 1) 32 9 → old = s.nv.slotOf b →
      data = ((c.words.drop 2).flatMap (fun w => natToBytes 6 w.toNat)).take n →
      Front s c 0x50 → fld (c.q 1) 41 5 = 0 → 1 ≤ n → n ≤ 360 →
      fld (c.q 1) 0 32 = (if start then 0 else old.bytes.length) → fld (c.q 1) 0 32 + n ≤ 65536 →
      slotActive s b = false →
      exec .imageWrite s = .next (State.answer { s with nv := s.nv.setSlot b (imgWrite s.fuses old start data) }
        c.id (okWords 0 [])))

/-- For every opcode of Table 13.11 that is executed by a row of its own, when the oldest waiting command has the opcode
and fails one of checks 1 to 4, it is answered with the status and detail of the first check that fails, with plan
tick 0 in the answer, and nothing else changes: no register, stream, slot, staged change or event (KEY_IMPORT brings
the model's clock with it). When the front command is tick-stamped, passes its checks, and names a tick later than
at acceptance whose boundary has passed since, it is answered ERR_STAGING_MISS with the tick it named, the staging-
miss event of its tick domain's group is posted, and nothing else changes. (R375, R377, Table 13.9, R23, R379, Table
2.7) -/
def Obligations.FailedCheckAnswersAndChangesNothing : Prop :=
  (∀ (c : Cmd) (i : OpInfo) (st d : Nat) (x : Instr) (s : State), frontCmd s = some c → opInfo c.opcode = some i →
      begunWith c = none → failOf (commonChecks s c i) = some (st, d) → pyferRow c.opcode x = true →
      ∃ n, exec x s = .next (State.answer { s with now := n } c.id [at_ 40 st ||| at_ 0 d, 0]) ∧
        ((∀ busy at_, x ≠ .keyImport busy at_) → n = s.now)) ∧
  ∀ (c : Cmd) (s : State) (t d : Nat), frontCmd s = some c → judge s c (stampedRes c.opcode) = .miss t d true →
    exec .stagingMiss s = .next ((s.post (412 + 6 * realDom s d)).answer c.id [at_ 40 0x0A, BitVec.ofNat 48 t])

/-- A STREAM_CREATE that passes checks 1 to 4, with reserved fields zero, state and running fields zero, every field in
range, the header's domain owning the handle's ring block, the gate admitting the ring's extent, the clear policy
and the conflict rule met, the stream Free after every change staged for it and a staged context free, stages the
creation of exactly that context in state Created, with the default roll threshold where none is named, and is
answered OK with the tick. A C-class stream other than CLEAR is admitted first and answered with its wait bound; the
charge is recorded. Nothing else changes. (R80, R85, R87, R209, R388, R61, R62, R95, R101, R357) -/
def Obligations.StreamCreateStages : Prop :=
  ∀ (c : Cmd) (s : State) (x : Context) (h d : Nat) (t : Tick) (y : Context), Front s c 0x10 → x = createCtx c →
    h = x.handle → d = x.tickDomain → t = effTick s c [.stream h] d → Timely s c [.stream h] d →
    ctxReserved x = false → x.st = 0 → fld x.w0 15 16 = 0 → x.w11 = 0 → ctxInRange s x = true →
    x.domain = c.domain → blockDomain s h = some c.domain → ringRefusal s h x = none →
    clearForbidden s x = false → (futureStream s h).free = true → conflicts s h x d t = false → 1 ≤ freeStaged s →
    y = (if x.w7 = 0 then { x.setSt 1 with w7 := defaultThreshold x.suite } else x.setSt 1) →
    ((x.classC && !x.isClear) = false →
      exec .streamCreate s = .next ((s.stage ⟨.stream h, d, t, .create y⟩).answer c.id (okWords t [0]))) ∧
    (∀ dm, (x.classC && !x.isClear) = true → dm = chargeOf (s.stage ⟨.stream h, d, t, .create y⟩) h →
      admitFail s h dm = none →
      exec .streamCreate s = .next (((s.setDemand h dm).stage ⟨.stream h, d, t, .create y⟩).answer c.id
        (okWords t [waitWord (s.setDemand h dm) x])))

/-- A STREAM_MODIFY that passes checks 1 to 4, whose unmasked words and reserved fields are zero, whose resulting
context is in range and allowed by the clear policy, from the owning domain, on a stream Created or Armed after
every change staged for it, altering only fields that may alter in that state and, where w1 to w3 change, in
conflict with no stream, stages the masked words and is answered OK. A change of w4 or w5 of a charged stream is
admitted first and answered with the wait bound; the charge is recorded. Nothing else changes. (R86, R89, R389, R61,
R95, R101) -/
def Obligations.StreamModifyStages : Prop :=
  ∀ (c : Cmd) (s : State) (x y : Context) (h d : Nat) (t : Tick) (mask : BitVec 11) (vals : List Word),
    Front s c 0x11 → h = fld (c.q 1) 0 15 → x = futureStream s h → d = x.tickDomain →
    mask = BitVec.ofNat 11 (fld (c.q 1) 37 11) → vals = (List.range 11).map (fun i => c.q (i + 2)) →
    y = modifyCtx x mask vals → t = effTick s c [.stream h] d → Timely s c [.stream h] d →
    fld (c.q 1) 15 22 = 0 → (∀ i, i < 11 → bit mask (10 - i) = false → c.q (i + 2) = 0) → ctxReserved y = false →
    ctxInRange s y = true → x.domain = c.domain → (x.created = true ∨ x.armed = true) → altersFixed x mask vals = false →
    clearForbidden s y = false →
    (y.w1 = x.w1 ∧ y.w2 = x.w2 ∧ y.w3 = x.w3 ∨ conflicts s h y d t = false) → 1 ≤ freeStaged s →
    ((y.w4 = x.w4 ∧ y.w5 = x.w5 ∨ (x.armed && x.classP || x.classC && !x.isClear) = false) →
      exec .streamModify s = .next ((s.stage ⟨.stream h, d, t, .modify mask vals⟩).answer c.id (okWords t [0]))) ∧
    (∀ dm, (y.w4 ≠ x.w4 ∨ y.w5 ≠ x.w5) → (x.armed && x.classP || x.classC && !x.isClear) = true →
      dm = chargeOf (s.stage ⟨.stream h, d, t, .modify mask vals⟩) h → admitFail s h dm = none →
      exec .streamModify s = .next (((s.setDemand h dm).stage ⟨.stream h, d, t, .modify mask vals⟩).answer c.id
        (okWords t [waitWord (s.setDemand h dm) y])))

/-- A STREAM_ARM that passes checks 1 to 4, from the owning domain, on a stream that is Created after every change
staged for it with a valid current generation (or CLEAR), whose gate admits the ring's extent, whose ring header
keeps R330, and where the lease is configured if it is a P-class stream of suite 0x5, stages the arming with the
header's three words and is answered OK; the blocks that it will hold are woken. A P-class stream is admitted first
and answered with its wait bound. Nothing else changes. (R61, R78, R330, R357, R390, R449) -/
def Obligations.StreamArmStages : Prop :=
  ∀ (c : Cmd) (s : State) (x : Context) (h d : Nat) (t : Tick) (h0 h1 h2 : Container) (z : State),
    Front s c 0x12 → h = fld (c.q 1) 0 15 → x = futureStream s h → d = x.tickDomain → t = effTick s c [.stream h] d →
    Timely s c [.stream h] d → fld (c.q 1) 15 33 = 0 → x.domain = c.domain → x.created = true →
    ringRefusal s h x = none → (x.classP = true → x.suite = 5 → s.tcfg.lease ≠ 0) →
    (x.cur.valid = true ∨ x.isClear = true) → ringHeaderBad h0 h1 h2 = false → 1 ≤ freeStaged s →
    z = s.stage ⟨.stream h, d, t, .arm (toWord h0) (toWord h1) (toWord h2)⟩ →
    (x.classP = false →
      exec (.streamArm h0 h1 h2) s = .next ((z.wakeAs (z.setStream h (x.setSt 2))).answer c.id (okWords t [0]))) ∧
    (∀ dm, x.classP = true → dm = chargeOf z h → admitFail s h dm = none →
      exec (.streamArm h0 h1 h2) s = .next
        (((z.setDemand h dm).wakeAs ((z.setDemand h dm).setStream h (x.setSt 2))).answer c.id
          (okWords t [waitWord (s.setDemand h dm) x])))

/-- From the owning domain, with reserved bits zero and a timely tick: STREAM_DISARM of a stream that is Armed,
STREAM_RETIRE of one that is Created or Armed, and TWIN_LINK of a GSV publisher and a GSV subscriber of one tick
domain, both Created and unlinked, stage one change (TWIN_LINK one for each of the two streams, naming the other;
the retirement of a linked stream a second one, which ends the link of its twin) and are answered OK with the tick.
Nothing else changes. For a stream that is not Free, from its owning domain: STREAM_READ is answered OK with words
w0 to w23; STREAM_SNAPSHOT, with a timely plan tick, waits for that tick, at whose boundary it is taken. Nothing
else changes. (R85, R90, R100, R390, R391, R508, R20, Table 13.13) -/
def Obligations.StreamCommandsStageOrRead : Prop :=
  (∀ (c : Cmd) (s : State),
      (∀ x h d t, h = fld (c.q 1) 0 15 → x = futureStream s h → d = x.tickDomain → t = effTick s c [.stream h] d →
        Timely s c [.stream h] d → fld (c.q 1) 15 33 = 0 → x.domain = c.domain → 1 ≤ freeStaged s →
        (Front s c 0x13 → x.armed = true →
          exec .streamDisarm s = .next ((s.stage ⟨.stream h, d, t, .disarm⟩).answer c.id (okWords t []))) ∧
        (Front s c 0x14 → (x.created = true ∨ x.armed = true) → x.twinValid = false →
          exec .streamRetire s = .next ((s.stage ⟨.stream h, d, t, .retire⟩).answer c.id (okWords t [])))) ∧
      (∀ x h d t, h = fld (c.q 1) 0 15 → x = futureStream s h → d = x.tickDomain → x.twinValid = true →
        t = effTick s c [.stream h, .stream x.twin] d → Timely s c [.stream h, .stream x.twin] d →
        fld (c.q 1) 15 33 = 0 → x.domain = c.domain → 2 ≤ freeStaged s → Front s c 0x14 →
        (x.created = true ∨ x.armed = true) →
        exec .streamRetire s = .next (((s.stage ⟨.stream h, d, t, .retire⟩).stage
          ⟨.stream x.twin, d, t, .unlink⟩).answer c.id (okWords t []))) ∧
      (∀ p u xp xu d t, p = fld (c.q 1) 0 15 → u = fld (c.q 1) 15 15 → xp = futureStream s p → xu = futureStream s u →
        d = xp.tickDomain → t = effTick s c [.stream p, .stream u] d → Front s c 0x17 →
        Timely s c [.stream p, .stream u] d → fld (c.q 1) 30 18 = 0 → xp.isGsvPub = true → xu.isGsvSub = true →
        xu.tickDomain = d → xp.domain = c.domain → xu.domain = c.domain → xp.created = true → xu.created = true →
        xp.twinValid = false → xu.twinValid = false → 2 ≤ freeStaged s →
        exec .twinLink s = .next (((s.stage ⟨.stream p, d, t, .twin u⟩).stage ⟨.stream u, d, t, .twin p⟩).answer
          c.id (okWords t [])))) ∧
  ∀ (c : Cmd) (s : State) (h : Nat), h = fld (c.q 1) 0 15 → fld (c.q 1) 15 33 = 0 →
    (Front s c 0x15 → (s.stream h).free = false → (s.stream h).domain = c.domain →
      exec .streamRead s = .next (s.answer c.id (okWords 0 ((s.stream h).words.take 24)))) ∧
    (∀ t, Front s c 0x16 → t = (if c.isNext then s.plan + 1 else (c.q 0).toNat) → tickFar c 4 = false →
      (c.isNext = true ∨ (acceptTick c 4 < t ∧ s.plan < t)) → (streamBefore s h t).free = false →
      (streamBefore s h t).domain = c.domain →
      exec .streamSnapshot s = .next (s.setPhase c.id (.snapshot h t)))

/-- A GEN_INSTALL that passes checks 1 to 4 and every check of its own (fields in range; slot in the domain's subtree,
live and with the uses the stream needs; generation later than the current one and no identifier in use; no refused
roll; staged contexts and grace entries free), with a salt that it carries, stages the install for the stream and
for its live twin, takes the grace entries it needs, and is answered OK with the tick. One that asks for a fresh
salt, while entropy is usable, draws an entropy word, posts event 488 and has begun; begun with a word, and no
health failure since, it stages the install with the salt of that word and reports the salt. A GEN_ROLL that passes
checks 1 to 4, from the owning domain, with reserved bits zero and a timely tick, naming the valid next generation
of the stream and of its live twin, no previous generation still open, and staged contexts and grace entries free,
stages the roll for each of them, taking over the entry of a follow install, and is answered OK with the tick.
(R210, R211, R212, R221, R255, R391, R392, R393, R100, R217, R213, R214) -/
def Obligations.GenInstallAndRollStage : Prop :=
  (∀ (c : Cmd) (s u : State) (x : Context) (h d salt w : Nat) (t : Tick) (i : Install) (hs : List Nat) (draws : Bool),
      h = fld (c.q 1) 0 15 → x = futureStream s h → d = x.tickDomain → hs = twinTargets s h →
      t = effTick s c (hs.map Obj.stream) d → draws = bit (c.q 2) 11 →
      salt = (if draws then fld (Config.freeKey w) 0 96 else (c.q 3).toNat * 2 ^ 48 + (c.q 4).toNat) →
      i = installOf c salt →
      Timely s c (hs.map Obj.stream) d → fld (c.q 2) 0 10 = 0 → fld (c.q 6) 0 32 = 0 → i.gen.slot < slotCount →
      (i.follow && i.roll) = false → x.free = false → installBadRange x c i = false → x.domain = c.domain →
      inSubtree s i.gen.slot x.domain = true →
      (∀ g ∈ hs, ((futureStream s g).created = true ∨ (futureStream s g).armed = true) ∧
        (i.roll = true → (futureStream s g).cur.valid = true ∧ prevOpen (futureStream s g) t = false) ∧
        genRefused (futureStream s g) t i.gen = false) →
      (s.slot i.gen.slot).live = true →
      (∀ u ∈ neededUses x (decide (1 < hs.length)), bit (s.slot i.gen.slot).attr u = true) →
      hs.length ≤ freeStaged s → (hs.filter (fun g => installNeeds (futureStream s g) i)).length ≤ 4096 - s.grace.length →
      u = hs.foldl (fun z g =>
        (if installNeeds (futureStream s g) i then z.takeGrace g i.gen.num else z).stage ⟨.stream g, d, t, .install i⟩) s →
      (draws = false → Front s c 0x20 → exec .genInstall s = .next (u.answer c.id (okWords t []))) ∧
      (draws = true → Front s c 0x20 → entropyUsable s = true → w = s.draws →
        exec .genInstall s = .next ((s.draw.post 488).setPhase c.id (.begun w))) ∧
      (draws = true → Begun s c 0x20 w → s.ent.fail = false →
        exec .genInstall s = .next (u.answer c.id (okWords t [i.gen.g2, i.gen.g3])))) ∧
  ∀ (c : Cmd) (s : State) (h g d : Nat) (t : Tick) (hs : List Nat), Front s c 0x21 → h = fld (c.q 1) 0 15 →
    g = fld (c.q 1) 15 16 → d = (futureStream s h).tickDomain → hs = twinTargets s h →
    t = effTick s c (hs.map Obj.stream) d → Timely s c (hs.map Obj.stream) d → fld (c.q 1) 31 17 = 0 →
    (futureStream s h).free = false → (futureStream s h).domain = c.domain →
    (∀ k ∈ hs, ((futureStream s k).created = true ∨ (futureStream s k).armed = true) ∧
      rollRefused (futureStream s k) t g = false) →
    hs.length ≤ freeStaged s →
    (hs.filter (fun k => (futureStream s k).opens && !holdsNext s k g)).length ≤ 4096 - s.grace.length →
    exec .genRoll s = .next ((hs.foldl (fun z k =>
      (z.takeRoll k g (futureStream s k).opens).stage ⟨.stream k, d, t, .roll g⟩) s).answer c.id (okWords t []))

/-- A KEY_IMPORT that passes checks 1 to 4 and its own sends the request with handle, domain and the keyed-digest slot
that a digest-bound key is to go to, records the import with its target, uses, limit and instant, and waits (with
the bus busy it is answered as out of resources with detail 3). The answer of the key bus for the oldest import: the
first cause of Table 13.16 that it gives refuses it, on the bus and with ERR_KEY_BUS; otherwise, with the domain key
live since the request and the target Empty, the slot is written under the intersection of the uses (digest-bound,
whitened in Drill, or as it came), acknowledged, and the command answered OK with the attribute word; otherwise, and
where the derivation that whitens the key in Drill is refused its parent, the write is abandoned and no slot
changes. After 10 µs without an answer the import is refused with cause 6. Outside Drill, for an import that binds
no keyed-digest slot, the slot written holds the key of the two shares that the bus brought, split in two shares of
its own, state Valid, use count 0, the use limit of the command, the uses allowed by both the command and the
source, origin imported, the domain key of the domain as its parent one level above it, and the domain of the domain
key; no other slot changes. (R243, R244, R245, R246, R231, R235, R395, R396, Table 13.16, R230, R248) -/
def Obligations.KeyImportExchange : Prop :=
  ((∀ (c : Cmd) (now k : Nat) (s u : State), u = { s with now := max s.now now } → Front s c 0x28 → k = fld (c.q 1) 31 17 →
      fld (c.q 1) 0 23 = 0 → fld (c.q 2) 0 16 = 0 → k < 65536 → slotBlockDomain s k = some c.domain →
      (s.slot k).empty_ = true → (s.slot (slotDomain c.domain)).live = true →
      (bit (c.q 1) 24 = true → fld (c.q 1) 24 7 = 1 ∧ s.mode ≠ .drill ∧ freeDigest s ≠ none) →
      degradedRefuse s = false → s.keyCtl.seeded = true →
      (∃ i : Import, exec (.keyImport false now) s = .next (State.setPhase { u with
          imports := s.imports ++ [i], keyCtl := { s.keyCtl with digestUsed := i.digestRef.toList ++ s.keyCtl.digestUsed },
          out := { s.out with keyBus := some (.request (BitVec.ofNat 32 (fld (c.q 2) 16 32)) c.domain (digestFor s c)) } } c.id .keyBus) ∧
        i.cmd = c.id ∧ i.handle = BitVec.ofNat 32 (fld (c.q 2) 16 32) ∧ i.domain = c.domain ∧ i.slot = k ∧
        i.uses = BitVec.ofNat 7 (fld (c.q 1) 24 7) ∧ i.expire = bit (c.q 1) 23 ∧
        i.limit = (if c.q 3 = 0 then BitVec.allOnes 48 else c.q 3) ∧ i.since = max s.now now ∧
        i.digestRef = (if bit (c.q 1) 24 then freeDigest s else none) ∧ i.abandoned = false) ∧
      exec (.keyImport true now) s = .next ((u.sendBus (.request (BitVec.ofNat 32 (fld (c.q 2) 16 32)) c.domain (digestFor s c))).answer
        c.id [at_ 40 0x20 ||| at_ 0 3, 0])) ∧
    (∀ (i : Import) (rest : List Import) (r : KeyBusReply) (s : State), s.imports = i :: rest →
      (∀ cause, importCause i r = some cause → exec (.keyBusResponse r) s = .next
        ((((s.endImport i false).sendBus (.refusal i.handle cause)).post 463).answer i.cmd
          [at_ 40 0x0D ||| at_ 0 (cause * 2 ^ 24), 0])) ∧
      (importCause i r = none → (s.slot (slotDomain i.domain)).live = true → i.abandoned = false →
        (s.slot i.slot).empty_ = true → ∀ t, t = (s.endImport i true).writeImport i r →
        ((t.slot i.slot).empty_ = false → exec (.keyBusResponse r) s = .next
          ((t.sendBus (.ack i.handle i.slot)).answer i.cmd (okWords 0 [(t.slot i.slot).attr]))) ∧
        ((t.slot i.slot).empty_ = true →
          ∃ u, exec (.keyBusResponse r) s = .next u ∧ ∀ k, u.slot k = s.slot k)) ∧
      (importCause i r = none → ((s.slot (slotDomain i.domain)).live = false ∨ i.abandoned = true ∨
        (s.slot i.slot).empty_ = false) →
        ∃ t, exec (.keyBusResponse r) s = .next t ∧ (∀ k, t.slot k = s.slot k))) ∧
    ∀ (i : Import) (rest : List Import) (now : Nat) (s : State), s.imports = i :: rest →
      i.since + 10000 ≤ max s.now now →
      ∃ t, exec (.importTimeout now) s = .next t ∧ t.out.keyBus = some (.refusal i.handle 6) ∧
        (∀ k, t.slot k = s.slot k) ∧ t.imports = s.imports.filter (fun j => j.cmd != i.cmd)) ∧
  ∀ (i : Import) (r : KeyBusReply) (s : State), s.mode ≠ .drill → i.digestRef = none →
    (s.slot (slotDomain i.domain)).domainValid = true → i.domain < 16 → (s.slot (slotDomain i.domain)).depth ≤ 6 →
    (s.slot (slotDomain i.domain)).domain < 16 →
    ∃ v : KeySlot, ((s.endImport i true).writeImport i r).slot i.slot = v ∧
      v.key = r.share0 ^^^ r.share1 ∧ v.st = 1 ∧ v.u0 = 0 ∧ v.u1 = i.limit ∧
      fld v.attr 32 7 = (i.uses &&& r.uses).toNat ∧ fld v.attr 29 3 = 2 ∧ v.parent = slotDomain i.domain ∧
      v.depth = (s.slot (slotDomain i.domain)).depth + 1 ∧ v.domain = (s.slot (slotDomain i.domain)).domain ∧
      v.domainValid = true ∧
      ∀ k, k ≠ i.slot → ((s.endImport i true).writeImport i r).slot k = s.slot k

/-- A KEY_DERIVE that passes checks 1 to 4, with reserved bits zero, an Empty target slot of the kind (a domain key or a
record root from the management mailbox, or a record key in a stream slot of the domain), a live parent (the ladder
key, SEAL epoch key or record root in force) and a share split to be had, begins and changes nothing else. Begun,
with the parent live, the target still Empty and its KDF fetch by the Keccak core good, it writes the slot: the key
is the derivation of the parent's key under the label and context of Table 8.6, the slot is Valid with use count 0
and the use limit of the command, the parent's use count has advanced, no other slot changes, and the command is
answered OK with the slot's attribute word; with the parent no longer live or the target taken it is answered
ERR_STATE and no slot changes. KEY_INVALIDATE of a slot that the header's domain may invalidate, with reserved bits
zero and a timely plan tick, stages the invalidation and is answered OK with the tick; KEY_READ of a slot that it
may read answers with the slot's attribute word, use count and use limit and changes nothing else. (R30, R227, R229,
R233, R235, R237, R238, R242, R395, R397, R398, Table 8.6) -/
def Obligations.KeyDeriveInvalidateRead : Prop :=
  (∀ (c : Cmd) (s : State) (k p kind : Nat) (label : String) (ctx : List Byte) (core : Fin 2) (bad : Bool),
      k = fld (c.q 1) 31 17 → kind = fld (c.q 1) 20 3 → p = deriveParent s kind c.domain →
      label = (if kind = 0 then "DOM" else if kind = 1 then "SEALD" else "REC") →
      ctx = (if kind = 2 then natToBytes 4 (fld (c.q 2) 16 32) ++ natToBytes 2 (fld (c.q 2) 0 16)
        else natToBytes 1 c.domain) →
      ((kind = 0 ∧ k = slotDomain c.domain) ∨ (kind = 1 ∧ k = slotRoot c.domain) ∨ (kind = 2 ∧ k < 65536)) →
      (Front s c 0x29 → fld (c.q 1) 24 7 = 0 → fld (c.q 1) 0 20 = 0 → (s.slot k).empty_ = true → (s.slot p).live = true →
        degradedRefuse s = false → s.keyCtl.seeded = true →
        (kind ≤ 1 ∧ c.mbox = 16 ∧ c.q 2 = 0 ∨ kind = 2 ∧ slotBlockDomain s k = some c.domain) →
        exec (.keyDerive core bad) s = .next (s.setPhase c.id (.begun s.draws))) ∧
      (∀ (w : Nat) (key : Shares), Begun s c 0x29 w → c.domain < 16 → (s.slot p).live = true → (s.slot k).empty_ = true →
        fetchJudge (s.slot p) useKdf bad = .ok key →
        ∃ t : State, exec (.keyDerive core bad) s = .next (t.answer c.id (okWords 0 [(t.slot k).attr])) ∧
          (t.slot k).key = kdf key.whole label ctx ∧ (t.slot k).valid = true ∧ (t.slot k).u0 = 0 ∧
          (t.slot k).u1 = (if c.q 3 = 0 then BitVec.allOnes 48 else c.q 3) ∧
          t.slot p = { s.slot p with u0 := satAdd (s.slot p).u0 1 } ∧
          (∀ j, j ≠ k → j ≠ p → t.slot j = s.slot j) ∧
          t = { s with
            draws := s.draws + 1, slots := t.slots, keyCtl := t.keyCtl, power := t.power, eye := t.eye }) ∧
      (∀ w : Nat, Begun s c 0x29 w → ((s.slot p).live = false ∨ (s.slot k).empty_ = false) →
        exec (.keyDerive core bad) s =
          .next (s.answer c.id [at_ 40 0x06 ||| at_ 0 (stateDetail none (some (s.slot k).st)), 0]))) ∧
  ∀ (c : Cmd) (s : State),
    (∀ k, Front s c 0x2A → k = fld (c.q 1) 0 17 → fld (c.q 1) 17 31 = 0 → k < slotCount → Timely s c [.slot k] 4 →
      ((k < 65536 ∧ slotOwner s k = some c.domain) ∨
        (slotDomain 0 ≤ k ∧ k ≤ slotRoot 15 ∧ slotOwner s k = some c.domain ∧ c.mbox = 16)) →
      exec .keyInvalidate s = .next ((s.stage ⟨.slot k, 4, effTick s c [.slot k] 4, .invalidate⟩).answer c.id
        (okWords (effTick s c [.slot k] 4) []))) ∧
    (∀ k, Front s c 0x2B → k = fld (c.q 1) 0 17 → fld (c.q 1) 17 31 = 0 → k < slotCount →
      (slotOwner s k = some c.domain ∨ (c.mbox = 16 ∧ 65536 ≤ k)) →
      exec .keyRead s = .next (s.answer c.id (okWords 0 [(s.slot k).attr, (s.slot k).u0, (s.slot k).u1])))

/-- Under the conditions of their checks: CHAIN_CREATE draws an entropy word, posts event 488 and has begun; begun with
a word, and no health failure since and the domain key live, it derives the seed from the domain key and that word,
creates the chain (or renews the one that exists, which keeps its parameters), wakes the Keccak cores that the chain
holds awake and answers with the anchor statement; with a health failure it is answered RETRY_ENTROPY with detail 4,
and with the domain key no longer live ERR_STATE, and nothing else changes but the event of the first;
CHAIN_VERIFIER creates an empty verified chain with the named domain, interval length, delay, margin and lateness;
CHAIN_INSTALL installs the statement in it (each writes the record of the chain through the memory plane), at once
where nothing is installed and as incoming otherwise; CHAIN_DELETE stages the deletion for a plan tick; CHAIN_READ
answers with the chain's words and changes nothing else. On a chain with nothing installed a statement takes effect
at once: v is the start interval less one, the key the statement's commitment, publisher and count are the
statement's, and the chain is installed. On an installed chain the statement becomes the incoming one and nothing of
what is in force changes. (R177, R178, R191, R203, R204, R205, R255, R399, R400, R401, R402, Table 13.17) -/
def Obligations.ChainCommandsAct : Prop :=
  (∀ (c : Cmd) (s : State) (core : Fin 2) (bad : Bool),
      (∀ a, a = chainArgs c → Front s c 0x30 → fld (c.q 1) 17 11 = 0 → bit s.tcfg.enable a.td = true → a.slot < 65536 →
        a.publisher ≠ 0 → a.publisher ≠ BitVec.allOnes 32 → acceptInterval c a.td a.len + 2 ≤ a.start → renewBad s a = false →
        otherChain s c false a.index = false → slotBlockDomain s a.slot = some c.domain → s.img.bwId ≠ 0 →
        (a.renew = true ∨ s.pub a.index = none) → (s.slot a.slot).empty_ = true → (s.slot (slotDomain c.domain)).live = true →
        (a.renew = true ∨ recomputationShort s a.td a.len = 0) → entropyUsable s = true →
        exec (.chainCreate core bad) s = .next ((s.draw.post 488).setPhase c.id (.begun s.draws))) ∧
      (∀ a w key seed s1 s2 t, a = chainArgs c → Begun s c 0x30 w → s.ent.fail = false →
        (s.slot (slotDomain c.domain)).live = true →
        s.deriveBy (10 + core.val) bad a.slot (slotDomain c.domain) (some c.domain) "BWSEED"
          (natToBytes 2 a.index ++ natToBytes 4 a.publisher.toNat ++ natToBytes 2 a.count.toNat ++
            keyBytes (Config.freeKey w)) maskKdf 1 a.expire unlimited = (.ok key, s1) →
        s1.coreFetch (10 + core.val) a.slot useKdf false = (.ok seed, s2) →
        t = (s2.coreWorks (10 + core.val)).createChain c.domain a →
        exec (.chainCreate core bad) s = .next ((t.wakeAs t).answer c.id
          (okWords 0 (packWords 11 (anchorStatement s a seed.whole))))) ∧
      (∀ w, Begun s c 0x30 w →
        (s.ent.fail = true →
          exec (.chainCreate core bad) s = .next ((s.post 465).answer c.id [at_ 40 0x21 ||| at_ 0 4, 0])) ∧
        (s.ent.fail = false → (s.slot (slotDomain c.domain)).live = false →
          exec (.chainCreate core bad) s = .next (s.answer c.id
            [at_ 40 0x06 ||| at_ 0 (stateDetail none (some (s.slot (chainArgs c).slot).st)), 0]))) ∧
      (∀ n t, n = fld (c.q 1) 35 13 → Front s c 0x31 → fld (c.q 1) 0 11 = 0 →
        bit s.tcfg.enable (fld (c.q 1) 27 2) = true → fld (c.q 1) 11 10 ≤ 1000 → s.img.bwId ≠ 0 → s.ver n = none →
        t = s.storeVer n (newVer c) →
        exec .chainVerifier s = .next ((t.wakeAs t).answer c.id (okWords 0 []))) ∧
      (∀ n v, n = fld (c.q 1) 35 13 → Front s c 0x32 → fld (c.q 1) 0 35 = 0 → fld (c.q 12) 0 16 = 0 →
        s.ver n = some v → v.domain = c.domain → statementCause s v (statementOf c) = none →
        exec .chainInstall s = .next ((s.storeVer n (installStatement v (statementOf c))).answer c.id (okWords 0 []))) ∧
      (∀ ver n, ver = bit (c.q 1) 47 → n = fld (c.q 1) 34 13 → Front s c 0x33 → fld (c.q 1) 0 34 = 0 →
        (ver = true ∨ n ≤ 1023) → chainDomain s ver n = some c.domain → deleteStaged s ver n = false →
        chainNamed s ver n = false → (ver = true ∨ disclosuresLeft s n = false) → Timely s c [.chain ver n] 4 →
        exec .chainDelete s = .next ((s.stage ⟨.chain ver n, 4, effTick s c [.chain ver n] 4, .deleteChain⟩).answer c.id
          (okWords (effTick s c [.chain ver n] 4) []))) ∧
      (∀ ver n ws, ver = bit (c.q 1) 47 → n = fld (c.q 1) 34 13 → Front s c 0x34 → fld (c.q 1) 0 34 = 0 →
        (ver = true ∨ n ≤ 1023) → chainDomain s ver n = some c.domain → chainWords s ver n = some ws →
        exec .chainRead s = .next (s.answer c.id (okWords 0 ws)))) ∧
  ∀ (v : Ver) (b : List Byte),
    (v.installed = false → installStatement v b = { v with
      v := (beAt 20 6 b + (2 ^ 48 - 1)) % 2 ^ 48, key := slice 32 32 b, publisher := BitVec.ofNat 32 (beAt 4 4 b),
      count := BitVec.ofNat 16 (beAt 18 2 b), installed := true }) ∧
    (v.installed = true → installStatement v b = { v with
      inStart := beAt 20 6 b, inCount := BitVec.ofNat 16 (beAt 18 2 b), inKey := slice 32 32 b, inValid := true })

/-- For a class that the window admits to the doorbell page, while rings are not frozen, the stream is not Free and the
reserved bits are zero: a POST count not more than the ring's entries ahead of release and not behind the tail
becomes the tail; a RELEASE count between release and head becomes the release count. A doorbell write that breaks
one of these conditions changes no count of the ring: it advances the doorbell-error count of the ring's domain gate
and posts the event of that domain's group. Nothing else changes. (R329, R331, R332, R348, Table 17.5) -/
def Obligations.DoorbellsSetCounts : Prop :=
  ∀ (cls : Cls) (h : Handle) (rsvd : BitVec 8) (count : BitVec 32) (s : State) (r : Ring), r = s.ring h.toNat →
    windowHeld s = false → windowRefusal s cls (0x20 + h.toNat / 512) true = none →
    (frozen s = false → rsvd = 0 → (s.stream h.toNat).free = false →
      ahead count.toNat r.release ≤ r.entries → ahead r.tail r.release ≤ ahead count.toNat r.release →
      exec (.doorbellPost cls h rsvd count) s = .next (s.setRing h.toNat { r with tail := count.toNat })) ∧
    (frozen s = false → rsvd = 0 → (s.stream h.toNat).free = false →
      ahead count.toNat r.release ≤ ahead r.head r.release →
      exec (.doorbellRelease cls h rsvd count) s = .next (s.setRing h.toNat { r with
        release := count.toNat, changed := r.changed || count.toNat != r.release })) ∧
    (∀ d g, blockDomain s h.toNat = some d → g = s.gate d →
      (frozen s = true ∨ rsvd ≠ 0 ∨ (s.stream h.toNat).free = true ∨
        r.entries < ahead count.toNat r.release ∨ ahead count.toNat r.release < ahead r.tail r.release →
        exec (.doorbellPost cls h rsvd count) s = .next ((s.setGate d { g with
          doorbellErr := g.doorbellErr + 1 }).post (312 + 4 * d))) ∧
      (frozen s = true ∨ rsvd ≠ 0 ∨ (s.stream h.toNat).free = true ∨
        ahead r.head r.release < ahead count.toNat r.release →
        exec (.doorbellRelease cls h rsvd count) s = .next ((s.setGate d { g with
          doorbellErr := g.doorbellErr + 1 }).post (312 + 4 * d))))

/-- OUTPUT_WRITE, on a ring that is served and whose gate admits the entry, stores the four words of the oldest ready
output, eight bytes each, in the entry that was allotted to it, and the buffer bytes that waited with it, where the
gate admits its buffer, at its buffer address. With entry and buffer inside the 48-bit space and apart from each
other, those bytes read back, and every other byte of host memory reads as before. The output leaves the list of
ready ones, and of the rest of the machine only Eyebright sees it written. Where the gate refuses the buffer of
bytes that waited, the words are stored with flags A and B clear, and every byte outside the entry reads as before.
(R328, R329, R337, R340, R343, R361, Table 11.7, Table 12.4) -/
def Obligations.OutputWriteStores : Prop :=
  ∀ (h : Handle) (s : State) (o : OutRec) (rest : List OutRec) (a : Nat) (f : Option GateFault),
    (s.ring h.toNat).outs = o :: rest → a = entryAddr (s.ring h.toNat) o.entry → ringServes s h.toNat = true →
    deputyRefusal s (s.stream h.toNat).domain h.toNat a 32 true = none →
    f = deputyRefusal s (s.stream h.toNat).domain h.toNat o.bufAddr (bufferStride (s.ring h.toNat)) true →
    o.words.length = 4 → a + 32 ≤ 2 ^ 48 →
    ((o.buf = [] ∨ f = none) → o.bufAddr + o.buf.length ≤ 2 ^ 48 →
      (o.bufAddr + o.buf.length ≤ a ∨ a + 32 ≤ o.bufAddr) →
      ∃ t, exec (.outputWrite h) s = .next t ∧
        Memory.read t.hostMem a 32 = wordsBytes o.words ∧
        Memory.read t.hostMem o.bufAddr o.buf.length = o.buf ∧
        (∀ b, ¬ (a ≤ b ∧ b < a + 32) → ¬ (o.bufAddr ≤ b ∧ b < o.bufAddr + o.buf.length) →
          Memory.byte t.hostMem b = Memory.byte s.hostMem b) ∧
        (t.ring h.toNat).outs = (s.ring h.toNat).outs.filter (· != o) ∧
        t = { s with rings := t.rings, hostMem := t.hostMem, eye := t.eye }) ∧
    (o.buf ≠ [] → f ≠ none →
      ∃ t, exec (.outputWrite h) s = .next t ∧
        Memory.read t.hostMem a 32 = wordsBytes (o.words.set 0 (o.words.getD 0 0 &&& ~~~(at_ 36 1 ||| at_ 35 1))) ∧
        (∀ b, ¬ (a ≤ b ∧ b < a + 32) → Memory.byte t.hostMem b = Memory.byte s.hostMem b) ∧
        t = { s with rings := t.rings, hostMem := t.hostMem, gates := t.gates, eye := t.eye })

/-- A ring with interrupts due and none raised this period, which is served and whose gate admits the header, has its
header written and its message latched once, and no more in the period; where the gate refuses the header the ring
stops, the refusal is logged and no message follows. A ring with a V2 record or its Final output waiting and no room
posts ring-starved once a plan period. A stopped ring whose gate changed and is online runs on when every page of
its extent passes, and else stays stopped with the refusal logged. (R330, R337, R343, R359, R457) -/
def Obligations.RingRowsComplete : Prop :=
  ∀ (h : Handle) (s : State) (r : Ring), r = s.ring h.toNat →
    (r.raise_ = true → r.raised = false → ringServes s h.toNat = true →
      deputyRefusal s (s.stream h.toNat).domain h.toNat r.base 64 true = none →
      ∃ t, exec (.ringInterrupt h) s = .next t ∧
        t.ring h.toNat = { r with
          changed := false, stateHdr := (s.stream h.toNat).st, raise_ := false, raised := true } ∧
        t.hostMem = Memory.write s.hostMem ((r.base + 24) % 2 ^ 48) (wordsBytes (headerWords r (s.stream h.toNat).st)) ∧
        bit t.eye.ringLatch (s.stream h.toNat).message = true ∧ (∀ k, k ≠ h.toNat → t.ring k = s.ring k) ∧
        t = { s with rings := t.rings, hostMem := t.hostMem, eye := t.eye }) ∧
    (∀ x, r.raise_ = true → r.raised = false → ringServes s h.toNat = true →
      deputyRefusal s (s.stream h.toNat).domain h.toNat r.base 64 true = some x →
      exec (.ringInterrupt h) s = .next (State.logGate (s.setRing h.toNat { r with stopped := true })
        (s.stream h.toNat).domain x)) ∧
    (r.starved = false → r.room = false → (r.waiting ≠ [] ∨ retireDone s h.toNat = true) →
      exec (.ringStarved h) s = .next ((s.setRing h.toNat { r with starved := true }).post
        (313 + 4 * (s.stream h.toNat).domain))) ∧
    ((s.gate (s.stream h.toNat).domain).changed = true → r.stopped = true →
      gateServing s (s.stream h.toNat).domain = true → ∀ f, f = deputyFirst s (s.stream h.toNat).domain h.toNat
        [(r.base, 64 + 32 * r.entries, false), (r.base, 64 + 32 * r.entries, true)] →
      (f = none → exec (.ringRecheck h) s = .next (s.setRing h.toNat { r with stopped := false })) ∧
      (∀ x, f = some x → exec (.ringRecheck h) s = .next (s.logGate (s.stream h.toNat).domain x)))

/-- STREAM_FREED of a Retiring stream with no output waiting or ready, no entry posted that is not fetched, no frame,
hold or record left, its ring served, room for the Final output, no message of an interrupting ring raised yet in
the plan period and the gate admitting the ring: the context, its companion state and its ring are cleared, its
charge falls to zero, other streams, rings and gates and all ports stay as they are, and host memory changes only in
the ring's header and the entry allotted. (R91, R347, R188, R100) -/
def Obligations.RetiredStreamFreed : Prop :=
  ∀ (h : Handle) (s : State) (r : Ring), r = s.ring h.toNat → r.waiting = [] → retireDone s h.toNat = true →
    (r.raised = false ∨ bit r.h0 45 = false) →
    ringServes s h.toNat = true → r.room = true →
    deputyRefusal s (s.stream h.toNat).domain h.toNat r.base (64 + 32 * r.entries) true = none →
    deputyRefusal s (s.stream h.toNat).domain h.toNat r.base 64 true = none →
    ∀ a, a = entryAddr r (r.era * 2 ^ 32 + r.reserve) → a + 32 ≤ 2 ^ 48 → r.base + 64 ≤ 2 ^ 48 →
    ∃ t, exec (.streamFreed h) s = .next t ∧ t.stream h.toNat = .zero ∧ (t.stream h.toNat).free = true ∧
      t.aux_ h.toNat = .zero ∧ t.ring h.toNat = .zero ∧ t.demand h.toNat = .zero ∧
      (∀ k, k ≠ h.toNat → t.stream k = s.stream k ∧ t.ring k = s.ring k ∧ t.aux_ k = s.aux_ k) ∧
      (∀ b, ¬ (a ≤ b ∧ b < a + 32) → ¬ (r.base + 24 ≤ b ∧ b < r.base + 56) →
        Memory.byte t.hostMem b = Memory.byte s.hostMem b) ∧
      t.ports = s.ports ∧ t.gates = s.gates ∧ t.staged = s.staged ∧ t.cmds = s.cmds ∧ t.mode = s.mode

/-- PLAN_BOUNDARY, with a ledger that adds up, where a plan tick n begins: the counts of the period that ends are made
(its ports and the ledger), Eyebright's snapshot is taken of them, the period is closed (headers, overruns, stopped
rings), the streams' snapshots are taken from the state before the changes (a due one of a stream that is not Free
and has no frame in the block is answered with w24 to w31, and one of a stream with frames in the block is kept for
their effects), the tick indices advance, every change whose tick has begun commits (a port that is reset drops the
frames it is named to be receiving), previous generations close and early windows open, the rest level is computed
afresh where a change of it committed, and the period begins (its policing counts at zero, the steps of verified
chains afresh). Where no plan tick begins only the clock moves. (R74, R20, R21, R45, R467) -/
def Obligations.BoundaryOrder : Prop :=
  (∀ (now cycles : Nat) (ledger : List (List Nat)) (pcs : List PcsCount) (s : State), wfLedger cycles ledger = true →
    (∀ n a b c, nextPlan (s.atTime now) = some n →
      a = (((((s.atTime now).countPeriod cycles ledger pcs).takeSnapshot n).endPeriod).streamSnapshots n).advanceTicks n →
      b = a.commitDue (pcs.flatMap (·.cut)) →
      c = (b.streams.map (·.1)).foldl State.earlyIfDue ((b.streams.map (·.1)).foldl State.closeIfDue b) →
      exec (.planBoundary now cycles ledger pcs) s =
        .next ((if (dueOrder a).any movesRest then c.updateRest else c).beginPeriod)) ∧
    (nextPlan (s.atTime now) = none → exec (.planBoundary now cycles ledger pcs) s = .next (s.atTime now))) ∧
  ∀ (n t : Tick) (c : Cmd) (h : Nat) (s : State), c ∈ s.cmds → c.phase = .snapshot h t → t ≤ n →
      (s.stream h).free = false →
      (inBlock s h s.nextFrame = false →
        { c with phase := .answered (answerWords 0 0 t ((s.stream h).words.drop 24)) } ∈ (s.streamSnapshots n).cmds) ∧
      (inBlock s h s.nextFrame = true → { c with phase := .settling } ∈ (s.streamSnapshots n).cmds ∧
        (⟨c.id, h, t, s.nextFrame, s.stream h⟩ : Shot) ∈ (s.streamSnapshots n).shots)

/-- When plan tick n begins, the plan index is n and the index of every enabled tick domain is the number of its ticks
up to the instant of plan tick n, or what it was where that is more: no index decreases, and the index of a domain
that is not enabled stays as it is. (R44, R45, R49) -/
def Obligations.TicksAdvance : Prop :=
  ∀ (n : Tick) (s : State), (s.advanceTicks n).plan = n ∧
    (∀ k, k ∈ enabledDoms s → k ≠ 4 → tickNow (s.advanceTicks n) k =
      max (tickNow s k) (ticksAt (domFreq s k) (tickInstant (planFreq s) n))) ∧
    (∀ k, k ∉ enabledDoms s → k ≠ 4 → tickNow (s.advanceTicks n) k = tickNow s k) ∧
    (∀ k, k ≠ 4 → tickNow s k ≤ tickNow (s.advanceTicks n) k)

/-- Each of the three commit rows answers a next state. Where the arming of the stream is due, it leaves the staging
area and the stream is Armed, with the header words read at staging in force and its counts of tail and head as they
were; its context changes in nothing else, and no other stream's context and no other ring changes. Where the disarm
is due, it leaves the staging area and the stream is Created, its context changed in nothing else, and no other
context changes. Where the retirement is due, it leaves the staging area, the stream is Retiring, none of its grace
entries is left, the twin that names it back is linked no more, and no other context changes. Outside the fields of
the state that each clause names, nothing changes. Where no such change is due, nothing changes at all. (R85, R330,
R359, R90, R100, R336) -/
def Obligations.StreamStateChangesTakeEffect : Prop :=
  (∀ (h : Handle) (s : State),
    (dueChange s (.stream h.toNat) isArm = none → exec (.streamArmCommit h) s = .next s) ∧
    ∀ (x : Staged) (h0 h1 h2 : Word), dueChange s (.stream h.toNat) isArm = some x → x.chg = .arm h0 h1 h2 →
      ∃ t, exec (.streamArmCommit h) s = .next t ∧ t.stream h.toNat = (s.stream h.toNat).setSt 2 ∧
        (t.stream h.toNat).armed = true ∧ (∀ k, k ≠ h.toNat → t.stream k = s.stream k ∧ t.ring k = s.ring k) ∧
        (t.ring h.toNat).h0 = h0 ∧ (t.ring h.toNat).h1 = h1 ∧ (t.ring h.toNat).h2 = h2 ∧
        (t.ring h.toNat).tail = (s.ring h.toNat).tail ∧ (t.ring h.toNat).head = (s.ring h.toNat).head ∧
        t.staged = s.staged.erase x ∧
        t = { s with
          streams := t.streams, rings := t.rings, aux := t.aux, slots := t.slots, keyCtl := t.keyCtl, grace := t.grace,
          gates := t.gates, staged := t.staged, eye := t.eye }) ∧
  ∀ (h : Handle) (s : State),
    (dueChange s (.stream h.toNat) (· == .disarm) = none → exec (.streamDisarmCommit h) s = .next s) ∧
    (dueChange s (.stream h.toNat) (· == .retire) = none → exec (.retirementCommit h) s = .next s) ∧
    ∀ (x : Staged),
    (dueChange s (.stream h.toNat) (· == .disarm) = some x →
      ∃ t, exec (.streamDisarmCommit h) s = .next t ∧ t.stream h.toNat = (s.stream h.toNat).setSt 1 ∧
        (t.stream h.toNat).created = true ∧ (∀ k, k ≠ h.toNat → t.stream k = s.stream k) ∧
        t.staged = s.staged.erase x ∧
        t = { s with
          streams := t.streams, shots := t.shots, adm := t.adm, rings := t.rings, jobs := t.jobs, tx := t.tx,
          egSkip := t.egSkip, ports := t.ports, aux := t.aux, slots := t.slots, keyCtl := t.keyCtl, grace := t.grace,
          staged := t.staged, eye := t.eye }) ∧
    (dueChange s (.stream h.toNat) (· == .retire) = some x →
      ∃ t, exec (.retirementCommit h) s = .next t ∧ (t.stream h.toNat).retiring = true ∧
        (∀ k, k ≠ h.toNat → k ≠ (s.stream h.toNat).twin → t.stream k = s.stream k) ∧
        (∀ e ∈ t.grace, e.handle ≠ h.toNat) ∧
        ((s.stream h.toNat).twinValid = true → (s.stream h.toNat).twin ≠ h.toNat →
          (s.stream (s.stream h.toNat).twin).twin = h.toNat →
          (t.stream (s.stream h.toNat).twin).twinValid = false) ∧
        t.staged = s.staged.erase x ∧
        t = { s with
          streams := t.streams, shots := t.shots, adm := t.adm, rings := t.rings, jobs := t.jobs, tx := t.tx,
          egSkip := t.egSkip, ports := t.ports, aux := t.aux, slots := t.slots, keyCtl := t.keyCtl, grace := t.grace,
          v2 := t.v2, staged := t.staged, eye := t.eye })

/-- With a staged roll to the valid next generation whose tick is within the grace, EARLY_WINDOW_OPEN makes the entry of
the next generation an empty, open replay state and changes nothing else. With the close tick begun, CLOSE_TICK
closes the previous generation; the stream contexts stay, and so does everything else but the stream's companion
state, the key store, the grace entries and the events. GRACE_ENTRY_FREE frees the grace entry of each closed
generation of the stream that no frame in flight selected, and changes nothing else. FOLLOW_ROLL_RETRY of a follow
roll that had to wait stages it for the tick of R221 where a staged context is free, and else only posts the
staging-miss event. (R216, R217, R218, R221) -/
def Obligations.GenerationWindowsMove : Prop :=
  ∀ (h : Handle) (s : State) (c : Context), c = s.stream h.toNat →
    ((∃ x ∈ s.staged, x.obj = .stream h.toNat ∧ x.chg = .roll c.nxt.num ∧ x.tick ≤ tickNow s c.tickDomain + c.grace) →
      c.nxt.valid = true →
      exec (.earlyWindowOpen h) s = .next { s with grace := s.grace.map (fun e =>
        if e.handle = h.toNat && e.gen == c.nxt.num && !e.previous && !e.opened then
          { e with hi := 0, map := 0, opened := true } else e) }) ∧
    (c.prv.valid = true → c.closeTick ≤ tickNow s c.tickDomain →
      ∃ t, exec (.closeTick h) s = .next t ∧ c.prv.num ∈ (t.aux_ h.toNat).closed ∧
        t = { s with aux := t.aux, slots := t.slots, keyCtl := t.keyCtl, grace := t.grace, eye := t.eye }) ∧
    exec (.graceEntryFree h) s = .next { s with
      grace := s.grace.filter (fun e => !(e.handle == h.toNat && (e.previous &&
        (s.aux_ h.toNat).closed.contains e.gen && !inFlight s h.toNat e.gen))) } ∧
    (∀ a f, a = s.aux_ h.toNat → f = futureStream s h.toNat → a.followWait = true → a.follow = true →
      c.nxt.valid = true → f.nxt.valid = true → f.nxt.num = c.nxt.num → f.retiring = false →
      (1 ≤ freeStaged s →
        exec (.followRollRetry h) s = .next ((s.setAux h.toNat { a with follow := false, followWait := false }).stage
          ⟨.stream h.toNat, c.tickDomain, followTick s h.toNat, .roll c.nxt.num⟩)) ∧
      (freeStaged s = 0 →
        exec (.followRollRetry h) s = .next ((s.setAux h.toNat a).post (412 + 6 * c.tickDomain))))

/-- The due install of a generation: a stream without a current generation takes it as the current one, with its first
transmit count where the stream is no record stream, and keeps its next and previous ones; one with a current
generation, where the install carries no roll, takes it as the next one, and nothing else of its context changes;
where it carries one, the new generation is the current one, the one that was current the previous one, and there is
no next one. The slot of the generation takes the use limit of the install. The due roll of a stream with a valid
next generation at tick T makes the current generation the previous one and the next one the current one, leaves no
next generation, sets the close tick to T plus the grace, clears the flags of R84 but on a SEAL stream, and, where
the stream is no record stream, starts the transmit count at the first count of the installed generation; words w0
and w7 stay. Either change leaves the staging area; no other stream's context changes, and nothing else but the
companion state of streams, the key store, the grace entries and the events. Where no such change is due, nothing
changes. (R145, R210, R212, R213, R216, R217, R84) -/
def Obligations.InstallAndRollTakeEffect : Prop :=
  (∀ (h : Handle) (s : State),
      (dueChange s (.stream h.toNat) isInstall = none → exec (.genInstallCommit h) s = .next s) ∧
      (dueChange s (.stream h.toNat) isRoll = none → exec (.rollCommit h) s = .next s)) ∧
  (∀ (h : Handle) (s : State) (x : Staged) (i : Install) (c : Context), c = s.stream h.toNat →
      dueChange s (.stream h.toNat) isInstall = some x → x.chg = .install i →
      ∃ t, exec (.genInstallCommit h) s = .next t ∧
        (c.cur.valid = false → (t.stream h.toNat).cur = i.gen ∧ (t.stream h.toNat).nxt = c.nxt ∧
          (t.stream h.toNat).prv = c.prv ∧
          (c.isRecord = false → i.first < 2 ^ 64 → (t.stream h.toNat).txCount = i.first)) ∧
        (c.cur.valid = true → i.roll = false → t.stream h.toNat = { c with nxt := i.gen }) ∧
        (c.cur.valid = true → i.roll = true → i.gen.valid = true → (t.stream h.toNat).cur = i.gen ∧
          (t.stream h.toNat).prv = c.cur ∧ (t.stream h.toNat).nxt = .zero) ∧
        (t.slot i.gen.slot).u1 = (if i.limit = 0 then BitVec.allOnes 48 else i.limit) ∧
        (∀ k, k ≠ h.toNat → t.stream k = s.stream k) ∧ t.staged = s.staged.erase x ∧
        t = { s with
          streams := t.streams, aux := t.aux, slots := t.slots, keyCtl := t.keyCtl, grace := t.grace,
          staged := t.staged, eye := t.eye }) ∧
  ∀ (h : Handle) (s : State) (x : Staged) (g : Nat) (c : Context), c = s.stream h.toNat →
    dueChange s (.stream h.toNat) isRoll = some x → x.chg = .roll g → c.nxt.valid = true →
    ∃ t, exec (.rollCommit h) s = .next t ∧ (t.stream h.toNat).cur = c.nxt ∧ (t.stream h.toNat).prv = c.cur ∧
      (t.stream h.toNat).nxt = .zero ∧ (t.stream h.toNat).w11 = BitVec.ofNat 48 (x.tick + c.grace) ∧
      (c.isSealRec = false → (t.stream h.toNat).rollRequested = false ∧ (t.stream h.toNat).txExhausted = false ∧
        (t.stream h.toNat).keyRefused = false) ∧
      (c.isRecord = false → (s.aux_ h.toNat).firstCount < 2 ^ 64 →
        (t.stream h.toNat).txCount = (s.aux_ h.toNat).firstCount) ∧
      (t.stream h.toNat).w0 = c.w0 ∧ (t.stream h.toNat).w7 = c.w7 ∧
      (∀ k, k ≠ h.toNat → t.stream k = s.stream k) ∧ t.staged = s.staged.erase x ∧
      t = { s with
        streams := t.streams, aux := t.aux, slots := t.slots, keyCtl := t.keyCtl, grace := t.grace,
        staged := t.staged, eye := t.eye }

/-- A due change leaves the staging area and takes effect. An invalidation makes the Valid slot Scrubbing, orphans its
descendants, turns the sweep on and posts event 459. A gate goes offline or online with its changed mark set and its
event posted; where it goes offline, its domain's records in progress are to be walked afresh. An image activation
is the activation of that slot, the frames named being cut; where the slot verifies, its image is in force, the slot
the active one and every gate online; where it does not, nothing but the staging area changes. A port reset takes
the link down and holds an existing port in reset from now. STAGED_CHANGE_COMMIT makes every due change take effect,
in the order of R74, up to entry into Lockdown. Nothing else changes, and nothing at all (but the clock, in the row
of the port) where no such change is due. (R21, R74, R232, R233, R361, R371, R407, R427, R300, R312, R405) -/
def Obligations.OtherCommitsTakeEffect : Prop :=
  (∀ (k : SlotIx) (s : State),
    (∀ (x : Staged) (v : KeySlot) (u : State), dueChange s (.slot k.toNat) (· == .invalidate) = some x →
      v = s.slot k.toNat → v.valid = true → u = s.setSlot k.toNat { v with attr := setFld v.attr 46 2 2 } →
      ∃ t, exec (.invalidationCommit k) s = .next (State.post t 459) ∧
        t = { s with
          slots := orphanBelow k.toNat u.slots, staged := s.staged.erase x
          keyCtl := { s.keyCtl with sweepOn := true, sweepAgain := true } } ∧
        (t.slot k.toNat).scrubbing = true ∧
        ∀ j ∈ descendants u.slots 6 [k.toNat], (t.slot j).orphaned = true) ∧
    (dueChange s (.slot k.toNat) (· == .invalidate) = none → exec (.invalidationCommit k) s = .next s)) ∧
  (∀ (g : Fin 17) (s : State),
    (∀ x, dueChange s (.gate g.val) (· == .gateOffline) = some x →
      exec (.gateOfflineCommit g) s = .next ((State.setGate { s.unstage x with
        jobs := s.jobs.map (fun j : RecordJob => if j.ctx.domain = g.val then { j with walked := false } else j) }
        g.val { s.gate g.val with online := false, changed := true }).post (377 + 2 * g.val))) ∧
    (∀ x, dueChange s (.gate g.val) (· == .gateOnline) = some x →
      exec (.gateOnlineCommit g) s = .next (((s.unstage x).setGate g.val { s.gate g.val with
        online := true, changed := true }).post (377 + 2 * g.val))) ∧
    (dueChange s (.gate g.val) (· == .gateOffline) = none → exec (.gateOfflineCommit g) s = .next s) ∧
    (dueChange s (.gate g.val) (· == .gateOnline) = none → exec (.gateOnlineCommit g) s = .next s)) ∧
  (∀ (cut : List Nat) (s : State),
    (∀ (x : Staged) (b : Bool), dueChange s .image (fun _ => true) = some x → x.obj = .image → x.chg = .activate b →
      (∀ img, verifyImage s.fuses (s.nv.slotOf b).bytes = .good img →
        ∃ t, exec (.imageActivationCommit cut) s = .next t ∧ t = (s.unstage x).commitImage b cut ∧ t.img = img ∧
          t.active.map (·.slotB) = some b ∧ t.staged = s.staged.erase x ∧ ∀ g, g < 17 → (t.gate g).online = true) ∧
      ((∀ img, verifyImage s.fuses (s.nv.slotOf b).bytes ≠ .good img) →
        exec (.imageActivationCommit cut) s = .next (s.unstage x))) ∧
    (dueChange s .image (fun _ => true) = none → exec (.imageActivationCommit cut) s = .next s)) ∧
  (∀ (p : Fin 16) (now : Nat) (cut : List Nat) (s u : State), u = s.atTime now →
    (∀ x, dueChange u (.port p.val) (· == .portReset) = some x → portExists s.img p.val = true →
      ∃ t, exec (.portResetAction p now cut) s = .next t ∧ t = (u.unstage x).resetPort p.val cut ∧
        (t.port p.val).up = false ∧ (t.port p.val).inReset = true ∧
        (t.port p.val).resetAt = max s.now now ∧ t.staged = s.staged.erase x) ∧
    (dueChange u (.port p.val) (· == .portReset) = none → exec (.portResetAction p now cut) s = .next u)) ∧
  ∀ s : State, exec .stagedChangeCommit s = .next ((dueOrder s).foldl (fun x c =>
    if x.mode == .lockdown then x else (x.unstage c).commitChange [] c) s)

/-- In a mode other than Drill and Lockdown, a due mode change leaves the staging area and takes effect: Drill with the
drill flag set, the streams, the image and the fuse fields as they were, and event 498 posted; the way into Dormant
begun, with the egress interface no longer ready, nothing classified any more and event 498 posted; and out of any
other mode than Dormant Commission, with every existing port's link down, and Service, with transmit-enable risen,
each with event 498 posted. In Drill and in Lockdown, out of which no mode change leads, and where none is due,
nothing but the staging area changes. In Dormant COMMISSION_SERVICE_CHANGE changes nothing. (R381, R386, R412, R435,
R436, R437, R433, R453, Table 14.2) -/
def Obligations.ModeChangesTakeEffect : Prop :=
  ∀ (s : State),
    (s.mode ≠ .drill → s.mode ≠ .lockdown →
      (∀ x, dueChange s .mode (· == .mode .drill) = some x →
        ∃ t u : State, exec .drillEntry s = .next t ∧ t = u.post 498 ∧ t.mode = .drill ∧ t.ladder.drill = true ∧
          t.staged = s.staged.erase x ∧ t.streams = s.streams ∧ t.img = s.img ∧ t.fuses = s.fuses) ∧
      (∀ x, dueChange s .mode (· == .mode .dormant) = some x →
        ∃ t u : State, exec .dormantEntry s = .next t ∧ t = u.post 498 ∧ t.mode = .dormant ∧ t.power.entering = true ∧
          t.eReady = false ∧ t.classifying = false) ∧
      (s.mode ≠ .dormant →
        ∀ x, dueChange s .mode (fun c => c == .mode .service || c == .mode .commission) = some x →
          (x.chg = .mode .service → exec .commissionServiceChange s =
            .next ((State.txRise { s.unstage x with mode := .service }).post 498)) ∧
          (x.chg = .mode .commission → exec .commissionServiceChange s =
            .next ((State.allDown { s.unstage x with mode := .commission }).post 498)))) ∧
    (s.mode = .drill ∨ s.mode = .lockdown →
      (∀ x, dueChange s .mode (· == .mode .drill) = some x → exec .drillEntry s = .next (s.unstage x)) ∧
      (∀ x, dueChange s .mode (· == .mode .dormant) = some x → exec .dormantEntry s = .next (s.unstage x)) ∧
      (∀ x, dueChange s .mode (fun c => c == .mode .service || c == .mode .commission) = some x →
        exec .commissionServiceChange s = .next (s.unstage x))) ∧
    (s.mode = .dormant → exec .commissionServiceChange s = .next s) ∧
    (dueChange s .mode (· == .mode .drill) = none → exec .drillEntry s = .next s) ∧
    (dueChange s .mode (· == .mode .dormant) = none → exec .dormantEntry s = .next s) ∧
    (dueChange s .mode (fun c => c == .mode .service || c == .mode .commission) = none →
      exec .commissionServiceChange s = .next s)

/-- When admission of stream h with demand d finds no failing check, no plan overload is in force and, with the demand
included, the seal and open sums are within the protection share of the slots, the echo sum is zero or within the
echo room, the control sums are within the control share, the Keccak sum with the chains is within the Keccak share
of the permutations, and the digest sum is within the lease. (R61, R62, R63, R71, Table 2.6) -/
def Obligations.AdmissionKeepsEveryShare : Prop :=
  ∀ (s u : State) (h : Nat) (d : Demand), u = s.setDemand h d → admitFail s h d = none →
    s.ovr.overload = false ∧
    sumOf u (·.sealing) ≤ s.tcfg.protShare * planSlots s / 100 ∧
    sumOf u (·.opening) + sumOf u (·.echo) ≤ s.tcfg.protShare * planSlots s / 100 ∧
    (sumOf u (·.echo) = 0 ∨ sumOf u (·.echo) ≤ 95 * planSlots s / 100 - lineReservation s) ∧
    sumOf u (·.ctrlSeal) ≤ s.tcfg.ctrlShare * planSlots s / 100 ∧
    sumOf u (·.ctrlOpen) ≤ s.tcfg.ctrlShare * planSlots s / 100 ∧
    sumOf u (·.keccak) + (2 * s.vers.length + s.pubs.length) ≤ s.tcfg.keccakShare * planPerms s / 100 ∧
    sumOf u (·.digest) ≤ s.tcfg.lease

/-- The n-th frame of a plan period in a direction is demoted exactly if n exceeds Q and either n exceeds Q + Qb or the
burst allowance of the window has been used up, with Q, Qb and the allowance of the context that the frame took at
classification; at a frame beyond Q a window is open, which, where none was, begins there with its whole allowance
and length, and a frame within Q + Qb that is not demoted takes one from what is left. BURST_WINDOW_END closes a
window whose plan periods have passed with nothing left, and changes no other field; any other window it leaves
alone. (R22, R59, R60, R67, Table 3.6) -/
def Obligations.PolicingDemotes : Prop :=
  (∀ (w n left : Nat) (was : Bool) (a c : Context) (op : Bool), n = min 1023 (c.periodCount op + 1) → w < 1024 →
    was = (c.windowOpen op && decide (0 < c.windowLeft op)) →
    left = (if was then c.burstLeft op else a.burstAllow) →
    ((policeP w a c op).1 = true ↔ a.steady < n ∧ (a.steady + a.burstPeak < n ∨ left = 0)) ∧
    ((policeP w a c op).2.periodCount op = n) ∧
    (a.steady < n → (policeP w a c op).2.windowOpen op = true ∧
      (policeP w a c op).2.windowLeft op = if was then c.windowLeft op else w) ∧
    (a.steady < n → n ≤ a.steady + a.burstPeak → 0 < left → (policeP w a c op).2.burstLeft op = left - 1) ∧
    (n ≤ a.steady → (policeP w a c op).2.burstLeft op = c.burstLeft op ∧
      (policeP w a c op).2.windowOpen op = c.windowOpen op)) ∧
  ∀ (h : Handle) (op : Bool) (s : State),
    ((s.stream h.toNat).windowOpen op = true ∧ (s.stream h.toNat).windowLeft op = 0 →
      exec (.burstWindowEnd h op) s =
        .next (s.setStream h.toNat (((s.stream h.toNat).setWindowOpen op false).setBurstLeft op 0))) ∧
    ((s.stream h.toNat).windowOpen op = false ∨ (s.stream h.toNat).windowLeft op ≠ 0 →
      exec (.burstWindowEnd h op) s = .next s)

/-- When valid or holdover time first appears with the keeper running and not aligned, TIME_ALIGN sets the keeper to the
time bus; at any other time it takes the sample and nothing more. QUALITY_CHANGE gives the quality of Table 2.2 and
moves the keeper not at all. A PPS edge latches the reading and posts event 497. These rows change only tick state
and events, and neither the plan index nor that of a domain. OVERRUN in a direction flags it, advances that
direction's counter, withholds C and B work there behind every frame that is in the block, and posts the event of
the plan domain. Eight consecutive plan periods with an overrun set plan overload and post it; 96 without one clear
it. Nothing else changes. (R44, R48, R50, R51, R75, Table 2.2, Table 16.3, R70, R71) -/
def Obligations.TimeAndOverrunRowsAct : Prop :=
  (∀ (seconds : BitVec 48) (nanos : BitVec 32) (valid hold : Bool) (s : State),
      (s.ticks.running = true → s.ticks.aligned = false → (valid = true ∨ hold = true) →
        ∃ t, exec (.timeAlign seconds nanos valid hold) s = .next t ∧ keeperTime t = busTime t ∧
          t.ticks.seconds = seconds ∧ t.ticks.nanos = nanos ∧ t.ticks.aligned = true ∧ t.ticks.jump = true ∧
          t.ticks.plan = s.ticks.plan ∧ t.ticks.idx = s.ticks.idx ∧ t = { s with ticks := t.ticks, eye := t.eye }) ∧
      (s.ticks.running = false ∨ s.ticks.aligned = true ∨ (valid = false ∧ hold = false) →
        exec (.timeAlign seconds nanos valid hold) s = .next (s.sampleBus seconds nanos valid hold)) ∧
      (∃ t, exec (.qualityChange seconds nanos valid hold) s = .next t ∧
        t.ticks.quality = qualityOf (s.sampleBus seconds nanos valid hold) ∧ t.ticks.keeper = s.ticks.keeper ∧
        t.ticks.valid = valid ∧ t.ticks.hold = hold ∧ t.ticks.plan = s.ticks.plan ∧ t.ticks.idx = s.ticks.idx ∧
        t = { s with ticks := t.ticks, eye := t.eye }) ∧
      exec (.ppsEdge seconds nanos) s = .next (State.post { s with
        ticks := { s.ticks with ppsSeconds := seconds, ppsNanos := nanos } } 497)) ∧
  (∀ (d : Dir) (s : State), ∃ o : OverrunState,
    exec (.overrun d) s = .next (State.post { s with ovr := o } (414 + 6 * planDom s)) ∧
    d ∈ o.flagged ∧ (d, s.nextFrame) ∈ o.withheld ∧
    o.cntE = (if d = .egress then s.ovr.cntE + 1 else s.ovr.cntE) ∧
    o.cntI = (if d = .ingress then s.ovr.cntI + 1 else s.ovr.cntI) ∧
    o.cntK = (if d = .keccak then s.ovr.cntK + 1 else s.ovr.cntK) ∧
    o = { s.ovr with
      flagged := o.flagged, withheld := o.withheld, cntE := o.cntE, cntI := o.cntI, cntK := o.cntK }) ∧
  ∀ s : State,
    (8 ≤ s.ovr.run → s.ovr.overload = false → exec .planOverloadSet s =
      .next (State.post { s with ovr := { s.ovr with overload := true } } (414 + 6 * planDom s))) ∧
    (s.ovr.run < 8 ∨ s.ovr.overload = true → exec .planOverloadSet s = .next s) ∧
    (96 ≤ s.ovr.calm → s.ovr.overload = true → exec .planOverloadClear s =
      .next { s with ovr := { s.ovr with overload := false } }) ∧
    (s.ovr.calm < 96 ∨ s.ovr.overload = false → exec .planOverloadClear s = .next s)

/-- A condition that a port of its kind can meet and that reaches the PCS of an existing port is recorded and the link
is down; a link that was up counts one declaration in counter 41. No other port's link changes, and nothing outside
the streams' running words, the frames and outputs in flight, the rings, the ports and pairs and the events. A
condition that clears leaves the list, and with the last one the hold begins to count from now. The link is declared
up, with event 12p, once transmit-enable is high, no condition holds, auto-negotiation where it runs has found a
partner of full duplex, and the link-up hold has passed. Outside Assay and Lockdown, PRST_REQ of an existing port
that is not acknowledged is acknowledged and the port held in reset from now with its link down; in Assay, in
Lockdown, for a port that does not exist or while acknowledged nothing but the clock changes. The fall of the
request takes the acknowledgement back. After 10 µs the reset of an existing port ends, transmit-enable may rise,
and the port posts event 12p + 11. (R298, R306, R307, R308, R310, Table 10.4, Table 10.6, R25, R312, R428, R496,
R498) -/
def Obligations.LinkAndPortResetRowsAct : Prop :=
  (∀ (p : Fin 16) (c : LinkCond) (now : Nat) (cut : List Nat) (s : State), portExists s.img p.val = true →
      condApplies s.img p.val c = true →
      (∃ t, exec (.linkDown p c true now cut) s = .next t ∧ (t.port p.val).up = false ∧ c ∈ (t.port p.val).conds ∧
        ((s.port p.val).up = true →
          Table.get 0 41 (t.port p.val).ctr = Table.get 0 41 (s.port p.val).ctr + 1) ∧
        (∀ q, q ≠ p.val → (t.port q).up = (s.port q).up) ∧
        t = { s with
          now := t.now, streams := t.streams, shots := t.shots, rings := t.rings, tx := t.tx, rx := t.rx,
          egSkip := t.egSkip, ports := t.ports, pairs := t.pairs, eye := t.eye }) ∧
      (∀ left, c ∈ (s.port p.val).conds → left = (s.port p.val).conds.filter (· != c) →
        exec (.linkDown p c false now cut) s = .next ((s.atTime now).setPort p.val { s.port p.val with
          conds := left, cleanFrom := if left = [] then max s.now now else (s.port p.val).cleanFrom })) ∧
      (c ∉ (s.port p.val).conds → exec (.linkDown p c false now cut) s = .next (s.atTime now))) ∧
  (∀ (p : Fin 16) (now : Nat) (partner : Option Bool) (s : State), txEnable s p.val = true →
      (s.port p.val).up = false → (s.port p.val).conds = [] →
      (autonegRuns s.img p.val = true → partner = some true) →
      (s.port p.val).cleanFrom + (portCfg s.img p.val).holdMs * 1000000 ≤ max s.now now →
      exec (.linkUp p now partner) s = .next (((s.atTime now).setPort p.val { s.port p.val with up := true }).post
        (12 * p.val))) ∧
  ∀ (p : Fin 16) (now : Nat) (cut : List Nat) (s : State),
    (s.mode ≠ .assay → s.mode ≠ .lockdown → portExists s.img p.val = true → (s.port p.val).prstAck = false →
      ∃ t, exec (.portResetRequest p now cut) s = .next t ∧ (t.port p.val).up = false ∧
        (t.port p.val).inReset = true ∧ (t.port p.val).resetAt = max s.now now ∧ (t.port p.val).prstAck = true ∧
        t = { s with
          now := t.now, streams := t.streams, shots := t.shots, rings := t.rings, tx := t.tx, rx := t.rx,
          egSkip := t.egSkip, ports := t.ports, pairs := t.pairs, eye := t.eye }) ∧
    ((s.mode = .assay ∨ s.mode = .lockdown ∨ portExists s.img p.val = false ∨ (s.port p.val).prstAck = true) →
      exec (.portResetRequest p now cut) s = .next (s.atTime now)) ∧
    exec (.portResetRequestFall p) s = .next (s.setPort p.val { s.port p.val with prstAck := false }) ∧
    (portExists s.img p.val = true → (s.port p.val).inReset = true → (s.port p.val).resetAt + 10000 ≤ max s.now now →
      exec (.portResetComplete p now) s = .next (((s.atTime now).setPort p.val { s.port p.val with
        inReset := false, resetAt := 0, cleanFrom := max s.now now }).post (12 * p.val + 11)))

/-- In Commission, Service and Drill, a unit that is above the rest level in force, held by nothing, with no frame in
it, rests one level deeper once it has been idle for 204.8 ns (from awake) or 10 µs (from gated), and a memory slice
that is switched off loses the key parts it held; its rest-entry event posts. Work makes it awake and starts its
idle time. Nothing else changes but the clock. In Dormant, once its domains are down, with PD1 awake, the exit not
begun, no command accepted and none to accept, once 1 ms has passed PD1 is powered down and CLK_REQ falls; nothing
else but the model's clock changes. (R444, R445, R446, R370, R443, R455, Table 16.2, Table 16.3) -/
def Obligations.UnitsAndYarrowRest : Prop :=
  (∀ (unit : Fin 12) (now : Nat) (s : State),
      (∀ r idle, r = Table.get 0 unit.val s.power.rest → idle = max s.now now - Table.get 0 unit.val s.power.lastWork →
        (s.mode = .commission ∨ s.mode = .service ∨ s.mode = .drill) →
        r < s.power.level → unitHeld s unit.val = false → unitBusy s unit.val = false →
        (r = 0 ∧ 2048 ≤ 10 * idle ∨ r ≠ 0 ∧ 10000 ≤ idle) →
        exec (.restEntry unit now) s = .next (State.post { s with
          now := max s.now now, power := { s.power with rest := Table.put 0 unit.val (r + 1) s.power.rest }
          mem := if r = 1 ∧ 6 ≤ unit.val
            then { s.mem with keys := s.mem.keys.filter (fun e => e.1 ≠ unit.val - 6) } else s.mem }
          (195 + 4 * unit.val))) ∧
      exec (.restExit unit now) s = .next { s with
        now := max s.now now, power := { s.power with
          rest := Table.put 0 unit.val 0 s.power.rest,
          lastWork := Table.put 0 unit.val (max s.now now) s.power.lastWork } }) ∧
  ∀ (now : Nat) (s : State), s.mode = .dormant → s.power.dormantReached = true → s.power.pd1 = true → s.power.exiting = false → s.cmds = [] →
    nextAccept s = none → s.power.pd1Since + 1000000 ≤ max s.now now →
    exec (.yarrowRest now) s = .next { s with
      now := max s.now now, power := { s.power with pd1 := false, clkReq := false } }

/-- A header beat that is taken (interface ready, at most 32 data bytes, no frame open on its handle) and meets R96 and
Table 11.6, with no bad container, opens a frame with the descriptor's length, cookie and report bit and the beat's
bytes, where fewer than 32 frames are open and its ports' egress buffers can hold it, and the frame is classified
and judged; otherwise the beat waits. One that fails R96 completes with the status of the first condition it fails
and counts for the offering class; one of whose descriptor a container is bad, or whose descriptor breaks Table
11.6, completes MALFORMED (nothing of a bad descriptor used); one with more than 32 data bytes is discarded, the
event of the offering domain posted unless it is the management class, and its offer completed MALFORMED where the
stream is the domain's. While the interface is not ready it waits. A data beat of 1 to 64 bytes for a handle that is
not being skipped adds its bytes to the open frame of its handle, where the egress buffers can hold it, and waits
where they cannot; the frame is judged once its header is there, and ends where the beat is the last. One with
another byte count ends the frame short, and what follows up to the last beat is skipped. One without an open frame
is discarded and posts the event of the offering domain. (R5, R318, R319, R320, R321, R96, R334, Table 11.6) -/
def Obligations.EgressBeatsAct : Prop :=
  (∀ (b : EgressBeat) (s : State) (h : Nat) (c : Context) (own bad : Bool) (d0 : Word) (x y : TxFrame), wfHeaderBeat b = true →
    h = b.handle.toNat → c = s.stream h → own = (!b.mgmt && c.domain == b.domain.toNat) →
    bad = b.desc.any badContainer → d0 = (if bad then 0 else toWord (b.desc.getD 0 0)) →
    x = newTx s h d0 (if bad then 0 else toWord (b.desc.getD 2 0)) true none →
    y = { x with bytes := b.data, ended := b.last } →
    (s.eReady = true → openTx s h = none → b.bytes.toNat ≤ 32 →
      (bad = false → r96 c own = none → transmitOk c h d0 = true → c.isSealRec = false →
        (dBypass d0 = true → c.isClear = true ∧ bit c.w1 (32 + dPort d0) = true) →
        ((s.tx.filter (fun z => z.iface && !z.ended)).length < 32 → egressFits s y = true →
          exec (.egressHeaderBeat b) s = .next ((State.classifyTx { s.unskipHandle h with
            tx := s.tx ++ [y], nextFrame := s.nextFrame + 1 } y).judgeTx y.id)) ∧
        (32 ≤ (s.tx.filter (fun z => z.iface && !z.ended)).length ∨ egressFits s y = false →
          exec (.egressHeaderBeat b) s = .next s)) ∧
      (∀ st, bad = false → r96 c own = some st → exec (.egressHeaderBeat b) s =
        .next (((s.unskipHandle h).refuseOffer x st).offerRefused (if b.mgmt then 16 else b.domain.toNat))) ∧
      ((bad = true ∨ r96 c own = none ∧ transmitOk c h d0 = false) →
        exec (.egressHeaderBeat b) s = .next ((s.unskipHandle h).refuseOffer x stMalformed))) ∧
    (∀ u v, s.eReady = true → openTx s h = none → 32 < b.bytes.toNat →
      u = (if b.last then s.unskipHandle h else s.skipHandle h) →
      v = (if b.mgmt then u else u.post (315 + 4 * b.domain.toNat)) →
      exec (.egressHeaderBeat b) s = .next (if !c.free && own then
        v.refuseOffer (newTx v h d0 (if bad then 0 else toWord (b.desc.getD 2 0)) true none) stMalformed else v)) ∧
    (s.eReady = false → exec (.egressHeaderBeat b) s = .next s)) ∧
  ∀ (b : EgressBeat) (s : State) (h : Nat), wfDataBeat b = true → h = b.handle.toNat →
    (s.eReady = false → exec (.egressDataBeat b) s = .next s) ∧
    (s.eReady = true → s.egSkip.contains h = true →
      exec (.egressDataBeat b) s = .next (if b.last then s.unskipHandle h else s)) ∧
    (s.eReady = true → s.egSkip.contains h = false →
      (∀ x y, openTx s h = some x → y = { x with bytes := x.bytes ++ b.data } → 1 ≤ b.bytes.toNat →
        b.bytes.toNat ≤ 64 →
        (egressFits s y = true → exec (.egressDataBeat b) s =
          .next (if b.last then ((s.setTx y).judgeTx x.id).endOpen h else (s.setTx y).judgeTx x.id)) ∧
        (egressFits s y = false → exec (.egressDataBeat b) s = .next s)) ∧
      (∀ x, openTx s h = some x → (b.bytes.toNat = 0 ∨ 64 < b.bytes.toNat) → exec (.egressDataBeat b) s =
        .next (if b.last then s.endShort h else (s.endShort h).skipHandle h)) ∧
      (openTx s h = none → exec (.egressDataBeat b) s =
        .next (if b.mgmt then s else s.post (315 + 4 * b.domain.toNat))))

/-- On a served ring with a posted entry not fetched, whose gate admits the entry, neither Dormant nor a retention
restart being entered: a Slot descriptor is room: the fetch count advances, outputs that wait take the entries free
for them, and nothing else changes. Any other descriptor, with fewer than 32 held and room in the egress buffers for
the frame it may bring, is allotted the entry at reserve where there is one, so that fetch and reserve advance; one
that breaks Table 11.6, R5 or R8 completes MALFORMED there (a record completion for Seal and Unseal, with the record
cookie where no container is bad, else a transmit completion with a zero cookie), and on an Armed stream a good one
is taken up, while on a Retiring one it completes RETIRED. A gate that refuses the entry stops the ring and logs the
refusal. RECORD_START starts the first waiting record while fewer than 64 are in progress. (R334, R336, R337, R346,
R359, Table 11.6) -/
def Obligations.DescriptorsFetched : Prop :=
  (∀ (h : Handle) (desc : List Container) (source : List Byte) (readOk : Bool) (s : State) (r : Ring) (c : Context)
    (d : List Word) (f : Option GateFault), r = s.ring h.toNat → c = s.stream h.toNat → d = desc.map toWord →
    desc.length = 4 → (c.armed = true ∨ c.retiring = true) → ringServes s h.toNat = true → stopping s = false →
    r.tail ≠ r.fetch → f = deputyRefusal s c.domain h.toNat (entryAddr r (r.era * 2 ^ 32 + r.fetch)) 32 false →
    (∀ u, desc.any badContainer = false → slotOk h.toNat d = true → f = none →
      u = s.setRing h.toNat { r with fetch := inc32 r.fetch, changed := true } →
      exec (.descriptorFetch h desc source readOk) s = .next (u.drainWaiting r.waiting.length h.toNat) ∧
      (r.waiting = [] → exec (.descriptorFetch h desc source readOk) s = .next u)) ∧
    (∀ u, (desc.any badContainer = true ∨ slotOk h.toNat d = false) → heldDescriptors s h.toNat < 32 →
      noEgressRoom s h.toNat desc source = false → f = none →
      ahead (inc32 r.fetch) r.reserve ≠ 0 →
      u = s.setRing h.toNat { r with fetch := inc32 r.fetch, changed := true, reserve := inc32 r.reserve } →
      (descriptorBad c h.toNat desc = true →
        exec (.descriptorFetch h desc source readOk) s = .next (
          if dKind (d.getD 0 0) == 3 || dKind (d.getD 0 0) == 4 then
            u.refuseRecord h.toNat (r.era * 2 ^ 32 + r.reserve) stMalformed (dKind (d.getD 0 0) == 4)
              (if desc.any badContainer then 0 else fld (d.getD 3 0) 32 16)
          else u.output h.toNat (r.era * 2 ^ 32 + r.reserve)
            (txCompletion h.toNat stMalformed false false false 0 0 0 0 0) 0 [])) ∧
      (descriptorBad c h.toNat desc = false → c.retiring = false →
        exec (.descriptorFetch h desc source readOk) s =
          .next (u.takeDescriptor h.toNat (r.era * 2 ^ 32 + r.reserve) d source readOk)) ∧
      (descriptorBad c h.toNat desc = false → c.retiring = true →
        exec (.descriptorFetch h desc source readOk) s = .next (
          if dKind (d.getD 0 0) == 3 || dKind (d.getD 0 0) == 4 then
            u.refuseRecord h.toNat (r.era * 2 ^ 32 + r.reserve) stRetired (dKind (d.getD 0 0) == 4)
              (fld (d.getD 3 0) 32 16)
          else u.output h.toNat (r.era * 2 ^ 32 + r.reserve)
            (txCompletion h.toNat stRetired false false false (if dBypass (d.getD 0 0) then dPort (d.getD 0 0) else 0)
              (d.getD 2 0) 0 0 0) 0 []))) ∧
    (∀ x, f = some x → desc.any badContainer = false → slotOk h.toNat d = true →
      exec (.descriptorFetch h desc source readOk) s = .next (s.stopRing h.toNat x))) ∧
  ∀ (j : RecordJob) (s : State), (s.jobs.filter (·.started)).length < 64 → nextRecord s = some j →
    exec .recordStart s = .next (s.setJob { j with started := true })

/-- For the frame whose turn has come (first in its ring and class, and first by class and age in its direction) and
that awaits a slice, outside Lockdown and with neither Dormant nor a retention restart entered: with a count left,
the frame is counted for policing and demoted where it exceeds its declarations; the generation it took at
classification being the running one (or suite 0x6), and its slot to be fetched for SEAL (under suite 0x5 judged for
HMAC with the requests still to be issued), the frame is in the slice with the stream's transmit count and the
slot's key; the stream's transmit count has advanced by one up to its last value, with the roll request and the
exhausted flag of R105; the slot's use count has advanced by one (under suite 0x5 not yet); every snapshot of the
stream taken since the frame was classified counts it too, and no other does (R20); no other slot changes but, where
its fetch finds no failed check, the MAC-key slot of a Bindweed publisher. With no count left the frame completes as
exhausted; where the slot refuses the fetch without a failed check, with KEY_FAILURE: then no transmit count is
taken, and no use is counted. (R20, R55, R67, R96, R105, R107, R113, R115, R117, R144, R245, Table 4.7) -/
def Obligations.FrameEntersSealSlice : Prop :=
  ∀ (f : Nat) (sl : Fin 3) (cellBad macBad : Bool) (s s0 : State) (x z : TxFrame) (k : Nat) (r : Fetch) (c : Context),
    s.txFrame f = some x → awaitsSlice x = true → sealTurn s x = true → stopping s = false → s.mode ≠ .lockdown →
    k = x.ctx.cur.slot → z = (s.policeTx x).1 → s0 = (s.policeTx x).2 → c = s0.stream x.handle →
    r = (s0.fetchFrame sl.val x.ctx x.ctx.cur useSeal cellBad).1 →
    (∀ key, spent s x.handle x.ctx = false → (x.ctx.suite = 6 ∨ x.ctx.cur.num = c.cur.num) → r = .ok key →
      ∃ t y, exec (.sealSliceEntry f sl cellBad macBad) s = .next t ∧ t.txFrame f = some y ∧ y.stage = .sealed ∧
        y.count = some c.txCount ∧ y.key = key ∧ y.slice = sl.val ∧ y.bytes = x.bytes ∧ y.handle = x.handle ∧
        y.demoted = z.demoted ∧ y.cls = z.cls ∧ t.stream x.handle = countTaken c ∧
        (c.txCount < 2 ^ 64 → (t.stream x.handle).txCount = min (c.txCount + 1) (lastCount c.suite)) ∧
        t.shots = (s0.onShots x.handle f (countedFor x.ctx)).shots ∧
        (x.trailer = [] → t.slot k = if x.ctx.suite = 5 then s.slot k else
          { s.slot k with u0 := satAdd (s.slot k).u0 1 }) ∧
        (∀ j, j ≠ k → (x.trailer = [] ∨ macBad = false ∧ ∀ odd, j ≠ slotMac x.ctx.chain odd) → t.slot j = s.slot j) ∧
        (∀ h, h ≠ x.handle → t.stream h = s.stream h) ∧
        t.hostMem = s.hostMem ∧ t.rings = s.rings ∧ t.mode = s.mode) ∧
    (spent s x.handle x.ctx = true ∨ r = .atLimit ∨ r = .refused ∧ (x.ctx.suite = 5 ∨ cellBad = false) →
      ∃ t, exec (.sealSliceEntry f sl cellBad macBad) s = .next t ∧ t.txFrame f = none ∧
        (t.stream x.handle).txCount = c.txCount ∧ (∀ j, t.slot j = s.slot j) ∧
        (∀ h, h ≠ x.handle → t.stream h = s.stream h) ∧ t.hostMem = s.hostMem ∧ t.mode = s.mode)

/-- At the end of supply: a frame with fewer bytes than declared, or cut by the next header beat or a bad data beat,
completes SHORT before the wire where it has echo or suite 0x5, its blocks discarded, and else ends on the wire with
an inverted FCS after the bytes it has; one with all of them is sealed whole (an over-long supply cut at the
declared length and counted), and then goes to the digest engine, with one use counted, to the echo or to the MAC by
suite and echo. A digest result whose flags are complements, read match and come with no truncation puts its tag
behind the frame, which goes to the echo where the stream has it and is ready otherwise; any other completes it with
the digest status. The echo, when its turn has come, fetches the same slot for itself; the frame goes on only if the
sealed bytes open with their tag to the supplied plaintext, and completes with the echo status otherwise, the blocks
of both slices discarded and the fault of both posted; so it does where the fetch fails. (R55, R115, R116, R118,
R119, R37, R245, R468) -/
def Obligations.SealedFramesLeaveTheSlice : Prop :=
  (∀ (f : Nat) (s : State) (x : TxFrame), s.txFrame f = some x → (x.stage = .sealed ∨ x.stage = .onWire) →
    x.ended = true → x.wire = [] → x.kind ≠ .clear → x.kind ≠ .ptp →
    (∀ v whole, x.bytes.length < x.declared ∨ x.short = true →
      v = (if x.ctx.suite = 5 then s else s.discardBlocks x.slice (txCategory x) (txSlots x)) →
      whole = sealedWire s x (x.bytes.take x.declared ++ List.replicate (x.declared - x.bytes.length) 0) →
      ((x.ctx.echo = true ∨ x.ctx.suite = 5) → exec (.sealSupplyCheck f) s = .next (v.completeTx x stShort false)) ∧
      (x.ctx.echo = false → x.ctx.suite ≠ 5 → exec (.sealSupplyCheck f) s = .next (v.setTx { x with
        wire := whole.take (whole.length - (x.declared - x.bytes.length) - icvLen x.ctx), short := true, badFcs := true,
        fail := some stShort }))) ∧
    (∀ y v u, x.declared ≤ x.bytes.length → x.short = false →
      y = { x with
        trunc := decide (x.declared < x.bytes.length), plain := x.bytes.take x.declared,
        wire := sealedWire s x (x.bytes.take x.declared) } →
      v = (if x.declared < x.bytes.length then s.bumpPort (lowPort x.ctx.portMask) 28 1 else s) →
      u = (if x.trailer = [] then v else v.coreWorks 10) →
      (x.ctx.suite = 5 → exec (.sealSupplyCheck f) s = .next (State.post (State.setTx (State.countUse { u with
        out := { u.out with digestReq := some (gsvDigestInput y.ctx y.ctx.cur (y.count.getD 0) y.trailer
          (y.mac.map Shares.whole) (x.bytes.take x.declared)) } } x.ctx.cur.slot) { y with stage := .digestWait }) 489)) ∧
      (x.ctx.suite ≠ 5 → x.ctx.echo = true →
        exec (.sealSupplyCheck f) s = .next (u.setTx { y with stage := .echoWait })) ∧
      (x.ctx.suite ≠ 5 → x.ctx.echo = false → exec (.sealSupplyCheck f) s = .next (u.setTx y)))) ∧
  (∀ (f : Nat) (r : DigestResult) (s : State) (x : TxFrame), r.tag.length = 32 → s.txFrame f = some x →
    x.stage = .digestWait →
    (r.flag = true → r.flagN = false → r.truncated = false →
      (x.ctx.echo = false → exec (.digestSealResult f r) s =
        .next (s.readyTx { x with stage := .ready, wire := x.wire ++ r.tag })) ∧
      (x.ctx.echo = true → exec (.digestSealResult f r) s =
        .next (s.setTx { x with stage := .echoWait, wire := x.wire ++ r.tag }))) ∧
    ((r.flag = false ∨ r.flagN = true ∨ r.truncated = true) → exec (.digestSealResult f r) s =
      .next ((s.digestEvents r).completeTx x stDigest false))) ∧
  ∀ (f : Nat) (sl : Fin 3) (upset : List (Nat × Byte)) (cellBad : Bool) (s v : State) (x : TxFrame) (r : Fetch),
    s.txFrame f = some x → x.stage = .echoWait →
    mayEnter s .ingress (serviceRank x.cls (s.aux_ x.handle).usedOpen x.ctx.cRate) x.id = true →
    s.fetchFrame (3 + sl.val) x.ctx x.ctx.cur useSeal cellBad = (r, v) → v.mode ≠ .lockdown →
    (∀ key bs u, r = .ok key → bs = upsetBytes upset x.wire →
      u = (v.busyPulse (194 + 4 * (3 + sl.val))).useSlots x.handle true (echoSlots x) →
      (echoPasses key.whole (sciOf u x.ctx) x bs = true →
        exec (.sealEcho f sl upset cellBad) s = .next (u.readyTx { x with stage := .ready, wire := bs })) ∧
      (echoPasses key.whole (sciOf u x.ctx) x bs = false →
        exec (.sealEcho f sl upset cellBad) s =
          .next ((((u.discardBlocks x.slice (txCategory x) (txSlots x)).discardBlocks (3 + sl.val) (txCategory x)
            (echoSlots x)).posts [193 + 4 * x.slice, 193 + 4 * (3 + sl.val)]).completeTx x stEcho false))) ∧
    (r.isOk = false → exec (.sealEcho f sl upset cellBad) s =
      .next ((((State.onShots (v.discardBlocks x.slice (txCategory x) (txSlots x)) x.handle x.id
        (fetchMarked x.ctx.cur.slot)).fetchFailed x.handle x.ctx.cur r).post (193 + 4 * x.slice)).completeTx x stEcho false))

/-- On an idle port whose link is up in a mode in which traffic flows, with no retention restart asked for, the first
frame ready for it in the class order of R305 starts: it is on the wire there and no longer waits for that port; a
frame that starts for the first time takes the ports of its mask that are up and, where it takes part in redundancy,
the pair's next sequence number. A copy that has been transmitted leaves its port and is shown and, unless its FCS
was inverted, counted, and a Bindweed publisher's has made its disclosure and carried its anchor; an event message
takes its egress timestamp and advances counter 40. With the last copy gone and none to start the frame ends; until
then it stays. (R161, R188, R190, R302, R305, R335, R430, Table 10.4) -/
def Obligations.FramesLeaveThePort : Prop :=
  (∀ (p : Fin 16) (s : State) (x : TxFrame), (s.port p.val).up = true → portBusy s p.val = false →
    trafficMode s = true → s.retention = none → nextFrameOn s p.val = some x →
    (x.stage = .onWire → exec (.frameStart p) s = .next (s.setTx { x with
      stage := .onWire, onPorts := x.onPorts ||| BitVec.ofNat 16 (2 ^ p.val),
      ports := x.ports &&& ~~~BitVec.ofNat 16 (2 ^ p.val) })) ∧
    (x.stage ≠ .onWire → exec (.frameStart p) s = .next ((s.firstStart p.val x).2.setTx { (s.firstStart p.val x).1 with
      stage := .onWire, onPorts := x.onPorts ||| BitVec.ofNat 16 (2 ^ p.val),
      ports := BitVec.ofNat 16 (upPorts s x.ports.toNat) &&& ~~~BitVec.ofNat 16 (2 ^ p.val) }))) ∧
  ∀ (f : Nat) (p : Fin 16) (seconds : BitVec 48) (nanos : BitVec 32) (event : Bool) (s v u : State) (x y : TxFrame),
    s.txFrame f = some x → x.stage = .onWire → bit x.onPorts p.val = true → x.wire ≠ [] →
    v = (if event then s.bumpPort p.val 40 1 else s).countSent (copyOn s x p.val) →
    event = (x.kind == .ptp && ptpEvent x.wire) →
    y = { x with
      onPorts := x.onPorts &&& ~~~BitVec.ofNat 16 (2 ^ p.val), sent := x.sent ||| BitVec.ofNat 16 (2 ^ p.val)
      stamp := if event then (seconds, nanos) else x.stamp } →
    u = (if x.badFcs then v else v.noteSent x) →
    ∃ t, exec (.transmitComplete f p seconds nanos) s = .next t ∧
      t = State.endIfDone { u with out := { u.out with frames := [copyOn s x p.val] } } y ∧
      (y.onPorts = 0 → y.ports = 0 → t.txFrame f = none) ∧
      (y.onPorts ≠ 0 ∨ y.ports ≠ 0 → t.txFrame f = some y) ∧
      t.out.frames = [copyOn s x p.val] ∧
      t = { s with
        streams := t.streams, shots := t.shots, aux := t.aux, rings := t.rings, tx := t.tx, ports := t.ports,
        pubs := t.pubs, bw := t.bw, eye := t.eye, out := t.out }

/-- For the record in progress of a stream whose turn has come, on a ring that is not frozen, with its gate serving and
its buffers walked or admitted, and its source bytes read. A Seal record that has begun, the generation's slot
giving its key for RECORD at the chunk and at every resumption: the chunk's ciphertext stands at its place behind
the record header, every other byte of host memory is unchanged while more chunks follow, and the record has
advanced by the chunk and goes to the end of the rotation. With the last chunk the header is written before the
ciphertext and the tag behind it, and the record is in progress no more. A Seal record that begins, its count not
exhausted, takes its key from the current generation and seals its first chunk; an Unseal record, whose header is
refused on no ground, opens its chunk under the generation that its header names, or that it began with. Where the
bytes that a chunk needs are not there yet, the record waits at the end of the rotation. (R29, R55, R143, R215,
R342, R344, R345, R346, R361, Table 4.5) -/
def Obligations.RecordChunkSealed : Prop :=
  ∀ (h : Handle) (header data : List Byte) (sl : Fin 3) (cellBad : Bool) (again : Nat) (s : State) (j w : RecordJob),
    jobOf s h.toNat = some j → frozen s = false → gateServing s j.ctx.domain = true → recordTurn s j = true →
    w = { j with walked := true } →
    (∀ (key : Shares) (n a : Nat) (ct : List Byte), s.mode ≠ .lockdown → j.begun = true → j.opening = false →
      (j.walked = true ∨ deputyFirst s j.ctx.domain h.toNat (recordBuffers false j.descr) = none) →
      n = min chunkBytes (j.total - j.offset) → n ≤ data.length →
      (s.chunkFetch sl.val j.gen.slot cellBad again).1 = .ok key →
      ct = chunkCrypt key.whole j.iv j.offset (data.take n) →
      a = j.dst + 32 + j.offset → a + n ≤ 2 ^ 48 → 1 ≤ n →
      ct.length = n ∧
      (j.offset + n < j.total →
        ∃ t, exec (.recordChunk h header data true sl cellBad again) s = .next t ∧ Memory.read t.hostMem a n = ct ∧
          (∀ b, ¬ (a ≤ b ∧ b < a + n) → Memory.byte t.hostMem b = Memory.byte s.hostMem b) ∧
          t.jobs = s.jobs.filter (fun k => k.id != j.id) ++
            [{ w.addBlocks sl.val n with offset := j.offset + n, output := j.output ++ ct }] ∧
          t = { s with slots := t.slots, power := t.power, hostMem := t.hostMem, jobs := t.jobs, eye := t.eye }) ∧
      (j.offset + n = j.total → j.header.length = 32 → a + n + 16 ≤ 2 ^ 48 →
        ∃ t, exec (.recordChunk h header data true sl cellBad again) s = .next t ∧ Memory.read t.hostMem a n = ct ∧
          Memory.read t.hostMem j.dst 32 = j.header ∧
          Memory.read t.hostMem (a + n) 16 =
            gcmTag key.whole j.iv (recordAad j.ctx.domain j.handle j.total) (j.output ++ ct) ∧
          t.jobs = s.jobs.filter (fun k => k.id != j.id))) ∧
    (∀ n, j.begun = false → j.opening = false → (s.stream h.toNat).txExhausted = false →
      (j.walked = true ∨ deputyFirst s j.ctx.domain h.toNat (recordBuffers false j.descr) = none) →
      n = min chunkBytes j.space →
      (n ≤ data.length → exec (.recordChunk h header data true sl cellBad again) s =
        .next (s.recordFetch w sl.val (s.stream h.toNat).cur cellBad again
          (fun key t => t.beginSeal (w.addBlocks sl.val n) key (data.take n)))) ∧
      (data.length < n → exec (.recordChunk h header data true sl cellBad again) s = .next (s.setJob j))) ∧
    (∀ (k : RecordJob) (g : Gen) (n : Nat), j.opening = true →
      k = (if j.begun then w else { w with header := header, total := hdrLen header }) →
      g = (if j.begun then j.gen else (recordGen s h.toNat (hdrGen header)).getD j.gen) →
      (j.begun = false → header.length = 32 ∧ headerRefusal s k header = none ∧
        (j.walked = true ∨ deputyFirst s j.ctx.domain h.toNat (recordBuffers true j.descr) = none)) →
      (j.walked = true ∨ deputyFirst s j.ctx.domain h.toNat (jobBuffers k) = none) →
      n = min chunkBytes (k.total - k.offset) →
      (n + (if k.total ≤ k.offset + n then 16 else 0) ≤ data.length →
        exec (.recordChunk h header data true sl cellBad again) s =
          .next (s.recordFetch k (3 + sl.val) g cellBad again (fun key t => t.openChunk { k.addBlocks (3 + sl.val) n with
            gen := g, iv := recordIv (hdrEpoch k.header) (hdrCount k.header) } key (data.take n) (slice n 16 data)))) ∧
      (data.length < n + (if k.total ≤ k.offset + n then 16 else 0) →
        exec (.recordChunk h header data true sl cellBad again) s = .next (s.setJob j)))

/-- A port that does not receive takes no frame. A whole frame with a good FCS of an allowed length that passes the
unicast filter is counted with its length. With EtherType 0x88F7 it then waits for the bypass. On a port of no
redundancy pair, a MACsec frame, or a GSV frame marked with the extension, whose security header is complete waits
for its V0 checks under the stream that it matches, with the version of the context in force: at an Armed stream
where its quad's buffer has room for its class, at a Created stream in any case and with no event counter moved; one
that matches no stream is counted in counter 12 and does not wait. On such a port too, EtherTypes 0x88B5 and 0x88B6
wait as standalone disclosure and as notice, and a frame of no protected or reserved EtherType waits for delivery on
the Armed CLEAR stream that it matches. A frame that waits is the newest of the received frames, with its bytes as
they came. (R92, R93, R94, R97, R156, R161, R163, R303, R304, R69, Table 3.8, Table 10.4) -/
def Obligations.FramesClassified : Prop :=
  ∀ (r : RxIn) (s : State) (p : Nat), p = r.port.val →
    (receiving s p = false → exec (.frameClassify r) s = .next s) ∧
    (receiving s p = true → r.fcsGood = true → r.aborted = false → 60 ≤ r.bytes.length →
      r.bytes.length + 4 ≤ (portCfg s.img p).maxLen → addressPasses s p (daOf r.bytes) = true →
      (etherTypeOf r.bytes = 0x88F7 →
        ∃ t x, exec (.frameClassify r) s = .next t ∧ t.rx = s.rx ++ [x] ∧ x.id = s.nextFrame ∧ x.kind = .ptp ∧
          x.body = r.bytes ∧ Table.get 0 0 (t.port p).ctr = Table.get 0 0 (s.port p).ctr + 1 ∧
          Table.get 0 1 (t.port p).ctr = Table.get 0 1 (s.port p).ctr + BitVec.ofNat 48 (wireLen r.bytes) ∧
          t = { s with rx := t.rx, nextFrame := s.nextFrame + 1, ports := t.ports }) ∧
      (pairOf s.img p = none →
        (∀ found, (etherTypeOf r.bytes = 0x88E5 ∧ macEnd r.bytes ≤ r.bytes.length ∧ found = macStream s p r.bytes) ∨
            (gsvSecured r.bytes = true ∧ gsvEnd r.bytes ≤ r.bytes.length ∧ found = gsvStream s p r.bytes) →
          (∀ h c, found = some (h, c) →
            c.armed = false ∨ (quadBytes s p < quadBuffer ∧ (c.cls = 0 ∨ quadBytes s p < quadBuffer * 7 / 8)) →
            ∃ t x, exec (.frameClassify r) s = .next t ∧ t.rx = s.rx ++ [x] ∧ x.id = s.nextFrame ∧
              x.kind = .protected_ ∧ x.handle = h ∧ x.ctx = c ∧ x.body = r.bytes ∧ x.v0 = false ∧
              Table.get 0 0 (t.port p).ctr = Table.get 0 0 (s.port p).ctr + 1 ∧ (c.armed = false → t.eye.ctr = s.eye.ctr) ∧
              t = { s with rx := t.rx, nextFrame := s.nextFrame + 1, ports := t.ports, eye := t.eye }) ∧
          (found = none →
            ∃ t, exec (.frameClassify r) s = .next t ∧ t.rx = s.rx ∧
              Table.get 0 12 (t.port p).ctr = Table.get 0 12 (s.port p).ctr + 1)) ∧
        (∀ et k, (et, k) ∈ [(0x88B5, RxKind.standalone), (0x88B6, .notice)] → etherTypeOf r.bytes = et →
          ∃ t x, exec (.frameClassify r) s = .next t ∧ t.rx = s.rx ++ [x] ∧ x.kind = k ∧ x.body = r.bytes ∧
            t = { s with rx := t.rx, nextFrame := s.nextFrame + 1, ports := t.ports }) ∧
        (∀ h c, etherTypeOf r.bytes ∉ [0x88E5, 0x88B8, 0x88BA, 0x88B5, 0x88B6, 0x88F7, 0x8808] →
          clearStream s p r.bytes = some (h, c) → c.armed = true → quadBytes s p < quadBuffer * 7 / 8 →
          ∃ t x, exec (.frameClassify r) s = .next t ∧ t.rx = s.rx ++ [x] ∧ x.kind = .clear ∧ x.handle = h ∧
            x.ctx = c ∧ x.body = r.bytes ∧
            t = { s with rx := t.rx, nextFrame := s.nextFrame + 1, ports := t.ports, eye := t.eye })))

/-- A protected frame that has ended in an error is dropped unseen: its trace record, where it is tagged, falls due, and
a grace entry that it alone kept is freed. For one that still comes in, or ended whole and good, whose V0 checks
pass and whose turn has come, outside Lockdown, with a slot that can be fetched (for OPEN, or for HMAC under suite
0x5, its limit then leaving a use beside those that earlier frames have still to issue) and room in the ingress
queue: the frame has the generation and the PN of the checks and the stream's next frame sequence, which has
advanced by one modulo 2^20; its V0 word is the next beat of the ingress queue; the slot's use count has advanced by
one, but for suite 0x5. No other stream's context or ring and no other slot changes. Before its turn the frame
waits. A frame that fails a check is gone, with no word in the queue, no slot changed and no other stream's context
changed; a malformed one is counted in counter 10 of its port, and a replay in the stream's replay count, which
saturates. (R55, R94, R95, R121, R123, R143, R148, R245, R303, Table 4.8) -/
def Obligations.V0Decides : Prop :=
  ∀ (f : Nat) (sl : Fin 3) (cellBad ended : Bool) (now : Nat) (s u : State) (x : RxFrame), s.rxFrame f = some x →
    x.kind = .protected_ → x.v0 = false → u = s.atTime now →
    (ended = true → (x.aborted = true ∨ x.rx.fcsGood = false) →
      exec (.v0Check f sl cellBad ended now) s = .next (((u.dropRx f).endTrace x 0 0 0).freeGrace x.handle)) ∧
    ((ended = true → x.aborted = false ∧ x.rx.fcsGood = true) →
      (∀ g pn key, v0Checks u x = .pass g pn → openTurn u x = true →
        (if x.ctx.suite = 5 then fetchJudge (s.slot g.slot) useHmac false
          else fetchJudge (s.slot g.slot) useOpen (cellBad && (s.slot g.slot).digestRef.isNone)) = .ok key →
        (x.ctx.suite = 5 → (s.slot g.slot).limited = true →
          (s.slot g.slot).u0.toNat + pendingUses s g.slot < (s.slot g.slot).u1.toNat) →
        s.mode ≠ .lockdown → s.ingress.length < 2048 →
        ∃ t y, exec (.v0Check f sl cellBad ended now) s = .next t ∧ t.rxFrame f = some y ∧ y.v0 = true ∧
          y.v0Placed = true ∧ y.seq = BitVec.ofNat 20 (s.stream x.handle).seqNext ∧ y.gen = g.num ∧
          y.pn = BitVec.ofNat 64 pn ∧ y.handle = x.handle ∧ y.body = x.body ∧ y.keyVal = key ∧
          t.ingress = s.ingress ++ [verdictBeat (v0Word x.handle y.seq.toNat)] ∧
          (t.stream x.handle).seqNext = ((s.stream x.handle).seqNext + 1) % 2 ^ 20 ∧
          t.slot g.slot = (if x.ctx.suite = 5 then s.slot g.slot
            else { s.slot g.slot with u0 := satAdd (s.slot g.slot).u0 1 }) ∧
          (∀ k, k ≠ g.slot → t.slot k = s.slot k) ∧
          (∀ k, k ≠ x.handle → t.stream k = s.stream k ∧ t.ring k = s.ring k) ∧ t.hostMem = s.hostMem ∧
          t.mode = s.mode) ∧
      (∀ g pn, v0Checks u x = .pass g pn → openTurn u x = false →
        exec (.v0Check f sl cellBad ended now) s = .next u) ∧
      ((∀ g pn, v0Checks u x ≠ .pass g pn) →
        ∃ t, exec (.v0Check f sl cellBad ended now) s = .next t ∧ t.rxFrame f = none ∧ t.ingress = s.ingress ∧
          t.slots = s.slots ∧ t.hostMem = s.hostMem ∧ t.mode = s.mode ∧ t.rings = s.rings ∧
          (∀ k, k ≠ x.handle → t.stream k = s.stream k) ∧
          (v0Checks u x = .malformed → Table.get 0 10 (t.port x.rx.port.val).ctr =
            Table.get 0 10 (s.port x.rx.port.val).ctr + 1) ∧
          (∀ below pn, v0Checks u x = .replay below pn →
            fld (t.stream x.handle).w29 0 16 = min 0xFFFF (fld (s.stream x.handle).w29 0 16 + 1))))

/-- For a protected frame that passed V0, with room in the ingress queue: PLAINTEXT_BEAT places the next 64 bytes of its
plaintext under its handle and sequence, with the V0 word where that still waited, and writes them to its receive
buffer, where it has one, and nowhere else. V1_VERDICT, and for suite 0x5 DIGEST_OPEN_RESULT, of a frame ready for
its V1 word places the V1 word with the code of the first condition of R509 that it meets (with the V0 word where
that still waited) as the last beat, and the frame leaves; a suite 0x5 frame that meets none of the first five goes
to the digest engine instead, which is one use of its slot. The effect of the code on the running words reaches
every snapshot of the stream taken since the frame was classified, and no other (R20). With a V1 word the key slots,
host memory and mode stay as they are. (R20, R122, R123, R127, R129, R132, R138, R245, R509, Table 4.9, Table 11.2) -/
def Obligations.PlaintextThenVerdict : Prop :=
  ∀ (f : Nat) (s : State) (x : RxFrame), s.rxFrame f = some x → x.kind = .protected_ → x.v0 = true →
    (s.ingress.length < 2048 → allPlaced x = false →
      ∃ t b, exec (.plaintextBeat f) s = .next t ∧ t.ingress = s.ingress ++ [b] ∧
        b.data = slice (64 * x.placed) 64 x.plain ∧ b.handle = x.handle ∧ b.seq = x.seq ∧ b.bypass = false ∧
        b.va = (if x.v0Placed then none else some (v0Word x.handle x.seq.toNat)) ∧ b.vb = none ∧
        t.rxFrame f = some { x with placed := x.placed + 1, v0Placed := true } ∧
        (x.entry = none ∨ x.buffered = false → t.hostMem = s.hostMem) ∧
        (∀ e a, x.entry = some e → x.buffered = true → a = bufferAddr (s.ring x.handle) e + 64 * x.placed →
          a + 64 ≤ 2 ^ 48 → ∀ k, ¬ (a ≤ k ∧ k < a + b.data.length) →
            Memory.byte t.hostMem k = Memory.byte s.hostMem k) ∧
        t = { s with ingress := t.ingress, rx := t.rx, hostMem := t.hostMem }) ∧
    ∀ (now : Nat) (u : State), u = s.atTime now → v1Ready u x = true →
      (∀ code w, x.digest = none →
        (earlyCode x = code ∧ code ≠ 0 ∨ earlyCode x = 0 ∧ x.ctx.suite ≠ 5 ∧
          code = (if x.tagOk then lateCode u x else if x.ctx.isMacsec && x.ctx.checkMode then 2 else 1)) →
        w = v1Word code x.handle x.seq.toNat →
        ∃ t, exec (.v1Verdict f now) s = .next t ∧ t.rxFrame f = none ∧
          t.ingress = s.ingress ++ [if x.v0Placed then verdictBeat w
            else { verdictBeat (v0Word x.handle x.seq.toNat) with vb := some w }] ∧
          t.shots = (s.onShots x.handle f (judgedV1 x code)).shots ∧
          t.slots = s.slots ∧ t.hostMem = s.hostMem ∧ t.mode = s.mode) ∧
      (x.digest = none → earlyCode x = 0 → x.ctx.suite = 5 →
        ∃ t, exec (.v1Verdict f now) s = .next t ∧ t.out.digestReq = some (rxDigestInput x) ∧
          t.rxFrame f = some { x with digest := some (false, false) } ∧ t.ingress = s.ingress ∧
          t = { u.countUse x.genWords.slot with rx := t.rx, out := t.out, eye := t.eye }) ∧
      ∀ (r : DigestResult) code w, r.tag.length = 32 → x.digest ≠ none →
        code = (if r.truncated then 0x0B else if digestPairOk r && r.flag then lateCode u x else 0x0A) →
        w = v1Word code x.handle x.seq.toNat →
        ∃ t, exec (.digestOpenResult f r now) s = .next t ∧ t.rxFrame f = none ∧
          t.ingress = s.ingress ++ [if x.v0Placed then verdictBeat w
            else { verdictBeat (v0Word x.handle x.seq.toNat) with vb := some w }] ∧
          t.shots = (s.onShots x.handle f (judgedV1 x code)).shots ∧
          t.slots = s.slots ∧ t.hostMem = s.hostMem ∧ t.mode = s.mode

/-- CLEAR_FRAME_DELIVERY, with room for all its beats and no copy recorded, places the whole frame under the stream's
next frame sequence with its V0 word in the first beat; a recorded copy is dropped and counted, and its trace record
falls due. PTP_BYPASS places the whole frame with no verdict word, an event message behind its timestamp beat and
counted. HSR_FORWARD sends the frame's bytes unchanged on the other port of the pair and with its FCS as it came,
records it and counts it, or, that port being down, drops and counts it. The FORGET rows leave only entries younger
than 400 ms in their table, and INGRESS_BEAT_TAKEN takes the oldest beat. A CLEAR frame's bytes go to its receive
buffer and nowhere else in host memory; its row changes no slot, mode, or other stream's context or ring; the other
rows change only what they name. (R128, R139, R140, R160, R161, R308, R324, R326, Table 5.7) -/
def Obligations.OtherFramesLeave : Prop :=
  (∀ (f now : Nat) (s : State) (x : RxFrame), s.rxFrame f = some x → x.kind = .clear →
    s.ingress.length + beatCount x.body.length ≤ 2048 →
    (isDuplicate (s.atTime now) x.rx.port.val x.key = false → x.placed = 0 → x.v0Placed = false →
      1 ≤ x.body.length →
      ∃ t bs, exec (.clearFrameDelivery f now) s = .next t ∧ t.rxFrame f = none ∧ t.ingress = s.ingress ++ bs ∧
        bs.flatMap (·.data) = x.body ∧
        (bs.head?.bind (·.va)) = some (v0Word x.handle (s.stream x.handle).seqNext) ∧
        (t.stream x.handle).seqNext = ((s.stream x.handle).seqNext + 1) % 2 ^ 20 ∧ t.slots = s.slots ∧
        t.mode = s.mode ∧ (∀ k, k ≠ x.handle → t.stream k = s.stream k ∧ t.ring k = s.ring k) ∧
        (∀ r a, r = s.ring x.handle → a = bufferAddr r (r.era * 2 ^ 32 + r.reserve) → a + x.body.length ≤ 2 ^ 48 →
          ∀ k, ¬ (a ≤ k ∧ k < a + x.body.length) → Memory.byte t.hostMem k = Memory.byte s.hostMem k)) ∧
    (isDuplicate (s.atTime now) x.rx.port.val x.key = true →
      exec (.clearFrameDelivery f now) s =
        .next ((((s.atTime now).dropRx f).endTrace x 0 0 0).bumpPair (portA s.img x.rx.port.val) 0))) ∧
  (∀ (f : Nat) (s : State) (x : RxFrame), s.rxFrame f = some x → x.kind = .ptp → x.placed = 0 →
    s.ingress.length + 1 + beatCount x.body.length ≤ 2048 →
    ∃ t bs, exec (.ptpBypass f) s = .next t ∧ t.rxFrame f = none ∧ t.ingress = s.ingress ++ bs ∧
      (bs.filter (fun b => !b.stamp)).flatMap (·.data) = x.body ∧
      (∀ b ∈ bs, b.va = none ∧ b.vb = none ∧ b.bypass = true) ∧
      (ptpEvent x.body = true → bs.head? = some (stampBeat x) ∧
        Table.get 0 39 (t.port x.rx.port.val).ctr = Table.get 0 39 (s.port x.rx.port.val).ctr + 1) ∧
      (ptpEvent x.body = false → t.ports = s.ports) ∧
      t = { s with rx := t.rx, ingress := t.ingress, ports := t.ports }) ∧
  (∀ (f now : Nat) (s : State) (x : RxFrame) (a b m : Nat) (sa : BitVec 48) (q : BitVec 16) (other : Nat),
    s.rxFrame f = some x → x.kind = .hsr → pairOf s.img x.rx.port.val = some (a, b, m) → x.key = some (sa, q) →
    other = (if x.rx.port.val = a then b else a) →
    ((s.port other).up = true →
      ∃ t y, exec (.hsrForward f now) s = .next t ∧ t.rxFrame f = none ∧ t.tx = s.tx ++ [y] ∧ y.wire = x.body ∧
        y.badFcs = !x.rx.fcsGood ∧ Table.get 0 2 (t.pair a).ctr = Table.get 0 2 (s.pair a).ctr + 1 ∧ y.ports = BitVec.ofNat 16 (2 ^ other) ∧ y.stage = .ready ∧
        (∃ e ∈ (t.pair a).fwd, e.sa = sa ∧ e.seqNo = q ∧ e.port = x.rx.port.val ∧ e.at_ = max s.now now) ∧
        t = { s with
          now := max s.now now, rx := t.rx, tx := t.tx, nextFrame := s.nextFrame + 1, pairs := t.pairs }) ∧
    ((s.port other).up = false →
      exec (.hsrForward f now) s = .next (((s.atTime now).dropRx f).bumpPair a 4))) ∧
  (∀ (p : Fin 16) (now a : Nat) (s u : State), u = s.atTime now → a = portA s.img p.val →
    exec (.duplicateEntryForget p now) s = .next (u.setPair a { s.pair a with
      dup := (s.pair a).dup.filter (fun e => decide (u.now < e.at_ + 400000000)) }) ∧
    exec (.hsrForwardEntryForget p now) s = .next (u.setPair a { s.pair a with
      fwd := (s.pair a).fwd.filter (fun e => decide (u.now < e.at_ + 400000000)) })) ∧
  ∀ s : State, exec .ingressBeatTaken s = .next { s with ingress := s.ingress.drop 1 }

/-- NOTICE_TOKEN, once the bucket of the port or pair has waited for its token, takes one from what is owed, or the
oldest waiting notice leaves the queue with it; if it may be sent in clear on a port that is up, its frame is the
newest of those to be sent, ready. Before that it changes nothing. NOTICE_INTERVAL_END of an entry whose interval
has ended frees an entry that counted nothing, and otherwise starts a new interval with count zero and hands a
summary to the bucket; before that it changes nothing. A received notice is counted in counter 38 and leaves the
receive side; one that keeps Table 5.8 is the newest entry of the log and posts its event, any other is counted in
counter 11 and logged nowhere. No stream, key slot, byte of host memory or mode changes. (R164, R166, R167, R168,
R169, R489, Table 5.8, Table 17.9) -/
def Obligations.NoticesAct : Prop :=
  (∀ (p : Fin 16) (now a : Nat) (s : State) (v : PortState), a = portA s.img p.val → v = s.port a → v.tokens ≠ 0 →
    v.tokenAt + 10 ^ 9 / s.img.noticeRate ≤ max s.now now →
    (v.waits = [] → exec (.noticeToken p now) s = .next ((s.atTime now).setPort a { v with
      tokens := v.tokens - 1, tokenAt := if v.tokens = 1 then 0 else v.tokenAt + 10 ^ 9 / s.img.noticeRate })) ∧
    (∀ n rest, v.waits = n :: rest → ∃ t, exec (.noticeToken p now) s = .next t ∧ (t.port a).waits = rest ∧
      (t.port a).tokens = v.tokens ∧ (t.port a).tokenAt = v.tokenAt + 10 ^ 9 / s.img.noticeRate ∧
      (noticeOn s n.entry.code.toNat = true → noticeSealer s n = none →
        upPorts s (noticePorts s n.entry.port) ≠ 0 → ∃ y, t.tx = s.tx ++ [y] ∧ y.wire = noticeFrame s n ∧
          y.stage = .ready ∧ y.ports = BitVec.ofNat 16 (noticePorts s n.entry.port)) ∧ t = { s with
        now := t.now, tx := t.tx, nextFrame := t.nextFrame, ports := t.ports })) ∧
  (∀ (p : Fin 16) (now : Nat) (s : State) (v : PortState), v = s.port (portA s.img p.val) →
    v.tokens = 0 ∨ max s.now now < v.tokenAt + 10 ^ 9 / s.img.noticeRate →
    exec (.noticeToken p now) s = .next (s.atTime now)) ∧
  (∀ (p : Fin 16) (sa : BitVec 48) (code : BitVec 8) (now a k : Nat) (s : State) (e : NoticeEntry),
    a = portA s.img p.val → (s.port a).notices.find? (fun x => x.2.sa == sa && x.2.code == code) = some (k, e) →
    (max s.now now < e.endAt → exec (.noticeIntervalEnd p sa code now) s = .next (s.atTime now)) ∧
    (e.endAt ≤ max s.now now → e.count = 0 → exec (.noticeIntervalEnd p sa code now) s = .next ((s.atTime now).setPort a { s.port a with
      notices := Table.erase k (s.port a).notices })) ∧
    (e.endAt ≤ max s.now now → e.count ≠ 0 → ∃ t, exec (.noticeIntervalEnd p sa code now) s = .next t ∧
      Table.find k (t.port a).notices = some { e with count := 0, endAt := e.endAt + s.img.noticeMs * 1000000 } ∧
      t = { s with now := t.now, tx := t.tx, nextFrame := t.nextFrame, ports := t.ports })) ∧
  ∀ (f : Nat) (s : State) (x : RxFrame), s.rxFrame f = some x → x.kind = .notice →
    ∃ t, exec (.partnerNoticeReceive f) s = .next t ∧ t.rxFrame f = none ∧
      Table.get 0 38 (t.port x.rx.port.val).ctr = Table.get 0 38 (s.port x.rx.port.val).ctr + 1 ∧
      (noticeOkFrame x.body = true → t.noticeLog.present = true ∧
        Table.get [] t.noticeLog.newest t.noticeLog.entries = noticeWords x.rx.port.val s.plan x.body ∧
        t.noticeLog.newest = (if s.noticeLog.present then (s.noticeLog.newest + 1) % 16 else 0)) ∧
      (noticeOkFrame x.body = false → t.noticeLog = s.noticeLog ∧
        Table.get 0 11 (t.port x.rx.port.val).ctr = Table.get 0 11 (s.port x.rx.port.val).ctr + 1) ∧
      t = { s with rx := t.rx, ports := t.ports, noticeLog := t.noticeLog, eye := t.eye }

/-- A standalone disclosure leaves the receive side: one that breaks R156 is counted in counter 11, one that matches no
stream in counter 12. The key of one that does waits behind keys of its chain that are still being checked; else,
where it takes one step, or its steps are within what the chain and the reserve may still run in the plan period,
the chain keeps it as its newest key if it leads to the key in force within the segment, and counts it as refused
and keeps the old one if it does not. Outside a halt, HOLD_RESOLUTION with nothing left that the disclosed key
resolves takes the resolution off the list; with no pool slot free it changes nothing; where one interval is to be
resolved, a pool slot is free, the chain's domain key is live and the share check of the pool slot passes, each of
its holds (none with an anchor) is decided with code 0 where its tag is right under the interval's MAC key and 0x10
where it is not, the resolution is off the list and the pool slot waits to be scrubbed. HOLD_CLOSE_MISSING and
HOLD_EXPIRED close the open holds past the late limit with code 0x12 and those 2^19 frames behind with code 0x14, at
the plan tick in force, and leave every other record as it is. V2_RECORD_WRITE gives the stream's oldest record,
once decided, to its ring, behind the records that already wait there, and it leaves the table; before that, and
while rings are frozen, it changes nothing. (R133, R134, R156, R194, R196, R197, R198, R201, R202, R235, Table 6.6,
Table 6.9) -/
def Obligations.HoldsDecided : Prop :=
  (∀ (f : Nat) (s : State) (x : RxFrame) (t : List Byte), s.rxFrame f = some x → x.kind = .standalone →
    t = x.body.drop (16 + tagLen x.body) →
    (standaloneBad x.body = true → ∃ u, exec (.standaloneDisclosureReceive f) s = .next u ∧ u.rxFrame f = none ∧
      Table.get 0 11 (u.port x.rx.port.val).ctr = Table.get 0 11 (s.port x.rx.port.val).ctr + 1 ∧ u.vers = s.vers ∧
      u.v2 = s.v2 ∧ u.slots = s.slots) ∧
    (standaloneBad x.body = false → standaloneMatch s x.rx.port.val x.body = none →
      exec (.standaloneDisclosureReceive f) s = .next ((s.dropRx f).bumpPort x.rx.port.val 12 1)) ∧
    (∀ h c j w, standaloneBad x.body = false → standaloneMatch s x.rx.port.val x.body = some (h, c) →
      trFlags t / 32 % 2 = 0 → j = trInterval t - trDelay t → w = KeyWalk.mk c.chain j (trKey t) 0 x false →
      (s.bw.walks.any (fun y => y.chain == c.chain) = true → exec (.standaloneDisclosureReceive f) s =
        .next { s.dropRx f with bw := { s.bw with walks := s.bw.walks ++ [w] } }) ∧
      (∀ v, s.bw.walks.any (fun y => y.chain == c.chain) = false → s.ver c.chain = some v → v.inValid = false →
        v.installed = true → v.v < j → j / 65536 = v.seg →
        j - v.v ≤ 1 ∨ j - v.v ≤ min (stepLimit - Table.get 0 c.chain s.bw.steps) (reserveLeft s) →
        ∃ u, exec (.standaloneDisclosureReceive f) s = .next u ∧ u.rxFrame f = none ∧ u.v2 = s.v2 ∧
          u.slots = s.slots ∧ u.streams = s.streams ∧ u.mode = s.mode ∧
          (leadsTo v.publisher.toNat j (trKey t) v.v v.key = true →
            u.ver c.chain = some { v with v := j, key := trKey t, keyed := true } ∧
            u.bw.resolve = s.bw.resolve ++ [(c.chain, j, trKey t)] ∧ u.ports = s.ports) ∧
          (leadsTo v.publisher.toNat j (trKey t) v.v v.key = false →
            u.vers = s.vers ∧ u.bw.refused = s.bw.refused + 1)))) ∧
  (∀ (chain : BitVec 13) (slice : Fin 3) (core : Fin 2) (bad : Bool) (s : State) (j : Nat) (k : List Byte),
    halted s = false → s.bw.resolve.find? (fun x => x.1 == chain.toNat) = some (chain.toNat, j, k) →
    (s.ver chain.toNat = none ∨ resolvable s chain.toNat j = [] →
      exec (.holdResolution chain slice core bad) s = .next { s with
        bw := { s.bw with resolve := s.bw.resolve.erase (chain.toNat, j, k) } }) ∧
    (∀ v, s.ver chain.toNat = some v → resolvable s chain.toNat j ≠ [] → freePool s = none →
      exec (.holdResolution chain slice core bad) s = .next s) ∧
    (∀ v i p, s.ver chain.toNat = some v → resolvable s chain.toNat j = [i] → freePool s = some p →
      (s.slot (slotDomain v.domain)).live = true → v.domain < 16 → bad = false →
      (s.v2.map (fun y => (y.handle, y.seq))).Nodup → (∀ y ∈ s.v2, y.openHold = true → y.anchor = []) →
      ∃ t, exec (.holdResolution chain slice core bad) s = .next t ∧
        t.bw.resolve = s.bw.resolve.erase (chain.toNat, j, k) ∧ (t.slot p).scrubbing = true ∧
        t.v2.length = s.v2.length ∧ t.streams = s.streams ∧ t.hostMem = s.hostMem ∧ t.mode = s.mode ∧
        ∀ x ∈ s.v2, x.openHold = true → x.chain = chain.toNat → x.interval = i →
          ∃ y ∈ t.v2, y.handle = x.handle ∧ y.seq = x.seq ∧ y.code = some
            (if bwTag (macKeyOf (walkDown v.publisher.toNat (j - i) j k)) x.digest = x.tag then 0 else 0x10))) ∧
  (∀ (chain : BitVec 13) (s : State), (s.ver chain.toNat = none → exec (.holdCloseMissing chain) s = .next s) ∧
    ∀ v, s.ver chain.toNat = some v → ∃ t, exec (.holdCloseMissing chain) s = .next t ∧
      t.v2 = s.v2.map (fun x =>
        if x.openHold = true ∧ x.chain = chain.toNat ∧ x.interval + v.delay + v.late < verInterval s v then
          { x with code := some 0x12, decidedAt := s.plan } else x) ∧ t = { s with v2 := t.v2, eye := t.eye }) ∧
  (∀ (h : Handle) (s : State), ∃ t, exec (.holdExpired h) s = .next t ∧
    t.v2 = s.v2.map (fun x => if x.openHold = true ∧ x.handle = h.toNat ∧
        2 ^ 19 ≤ ((s.stream h.toNat).seqNext + 2 ^ 20 - x.seq.toNat) % 2 ^ 20 then
        { x with code := some 0x14, decidedAt := s.plan } else x) ∧ t = { s with v2 := t.v2, eye := t.eye }) ∧
  ∀ (h : Handle) (s : State),
    (frozen s = true ∨ (∀ x, s.v2.find? (fun y => y.handle == h.toNat) = some x → x.code = none) →
      exec (.v2RecordWrite h) s = .next s) ∧
    ∀ (x : V2Rec) (code : BitVec 5), frozen s = false → s.v2.find? (fun y => y.handle == h.toNat) = some x → x.code = some code →
      ∃ t o, exec (.v2RecordWrite h) s = .next t ∧ t.v2 = s.v2.erase x ∧
        o = v2Output h.toNat x.chain (v2Word code.toNat h.toNat x.seq.toNat) x.interval x.decidedAt ∧
        ((s.ring h.toNat).room = true → (s.ring h.toNat).waiting = [] → (t.ring h.toNat).outs = (s.ring h.toNat).outs ++
          [⟨(s.ring h.toNat).era * 2 ^ 32 + (s.ring h.toNat).reserve, o, 0, []⟩]) ∧
        ((s.ring h.toNat).room = false ∨ (s.ring h.toNat).waiting ≠ [] →
          (t.ring h.toNat).waiting = (s.ring h.toNat).waiting ++ [o]) ∧
        (∀ k, k ≠ h.toNat → t.ring k = s.ring k) ∧ t = { s with v2 := t.v2, rings := t.rings }

/-- While Quecy is halted no Keccak core prepares or fills. INTERVAL_KEY_PREPARE changes nothing where the keys of the
interval are ready. Otherwise, with the interval's block bank filled and not at fault, its seed live and its MAC
slot writable, it reads the bank's record. A record that is right gives the interval's key: the interval is recorded
as ready with the key that it discloses, where one is due from the same seed and segment; before the interval has
begun, its MAC key stands in its even or odd slot, and once it has begun, no slot changes. A poisoned, refused or
wrong record marks the bank at fault and posts event 472. PUBLISHER_KEY_LATE counts and posts an interval in force
without a MAC key once. PEBBLE_BANK_FILL of a segment bank writes the bank's 64 records from the seed, with its
anchor, those of a block bank that is missing from the segment bank's record at its top, and those of a block bank
that is rebuilt from the seed. ANCHOR_STARVED posts once a segment from position 64,512 and seed while no stream has
carried the anchor. PUBLISHER_RENEWAL_START posts the start interval of a renewal, and later retires the earlier
seed and its banks. STANDALONE_DISCLOSURE_SEND of a disclosure that is due sends one frame on the stream's ports if
one of them is up and the mode carries traffic, and notes what is still owed; else nothing changes and it stays
owed. (R155, R179, R180, R183, R184, R185, R186, R188, R190, R206, Table 6.10) -/
def Obligations.PublisherRowsAct : Prop :=
  ∀ (chain : BitVec 10) (n : Nat) (s : State) (v : Pub), n = chain.toNat → s.pub n = some v →
    (∀ (core : Fin 2) (rb rs : RecordRead) (bad : Bool) (i m r : Nat), i = pubTarget s v → r = i % 1024 / 16 →
      m = slotMac n (i % 2 == 1) →
      ((halted s = true ∨ i < v.start ∨ pubReady v i ≠ none) →
        exec (.intervalKeyPrepare chain core rb rs bad) s = .next s) ∧
      (∀ b seed, halted s = false → v.start ≤ i → pubReady v i = none → seed = (wantedBank v true i).1 →
        v.bank true (wantedBank v true i) = some b → b.faulty = false → (s.slot seed).live = true →
        (i ≤ pubInterval s v ∨ macWritable s m = true) →
        (∀ w k d, memFaultAt s s.img.bwId (pebbleAddr s n (bankBase b.block b.half + r)) 64 0 false true = none →
          readWords (Table.get [] (256 * n + (bankBase b.block b.half + r)) s.pebbles) rb = some w →
          pebbleFits n b r w = true →
          k = walkDown v.publisher.toNat (pebbleInterval b r - i) (pebbleInterval b r) (keyOfWords (w.drop 2)) →
          (i < v.start + v.delay ∧ d = none ∨
            v.start + v.delay ≤ i ∧ v.seedOf (i - v.delay) = v.seedOf i ∧ (i - v.delay) / 65536 = i / 65536 ∧
              d = some (walkDown v.publisher.toNat v.delay i k)) →
          ∃ t, exec (.intervalKeyPrepare chain core rb rs bad) s = .next t ∧
            t.pub n = some { v with
              ready := ⟨i, decide (pubInterval s v < i), d⟩ :: (v.ready.filter (fun x => x.interval != i)).take 7 } ∧
            (i ≤ pubInterval s v → t.slots = s.slots) ∧
            (pubInterval s v < i → seed < 2 ^ 17 → v.domain < 16 →
              (t.slot m).key = macKeyOf k ∧ (t.slot m).valid = true ∧ ∀ j, j ≠ m → t.slot j = s.slot j) ∧
            t.streams = s.streams ∧ t.hostMem = s.hostMem ∧ t.mode = s.mode) ∧
        (memFaultAt s s.img.bwId (pebbleAddr s n (bankBase b.block b.half + r)) 64 0 false true ≠ none ∨
          (∀ w, readWords (Table.get [] (256 * n + (bankBase b.block b.half + r)) s.pebbles) rb = some w →
            pebbleFits n b r w = false) →
          ∃ u : State, u = (s.ownAccess (pebbleAddr s n (bankBase b.block b.half + r)) false).2.setPub n { v with
              banks := v.banks.map (fun x => if x = b then { x with faulty := true } else x) } ∧
            exec (.intervalKeyPrepare chain core rb rs bad) s = .next (u.post 472)))) ∧
    (v.start ≤ pubInterval s v → (pubReady v (pubInterval s v)).map (·.mac) ≠ some true →
      v.latePosted ≠ some (pubInterval s v) →
      ∃ u : State, u = s.setPub n { v with latePosted := some (pubInterval s v) } ∧
        exec (.publisherKeyLate chain) s = .next (State.post { u with
          bw := { s.bw with keyLate := s.bw.keyLate + 1 } } 470)) ∧
    (∀ (segment bad : Bool) (core : Fin 2) (top : RecordRead) (want : Nat × Nat) (half : Bool) (b : Bank)
        (keys : List (Nat × Nat × List Byte)),
      halted s = false → (lacking s v (!segment)).find? (fun w => !segment || mayFillSegment s v w) = some want →
      freeHalf s v (!segment) want = some half →
      memFaultAt s s.img.bwId (pebbleAddr s n (bankBase (!segment) half)) 64 0 true true = none →
      (∃ seed : Shares, segment = true ∧
          fetchJudge (s.slot want.1) useKdf (bad && (s.slot want.1).digestRef.isNone) = .ok seed ∧
          keys = bankKeys v.publisher.toNat 1024 64 (want.2 + 65535) (bwStep v.publisher.toNat (want.2 + 65535)
            (segSeed seed.whole (want.2 / 65536))) ∧
          b = ⟨false, half, want.1, want.2, chainAnchor seed.whole v.publisher.toNat (want.2 / 65536), false⟩) ∨
        (∃ g w, segment = false ∧ v.bank true want = none ∧ v.bank false (want.1, want.2 / 65536 * 65536) = some g ∧
          g.faulty = false ∧
          memFaultAt s s.img.bwId (pebbleAddr s n (bankBase g.block g.half + want.2 % 65536 / 1024)) 64 0 false true = none ∧
          readWords (Table.get [] (256 * n + (bankBase g.block g.half + want.2 % 65536 / 1024)) s.pebbles) top = some w ∧
          pebbleFits n g (want.2 % 65536 / 1024) w = true ∧
          keys = bankKeys v.publisher.toNat 16 64 (want.2 + 1023) (keyOfWords (w.drop 2)) ∧
          b = ⟨true, half, want.1, want.2, [], false⟩) ∨
        (∃ seed : Shares, segment = false ∧ v.bank true want ≠ none ∧
          fetchJudge (s.slot want.1) useKdf (bad && (s.slot want.1).digestRef.isNone) = .ok seed ∧
          keys = bankKeys v.publisher.toNat 16 64 (want.2 + 1023) (chainKey seed.whole v.publisher.toNat (want.2 + 1023)) ∧
          b = ⟨true, half, want.1, want.2, [], false⟩) →
      ∃ t, exec (.pebbleBankFill chain segment core top bad) s = .next t ∧
        t.pub n = some { v with
          banks := v.banks.filter (fun x => !(x.block == !segment && x.half == half)) ++ [b] } ∧
        (∀ e ∈ keys, Table.get [] (256 * n + bankBase (!segment) half + e.1) t.pebbles =
          pebbleWords n (!segment) half e.2.1 e.2.2) ∧
        (∀ j, j ≠ want.1 → t.slot j = s.slot j) ∧ t.streams = s.streams ∧ t.hostMem = s.hostMem ∧ t.mode = s.mode) ∧
    (∀ x g, x = pubInterval s v → g = ((v.seedOf x).getD 0, x / 65536 + 1) → v.start ≤ x → 64512 ≤ x % 65536 → v.carried ≠ some g →
      v.starved ≠ some g →
      exec (.anchorStarved chain) s = .next ((s.setPub n { v with starved := some g }).post 471)) ∧
    (∀ e, v.seeds.find? (fun e => decide (v.inForce < e.2.1) && decide (e.2.1 ≤ pubInterval s v)) = some e →
      exec (.publisherRenewalStart chain) s = .next ((s.setPub n { v with inForce := e.2.1 }).post 476)) ∧
    (∀ a b rest, v.seeds.find? (fun e => decide (v.inForce < e.2.1) && decide (e.2.1 ≤ pubInterval s v)) = none →
      v.seeds = a :: b :: rest → b.2.1 + v.delay ≤ pubInterval s v →
      exec (.publisherRenewalStart chain) s = .next ((s.setPub n { v with
        seeds := b :: rest, banks := v.banks.filter (fun y => y.seed != a.1) }).invalidate a.1)) ∧
    ∀ (h : Handle) (a : StreamAux) (c : Context) (x : Nat) (k : List Byte) (r : KeyReady),
      owedOf s h.toNat = some (a, c) → c.chain = n → x = pubInterval s v → disclosureDue v a x = true →
      pubReady v x = some r → r.disclosed = some k →
      (upPorts s c.portMask = 0 ∨ trafficMode s = false →
        exec (.standaloneDisclosureSend h) s = .next s) ∧
      (upPorts s c.portMask ≠ 0 → trafficMode s = true →
        ∃ t y u, exec (.standaloneDisclosureSend h) s = .next t ∧ u = s.setOwed h.toNat (stillOwed v a x) ∧
          t.tx = s.tx ++ [y] ∧ y.stage = .ready ∧ y.ports = BitVec.ofNat 16 c.portMask ∧
          y.wire = natToBytes 6 a.da.toNat ++ natToBytes 6 (stationOf s.img (lowPort c.portMask)).toNat ++ a.vlan ++
            [0x88, 0xB5] ++ natToBytes 2 c.matchId ++ bwTrailer 64 v.delay v.publisher.toNat x k [] ∧
          t = { u with tx := t.tx, nextFrame := s.nextFrame + 1 })

/-- After the errors that the stores on chip show, MEMORY_ACCESS changes nothing more in Dormant. Elsewhere an access
that its gate refuses, or that a check of R267 refuses, leaves DRAM, buffer and waiting reads as they are, a refused
read being answered with an error, or as poison where its line lies beneath a poisoned node. One that must wait for
a place or for an earlier access to its line is held. Of the others, a write under identifier 0 stores exactly its
bytes, one under another identifier merges into its line's entry of the write-merge buffer or takes a free one, and
stores nothing; a read is answered at once from a full entry, or as zeros where the line was never written, and else
waits, with the slice's key where its identifier has one; without the key it is answered with an error. With no
access held and no set of the counter cache overfull: MEMORY_READ_RETURN answers the read that waited with its bytes
under those of the buffer that stood when it was taken, decrypted under an encrypt-only identifier and verified
under a protected one, or as poison for an uncorrectable clear line; WRITE_MERGE_DRAIN of a whole line under an
encrypt-only identifier whose key the slice has stores its ciphertext and nothing else; NODE_WRITEBACK takes a clean
node out of the cache, and of a dirty node below an on-chip one stores the counters and advances the parent's
counter. A row with nothing to do changes nothing but what those errors do. (R277, R267, R268, R269, R276, R278,
R279, R281, R285, R287, Table 9.7, Table 9.10) -/
def Obligations.MemoryRowsAct : Prop :=
  (∀ (a : MemAccess) (now : Nat) (u : MemUnit) (s v : State) (i phys : Nat), wfMem a = true →
    v = (s.atTime now).clearReplies.chipErrors u.chip → i = fld a.addr 48 4 → phys = fld a.addr 0 48 →
    (v.mode = .dormant → exec (.memoryAccess a now u) s = .next v) ∧
    (v.mode ≠ .dormant →
      (∀ f, portRefusal v a = some f → ∃ t, exec (.memoryAccess a now u) s = .next t ∧
        t.mem = { v.mem with replies := if a.write then [] else [.error 0] } ∧
        t = { v with gates := t.gates, eye := t.eye, mem := t.mem }) ∧
      (∀ f, portRefusal v a = none → memFaultOf v a = some f →
        ∃ t, exec (.memoryAccess a now u) s = .next t ∧ t.mem.wmb = v.mem.wmb ∧ t.mem.waits = v.mem.waits ∧
          t.mem.replies = (if a.write then [] else if f.cause = 5 then [.poison 0] else [.error 0]) ∧
          t = { v with mem := t.mem, eye := t.eye }) ∧
      (portRefusal v a = none → memFaultOf v a = none →
        (mustHold v a = true → ∃ t, exec (.memoryAccess a now u) s = .next t ∧
          t = { v with mem := { v.mem with held := v.mem.held ++ [a] }, eye := t.eye }) ∧
        (mustHold v a = false →
          (i = 0 → a.write = true → ∃ t, exec (.memoryAccess a now u) s = .next t ∧
            Memory.read t.dram phys a.len = a.data ∧
            (∀ b, ¬ (phys ≤ b ∧ b < phys + a.len) → Memory.byte t.dram b = Memory.byte v.dram b) ∧
            t.mem = { v.mem with replies := [.accepted] } ∧ t = { v with dram := t.dram, mem := t.mem }) ∧
          (i ≠ 0 → a.write = true → ∃ t e, exec (.memoryAccess a now u) s = .next t ∧ e.id = i ∧ e.addr = lineOf phys ∧
            e.since = v.now ∧ slice (phys % 64) a.len e.data = a.data ∧
            t.mem = { v.mem with clean := false, replies := [.accepted], wmb := match entryOf v a with
              | none => v.mem.wmb ++ [e]
              | some old => v.mem.wmb.map (fun x => if x = old then e else x) } ∧
            t = { v with mem := t.mem, eye := t.eye }) ∧
          (a.write = false →
            (∀ e, i ≠ 0 → entryOf v a = some e → e.mask = fullMask → ∃ t, exec (.memoryAccess a now u) s = .next t ∧
              t.mem.replies = [.data v.mem.nextAcc (slice (phys % 64) a.len e.data)] ∧ t.mem.waits = v.mem.waits ∧
              t = { v with mem := t.mem, eye := t.eye }) ∧
            (i ≠ 0 → entryOf v a = none → isProtected v i = true →
              knownZero v i (treeH v i + 1) 0 (lineNumber v i phys) = true →
              ∃ t, exec (.memoryAccess a now u) s = .next t ∧
                t.mem.replies = [.data v.mem.nextAcc (List.replicate a.len 0)] ∧ t.mem.waits = v.mem.waits ∧
                t = { v with mem := t.mem, eye := t.eye }) ∧
            (i = 0 ∨ (∀ e, entryOf v a = some e → e.mask ≠ fullMask) ∧
                (entryOf v a ≠ none ∨ isProtected v i = false ∨
                  knownZero v i (treeH v i + 1) 0 (lineNumber v i phys) = false) →
              (i = 0 ∨ (v.sliceKey u.slice.val u.badA u.badB i).1 ≠ none →
                ∃ t w, exec (.memoryAccess a now u) s = .next t ∧ t.mem.replies = [] ∧ w.acc = v.mem.nextAcc ∧
                  w.port = a.port.val ∧ w.id = i ∧ w.addr = phys ∧ w.len = a.len ∧
                  t.mem.waits = v.mem.waits ++ [w] ∧
                  t = { v with mem := t.mem, slots := t.slots, eye := t.eye, power := t.power }) ∧
              (i ≠ 0 → (v.sliceKey u.slice.val u.badA u.badB i).1 = none →
                ∃ t, exec (.memoryAccess a now u) s = .next t ∧ t.mem.replies = [.error 0] ∧
                  t.mem.waits = v.mem.waits ∧ t.dram = v.dram ∧ t.mode = v.mode))))))) ∧
  (∀ (acc : Nat) (lines : List DramLine) (badA badB : Bool) (chip : List ChipError) (s v : State), wfLines lines = true →
    (s.mem.waits.find? (fun x => x.acc == acc) = none →
      exec (.memoryReadReturn acc lines badA badB chip) s = .next s.clearReplies) ∧
    ∀ (w : MemWait) (b : List Byte) (e : Ecc) (z : State), s.mem.waits.find? (fun x => x.acc == acc) = some w →
      v = s.clearReplies.chipErrors chip → v.mem.held = [] → overfull v.mem.ccache = none →
      dramLine v lines (lineOf w.addr) = (b, e) →
      z = { v with mem := { v.mem with waits := v.mem.waits.filter (fun x => x.acc != acc) } } →
      (w.id = 0 → e ≠ .uncorrectable → ∃ t, exec (.memoryReadReturn acc lines badA badB chip) s = .next t ∧
        t.mem = { z.mem with replies := [.data acc (slice (w.addr % 64) w.len (overlay w.data w.mask b))] } ∧
        t = { v with mem := t.mem, eye := t.eye }) ∧
      (w.id = 0 → e = .uncorrectable → exec (.memoryReadReturn acc lines badA badB chip) s =
        .next { z with mem := { z.mem with replies := [.poison acc] } }) ∧
      (∀ k, w.id ≠ 0 → (z.sliceKey w.slice badA badB w.id).1 = some k → isProtected v w.id = false →
        e ≠ .uncorrectable → ∃ t, exec (.memoryReadReturn acc lines badA badB chip) s = .next t ∧
          t.mem = { z.mem with keys := t.mem.keys, replies := [.data acc (slice (w.addr % 64) w.len
            (overlay w.data w.mask (xtsDecrypt k.a k.b (lineOf w.addr / 64) b)))] } ∧
          t = { v with mem := t.mem, slots := t.slots, eye := t.eye, power := t.power }) ∧
      (∀ k y x line fresh, w.id ≠ 0 → z.sliceKey w.slice badA badB w.id = (some k, y) → isProtected v w.id = true →
        poisonedLine v w.id (lineNumber v w.id w.addr) = false →
        readLine k lines w.id (lineNumber v w.id w.addr) (lineOf w.addr) (y.sliceWorks w.slice) = (.ok, line, fresh, x) →
        overfull x.mem.ccache = none → x.mem.held = [] →
        ∃ t, exec (.memoryReadReturn acc lines badA badB chip) s = .next t ∧
          t = { x with eye := t.eye, mem := { x.mem with replies := x.mem.replies ++
            [.data acc (slice (w.addr % 64) w.len (overlay w.data w.mask line))] } })) ∧
  (∀ (now : Nat) (lines : List DramLine) (u : MemUnit) (s v : State), wfLines lines = true →
    v = (s.atTime now).clearReplies.chipErrors u.chip →
    (drainChoice v = none → exec (.writeMergeDrain now lines u) s = .next v) ∧
    (∀ e k ct, drainChoice v = some e → v.mem.held = [] → overfull v.mem.ccache = none → e.mask = fullMask →
      (v.sliceKey u.slice.val u.badA u.badB e.id).1 = some k → isProtected v e.id = false →
      ct = xtsEncrypt k.a k.b (e.addr / 64) e.data →
      ∃ t, exec (.writeMergeDrain now lines u) s = .next t ∧ Memory.read t.dram e.addr ct.length = ct ∧
        (∀ b, ¬ (e.addr ≤ b ∧ b < e.addr + ct.length) → Memory.byte t.dram b = Memory.byte v.dram b) ∧
        t.mem = { v.mem with wmb := v.mem.wmb.filter (· != e), keys := t.mem.keys } ∧
        t = { v with dram := t.dram, mem := t.mem, slots := t.slots, eye := t.eye, power := t.power })) ∧
  ∀ (id : BitVec 4) (level node : Nat) (lines : List DramLine) (u : MemUnit) (s v : State), wfLines lines = true →
    v = s.clearReplies.chipErrors u.chip →
    (cachedNode v id.toNat level node = none → exec (.nodeWriteback id level node lines u) s = .next v) ∧
    (v.mem.held = [] → overfull v.mem.ccache = none →
      (∀ x, cachedNode v id.toNat level node = some x → x.dirty = false →
        exec (.nodeWriteback id level node lines u) s = .next (v.dropNode id.toNat level node)) ∧
      (∀ x k ctrs bytes, cachedNode v id.toNat level node = some x → x.dirty = true →
        (v.sliceKey u.slice.val u.badA u.badB id.toNat).1 = some k → onChipFrom v id.toNat ≤ level + 1 →
        v.mem.poisonNodes.contains (id.toNat, level + 1, node / 8) = false →
        heldNode v id.toNat (level + 1) (node / 8) = some ctrs → ctrs.getD (node % 8) 0 + 1 ≠ 2 ^ 64 →
        bytes = x.ctrs.flatMap (fun c => natToBytes 8 c) →
        ∃ t, exec (.nodeWriteback id level node lines u) s = .next t ∧ cachedNode t id.toNat level node = none ∧
          Memory.read t.dram (nodeAddr v id.toNat level node) bytes.length = bytes ∧
          heldNode t id.toNat (level + 1) (node / 8) = some (ctrs.set (node % 8) (ctrs.getD (node % 8) 0 + 1)) ∧
          t.mode = v.mode ∧ t.hostMem = v.hostMem ∧ t.streams = v.streams))

/-- While the sweep is on and Quecy not halted, SWEEP_SLOT empties the slot at its place if that is Scrubbing or Valid
and orphaned, and goes on; a pass that ends with nothing left to sweep ends the sweep. MASKING_REFRESH of a Valid
slot with shares gives it new shares of the same key and changes nothing else of it. A local generator is reseeded
with a fresh word, its count starting again, after 65,536 outputs while entropy is usable. The entropy rows set the
flags, levels and times of the port: failure, degraded masking, recovery with its reseed and fresh words, loss and
return of ready, with a reseed of the local generators that wait for it, in Assay, where it waits for entropy, what
its steps do from step 5 on (Lockdown with cause 0x09 in a lifecycle that is Decommissioned, else step 7, and from
ready with a larger counter value step 15), and the wait limit of Assay once. A sweep that is off or halted and a
refresh that does not run change nothing. (R38, R233, R247, R248, R249, R252, R253, R254, R256, R417, Table 8.7,
Table 8.12) -/
def Obligations.EntropyAndStoreRowsAct : Prop :=
  (∀ (s : State) (p : Nat) (v : KeySlot), p = s.keyCtl.sweepPos → v = s.slot p → s.keyCtl.sweepOn = true →
    halted s = false → ∃ t, exec .sweepSlot s = .next t ∧
      ((v.scrubbing = true ∨ v.valid = true ∧ v.orphaned = true) → t.slot p = .empty) ∧
      (v.scrubbing = false → (v.valid = false ∨ v.orphaned = false) → t.slots = s.slots) ∧
      (∀ k, k ≠ p → t.slot k = s.slot k) ∧
      (p + 1 < slotCount → t.keyCtl.sweepPos = p + 1 ∧ t.keyCtl.sweepOn = true) ∧
      (slotCount ≤ p + 1 → t.keyCtl.sweepPos = 0 ∧ t.keyCtl.sweepOn = sweepWork t.slots) ∧
      t = { s with slots := t.slots, keyCtl := t.keyCtl, eye := t.eye, out := t.out }) ∧
  (∀ s : State, s.keyCtl.sweepOn = false ∨ halted s = true → exec .sweepSlot s = .next s) ∧
  (∀ (bad : Bool) (s : State) (p : Nat) (v : KeySlot), p = s.keyCtl.maskPos → v = s.slot p → refreshRuns s = true →
    (v.valid = true → v.digestRef = none → bad = false →
      ∃ t, exec (.maskingRefresh bad) s = .next t ∧ (t.slot p).key = v.key ∧
        t.slot p = { v with share0 := (t.slot p).share0, share1 := (t.slot p).share1 } ∧
        (t.slot p).share1 = v.share1 ^^^ s.drawn ∧ (∀ k, k ≠ p → t.slot k = s.slot k) ∧
        t.keyCtl.maskPos = (p + 1) % slotCount ∧
        t = { s with draws := s.draws + 1, slots := t.slots, keyCtl := t.keyCtl }) ∧
    (v.valid = true → v.digestRef = none → bad = true →
      ∃ u : State, u = { s with keyCtl := { s.keyCtl with maskPos := (p + 1) % slotCount } } ∧
        exec (.maskingRefresh bad) s = .next (u.cellFault p)) ∧
    ((v.valid = false ∨ v.digestRef ≠ none) → exec (.maskingRefresh bad) s =
      .next { s with keyCtl := { s.keyCtl with maskPos := (p + 1) % slotCount } })) ∧
  (∀ (bad : Bool) (s : State), refreshRuns s = false → exec (.maskingRefresh bad) s = .next s) ∧
  (∀ (g : Fin 4) (s : State), s.keyCtl.seeded = true → entropyUsable s = true → halted s = false →
    65536 ≤ Table.get 0 g.val s.keyCtl.genOut →
    ∃ t, exec (.localGeneratorReseed g) s = .next t ∧ Table.get 0 g.val t.keyCtl.genOut = 0 ∧
      t = { s with draws := s.draws + 1, keyCtl := t.keyCtl, eye := t.eye }) ∧
  (∀ (now : Nat) (s : State), s.ent.fail = false →
    ∃ t, exec (.entropyHealthFailure now) s = .next t ∧ t.ent = { s.ent with
        fail := true, failAt := max s.now now, buffered := 0 } ∧ bit t.eye.level 487 = true ∧
      t = { s with now := max s.now now, ent := t.ent, eye := t.eye }) ∧
  (∀ (now : Nat) (s : State), s.ent.fail = true → s.ent.degraded = false →
    s.ent.failAt + s.img.degradedLimit * 10 ^ 9 ≤ max s.now now →
    exec (.maskingDegraded now) s = .next (State.post { s with
      now := max s.now now, ent := { s.ent with degraded := true } } 466)) ∧
  (∀ s : State, s.ent.fail = true → s.ent.ready = true → (s.mode ≠ .assay ∨ s.assay.step ≠ 4) →
    ∃ t, exec .entropyRecovered s = .next t ∧ t.ent = { s.ent with
        fail := false, failAt := 0, degraded := false, reseedWait := false } ∧
      t.out.reseeds = s.out.reseeds + 1 ∧ t.draws = s.draws + (if s.keyCtl.seeded then 5 else 1) ∧
      (s.keyCtl.seeded = true → t.keyCtl.genOut = []) ∧
      t = { s with ent := t.ent, eye := t.eye, out := t.out, draws := t.draws, keyCtl := t.keyCtl }) ∧
  (∀ s : State, s.ent.fail = true → s.ent.ready = true → s.mode = .assay → s.assay.step = 4 →
    (s.fuses.lifecycle.toNat < 3 → ∃ t, exec .entropyRecovered s = .next t ∧ t.mode = .assay ∧ t.assay.step = 7 ∧
      t.ent.fail = false ∧ t.keyCtl.seeded = true ∧ t.nv = s.nv ∧ t.slots = s.slots) ∧
    (3 ≤ s.fuses.lifecycle.toNat → ∃ t, exec .entropyRecovered s = .next t ∧ t.mode = .lockdown ∧ t.cause = 9)) ∧
  (∀ s : State, ∃ t, exec .entropyReadyLoss s = .next t ∧ t.ent = { s.ent with ready := false } ∧
    bit t.eye.level 486 = false ∧ t = { s with ent := t.ent, eye := t.eye }) ∧
  (∀ (now : Nat) (ok : Bool) (value : Word) (s : State),
    (s.mode ≠ .assay ∨ s.assay.step ≠ 4 ∨ s.ent.fail = true) → (s.ent.reseedWait = false ∨ s.ent.fail = true) →
    ∃ t, exec (.entropyReady now ok value) s = .next t ∧ t.ent = { s.ent with ready := true } ∧
      bit t.eye.level 486 = true ∧ t = { s with now := max s.now now, ent := t.ent, eye := t.eye }) ∧
  (∀ (now : Nat) (ok : Bool) (value : Word) (s : State), (s.mode ≠ .assay ∨ s.assay.step ≠ 4) → s.ent.fail = false →
    s.ent.reseedWait = true →
    ∃ t, exec (.entropyReady now ok value) s = .next t ∧ t.ent = { s.ent with ready := true, reseedWait := false } ∧
      t.keyCtl = { s.keyCtl with genOut := [] } ∧ t = { s with
        now := max s.now now, draws := s.draws + 4, ent := t.ent, keyCtl := t.keyCtl, eye := t.eye }) ∧
  (∀ (now : Nat) (ok : Bool) (value : Word) (s : State), s.mode = .assay → s.assay.step = 4 → s.ent.fail = false →
    (3 ≤ s.fuses.lifecycle.toNat → ∃ t, exec (.entropyReady now ok value) s = .next t ∧ t.mode = .lockdown ∧
      t.cause = 9) ∧
    (s.fuses.lifecycle.toNat < 3 → ok = true → s.nv.counter.toNat < value.toNat →
      ∃ t, exec (.entropyReady now ok value) s = .next t ∧ (t.mode = .service ∨ t.mode = .commission) ∧
        t.assay.step = 15 ∧ t.ladder.epoch = value ∧ t.nv.counter = value ∧ t.fuses.root = 0) ∧
    (s.fuses.lifecycle.toNat < 3 → (ok = false ∨ value.toNat ≤ s.nv.counter.toNat) →
      ∃ t, exec (.entropyReady now ok value) s = .next t ∧ t.mode = .assay ∧ t.assay.step = 7 ∧
        t.assay.retry = true ∧ t.nv = s.nv)) ∧
  ∀ (now : Nat) (s : State), s.mode = .assay → s.assay.step = 4 → s.assay.timeout = false →
    s.assay.waitFrom + waitLimit s.fuses ≤ max s.now now →
    exec (.entropyWaitTimeout now) s = .next (State.post { s with
      now := max s.now now, assay := { s.assay with timeout := true } } 498)

/-- A cold or an engine reset leaves Assay with no step done, every stream Free, every slot Empty, nothing staged and no
command accepted; memories, the store and the queue of commands stay, the tamper latch is cleared by a cold reset
alone, and CLK_REQ is low after that one. Assay, once released, ends in Lockdown with the cause of the lowest tamper
input that is high, with cause 0x06 where a known-answer test fails, and with cause 0x09 in a lifecycle that is
Decommissioned; it waits in step 4 while entropy is not usable, or once its health test has failed in step 5, and in
step 7 while the store has no larger counter value, which COUNTER_ADVANCE_RETRY asks for, again after 10 ms; a
tamper input in step 8 leads to Lockdown with its cause; and with that value, and no such input, it runs to step 15,
to Commission or Service, with the ladder formed, the epoch the new value and the fuse root cleared. (R239, R416,
R418, R428, R431, R432, Table 8.11, Table 14.4, Table 14.5, Table 14.12) -/
def Obligations.StartupRowsAct : Prop :=
  (∀ (now : Nat) (s : State), ∃ c e, exec (.coldReset now) s = .next c ∧ exec (.engineReset now) s = .next e ∧
    c.tamperLatch = 0 ∧ e.tamperLatch = s.tamperLatch ∧ c.power.clkReq = false ∧ e.power.clkReq = true ∧
    ∀ t, t = c ∨ t = e → t.mode = .assay ∧ t.assay.step = 0 ∧ t.cause = 0 ∧ t.fatal = false ∧
      (∀ h, t.stream h = .zero) ∧ (∀ k, t.slot k = .empty) ∧ t.staged = [] ∧ t.cmds = [] ∧ t.adm = [] ∧
      t.hostMem = s.hostMem ∧ t.dram = s.dram ∧ t.nv = s.nv ∧ t.pending = s.pending ∧ t.now = max s.now now) ∧
  (∀ (i : AssayIn) (now : Nat) (s : State), s.mode = .assay → s.assay.step = 0 →
    (∀ k, k < 4 → bit i.tamper k = true → (∀ j, j < k → bit i.tamper j = false) →
      ∃ t, exec (.assay i now) s = .next t ∧ t.mode = .lockdown ∧ t.cause = BitVec.ofNat 8 (1 + k)) ∧
    (i.tamper = 0 → i.katPass = false →
      ∃ t, exec (.assay i now) s = .next t ∧ t.mode = .lockdown ∧ t.cause = 6 ∧ t.fuses.root = 0) ∧
    (i.tamper = 0 → i.katPass = true → entropyUsable s = false →
      ∃ t, exec (.assay i now) s = .next t ∧ t.mode = .assay ∧ t.assay.step = 4 ∧ t.assay.waitFrom = max s.now now ∧
        t.fuses.root = i.root ∧ t = { s with
          now := t.now, tamperLevel := i.tamper, assay := t.assay, fuses := t.fuses, power := t.power }) ∧
    (i.tamper = 0 → i.katPass = true → i.healthFails = true → entropyUsable s = true →
      ∃ t, exec (.assay i now) s = .next t ∧ t.mode = .assay ∧ t.assay.step = 4 ∧ t.assay.waitFrom = max s.now now ∧
        t.ent = { s.ent with fail := true, failAt := max s.now now, buffered := 0 } ∧ t.slots = s.slots) ∧
    (i.tamper = 0 → i.katPass = true → i.healthFails = false → entropyUsable s = true → 3 ≤ i.lifecycle.toNat →
      ∃ t, exec (.assay i now) s = .next t ∧ t.mode = .lockdown ∧ t.cause = 9 ∧ t.fuses.root = 0) ∧
    (i.tamper = 0 → i.katPass = true → i.healthFails = false → entropyUsable s = true → i.lifecycle.toNat < 3 →
      (∀ k, i.tamper8 = some k → i.counterOk = true → s.nv.counter.toNat < i.counterValue.toNat →
        ∃ t, exec (.assay i now) s = .next t ∧ t.mode = .lockdown ∧ t.cause = BitVec.ofNat 8 (1 + k.val) ∧
          bit t.tamperLatch k.val = true) ∧
      (i.tamper8 = none → i.counterOk = true → s.nv.counter.toNat < i.counterValue.toNat →
        ∃ t, exec (.assay i now) s = .next t ∧ (t.mode = .service ∨ t.mode = .commission) ∧ t.assay.step = 15 ∧
          t.ladder.formed = true ∧ t.ladder.epoch = i.counterValue ∧ t.nv.counter = i.counterValue ∧
          t.fuses.root = 0 ∧ t.keyCtl.seeded = true ∧ t.hostMem = s.hostMem ∧ t.dram = s.dram) ∧
      (i.counterOk = false ∨ i.counterValue.toNat ≤ s.nv.counter.toNat →
        ∃ t, exec (.assay i now) s = .next t ∧ t.mode = .assay ∧ t.assay.step = 7 ∧ t.assay.retry = true ∧
          t.assay.retryFrom = max s.now now ∧ t.nv = s.nv ∧ t.hostMem = s.hostMem ∧ t.dram = s.dram))) ∧
  ∀ (now : Nat) (ok : Bool) (value : Word) (s : State), s.mode = .assay → s.assay.step = 7 →
    s.assay.retry = false ∨ s.assay.retryFrom + 10000000 ≤ max s.now now →
    (ok = true → s.nv.counter.toNat < value.toNat →
      ∃ t, exec (.counterAdvanceRetry now ok value) s = .next t ∧ (t.mode = .service ∨ t.mode = .commission) ∧
        t.assay.step = 15 ∧ t.ladder.epoch = value ∧ t.nv.counter = value ∧ t.fuses.root = 0) ∧
    (ok = false ∨ value.toNat ≤ s.nv.counter.toNat →
      ∃ t, exec (.counterAdvanceRetry now ok value) s = .next t ∧ t.mode = .assay ∧ t.assay.step = 7 ∧
        t.assay.retryFrom = max s.now now ∧ t.nv = s.nv ∧ t.slots = s.slots)

/-- RETENTION_RESTART_REQUEST in Assay or Lockdown does nothing. In another mode it ends the supply of frames and notes
the mode that it came in. While something is under way that the restart lets end, the restart waits, and a later
look changes nothing. Once nothing is, and the flush finds no fault, it is acknowledged, at the request or at a
later one alike: the mode stays, nothing is staged and no command is left; where the flush finds a fault, Lockdown
follows. RETENTION_RESTART_RELEASE does nothing where no restart is held. Of one that is held, and so acknowledged,
it does what it does after the acknowledgement: with a failed test Lockdown with cause 0x06; with good tests the
mode stays, every slot that expires at reset is Empty and every other as it was, no event is enabled, the image and
the contents of memory are kept, PD1 is awake with CLK_REQ high, and, unless the restart came in Dormant, frames are
taken and classified again. In Dormant, with no frame under way and no access to memory waiting, DORMANT_POWER_DOWN
declares every existing link down, empties the caches, sets the clean flag and reports Dormant reached, unless the
flush finds a fault, which leads to Lockdown. Before that, and once it is reached, it does nothing. DORMANT_EXIT,
once begun and with Dormant reached, leads to Service with PD1 awake, and to Lockdown where a test fails. Else it
does nothing. (R235, R291, R292, R428, R429, R430, R437, R443, R452, R453, R480, Table 15.6) -/
def Obligations.RestartAndDormantRowsAct : Prop :=
  (∀ (now : Nat) (s : State), s.mode = .assay ∨ s.mode = .lockdown → s.retention = none →
    exec (.retentionRestartRequest now) s = .next (s.atTime now)) ∧
  (∀ (now : Nat) (s u : State), s.mode ≠ .assay → s.mode ≠ .lockdown → s.retention = none →
    u = { (s.atTime now).quiesce with retention := some ⟨s.mode, false⟩ } →
    u.eReady = false ∧ u.classifying = false ∧ u.mode = s.mode ∧ u.cmds = s.cmds ∧
    (restartReady u = false → exec (.retentionRestartRequest now) s = .next u) ∧
    (restartReady u = true → (State.settle { u with retention := none }).mode ≠ .lockdown →
      ∃ t, exec (.retentionRestartRequest now) s = .next t ∧ t.retention = some ⟨s.mode, true⟩ ∧ t.mode = s.mode ∧
        t.staged = [] ∧ t.cmds = [] ∧ t.eReady = false ∧ t.classifying = false) ∧
    (restartReady u = true → (State.settle { u with retention := none }).mode = .lockdown →
      exec (.retentionRestartRequest now) s = .next (State.settle { u with retention := none }))) ∧
  (∀ (now : Nat) (s : State) (r : Retention), s.retention = some r →
    (r.ack = true ∨ restartReady s = false → exec (.retentionRestartRequest now) s = .next (s.atTime now)) ∧
    (r.ack = false → restartReady s = true →
      (State.settle { s.atTime now with retention := none }).mode ≠ .lockdown →
      ∃ t, exec (.retentionRestartRequest now) s = .next t ∧ t.retention = some { r with ack := true } ∧
        t.mode = s.mode ∧ t.staged = [] ∧ t.cmds = [])) ∧
  (∀ (pass : Bool) (s : State), restartHeld s = false → exec (.retentionRestartRelease pass) s = .next s) ∧
  (∀ (pass : Bool) (s : State) (r : Retention), s.retention = some r → r.ack = false → restartReady s = true →
    exec (.retentionRestartRelease pass) s = exec (.retentionRestartRelease pass) (s.holdRestart r)) ∧
  (∀ (s : State) (r : Retention), s.retention = some r → r.ack = true → s.mode ≠ .lockdown →
    (∃ t, exec (.retentionRestartRelease false) s = .next t ∧ t.mode = .lockdown ∧ t.cause = 6 ∧
      t.retention = none) ∧
    ∃ t, exec (.retentionRestartRelease true) s = .next t ∧ t.mode = s.mode ∧ t.retention = none ∧
      (∀ k, (s.slot k).expire = true → (t.slot k).empty_ = true) ∧
      (∀ k, (s.slot k).expire = false → t.slot k = s.slot k) ∧ t.eye.enable = 0 ∧ t.img = s.img ∧
      t.hostMem = s.hostMem ∧ t.dram = s.dram ∧ t.power.pd1 = true ∧ t.power.clkReq = true ∧
      (r.former ≠ .dormant → t.eReady = true ∧ t.classifying = true)) ∧
  (∀ s : State, s.mode ≠ .dormant ∨ s.power.dormantReached = true ∨ s.retention ≠ none ∨ framesEnded s = false ∨
      s.mem.waits ≠ [] ∨ s.mem.held ≠ [] → exec .dormantPowerDown s = .next s) ∧
  (∀ s : State, s.mode = .dormant → s.power.dormantReached = false → s.retention = none → framesEnded s = true →
    s.mem.waits = [] → s.mem.held = [] →
    (s.settle.mode = .lockdown → exec .dormantPowerDown s = .next s.settle) ∧
    (s.settle.mode ≠ .lockdown → ∃ t, exec .dormantPowerDown s = .next t ∧ t.power.dormantReached = true ∧
      t.mode = .dormant ∧ t.power.entering = false ∧ t.mem.clean = true ∧
      (∀ p, p < 16 → portExists s.img p = true → (t.port p).up = false) ∧ t.mem.wmb = [] ∧ t.mem.ccache = [] ∧
      t.mem.tcache = [] ∧ t.mem.keys = [] ∧ t.power.clkReq = t.power.pd1 ∧
      (s.cmds ≠ [] ∨ s.power.exiting = true → t.power.pd1 = true))) ∧
  (∀ (pass : Bool) (s : State), s.cipherStopped = false ∨ s.power.exiting = false ∨ s.retention ≠ none →
    exec (.dormantExit pass) s = .next s) ∧
  ∀ s : State, s.cipherStopped = true → s.power.exiting = true → s.retention = none →
    (∃ t, exec (.dormantExit true) s = .next t ∧ t.mode = .service ∧ t.power.exiting = false ∧
      t.power.dormantReached = false ∧ t.power.pd1 = true ∧ t.eReady = true ∧ t.classifying = true ∧
      t.streams = s.streams ∧ t.slots = s.slots ∧ t.staged = s.staged ∧ t.hostMem = s.hostMem) ∧
    ∃ t, exec (.dormantExit false) s = .next t ∧ t.mode = .lockdown ∧ t.cause = 6

/-- While records may be written and the ring has room, and gate 16 admits the write, SNAPSHOT_WRITE, EVENT_LOG_WRITE
and TRACE_RECORD_WRITE write their oldest record, which leaves the block's buffer, to the entry that the head names,
and the head advances by one; no byte of host memory outside the entry changes. EVENT_LOG_RECORD_CLOSE closes every
record of another plan period. INTERRUPT_SEND of a message that is due sends it and clears its ring latch, and
disarms it in EOI mode; one that is not due changes nothing. INT_EOI with Valid arms its message again. (R458, R460,
R470, R472, R473, R474, Table 16.6, Table 16.7, Table 16.11, Table 16.14) -/
def Obligations.EyebrightRowsAct : Prop :=
  (∀ (s : State) (w : List Word) (rest : List (List Word)) (a : Nat), s.eye.snaps = w :: rest → w.length = 256 →
    eyeWrites s = true → s.eye.snap.full = false →
    a = (s.eye.snap.base.toNat + 2048 * (s.eye.snap.head.toNat % s.eye.snap.entries)) % 2 ^ 48 → a + 2048 ≤ 2 ^ 48 →
    portRefusal s ⟨0, 16, BitVec.ofNat 52 a, 2048, true, []⟩ = none →
    ∃ t, exec .snapshotWrite s = .next t ∧ Memory.read t.hostMem a 2048 = wordsBytes (w.set 2 s.eye.snapLost) ∧
      (∀ b, ¬ (a ≤ b ∧ b < a + 2048) → Memory.byte t.hostMem b = Memory.byte s.hostMem b) ∧
      t.eye = { s.eye with snaps := rest, snapLost := 0, snap := { s.eye.snap with head := s.eye.snap.head + 1 } } ∧
      t = { s with hostMem := t.hostMem, eye := t.eye }) ∧
  (∀ s : State, ∃ t, exec .eventLogRecordClose s = .next t ∧ (∀ r ∈ t.eye.buffer, r.tick ≠ s.plan → r.closed = true) ∧
    (∀ r ∈ s.eye.buffer, r.tick = s.plan → r ∈ t.eye.buffer) ∧ t.eye.buffer.length = s.eye.buffer.length ∧
    t = { s with eye := { s.eye with buffer := t.eye.buffer } }) ∧
  (∀ (s : State) (r : LogRec) (a : Nat), s.eye.buffer.find? (·.closed) = some r → eyeWrites s = true →
    s.eye.evlog.full = false →
    a = (s.eye.evlog.base.toNat + 16 * (s.eye.evlog.head.toNat % s.eye.evlog.entries)) % 2 ^ 48 → a + 16 ≤ 2 ^ 48 →
    portRefusal s ⟨0, 16, BitVec.ofNat 52 a, 16, true, []⟩ = none →
    ∃ t, exec .eventLogWrite s = .next t ∧ Memory.read t.hostMem a 16 = wordsBytes (logWords r) ∧
      (∀ b, ¬ (a ≤ b ∧ b < a + 16) → Memory.byte t.hostMem b = Memory.byte s.hostMem b) ∧
      t.eye = { s.eye with
        buffer := s.eye.buffer.erase r, evlog := { s.eye.evlog with head := s.eye.evlog.head + 1 } } ∧
      t = { s with hostMem := t.hostMem, eye := t.eye }) ∧
  (∀ (f : Nat) (stages : List Nat) (v2tick : Word) (s : State) (r : TraceRec) (a : Nat), wfStages stages = true →
    s.eye.traces.find? (fun x => x.frame == f && x.done) = some r → eyeWrites s = true → s.eye.trace.full = false →
    a = (s.eye.trace.base.toNat + 64 * (s.eye.trace.head.toNat % s.eye.trace.entries)) % 2 ^ 48 → a + 64 ≤ 2 ^ 48 →
    portRefusal s ⟨0, 16, BitVec.ofNat 52 a, 64, true, []⟩ = none →
    ∃ t, exec (.traceRecordWrite f stages v2tick) s = .next t ∧
      Memory.read t.hostMem a 64 = wordsBytes (traceWords r stages) ∧
      (∀ b, ¬ (a ≤ b ∧ b < a + 64) → Memory.byte t.hostMem b = Memory.byte s.hostMem b) ∧
      t.eye = { s.eye with
        traces := s.eye.traces.erase r, trace := { s.eye.trace with head := s.eye.trace.head + 1 } } ∧
      t = { s with hostMem := t.hostMem, eye := t.eye }) ∧
  (∀ (m : Fin 32) (s : State),
    (msgDue s.eye m.val = true → ∃ t, exec (.interruptSend m) s = .next t ∧ t.eye.strobe = some m.val ∧
      bit t.eye.ringLatch m.val = false ∧ bit t.eye.want m.val = false ∧
      (bit s.eye.auto m.val = false → bit t.eye.armed m.val = false) ∧
      (bit s.eye.auto m.val = true → t.eye.armed = s.eye.armed ∧ bit t.eye.sent m.val = true) ∧
      (∀ k, k ≠ m.val → k < 32 → bit t.eye.ringLatch k = bit s.eye.ringLatch k ∧ bit t.eye.armed k = bit s.eye.armed k) ∧
      t.eye.status = s.eye.status ∧ t = { s with eye := t.eye }) ∧
    (msgDue s.eye m.val = false → exec (.interruptSend m) s = .next s)) ∧
  ∀ (cls : Cls) (v : Container) (s : State), windowHeld s = false → windowRefusal s cls 0x81 true = none →
    (bit (toWord v) 5 = true → ∃ t, exec (.intEoi cls v) s = .next t ∧ bit t.eye.armed (fld (toWord v) 0 5) = true ∧
      (∀ k, k ≠ fld (toWord v) 0 5 → bit t.eye.armed k = bit s.eye.armed k) ∧
      t = { s with eye := { s.eye with armed := t.eye.armed } }) ∧
    (bit (toWord v) 5 = false → exec (.intEoi cls v) s = .next s)

/-- For an access that the window admits, while no reset is held: a status register clears the sources written with 1
and no other, but those that post in the same cycle stand set after it (of the sources from 478 on, which a posting
can raise in its turn, this is said where nothing posts); a counter takes the value written, plus the cycle's
increment if it counts, where that does not wrap; the low half of a chained pair latches the high half as it is
read; a read of an RC field answers with its value and clears it but for the update of the same cycle, a debug read
clearing nothing; a read of a word of the memory fault log answers with it and marks its entry read; a read of any
other register but a counter answers with its value and changes nothing; a clear empties the gate's fault log; a
release count between release and head is taken; a ring's control word is stored in its bits; a write to a page of
read-only registers or a reserved page has no effect, and any other acts as Table 17.4 has it, on the low 48 bits of
the container. (R5, R8, R13, R456, R462, R464, R466, R473, R476, R478, R484, Table 17.4) -/
def Obligations.RegisterWindowActs : Prop :=
  (∀ (cls : Cls) (k : Fin 11) (v : Container) (posting : List Nat) (s : State), windowHeld s = false →
    windowRefusal s cls 0x81 true = none → (∀ n ∈ posting, n < 502) →
    ∃ t, exec (.evStatusClear cls k v posting) s = .next t ∧
      (∀ n ∈ posting, bit t.eye.status n = true) ∧
      (∀ n, n < 528 → n ∉ posting → (posting = [] ∨ n < 478) → bit t.eye.status n =
        (bit s.eye.status n && !(n / 48 == k.val && bit (toWord v) (n % 48)))) ∧ t = { s with eye := t.eye }) ∧
  (∀ (cls : Cls) (n : Fin 64) (v : Container) (inc : Nat) (s : State), windowHeld s = false →
    windowRefusal s cls 0x82 true = none → (toWord v).toNat + inc < 2 ^ 48 →
    ∃ t, exec (.counterWrite cls n v inc) s = .next t ∧
      Table.get 0 n.val t.eye.ctr = BitVec.ofNat 48 ((toWord v).toNat + if s.eye.counting n.val then inc else 0) ∧
      (∀ k, k ≠ n.val → Table.get 0 k t.eye.ctr = Table.get 0 k s.eye.ctr) ∧ t.eye.sel = s.eye.sel ∧
      t = { s with eye := t.eye }) ∧
  (∀ (cls : Cls) (j : Fin 32) (s : State), windowHeld s = false → windowRefusal s cls 0x82 false = none →
    ∃ t, exec (.chainedCounterLowRead cls j) s = .next t ∧ t.bus = ⟨Table.get 0 (2 * j.val) s.eye.ctr, false⟩ ∧
      (s.eye.paired (2 * j.val + 1) = true →
        Table.get 0 (2 * j.val + 1) t.eye.latch = (Table.get 0 (2 * j.val + 1) s.eye.ctr).toNat + 1) ∧
      (s.eye.paired (2 * j.val + 1) = false → t.eye.latch = s.eye.latch) ∧
      t = { s with bus := t.bus, eye := { s.eye with latch := t.eye.latch } }) ∧
  (∀ (cls : Cls) (off : BitVec 20) (update : Nat) (s : State), windowHeld s = false → off.toNat % 8 = 0 →
    windowRefusal s cls (off.toNat / 4096) false = none →
    (isRc off.toNat = true → ∃ t, exec (.rcFieldRead cls off 8 update) s = .next t ∧
      t.bus = ⟨regValue s off.toNat, false⟩ ∧
      regValue t off.toNat = satAdd (if cls.toNat = 17 then regValue s off.toNat else 0) update ∧
      t = { s with bus := t.bus, gates := t.gates, eye := t.eye, mem := t.mem }) ∧
    (isRc off.toNat = false → ¬ (0x82000 ≤ off.toNat ∧ off.toNat < 0x82200) →
      ¬ (0x93000 ≤ off.toNat ∧ off.toNat < 0x93400) →
      exec (.rcFieldRead cls off 8 update) s = .next { s with bus := ⟨regValue s off.toNat, false⟩ }) ∧
    (0x93000 ≤ off.toNat → off.toNat < 0x93400 → exec (.rcFieldRead cls off 8 update) s = .next { s with
      bus := ⟨regValue s off.toNat, false⟩
      mem := { s.mem with unread := setBit s.mem.unread ((off.toNat - 0x93000) / 32) false } })) ∧
  (∀ (cls : Cls) (g : Fin 17) (v : Container) (same : Bool) (s : State), windowHeld s = false →
    windowRefusal s cls (0x60 + g.val) true = none →
    (bit (toWord v) 0 = true → (same = false ∨ (s.gate g.val).present = false) →
      exec (.glogClear cls g v same) s = .next (s.setGate g.val { s.gate g.val with
        log := [], newest := 0, present := false })) ∧
    (bit (toWord v) 0 = false → exec (.glogClear cls g v same) s = .next s)) ∧
  (∀ (cls : Cls) (r : EyeRing) (v : Container) (s : State) (q : EyeRingState), q = s.eye.ringOf r →
    windowHeld s = false → windowRefusal s cls 0x83 true = none →
    (ahead (fld (toWord v) 0 32) q.release.toNat ≤ ahead q.head.toNat q.release.toNat →
      exec (.eyebrightReleaseWrite cls r v) s = .next { s with
        eye := s.eye.setRing r { q with release := BitVec.ofNat 32 (fld (toWord v) 0 32) } }) ∧
    (ahead q.head.toNat q.release.toNat < ahead (fld (toWord v) 0 32) q.release.toNat →
      exec (.eyebrightReleaseWrite cls r v) s = .next s) ∧
    exec (.eyebrightRingControl cls r v) s = .next { s with
      eye := s.eye.setRing r { q with ctrl := toWord v &&& ctrlMask r } }) ∧
  ∀ (cls : Cls) (off : BitVec 20) (v : Container) (s : State), windowHeld s = false → off.toNat % 8 = 0 →
    windowRefusal s cls (off.toNat / 4096) true = none →
    exec (.registerWrite cls off 8 v) s = .next (s.regStore off.toNat (toWord v)) ∧
    (off.toNat / 4096 ∈ [0x80, 0x84, 0x90, 0x91, 0x92, 0x93, 0x94] →
      exec (.registerWrite cls off 8 v) s = .next s) ∧
    ∀ h, off.toNat = doorbellOff h → h < 2 ^ 15 → fld (toWord v) 40 8 = 1 →
      exec (.registerWrite cls off 8 v) s =
        .next (s.doorbellPost h (fld (toWord v) 32 8) (fld (toWord v) 0 32))
end

