-- ==== Sys2Proof/Laws/Tables.lean ====
section
/-!
SUPPORT. The laws of sparse maps and byte memories: a read after a write gives the value written, a write leaves every
other key alone, and every operation keeps the canonical form.
-/

namespace Sys2Proof.Machine

variable {α : Type}

/-! ### Reads after writes -/

@[simp] theorem Table.get_erase_same (d : α) (k : Nat) (m : Table α) : Table.get d k (Table.erase k m) = d := by
  induction m with
  | nil => rfl
  | cons e m ih =>
    by_cases h : e.1 = k <;> simp [Table.erase, Table.get, h, ih]

@[simp] theorem Table.get_erase_other (d : α) {j k : Nat} (h : j ≠ k) (m : Table α) :
    Table.get d j (Table.erase k m) = Table.get d j m := by
  induction m with
  | nil => rfl
  | cons e m ih =>
    by_cases hk : e.1 = k
    · have : e.1 ≠ j := fun hj => h (hj.symm.trans hk)
      simp [Table.erase, Table.get, hk, ih, Ne.symm h]
    · simp [Table.erase, Table.get, hk, ih]

@[simp] theorem Table.get_insert_same (d v : α) (k : Nat) (m : Table α) : Table.get d k (Table.insert k v m) = v := by
  induction m with
  | nil => simp [Table.insert, Table.get]
  | cons e m ih =>
    simp only [Table.insert]
    split
    · simp [Table.get]
    · split
      · simp [Table.get]
      · rename_i h1 h2
        simp [Table.get, Ne.symm h2, ih]

@[simp] theorem Table.get_insert_other (d v : α) {j k : Nat} (h : j ≠ k) (m : Table α) :
    Table.get d j (Table.insert k v m) = Table.get d j m := by
  induction m with
  | nil => simp [Table.insert, Table.get, Ne.symm h]
  | cons e m ih =>
    simp only [Table.insert]
    split
    · simp [Table.get, Ne.symm h]
    · split
      · rename_i h1 h2
        simp [Table.get, ← h2, Ne.symm h]
      · simp [Table.get, ih]

@[simp] theorem Table.get_put_same [DecidableEq α] (d v : α) (k : Nat) (m : Table α) :
    Table.get d k (Table.put d k v m) = v := by
  unfold Table.put
  split
  · rename_i h; simp [h]
  · simp

@[simp] theorem Table.get_put_other [DecidableEq α] (d v : α) {j k : Nat} (h : j ≠ k) (m : Table α) :
    Table.get d j (Table.put d k v m) = Table.get d j m := by
  unfold Table.put
  split <;> simp [h]

@[simp] theorem Table.find_insert_same (v : α) (k : Nat) (m : Table α) : Table.find k (Table.insert k v m) = some v := by
  induction m with
  | nil => simp [Table.insert, Table.find]
  | cons e m ih =>
    simp only [Table.insert]
    split
    · simp [Table.find]
    · split
      · simp [Table.find]
      · rename_i h1 h2
        simp [Table.find, Ne.symm h2, ih]

@[simp] theorem Table.find_insert_other (v : α) {j k : Nat} (h : j ≠ k) (m : Table α) :
    Table.find j (Table.insert k v m) = Table.find j m := by
  induction m with
  | nil => simp [Table.insert, Table.find, Ne.symm h]
  | cons e m ih =>
    simp only [Table.insert]
    split
    · simp [Table.find, Ne.symm h]
    · split
      · rename_i h1 h2
        simp [Table.find, ← h2, Ne.symm h]
      · simp [Table.find, ih]

/-! ### The canonical form -/

/-- Keys strictly rising, as a property of the list. -/
def Table.Rising (m : Table α) : Prop := m.Pairwise (fun a b => a.1 < b.1)

theorem Table.sorted_iff (m : Table α) : Table.sorted m = true ↔ Table.Rising m := by
  unfold Table.Rising
  induction m with
  | nil => simp [Table.sorted]
  | cons a m ih =>
    cases m with
    | nil => simp [Table.sorted]
    | cons b m =>
      simp only [Table.sorted, Bool.and_eq_true, decide_eq_true_eq, ih, List.pairwise_cons, List.mem_cons,
        forall_eq_or_imp]
      constructor
      · rintro ⟨h, hb, hm⟩
        exact ⟨⟨h, fun e he => Nat.lt_trans h (hb e he)⟩, hb, hm⟩
      · rintro ⟨⟨h, -⟩, hb, hm⟩
        exact ⟨h, hb, hm⟩

theorem Table.mem_erase {k : Nat} {m : Table α} {e : Nat × α} (h : e ∈ Table.erase k m) : e ∈ m := by
  induction m with
  | nil => simp [Table.erase] at h
  | cons x m ih =>
    simp only [Table.erase] at h
    split at h
    · exact List.mem_cons_of_mem _ (ih h)
    · rcases List.mem_cons.mp h with rfl | h
      · exact List.mem_cons_self
      · exact List.mem_cons_of_mem _ (ih h)

theorem Table.mem_insert {k : Nat} {v : α} {m : Table α} {e : Nat × α} (h : e ∈ Table.insert k v m) :
    e = (k, v) ∨ e ∈ m := by
  induction m with
  | nil => simpa [Table.insert] using h
  | cons x m ih =>
    simp only [Table.insert] at h
    split at h
    · simpa using h
    · split at h
      · rcases List.mem_cons.mp h with rfl | h
        · exact .inl rfl
        · exact .inr (List.mem_cons_of_mem _ h)
      · rcases List.mem_cons.mp h with rfl | h
        · exact .inr List.mem_cons_self
        · exact (ih h).imp_right (List.mem_cons_of_mem _)

theorem Table.Rising.erase {k : Nat} {m : Table α} (h : Table.Rising m) : Table.Rising (Table.erase k m) := by
  induction m with
  | nil => exact List.Pairwise.nil
  | cons x m ih =>
    have h2 := List.pairwise_cons.mp h
    simp only [Table.erase]
    split
    · exact ih h2.2
    · exact List.pairwise_cons.mpr ⟨fun e he => h2.1 e (Table.mem_erase he), ih h2.2⟩

theorem Table.Rising.insert {k : Nat} {v : α} {m : Table α} (h : Table.Rising m) :
    Table.Rising (Table.insert k v m) := by
  induction m with
  | nil => simp [Table.insert, Table.Rising]
  | cons x m ih =>
    have h2 := List.pairwise_cons.mp h
    simp only [Table.insert]
    split
    · rename_i hk
      refine List.pairwise_cons.mpr ⟨fun e he => ?_, h⟩
      rcases List.mem_cons.mp he with rfl | he
      · exact hk
      · exact Nat.lt_trans hk (h2.1 e he)
    · split
      · rename_i hk
        exact List.pairwise_cons.mpr ⟨fun e he => by simpa [hk] using h2.1 e he, h2.2⟩
      · refine List.pairwise_cons.mpr ⟨fun e he => ?_, ih h2.2⟩
        rcases Table.mem_insert he with rfl | he
        · simp only; omega
        · exact h2.1 e he

theorem Table.wf_put [DecidableEq α] (d v : α) (k : Nat) {m : Table α} (h : Table.wf d m = true) :
    Table.wf d (Table.put d k v m) = true := by
  simp only [Table.wf, Bool.and_eq_true, Table.sorted_iff, List.all_eq_true, decide_eq_true_eq] at h ⊢
  unfold Table.put
  split
  · exact ⟨h.1.erase, fun e he => h.2 e (Table.mem_erase he)⟩
  · rename_i hv
    refine ⟨h.1.insert, fun e he => ?_⟩
    rcases Table.mem_insert he with rfl | he
    · exact hv
    · exact h.2 e he

/-! ### Byte memories -/

theorem Memory.wf_write (bs : List Byte) : ∀ (a : Nat) {m : Table Byte}, Memory.wf m = true →
    Memory.wf (Memory.write m a bs) = true := by
  induction bs with
  | nil => exact fun _ _ h => h
  | cons b bs ih => exact fun a m h => ih (a + 1) (Table.wf_put 0 b a h)

theorem Memory.byte_putByte (m : Table Byte) (a b : Nat) (v : Byte) :
    Memory.byte (Memory.putByte m a v) b = if b = a then v else Memory.byte m b := by
  unfold Memory.byte Memory.putByte
  split
  · rename_i h; simp [h]
  · rename_i h; simp [h]

/-- A byte outside the bytes written reads as before. -/
theorem Memory.byte_write_outside (bs : List Byte) : ∀ (a b : Nat) (m : Table Byte),
    ¬ (a ≤ b ∧ b < a + bs.length) → Memory.byte (Memory.write m a bs) b = Memory.byte m b := by
  induction bs with
  | nil => intros; rfl
  | cons x bs ih =>
    intro a b m h
    simp only [List.length_cons] at h
    rw [Memory.write, ih (a + 1) b _ (by omega), Memory.byte_putByte, if_neg (by omega)]

/-- A byte of those written reads as what was written there. -/
theorem Memory.byte_write_inside (bs : List Byte) : ∀ (a k : Nat) (m : Table Byte) (h : k < bs.length),
    Memory.byte (Memory.write m a bs) (a + k) = bs[k] := by
  induction bs with
  | nil => intro a k m h; simp at h
  | cons x bs ih =>
    intro a k m h
    cases k with
    | zero => rw [Memory.write, Memory.byte_write_outside bs (a + 1) (a + 0) _ (by omega), Memory.byte_putByte]; simp
    | succ k =>
      have := ih (a + 1) k (Memory.putByte m a x) (by simpa using h)
      rw [Memory.write, show a + (k + 1) = a + 1 + k by omega, this]
      rfl

/-- What has been written reads back. -/
theorem Memory.read_write_same (m : Table Byte) (a : Nat) (bs : List Byte) :
    Memory.read (Memory.write m a bs) a bs.length = bs := by
  apply List.ext_getElem
  · simp [Memory.read]
  · intro k h1 h2
    simp [Memory.read, Memory.byte_write_inside bs a k m h2]

/-- A write elsewhere does not change what is read. -/
theorem Memory.read_write_apart (m : Table Byte) (a b n : Nat) (bs : List Byte)
    (h : b + n ≤ a ∨ a + bs.length ≤ b) : Memory.read (Memory.write m a bs) b n = Memory.read m b n := by
  apply List.map_congr_left
  intro k hk
  exact Memory.byte_write_outside bs a (b + k) m (by simp at hk; omega)

theorem Memory.length_read (m : Table Byte) (a n : Nat) : (Memory.read m a n).length = n := by simp [Memory.read]

end Sys2Proof.Machine
end

