-- ==== Sys2Proof/Laws/State.lean ====
section
/-!
SUPPORT. One lemma for each field and each update of the state: what the update leaves, and what reads back after it.
Tagged for `simp`, so that no proof unfolds a record update.
-/

namespace Sys2Proof.Machine.State

variable (s : State)

/-! ### What reads back -/

@[simp] theorem stream_setStream (k : Nat) (v : Context) : (setStream s k v).stream k = v := Table.get_put_same _ _ _ _
@[simp] theorem stream_setStream_other {j k : Nat} (h : j ≠ k) (v : Context) : (setStream s k v).stream j = s.stream j :=
  Table.get_put_other _ _ h _
@[simp] theorem aux__setAux (k : Nat) (v : StreamAux) : (setAux s k v).aux_ k = v := Table.get_put_same _ _ _ _
@[simp] theorem aux__setAux_other {j k : Nat} (h : j ≠ k) (v : StreamAux) : (setAux s k v).aux_ j = s.aux_ j :=
  Table.get_put_other _ _ h _
@[simp] theorem demand_setDemand (k : Nat) (v : Demand) : (setDemand s k v).demand k = v := Table.get_put_same _ _ _ _
@[simp] theorem demand_setDemand_other {j k : Nat} (h : j ≠ k) (v : Demand) : (setDemand s k v).demand j = s.demand j :=
  Table.get_put_other _ _ h _
@[simp] theorem slot_setSlot (k : Nat) (v : KeySlot) : (setSlot s k v).slot k = v := Table.get_put_same _ _ _ _
@[simp] theorem slot_setSlot_other {j k : Nat} (h : j ≠ k) (v : KeySlot) : (setSlot s k v).slot j = s.slot j :=
  Table.get_put_other _ _ h _
@[simp] theorem mbox_setMbox (k : Nat) (v : Mailbox) : (setMbox s k v).mbox k = v := Table.get_put_same _ _ _ _
@[simp] theorem mbox_setMbox_other {j k : Nat} (h : j ≠ k) (v : Mailbox) : (setMbox s k v).mbox j = s.mbox j :=
  Table.get_put_other _ _ h _
@[simp] theorem ring_setRing (k : Nat) (v : Ring) : (setRing s k v).ring k = v := Table.get_put_same _ _ _ _
@[simp] theorem ring_setRing_other {j k : Nat} (h : j ≠ k) (v : Ring) : (setRing s k v).ring j = s.ring j :=
  Table.get_put_other _ _ h _
@[simp] theorem port_setPort (k : Nat) (v : PortState) : (setPort s k v).port k = v := Table.get_put_same _ _ _ _
@[simp] theorem port_setPort_other {j k : Nat} (h : j ≠ k) (v : PortState) : (setPort s k v).port j = s.port j :=
  Table.get_put_other _ _ h _
@[simp] theorem pair_setPair (k : Nat) (v : PairState) : (setPair s k v).pair k = v := Table.get_put_same _ _ _ _
@[simp] theorem pair_setPair_other {j k : Nat} (h : j ≠ k) (v : PairState) : (setPair s k v).pair j = s.pair j :=
  Table.get_put_other _ _ h _
@[simp] theorem gate_setGate (k : Nat) (v : Gate) : (setGate s k v).gate k = v := Table.get_put_same _ _ _ _
@[simp] theorem gate_setGate_other {j k : Nat} (h : j ≠ k) (v : Gate) : (setGate s k v).gate j = s.gate j :=
  Table.get_put_other _ _ h _
@[simp] theorem pub_setPub (k : Nat) (v : Pub) : (setPub s k v).pub k = some v := Table.find_insert_same _ _ _
@[simp] theorem pub_setPub_other {j k : Nat} (h : j ≠ k) (v : Pub) : (setPub s k v).pub j = s.pub j :=
  Table.find_insert_other _ h _
@[simp] theorem ver_setVer (k : Nat) (v : Ver) : (setVer s k v).ver k = some v := Table.find_insert_same _ _ _
@[simp] theorem ver_setVer_other {j k : Nat} (h : j ≠ k) (v : Ver) : (setVer s k v).ver j = s.ver j :=
  Table.find_insert_other _ h _
@[simp] theorem atTime_now (t : Nat) : (atTime s t).now = max s.now t := rfl
@[simp] theorem draw_draws : (draw s).draws = s.draws + 1 := rfl
@[simp] theorem dropTx_tx (f : Nat) : (dropTx s f).tx = s.tx.filter (fun x => x.id != f) := rfl
@[simp] theorem dropRx_rx (f : Nat) : (dropRx s f).rx = s.rx.filter (fun x => x.id != f) := rfl
@[simp] theorem writeHost_hostMem (a : Nat) (bs : List Byte) :
    (writeHost s a bs).hostMem = Memory.write s.hostMem (a % 2 ^ 48) bs := rfl

/-! ### setStream -/

@[simp] theorem setStream_pending (h : Nat) (c : Context) : (setStream s h c).pending = s.pending := rfl
@[simp] theorem setStream_now (h : Nat) (c : Context) : (setStream s h c).now = s.now := rfl
@[simp] theorem setStream_draws (h : Nat) (c : Context) : (setStream s h c).draws = s.draws := rfl
@[simp] theorem setStream_mode (h : Nat) (c : Context) : (setStream s h c).mode = s.mode := rfl
@[simp] theorem setStream_cause (h : Nat) (c : Context) : (setStream s h c).cause = s.cause := rfl
@[simp] theorem setStream_fatal (h : Nat) (c : Context) : (setStream s h c).fatal = s.fatal := rfl
@[simp] theorem setStream_assay (h : Nat) (c : Context) : (setStream s h c).assay = s.assay := rfl
@[simp] theorem setStream_fuses (h : Nat) (c : Context) : (setStream s h c).fuses = s.fuses := rfl
@[simp] theorem setStream_nv (h : Nat) (c : Context) : (setStream s h c).nv = s.nv := rfl
@[simp] theorem setStream_active (h : Nat) (c : Context) : (setStream s h c).active = s.active := rfl
@[simp] theorem setStream_img (h : Nat) (c : Context) : (setStream s h c).img = s.img := rfl
@[simp] theorem setStream_bmr (h : Nat) (c : Context) : (setStream s h c).bmr = s.bmr := rfl
@[simp] theorem setStream_ladder (h : Nat) (c : Context) : (setStream s h c).ladder = s.ladder := rfl
@[simp] theorem setStream_tamperLatch (h : Nat) (c : Context) : (setStream s h c).tamperLatch = s.tamperLatch := rfl
@[simp] theorem setStream_tamperLevel (h : Nat) (c : Context) : (setStream s h c).tamperLevel = s.tamperLevel := rfl
@[simp] theorem setStream_retention (h : Nat) (c : Context) : (setStream s h c).retention = s.retention := rfl
@[simp] theorem setStream_power (h : Nat) (c : Context) : (setStream s h c).power = s.power := rfl
@[simp] theorem setStream_tcfg (h : Nat) (c : Context) : (setStream s h c).tcfg = s.tcfg := rfl
@[simp] theorem setStream_ticks (h : Nat) (c : Context) : (setStream s h c).ticks = s.ticks := rfl
@[simp] theorem setStream_plan (h : Nat) (c : Context) : (setStream s h c).plan = s.plan := rfl
@[simp] theorem setStream_ovr (h : Nat) (c : Context) : (setStream s h c).ovr = s.ovr := rfl
@[simp] theorem setStream_mail (h : Nat) (c : Context) : (setStream s h c).mail = s.mail := rfl
@[simp] theorem setStream_mbox (h : Nat) (c : Context) (j : Nat) : (setStream s h c).mbox j = s.mbox j := rfl
@[simp] theorem setStream_rotation (h : Nat) (c : Context) : (setStream s h c).rotation = s.rotation := rfl
@[simp] theorem setStream_cmds (h : Nat) (c : Context) : (setStream s h c).cmds = s.cmds := rfl
@[simp] theorem setStream_nextCmd (h : Nat) (c : Context) : (setStream s h c).nextCmd = s.nextCmd := rfl
@[simp] theorem setStream_staged (h : Nat) (c : Context) : (setStream s h c).staged = s.staged := rfl
@[simp] theorem setStream_shots (h : Nat) (c : Context) : (setStream s h c).shots = s.shots := rfl
@[simp] theorem setStream_aux (h : Nat) (c : Context) : (setStream s h c).aux = s.aux := rfl
@[simp] theorem setStream_aux_ (h : Nat) (c : Context) (j : Nat) : (setStream s h c).aux_ j = s.aux_ j := rfl
@[simp] theorem setStream_adm (h : Nat) (c : Context) : (setStream s h c).adm = s.adm := rfl
@[simp] theorem setStream_demand (h : Nat) (c : Context) (j : Nat) : (setStream s h c).demand j = s.demand j := rfl
@[simp] theorem setStream_grace (h : Nat) (c : Context) : (setStream s h c).grace = s.grace := rfl
@[simp] theorem setStream_slots (h : Nat) (c : Context) : (setStream s h c).slots = s.slots := rfl
@[simp] theorem setStream_slot (h : Nat) (c : Context) (j : Nat) : (setStream s h c).slot j = s.slot j := rfl
@[simp] theorem setStream_keyCtl (h : Nat) (c : Context) : (setStream s h c).keyCtl = s.keyCtl := rfl
@[simp] theorem setStream_ent (h : Nat) (c : Context) : (setStream s h c).ent = s.ent := rfl
@[simp] theorem setStream_imports (h : Nat) (c : Context) : (setStream s h c).imports = s.imports := rfl
@[simp] theorem setStream_rings (h : Nat) (c : Context) : (setStream s h c).rings = s.rings := rfl
@[simp] theorem setStream_ring (h : Nat) (c : Context) (j : Nat) : (setStream s h c).ring j = s.ring j := rfl
@[simp] theorem setStream_hostMem (h : Nat) (c : Context) : (setStream s h c).hostMem = s.hostMem := rfl
@[simp] theorem setStream_jobs (h : Nat) (c : Context) : (setStream s h c).jobs = s.jobs := rfl
@[simp] theorem setStream_tx (h : Nat) (c : Context) : (setStream s h c).tx = s.tx := rfl
@[simp] theorem setStream_txFrame (h : Nat) (c : Context) (j : Nat) : (setStream s h c).txFrame j = s.txFrame j := rfl
@[simp] theorem setStream_rx (h : Nat) (c : Context) : (setStream s h c).rx = s.rx := rfl
@[simp] theorem setStream_rxFrame (h : Nat) (c : Context) (j : Nat) : (setStream s h c).rxFrame j = s.rxFrame j := rfl
@[simp] theorem setStream_nextFrame (h : Nat) (c : Context) : (setStream s h c).nextFrame = s.nextFrame := rfl
@[simp] theorem setStream_egSkip (h : Nat) (c : Context) : (setStream s h c).egSkip = s.egSkip := rfl
@[simp] theorem setStream_eReady (h : Nat) (c : Context) : (setStream s h c).eReady = s.eReady := rfl
@[simp] theorem setStream_classifying (h : Nat) (c : Context) : (setStream s h c).classifying = s.classifying := rfl
@[simp] theorem setStream_ingress (h : Nat) (c : Context) : (setStream s h c).ingress = s.ingress := rfl
@[simp] theorem setStream_ports (h : Nat) (c : Context) : (setStream s h c).ports = s.ports := rfl
@[simp] theorem setStream_port (h : Nat) (c : Context) (j : Nat) : (setStream s h c).port j = s.port j := rfl
@[simp] theorem setStream_pairs (h : Nat) (c : Context) : (setStream s h c).pairs = s.pairs := rfl
@[simp] theorem setStream_pair (h : Nat) (c : Context) (j : Nat) : (setStream s h c).pair j = s.pair j := rfl
@[simp] theorem setStream_noticeLog (h : Nat) (c : Context) : (setStream s h c).noticeLog = s.noticeLog := rfl
@[simp] theorem setStream_gates (h : Nat) (c : Context) : (setStream s h c).gates = s.gates := rfl
@[simp] theorem setStream_gate (h : Nat) (c : Context) (j : Nat) : (setStream s h c).gate j = s.gate j := rfl
@[simp] theorem setStream_pubs (h : Nat) (c : Context) : (setStream s h c).pubs = s.pubs := rfl
@[simp] theorem setStream_pub (h : Nat) (c : Context) (j : Nat) : (setStream s h c).pub j = s.pub j := rfl
@[simp] theorem setStream_vers (h : Nat) (c : Context) : (setStream s h c).vers = s.vers := rfl
@[simp] theorem setStream_ver (h : Nat) (c : Context) (j : Nat) : (setStream s h c).ver j = s.ver j := rfl
@[simp] theorem setStream_v2 (h : Nat) (c : Context) : (setStream s h c).v2 = s.v2 := rfl
@[simp] theorem setStream_bw (h : Nat) (c : Context) : (setStream s h c).bw = s.bw := rfl
@[simp] theorem setStream_pebbles (h : Nat) (c : Context) : (setStream s h c).pebbles = s.pebbles := rfl
@[simp] theorem setStream_mem (h : Nat) (c : Context) : (setStream s h c).mem = s.mem := rfl
@[simp] theorem setStream_dram (h : Nat) (c : Context) : (setStream s h c).dram = s.dram := rfl
@[simp] theorem setStream_eye (h : Nat) (c : Context) : (setStream s h c).eye = s.eye := rfl
@[simp] theorem setStream_bus (h : Nat) (c : Context) : (setStream s h c).bus = s.bus := rfl
@[simp] theorem setStream_out (h : Nat) (c : Context) : (setStream s h c).out = s.out := rfl

/-! ### onShots -/

@[simp] theorem onShots_pending (h f : Nat) (g : Context → Context) : (onShots s h f g).pending = s.pending := rfl
@[simp] theorem onShots_now (h f : Nat) (g : Context → Context) : (onShots s h f g).now = s.now := rfl
@[simp] theorem onShots_draws (h f : Nat) (g : Context → Context) : (onShots s h f g).draws = s.draws := rfl
@[simp] theorem onShots_mode (h f : Nat) (g : Context → Context) : (onShots s h f g).mode = s.mode := rfl
@[simp] theorem onShots_cause (h f : Nat) (g : Context → Context) : (onShots s h f g).cause = s.cause := rfl
@[simp] theorem onShots_fatal (h f : Nat) (g : Context → Context) : (onShots s h f g).fatal = s.fatal := rfl
@[simp] theorem onShots_assay (h f : Nat) (g : Context → Context) : (onShots s h f g).assay = s.assay := rfl
@[simp] theorem onShots_fuses (h f : Nat) (g : Context → Context) : (onShots s h f g).fuses = s.fuses := rfl
@[simp] theorem onShots_nv (h f : Nat) (g : Context → Context) : (onShots s h f g).nv = s.nv := rfl
@[simp] theorem onShots_active (h f : Nat) (g : Context → Context) : (onShots s h f g).active = s.active := rfl
@[simp] theorem onShots_img (h f : Nat) (g : Context → Context) : (onShots s h f g).img = s.img := rfl
@[simp] theorem onShots_bmr (h f : Nat) (g : Context → Context) : (onShots s h f g).bmr = s.bmr := rfl
@[simp] theorem onShots_ladder (h f : Nat) (g : Context → Context) : (onShots s h f g).ladder = s.ladder := rfl
@[simp] theorem onShots_tamperLatch (h f : Nat) (g : Context → Context) : (onShots s h f g).tamperLatch = s.tamperLatch := rfl
@[simp] theorem onShots_tamperLevel (h f : Nat) (g : Context → Context) : (onShots s h f g).tamperLevel = s.tamperLevel := rfl
@[simp] theorem onShots_retention (h f : Nat) (g : Context → Context) : (onShots s h f g).retention = s.retention := rfl
@[simp] theorem onShots_power (h f : Nat) (g : Context → Context) : (onShots s h f g).power = s.power := rfl
@[simp] theorem onShots_tcfg (h f : Nat) (g : Context → Context) : (onShots s h f g).tcfg = s.tcfg := rfl
@[simp] theorem onShots_ticks (h f : Nat) (g : Context → Context) : (onShots s h f g).ticks = s.ticks := rfl
@[simp] theorem onShots_plan (h f : Nat) (g : Context → Context) : (onShots s h f g).plan = s.plan := rfl
@[simp] theorem onShots_ovr (h f : Nat) (g : Context → Context) : (onShots s h f g).ovr = s.ovr := rfl
@[simp] theorem onShots_mail (h f : Nat) (g : Context → Context) : (onShots s h f g).mail = s.mail := rfl
@[simp] theorem onShots_mbox (h f : Nat) (g : Context → Context) (j : Nat) : (onShots s h f g).mbox j = s.mbox j := rfl
@[simp] theorem onShots_rotation (h f : Nat) (g : Context → Context) : (onShots s h f g).rotation = s.rotation := rfl
@[simp] theorem onShots_cmds (h f : Nat) (g : Context → Context) : (onShots s h f g).cmds = s.cmds := rfl
@[simp] theorem onShots_nextCmd (h f : Nat) (g : Context → Context) : (onShots s h f g).nextCmd = s.nextCmd := rfl
@[simp] theorem onShots_staged (h f : Nat) (g : Context → Context) : (onShots s h f g).staged = s.staged := rfl
@[simp] theorem onShots_streams (h f : Nat) (g : Context → Context) : (onShots s h f g).streams = s.streams := rfl
@[simp] theorem onShots_stream (h f : Nat) (g : Context → Context) (j : Nat) : (onShots s h f g).stream j = s.stream j := rfl
@[simp] theorem onShots_aux (h f : Nat) (g : Context → Context) : (onShots s h f g).aux = s.aux := rfl
@[simp] theorem onShots_aux_ (h f : Nat) (g : Context → Context) (j : Nat) : (onShots s h f g).aux_ j = s.aux_ j := rfl
@[simp] theorem onShots_adm (h f : Nat) (g : Context → Context) : (onShots s h f g).adm = s.adm := rfl
@[simp] theorem onShots_demand (h f : Nat) (g : Context → Context) (j : Nat) : (onShots s h f g).demand j = s.demand j := rfl
@[simp] theorem onShots_grace (h f : Nat) (g : Context → Context) : (onShots s h f g).grace = s.grace := rfl
@[simp] theorem onShots_slots (h f : Nat) (g : Context → Context) : (onShots s h f g).slots = s.slots := rfl
@[simp] theorem onShots_slot (h f : Nat) (g : Context → Context) (j : Nat) : (onShots s h f g).slot j = s.slot j := rfl
@[simp] theorem onShots_keyCtl (h f : Nat) (g : Context → Context) : (onShots s h f g).keyCtl = s.keyCtl := rfl
@[simp] theorem onShots_ent (h f : Nat) (g : Context → Context) : (onShots s h f g).ent = s.ent := rfl
@[simp] theorem onShots_imports (h f : Nat) (g : Context → Context) : (onShots s h f g).imports = s.imports := rfl
@[simp] theorem onShots_rings (h f : Nat) (g : Context → Context) : (onShots s h f g).rings = s.rings := rfl
@[simp] theorem onShots_ring (h f : Nat) (g : Context → Context) (j : Nat) : (onShots s h f g).ring j = s.ring j := rfl
@[simp] theorem onShots_hostMem (h f : Nat) (g : Context → Context) : (onShots s h f g).hostMem = s.hostMem := rfl
@[simp] theorem onShots_jobs (h f : Nat) (g : Context → Context) : (onShots s h f g).jobs = s.jobs := rfl
@[simp] theorem onShots_tx (h f : Nat) (g : Context → Context) : (onShots s h f g).tx = s.tx := rfl
@[simp] theorem onShots_txFrame (h f : Nat) (g : Context → Context) (j : Nat) : (onShots s h f g).txFrame j = s.txFrame j := rfl
@[simp] theorem onShots_rx (h f : Nat) (g : Context → Context) : (onShots s h f g).rx = s.rx := rfl
@[simp] theorem onShots_rxFrame (h f : Nat) (g : Context → Context) (j : Nat) : (onShots s h f g).rxFrame j = s.rxFrame j := rfl
@[simp] theorem onShots_nextFrame (h f : Nat) (g : Context → Context) : (onShots s h f g).nextFrame = s.nextFrame := rfl
@[simp] theorem onShots_egSkip (h f : Nat) (g : Context → Context) : (onShots s h f g).egSkip = s.egSkip := rfl
@[simp] theorem onShots_eReady (h f : Nat) (g : Context → Context) : (onShots s h f g).eReady = s.eReady := rfl
@[simp] theorem onShots_classifying (h f : Nat) (g : Context → Context) : (onShots s h f g).classifying = s.classifying := rfl
@[simp] theorem onShots_ingress (h f : Nat) (g : Context → Context) : (onShots s h f g).ingress = s.ingress := rfl
@[simp] theorem onShots_ports (h f : Nat) (g : Context → Context) : (onShots s h f g).ports = s.ports := rfl
@[simp] theorem onShots_port (h f : Nat) (g : Context → Context) (j : Nat) : (onShots s h f g).port j = s.port j := rfl
@[simp] theorem onShots_pairs (h f : Nat) (g : Context → Context) : (onShots s h f g).pairs = s.pairs := rfl
@[simp] theorem onShots_pair (h f : Nat) (g : Context → Context) (j : Nat) : (onShots s h f g).pair j = s.pair j := rfl
@[simp] theorem onShots_noticeLog (h f : Nat) (g : Context → Context) : (onShots s h f g).noticeLog = s.noticeLog := rfl
@[simp] theorem onShots_gates (h f : Nat) (g : Context → Context) : (onShots s h f g).gates = s.gates := rfl
@[simp] theorem onShots_gate (h f : Nat) (g : Context → Context) (j : Nat) : (onShots s h f g).gate j = s.gate j := rfl
@[simp] theorem onShots_pubs (h f : Nat) (g : Context → Context) : (onShots s h f g).pubs = s.pubs := rfl
@[simp] theorem onShots_pub (h f : Nat) (g : Context → Context) (j : Nat) : (onShots s h f g).pub j = s.pub j := rfl
@[simp] theorem onShots_vers (h f : Nat) (g : Context → Context) : (onShots s h f g).vers = s.vers := rfl
@[simp] theorem onShots_ver (h f : Nat) (g : Context → Context) (j : Nat) : (onShots s h f g).ver j = s.ver j := rfl
@[simp] theorem onShots_v2 (h f : Nat) (g : Context → Context) : (onShots s h f g).v2 = s.v2 := rfl
@[simp] theorem onShots_bw (h f : Nat) (g : Context → Context) : (onShots s h f g).bw = s.bw := rfl
@[simp] theorem onShots_pebbles (h f : Nat) (g : Context → Context) : (onShots s h f g).pebbles = s.pebbles := rfl
@[simp] theorem onShots_mem (h f : Nat) (g : Context → Context) : (onShots s h f g).mem = s.mem := rfl
@[simp] theorem onShots_dram (h f : Nat) (g : Context → Context) : (onShots s h f g).dram = s.dram := rfl
@[simp] theorem onShots_eye (h f : Nat) (g : Context → Context) : (onShots s h f g).eye = s.eye := rfl
@[simp] theorem onShots_bus (h f : Nat) (g : Context → Context) : (onShots s h f g).bus = s.bus := rfl
@[simp] theorem onShots_out (h f : Nat) (g : Context → Context) : (onShots s h f g).out = s.out := rfl

/-! ### setAux -/

@[simp] theorem setAux_pending (h : Nat) (a : StreamAux) : (setAux s h a).pending = s.pending := rfl
@[simp] theorem setAux_now (h : Nat) (a : StreamAux) : (setAux s h a).now = s.now := rfl
@[simp] theorem setAux_draws (h : Nat) (a : StreamAux) : (setAux s h a).draws = s.draws := rfl
@[simp] theorem setAux_mode (h : Nat) (a : StreamAux) : (setAux s h a).mode = s.mode := rfl
@[simp] theorem setAux_cause (h : Nat) (a : StreamAux) : (setAux s h a).cause = s.cause := rfl
@[simp] theorem setAux_fatal (h : Nat) (a : StreamAux) : (setAux s h a).fatal = s.fatal := rfl
@[simp] theorem setAux_assay (h : Nat) (a : StreamAux) : (setAux s h a).assay = s.assay := rfl
@[simp] theorem setAux_fuses (h : Nat) (a : StreamAux) : (setAux s h a).fuses = s.fuses := rfl
@[simp] theorem setAux_nv (h : Nat) (a : StreamAux) : (setAux s h a).nv = s.nv := rfl
@[simp] theorem setAux_active (h : Nat) (a : StreamAux) : (setAux s h a).active = s.active := rfl
@[simp] theorem setAux_img (h : Nat) (a : StreamAux) : (setAux s h a).img = s.img := rfl
@[simp] theorem setAux_bmr (h : Nat) (a : StreamAux) : (setAux s h a).bmr = s.bmr := rfl
@[simp] theorem setAux_ladder (h : Nat) (a : StreamAux) : (setAux s h a).ladder = s.ladder := rfl
@[simp] theorem setAux_tamperLatch (h : Nat) (a : StreamAux) : (setAux s h a).tamperLatch = s.tamperLatch := rfl
@[simp] theorem setAux_tamperLevel (h : Nat) (a : StreamAux) : (setAux s h a).tamperLevel = s.tamperLevel := rfl
@[simp] theorem setAux_retention (h : Nat) (a : StreamAux) : (setAux s h a).retention = s.retention := rfl
@[simp] theorem setAux_power (h : Nat) (a : StreamAux) : (setAux s h a).power = s.power := rfl
@[simp] theorem setAux_tcfg (h : Nat) (a : StreamAux) : (setAux s h a).tcfg = s.tcfg := rfl
@[simp] theorem setAux_ticks (h : Nat) (a : StreamAux) : (setAux s h a).ticks = s.ticks := rfl
@[simp] theorem setAux_plan (h : Nat) (a : StreamAux) : (setAux s h a).plan = s.plan := rfl
@[simp] theorem setAux_ovr (h : Nat) (a : StreamAux) : (setAux s h a).ovr = s.ovr := rfl
@[simp] theorem setAux_mail (h : Nat) (a : StreamAux) : (setAux s h a).mail = s.mail := rfl
@[simp] theorem setAux_mbox (h : Nat) (a : StreamAux) (j : Nat) : (setAux s h a).mbox j = s.mbox j := rfl
@[simp] theorem setAux_rotation (h : Nat) (a : StreamAux) : (setAux s h a).rotation = s.rotation := rfl
@[simp] theorem setAux_cmds (h : Nat) (a : StreamAux) : (setAux s h a).cmds = s.cmds := rfl
@[simp] theorem setAux_nextCmd (h : Nat) (a : StreamAux) : (setAux s h a).nextCmd = s.nextCmd := rfl
@[simp] theorem setAux_staged (h : Nat) (a : StreamAux) : (setAux s h a).staged = s.staged := rfl
@[simp] theorem setAux_streams (h : Nat) (a : StreamAux) : (setAux s h a).streams = s.streams := rfl
@[simp] theorem setAux_stream (h : Nat) (a : StreamAux) (j : Nat) : (setAux s h a).stream j = s.stream j := rfl
@[simp] theorem setAux_shots (h : Nat) (a : StreamAux) : (setAux s h a).shots = s.shots := rfl
@[simp] theorem setAux_adm (h : Nat) (a : StreamAux) : (setAux s h a).adm = s.adm := rfl
@[simp] theorem setAux_demand (h : Nat) (a : StreamAux) (j : Nat) : (setAux s h a).demand j = s.demand j := rfl
@[simp] theorem setAux_grace (h : Nat) (a : StreamAux) : (setAux s h a).grace = s.grace := rfl
@[simp] theorem setAux_slots (h : Nat) (a : StreamAux) : (setAux s h a).slots = s.slots := rfl
@[simp] theorem setAux_slot (h : Nat) (a : StreamAux) (j : Nat) : (setAux s h a).slot j = s.slot j := rfl
@[simp] theorem setAux_keyCtl (h : Nat) (a : StreamAux) : (setAux s h a).keyCtl = s.keyCtl := rfl
@[simp] theorem setAux_ent (h : Nat) (a : StreamAux) : (setAux s h a).ent = s.ent := rfl
@[simp] theorem setAux_imports (h : Nat) (a : StreamAux) : (setAux s h a).imports = s.imports := rfl
@[simp] theorem setAux_rings (h : Nat) (a : StreamAux) : (setAux s h a).rings = s.rings := rfl
@[simp] theorem setAux_ring (h : Nat) (a : StreamAux) (j : Nat) : (setAux s h a).ring j = s.ring j := rfl
@[simp] theorem setAux_hostMem (h : Nat) (a : StreamAux) : (setAux s h a).hostMem = s.hostMem := rfl
@[simp] theorem setAux_jobs (h : Nat) (a : StreamAux) : (setAux s h a).jobs = s.jobs := rfl
@[simp] theorem setAux_tx (h : Nat) (a : StreamAux) : (setAux s h a).tx = s.tx := rfl
@[simp] theorem setAux_txFrame (h : Nat) (a : StreamAux) (j : Nat) : (setAux s h a).txFrame j = s.txFrame j := rfl
@[simp] theorem setAux_rx (h : Nat) (a : StreamAux) : (setAux s h a).rx = s.rx := rfl
@[simp] theorem setAux_rxFrame (h : Nat) (a : StreamAux) (j : Nat) : (setAux s h a).rxFrame j = s.rxFrame j := rfl
@[simp] theorem setAux_nextFrame (h : Nat) (a : StreamAux) : (setAux s h a).nextFrame = s.nextFrame := rfl
@[simp] theorem setAux_egSkip (h : Nat) (a : StreamAux) : (setAux s h a).egSkip = s.egSkip := rfl
@[simp] theorem setAux_eReady (h : Nat) (a : StreamAux) : (setAux s h a).eReady = s.eReady := rfl
@[simp] theorem setAux_classifying (h : Nat) (a : StreamAux) : (setAux s h a).classifying = s.classifying := rfl
@[simp] theorem setAux_ingress (h : Nat) (a : StreamAux) : (setAux s h a).ingress = s.ingress := rfl
@[simp] theorem setAux_ports (h : Nat) (a : StreamAux) : (setAux s h a).ports = s.ports := rfl
@[simp] theorem setAux_port (h : Nat) (a : StreamAux) (j : Nat) : (setAux s h a).port j = s.port j := rfl
@[simp] theorem setAux_pairs (h : Nat) (a : StreamAux) : (setAux s h a).pairs = s.pairs := rfl
@[simp] theorem setAux_pair (h : Nat) (a : StreamAux) (j : Nat) : (setAux s h a).pair j = s.pair j := rfl
@[simp] theorem setAux_noticeLog (h : Nat) (a : StreamAux) : (setAux s h a).noticeLog = s.noticeLog := rfl
@[simp] theorem setAux_gates (h : Nat) (a : StreamAux) : (setAux s h a).gates = s.gates := rfl
@[simp] theorem setAux_gate (h : Nat) (a : StreamAux) (j : Nat) : (setAux s h a).gate j = s.gate j := rfl
@[simp] theorem setAux_pubs (h : Nat) (a : StreamAux) : (setAux s h a).pubs = s.pubs := rfl
@[simp] theorem setAux_pub (h : Nat) (a : StreamAux) (j : Nat) : (setAux s h a).pub j = s.pub j := rfl
@[simp] theorem setAux_vers (h : Nat) (a : StreamAux) : (setAux s h a).vers = s.vers := rfl
@[simp] theorem setAux_ver (h : Nat) (a : StreamAux) (j : Nat) : (setAux s h a).ver j = s.ver j := rfl
@[simp] theorem setAux_v2 (h : Nat) (a : StreamAux) : (setAux s h a).v2 = s.v2 := rfl
@[simp] theorem setAux_bw (h : Nat) (a : StreamAux) : (setAux s h a).bw = s.bw := rfl
@[simp] theorem setAux_pebbles (h : Nat) (a : StreamAux) : (setAux s h a).pebbles = s.pebbles := rfl
@[simp] theorem setAux_mem (h : Nat) (a : StreamAux) : (setAux s h a).mem = s.mem := rfl
@[simp] theorem setAux_dram (h : Nat) (a : StreamAux) : (setAux s h a).dram = s.dram := rfl
@[simp] theorem setAux_eye (h : Nat) (a : StreamAux) : (setAux s h a).eye = s.eye := rfl
@[simp] theorem setAux_bus (h : Nat) (a : StreamAux) : (setAux s h a).bus = s.bus := rfl
@[simp] theorem setAux_out (h : Nat) (a : StreamAux) : (setAux s h a).out = s.out := rfl

/-! ### setDemand -/

@[simp] theorem setDemand_pending (h : Nat) (d : Demand) : (setDemand s h d).pending = s.pending := rfl
@[simp] theorem setDemand_now (h : Nat) (d : Demand) : (setDemand s h d).now = s.now := rfl
@[simp] theorem setDemand_draws (h : Nat) (d : Demand) : (setDemand s h d).draws = s.draws := rfl
@[simp] theorem setDemand_mode (h : Nat) (d : Demand) : (setDemand s h d).mode = s.mode := rfl
@[simp] theorem setDemand_cause (h : Nat) (d : Demand) : (setDemand s h d).cause = s.cause := rfl
@[simp] theorem setDemand_fatal (h : Nat) (d : Demand) : (setDemand s h d).fatal = s.fatal := rfl
@[simp] theorem setDemand_assay (h : Nat) (d : Demand) : (setDemand s h d).assay = s.assay := rfl
@[simp] theorem setDemand_fuses (h : Nat) (d : Demand) : (setDemand s h d).fuses = s.fuses := rfl
@[simp] theorem setDemand_nv (h : Nat) (d : Demand) : (setDemand s h d).nv = s.nv := rfl
@[simp] theorem setDemand_active (h : Nat) (d : Demand) : (setDemand s h d).active = s.active := rfl
@[simp] theorem setDemand_img (h : Nat) (d : Demand) : (setDemand s h d).img = s.img := rfl
@[simp] theorem setDemand_bmr (h : Nat) (d : Demand) : (setDemand s h d).bmr = s.bmr := rfl
@[simp] theorem setDemand_ladder (h : Nat) (d : Demand) : (setDemand s h d).ladder = s.ladder := rfl
@[simp] theorem setDemand_tamperLatch (h : Nat) (d : Demand) : (setDemand s h d).tamperLatch = s.tamperLatch := rfl
@[simp] theorem setDemand_tamperLevel (h : Nat) (d : Demand) : (setDemand s h d).tamperLevel = s.tamperLevel := rfl
@[simp] theorem setDemand_retention (h : Nat) (d : Demand) : (setDemand s h d).retention = s.retention := rfl
@[simp] theorem setDemand_power (h : Nat) (d : Demand) : (setDemand s h d).power = s.power := rfl
@[simp] theorem setDemand_tcfg (h : Nat) (d : Demand) : (setDemand s h d).tcfg = s.tcfg := rfl
@[simp] theorem setDemand_ticks (h : Nat) (d : Demand) : (setDemand s h d).ticks = s.ticks := rfl
@[simp] theorem setDemand_plan (h : Nat) (d : Demand) : (setDemand s h d).plan = s.plan := rfl
@[simp] theorem setDemand_ovr (h : Nat) (d : Demand) : (setDemand s h d).ovr = s.ovr := rfl
@[simp] theorem setDemand_mail (h : Nat) (d : Demand) : (setDemand s h d).mail = s.mail := rfl
@[simp] theorem setDemand_mbox (h : Nat) (d : Demand) (j : Nat) : (setDemand s h d).mbox j = s.mbox j := rfl
@[simp] theorem setDemand_rotation (h : Nat) (d : Demand) : (setDemand s h d).rotation = s.rotation := rfl
@[simp] theorem setDemand_cmds (h : Nat) (d : Demand) : (setDemand s h d).cmds = s.cmds := rfl
@[simp] theorem setDemand_nextCmd (h : Nat) (d : Demand) : (setDemand s h d).nextCmd = s.nextCmd := rfl
@[simp] theorem setDemand_staged (h : Nat) (d : Demand) : (setDemand s h d).staged = s.staged := rfl
@[simp] theorem setDemand_streams (h : Nat) (d : Demand) : (setDemand s h d).streams = s.streams := rfl
@[simp] theorem setDemand_stream (h : Nat) (d : Demand) (j : Nat) : (setDemand s h d).stream j = s.stream j := rfl
@[simp] theorem setDemand_shots (h : Nat) (d : Demand) : (setDemand s h d).shots = s.shots := rfl
@[simp] theorem setDemand_aux (h : Nat) (d : Demand) : (setDemand s h d).aux = s.aux := rfl
@[simp] theorem setDemand_aux_ (h : Nat) (d : Demand) (j : Nat) : (setDemand s h d).aux_ j = s.aux_ j := rfl
@[simp] theorem setDemand_grace (h : Nat) (d : Demand) : (setDemand s h d).grace = s.grace := rfl
@[simp] theorem setDemand_slots (h : Nat) (d : Demand) : (setDemand s h d).slots = s.slots := rfl
@[simp] theorem setDemand_slot (h : Nat) (d : Demand) (j : Nat) : (setDemand s h d).slot j = s.slot j := rfl
@[simp] theorem setDemand_keyCtl (h : Nat) (d : Demand) : (setDemand s h d).keyCtl = s.keyCtl := rfl
@[simp] theorem setDemand_ent (h : Nat) (d : Demand) : (setDemand s h d).ent = s.ent := rfl
@[simp] theorem setDemand_imports (h : Nat) (d : Demand) : (setDemand s h d).imports = s.imports := rfl
@[simp] theorem setDemand_rings (h : Nat) (d : Demand) : (setDemand s h d).rings = s.rings := rfl
@[simp] theorem setDemand_ring (h : Nat) (d : Demand) (j : Nat) : (setDemand s h d).ring j = s.ring j := rfl
@[simp] theorem setDemand_hostMem (h : Nat) (d : Demand) : (setDemand s h d).hostMem = s.hostMem := rfl
@[simp] theorem setDemand_jobs (h : Nat) (d : Demand) : (setDemand s h d).jobs = s.jobs := rfl
@[simp] theorem setDemand_tx (h : Nat) (d : Demand) : (setDemand s h d).tx = s.tx := rfl
@[simp] theorem setDemand_txFrame (h : Nat) (d : Demand) (j : Nat) : (setDemand s h d).txFrame j = s.txFrame j := rfl
@[simp] theorem setDemand_rx (h : Nat) (d : Demand) : (setDemand s h d).rx = s.rx := rfl
@[simp] theorem setDemand_rxFrame (h : Nat) (d : Demand) (j : Nat) : (setDemand s h d).rxFrame j = s.rxFrame j := rfl
@[simp] theorem setDemand_nextFrame (h : Nat) (d : Demand) : (setDemand s h d).nextFrame = s.nextFrame := rfl
@[simp] theorem setDemand_egSkip (h : Nat) (d : Demand) : (setDemand s h d).egSkip = s.egSkip := rfl
@[simp] theorem setDemand_eReady (h : Nat) (d : Demand) : (setDemand s h d).eReady = s.eReady := rfl
@[simp] theorem setDemand_classifying (h : Nat) (d : Demand) : (setDemand s h d).classifying = s.classifying := rfl
@[simp] theorem setDemand_ingress (h : Nat) (d : Demand) : (setDemand s h d).ingress = s.ingress := rfl
@[simp] theorem setDemand_ports (h : Nat) (d : Demand) : (setDemand s h d).ports = s.ports := rfl
@[simp] theorem setDemand_port (h : Nat) (d : Demand) (j : Nat) : (setDemand s h d).port j = s.port j := rfl
@[simp] theorem setDemand_pairs (h : Nat) (d : Demand) : (setDemand s h d).pairs = s.pairs := rfl
@[simp] theorem setDemand_pair (h : Nat) (d : Demand) (j : Nat) : (setDemand s h d).pair j = s.pair j := rfl
@[simp] theorem setDemand_noticeLog (h : Nat) (d : Demand) : (setDemand s h d).noticeLog = s.noticeLog := rfl
@[simp] theorem setDemand_gates (h : Nat) (d : Demand) : (setDemand s h d).gates = s.gates := rfl
@[simp] theorem setDemand_gate (h : Nat) (d : Demand) (j : Nat) : (setDemand s h d).gate j = s.gate j := rfl
@[simp] theorem setDemand_pubs (h : Nat) (d : Demand) : (setDemand s h d).pubs = s.pubs := rfl
@[simp] theorem setDemand_pub (h : Nat) (d : Demand) (j : Nat) : (setDemand s h d).pub j = s.pub j := rfl
@[simp] theorem setDemand_vers (h : Nat) (d : Demand) : (setDemand s h d).vers = s.vers := rfl
@[simp] theorem setDemand_ver (h : Nat) (d : Demand) (j : Nat) : (setDemand s h d).ver j = s.ver j := rfl
@[simp] theorem setDemand_v2 (h : Nat) (d : Demand) : (setDemand s h d).v2 = s.v2 := rfl
@[simp] theorem setDemand_bw (h : Nat) (d : Demand) : (setDemand s h d).bw = s.bw := rfl
@[simp] theorem setDemand_pebbles (h : Nat) (d : Demand) : (setDemand s h d).pebbles = s.pebbles := rfl
@[simp] theorem setDemand_mem (h : Nat) (d : Demand) : (setDemand s h d).mem = s.mem := rfl
@[simp] theorem setDemand_dram (h : Nat) (d : Demand) : (setDemand s h d).dram = s.dram := rfl
@[simp] theorem setDemand_eye (h : Nat) (d : Demand) : (setDemand s h d).eye = s.eye := rfl
@[simp] theorem setDemand_bus (h : Nat) (d : Demand) : (setDemand s h d).bus = s.bus := rfl
@[simp] theorem setDemand_out (h : Nat) (d : Demand) : (setDemand s h d).out = s.out := rfl

/-! ### setSlot -/

@[simp] theorem setSlot_pending (k : Nat) (v : KeySlot) : (setSlot s k v).pending = s.pending := rfl
@[simp] theorem setSlot_now (k : Nat) (v : KeySlot) : (setSlot s k v).now = s.now := rfl
@[simp] theorem setSlot_draws (k : Nat) (v : KeySlot) : (setSlot s k v).draws = s.draws := rfl
@[simp] theorem setSlot_mode (k : Nat) (v : KeySlot) : (setSlot s k v).mode = s.mode := rfl
@[simp] theorem setSlot_cause (k : Nat) (v : KeySlot) : (setSlot s k v).cause = s.cause := rfl
@[simp] theorem setSlot_fatal (k : Nat) (v : KeySlot) : (setSlot s k v).fatal = s.fatal := rfl
@[simp] theorem setSlot_assay (k : Nat) (v : KeySlot) : (setSlot s k v).assay = s.assay := rfl
@[simp] theorem setSlot_fuses (k : Nat) (v : KeySlot) : (setSlot s k v).fuses = s.fuses := rfl
@[simp] theorem setSlot_nv (k : Nat) (v : KeySlot) : (setSlot s k v).nv = s.nv := rfl
@[simp] theorem setSlot_active (k : Nat) (v : KeySlot) : (setSlot s k v).active = s.active := rfl
@[simp] theorem setSlot_img (k : Nat) (v : KeySlot) : (setSlot s k v).img = s.img := rfl
@[simp] theorem setSlot_bmr (k : Nat) (v : KeySlot) : (setSlot s k v).bmr = s.bmr := rfl
@[simp] theorem setSlot_ladder (k : Nat) (v : KeySlot) : (setSlot s k v).ladder = s.ladder := rfl
@[simp] theorem setSlot_tamperLatch (k : Nat) (v : KeySlot) : (setSlot s k v).tamperLatch = s.tamperLatch := rfl
@[simp] theorem setSlot_tamperLevel (k : Nat) (v : KeySlot) : (setSlot s k v).tamperLevel = s.tamperLevel := rfl
@[simp] theorem setSlot_retention (k : Nat) (v : KeySlot) : (setSlot s k v).retention = s.retention := rfl
@[simp] theorem setSlot_power (k : Nat) (v : KeySlot) : (setSlot s k v).power = s.power := rfl
@[simp] theorem setSlot_tcfg (k : Nat) (v : KeySlot) : (setSlot s k v).tcfg = s.tcfg := rfl
@[simp] theorem setSlot_ticks (k : Nat) (v : KeySlot) : (setSlot s k v).ticks = s.ticks := rfl
@[simp] theorem setSlot_plan (k : Nat) (v : KeySlot) : (setSlot s k v).plan = s.plan := rfl
@[simp] theorem setSlot_ovr (k : Nat) (v : KeySlot) : (setSlot s k v).ovr = s.ovr := rfl
@[simp] theorem setSlot_mail (k : Nat) (v : KeySlot) : (setSlot s k v).mail = s.mail := rfl
@[simp] theorem setSlot_mbox (k : Nat) (v : KeySlot) (j : Nat) : (setSlot s k v).mbox j = s.mbox j := rfl
@[simp] theorem setSlot_rotation (k : Nat) (v : KeySlot) : (setSlot s k v).rotation = s.rotation := rfl
@[simp] theorem setSlot_cmds (k : Nat) (v : KeySlot) : (setSlot s k v).cmds = s.cmds := rfl
@[simp] theorem setSlot_nextCmd (k : Nat) (v : KeySlot) : (setSlot s k v).nextCmd = s.nextCmd := rfl
@[simp] theorem setSlot_staged (k : Nat) (v : KeySlot) : (setSlot s k v).staged = s.staged := rfl
@[simp] theorem setSlot_streams (k : Nat) (v : KeySlot) : (setSlot s k v).streams = s.streams := rfl
@[simp] theorem setSlot_stream (k : Nat) (v : KeySlot) (j : Nat) : (setSlot s k v).stream j = s.stream j := rfl
@[simp] theorem setSlot_shots (k : Nat) (v : KeySlot) : (setSlot s k v).shots = s.shots := rfl
@[simp] theorem setSlot_aux (k : Nat) (v : KeySlot) : (setSlot s k v).aux = s.aux := rfl
@[simp] theorem setSlot_aux_ (k : Nat) (v : KeySlot) (j : Nat) : (setSlot s k v).aux_ j = s.aux_ j := rfl
@[simp] theorem setSlot_adm (k : Nat) (v : KeySlot) : (setSlot s k v).adm = s.adm := rfl
@[simp] theorem setSlot_demand (k : Nat) (v : KeySlot) (j : Nat) : (setSlot s k v).demand j = s.demand j := rfl
@[simp] theorem setSlot_grace (k : Nat) (v : KeySlot) : (setSlot s k v).grace = s.grace := rfl
@[simp] theorem setSlot_keyCtl (k : Nat) (v : KeySlot) : (setSlot s k v).keyCtl = s.keyCtl := rfl
@[simp] theorem setSlot_ent (k : Nat) (v : KeySlot) : (setSlot s k v).ent = s.ent := rfl
@[simp] theorem setSlot_imports (k : Nat) (v : KeySlot) : (setSlot s k v).imports = s.imports := rfl
@[simp] theorem setSlot_rings (k : Nat) (v : KeySlot) : (setSlot s k v).rings = s.rings := rfl
@[simp] theorem setSlot_ring (k : Nat) (v : KeySlot) (j : Nat) : (setSlot s k v).ring j = s.ring j := rfl
@[simp] theorem setSlot_hostMem (k : Nat) (v : KeySlot) : (setSlot s k v).hostMem = s.hostMem := rfl
@[simp] theorem setSlot_jobs (k : Nat) (v : KeySlot) : (setSlot s k v).jobs = s.jobs := rfl
@[simp] theorem setSlot_tx (k : Nat) (v : KeySlot) : (setSlot s k v).tx = s.tx := rfl
@[simp] theorem setSlot_txFrame (k : Nat) (v : KeySlot) (j : Nat) : (setSlot s k v).txFrame j = s.txFrame j := rfl
@[simp] theorem setSlot_rx (k : Nat) (v : KeySlot) : (setSlot s k v).rx = s.rx := rfl
@[simp] theorem setSlot_rxFrame (k : Nat) (v : KeySlot) (j : Nat) : (setSlot s k v).rxFrame j = s.rxFrame j := rfl
@[simp] theorem setSlot_nextFrame (k : Nat) (v : KeySlot) : (setSlot s k v).nextFrame = s.nextFrame := rfl
@[simp] theorem setSlot_egSkip (k : Nat) (v : KeySlot) : (setSlot s k v).egSkip = s.egSkip := rfl
@[simp] theorem setSlot_eReady (k : Nat) (v : KeySlot) : (setSlot s k v).eReady = s.eReady := rfl
@[simp] theorem setSlot_classifying (k : Nat) (v : KeySlot) : (setSlot s k v).classifying = s.classifying := rfl
@[simp] theorem setSlot_ingress (k : Nat) (v : KeySlot) : (setSlot s k v).ingress = s.ingress := rfl
@[simp] theorem setSlot_ports (k : Nat) (v : KeySlot) : (setSlot s k v).ports = s.ports := rfl
@[simp] theorem setSlot_port (k : Nat) (v : KeySlot) (j : Nat) : (setSlot s k v).port j = s.port j := rfl
@[simp] theorem setSlot_pairs (k : Nat) (v : KeySlot) : (setSlot s k v).pairs = s.pairs := rfl
@[simp] theorem setSlot_pair (k : Nat) (v : KeySlot) (j : Nat) : (setSlot s k v).pair j = s.pair j := rfl
@[simp] theorem setSlot_noticeLog (k : Nat) (v : KeySlot) : (setSlot s k v).noticeLog = s.noticeLog := rfl
@[simp] theorem setSlot_gates (k : Nat) (v : KeySlot) : (setSlot s k v).gates = s.gates := rfl
@[simp] theorem setSlot_gate (k : Nat) (v : KeySlot) (j : Nat) : (setSlot s k v).gate j = s.gate j := rfl
@[simp] theorem setSlot_pubs (k : Nat) (v : KeySlot) : (setSlot s k v).pubs = s.pubs := rfl
@[simp] theorem setSlot_pub (k : Nat) (v : KeySlot) (j : Nat) : (setSlot s k v).pub j = s.pub j := rfl
@[simp] theorem setSlot_vers (k : Nat) (v : KeySlot) : (setSlot s k v).vers = s.vers := rfl
@[simp] theorem setSlot_ver (k : Nat) (v : KeySlot) (j : Nat) : (setSlot s k v).ver j = s.ver j := rfl
@[simp] theorem setSlot_v2 (k : Nat) (v : KeySlot) : (setSlot s k v).v2 = s.v2 := rfl
@[simp] theorem setSlot_bw (k : Nat) (v : KeySlot) : (setSlot s k v).bw = s.bw := rfl
@[simp] theorem setSlot_pebbles (k : Nat) (v : KeySlot) : (setSlot s k v).pebbles = s.pebbles := rfl
@[simp] theorem setSlot_mem (k : Nat) (v : KeySlot) : (setSlot s k v).mem = s.mem := rfl
@[simp] theorem setSlot_dram (k : Nat) (v : KeySlot) : (setSlot s k v).dram = s.dram := rfl
@[simp] theorem setSlot_eye (k : Nat) (v : KeySlot) : (setSlot s k v).eye = s.eye := rfl
@[simp] theorem setSlot_bus (k : Nat) (v : KeySlot) : (setSlot s k v).bus = s.bus := rfl
@[simp] theorem setSlot_out (k : Nat) (v : KeySlot) : (setSlot s k v).out = s.out := rfl

/-! ### setMbox -/

@[simp] theorem setMbox_pending (m : Nat) (b : Mailbox) : (setMbox s m b).pending = s.pending := rfl
@[simp] theorem setMbox_now (m : Nat) (b : Mailbox) : (setMbox s m b).now = s.now := rfl
@[simp] theorem setMbox_draws (m : Nat) (b : Mailbox) : (setMbox s m b).draws = s.draws := rfl
@[simp] theorem setMbox_mode (m : Nat) (b : Mailbox) : (setMbox s m b).mode = s.mode := rfl
@[simp] theorem setMbox_cause (m : Nat) (b : Mailbox) : (setMbox s m b).cause = s.cause := rfl
@[simp] theorem setMbox_fatal (m : Nat) (b : Mailbox) : (setMbox s m b).fatal = s.fatal := rfl
@[simp] theorem setMbox_assay (m : Nat) (b : Mailbox) : (setMbox s m b).assay = s.assay := rfl
@[simp] theorem setMbox_fuses (m : Nat) (b : Mailbox) : (setMbox s m b).fuses = s.fuses := rfl
@[simp] theorem setMbox_nv (m : Nat) (b : Mailbox) : (setMbox s m b).nv = s.nv := rfl
@[simp] theorem setMbox_active (m : Nat) (b : Mailbox) : (setMbox s m b).active = s.active := rfl
@[simp] theorem setMbox_img (m : Nat) (b : Mailbox) : (setMbox s m b).img = s.img := rfl
@[simp] theorem setMbox_bmr (m : Nat) (b : Mailbox) : (setMbox s m b).bmr = s.bmr := rfl
@[simp] theorem setMbox_ladder (m : Nat) (b : Mailbox) : (setMbox s m b).ladder = s.ladder := rfl
@[simp] theorem setMbox_tamperLatch (m : Nat) (b : Mailbox) : (setMbox s m b).tamperLatch = s.tamperLatch := rfl
@[simp] theorem setMbox_tamperLevel (m : Nat) (b : Mailbox) : (setMbox s m b).tamperLevel = s.tamperLevel := rfl
@[simp] theorem setMbox_retention (m : Nat) (b : Mailbox) : (setMbox s m b).retention = s.retention := rfl
@[simp] theorem setMbox_power (m : Nat) (b : Mailbox) : (setMbox s m b).power = s.power := rfl
@[simp] theorem setMbox_tcfg (m : Nat) (b : Mailbox) : (setMbox s m b).tcfg = s.tcfg := rfl
@[simp] theorem setMbox_ticks (m : Nat) (b : Mailbox) : (setMbox s m b).ticks = s.ticks := rfl
@[simp] theorem setMbox_plan (m : Nat) (b : Mailbox) : (setMbox s m b).plan = s.plan := rfl
@[simp] theorem setMbox_ovr (m : Nat) (b : Mailbox) : (setMbox s m b).ovr = s.ovr := rfl
@[simp] theorem setMbox_rotation (m : Nat) (b : Mailbox) : (setMbox s m b).rotation = s.rotation := rfl
@[simp] theorem setMbox_cmds (m : Nat) (b : Mailbox) : (setMbox s m b).cmds = s.cmds := rfl
@[simp] theorem setMbox_nextCmd (m : Nat) (b : Mailbox) : (setMbox s m b).nextCmd = s.nextCmd := rfl
@[simp] theorem setMbox_staged (m : Nat) (b : Mailbox) : (setMbox s m b).staged = s.staged := rfl
@[simp] theorem setMbox_streams (m : Nat) (b : Mailbox) : (setMbox s m b).streams = s.streams := rfl
@[simp] theorem setMbox_stream (m : Nat) (b : Mailbox) (j : Nat) : (setMbox s m b).stream j = s.stream j := rfl
@[simp] theorem setMbox_shots (m : Nat) (b : Mailbox) : (setMbox s m b).shots = s.shots := rfl
@[simp] theorem setMbox_aux (m : Nat) (b : Mailbox) : (setMbox s m b).aux = s.aux := rfl
@[simp] theorem setMbox_aux_ (m : Nat) (b : Mailbox) (j : Nat) : (setMbox s m b).aux_ j = s.aux_ j := rfl
@[simp] theorem setMbox_adm (m : Nat) (b : Mailbox) : (setMbox s m b).adm = s.adm := rfl
@[simp] theorem setMbox_demand (m : Nat) (b : Mailbox) (j : Nat) : (setMbox s m b).demand j = s.demand j := rfl
@[simp] theorem setMbox_grace (m : Nat) (b : Mailbox) : (setMbox s m b).grace = s.grace := rfl
@[simp] theorem setMbox_slots (m : Nat) (b : Mailbox) : (setMbox s m b).slots = s.slots := rfl
@[simp] theorem setMbox_slot (m : Nat) (b : Mailbox) (j : Nat) : (setMbox s m b).slot j = s.slot j := rfl
@[simp] theorem setMbox_keyCtl (m : Nat) (b : Mailbox) : (setMbox s m b).keyCtl = s.keyCtl := rfl
@[simp] theorem setMbox_ent (m : Nat) (b : Mailbox) : (setMbox s m b).ent = s.ent := rfl
@[simp] theorem setMbox_imports (m : Nat) (b : Mailbox) : (setMbox s m b).imports = s.imports := rfl
@[simp] theorem setMbox_rings (m : Nat) (b : Mailbox) : (setMbox s m b).rings = s.rings := rfl
@[simp] theorem setMbox_ring (m : Nat) (b : Mailbox) (j : Nat) : (setMbox s m b).ring j = s.ring j := rfl
@[simp] theorem setMbox_hostMem (m : Nat) (b : Mailbox) : (setMbox s m b).hostMem = s.hostMem := rfl
@[simp] theorem setMbox_jobs (m : Nat) (b : Mailbox) : (setMbox s m b).jobs = s.jobs := rfl
@[simp] theorem setMbox_tx (m : Nat) (b : Mailbox) : (setMbox s m b).tx = s.tx := rfl
@[simp] theorem setMbox_txFrame (m : Nat) (b : Mailbox) (j : Nat) : (setMbox s m b).txFrame j = s.txFrame j := rfl
@[simp] theorem setMbox_rx (m : Nat) (b : Mailbox) : (setMbox s m b).rx = s.rx := rfl
@[simp] theorem setMbox_rxFrame (m : Nat) (b : Mailbox) (j : Nat) : (setMbox s m b).rxFrame j = s.rxFrame j := rfl
@[simp] theorem setMbox_nextFrame (m : Nat) (b : Mailbox) : (setMbox s m b).nextFrame = s.nextFrame := rfl
@[simp] theorem setMbox_egSkip (m : Nat) (b : Mailbox) : (setMbox s m b).egSkip = s.egSkip := rfl
@[simp] theorem setMbox_eReady (m : Nat) (b : Mailbox) : (setMbox s m b).eReady = s.eReady := rfl
@[simp] theorem setMbox_classifying (m : Nat) (b : Mailbox) : (setMbox s m b).classifying = s.classifying := rfl
@[simp] theorem setMbox_ingress (m : Nat) (b : Mailbox) : (setMbox s m b).ingress = s.ingress := rfl
@[simp] theorem setMbox_ports (m : Nat) (b : Mailbox) : (setMbox s m b).ports = s.ports := rfl
@[simp] theorem setMbox_port (m : Nat) (b : Mailbox) (j : Nat) : (setMbox s m b).port j = s.port j := rfl
@[simp] theorem setMbox_pairs (m : Nat) (b : Mailbox) : (setMbox s m b).pairs = s.pairs := rfl
@[simp] theorem setMbox_pair (m : Nat) (b : Mailbox) (j : Nat) : (setMbox s m b).pair j = s.pair j := rfl
@[simp] theorem setMbox_noticeLog (m : Nat) (b : Mailbox) : (setMbox s m b).noticeLog = s.noticeLog := rfl
@[simp] theorem setMbox_gates (m : Nat) (b : Mailbox) : (setMbox s m b).gates = s.gates := rfl
@[simp] theorem setMbox_gate (m : Nat) (b : Mailbox) (j : Nat) : (setMbox s m b).gate j = s.gate j := rfl
@[simp] theorem setMbox_pubs (m : Nat) (b : Mailbox) : (setMbox s m b).pubs = s.pubs := rfl
@[simp] theorem setMbox_pub (m : Nat) (b : Mailbox) (j : Nat) : (setMbox s m b).pub j = s.pub j := rfl
@[simp] theorem setMbox_vers (m : Nat) (b : Mailbox) : (setMbox s m b).vers = s.vers := rfl
@[simp] theorem setMbox_ver (m : Nat) (b : Mailbox) (j : Nat) : (setMbox s m b).ver j = s.ver j := rfl
@[simp] theorem setMbox_v2 (m : Nat) (b : Mailbox) : (setMbox s m b).v2 = s.v2 := rfl
@[simp] theorem setMbox_bw (m : Nat) (b : Mailbox) : (setMbox s m b).bw = s.bw := rfl
@[simp] theorem setMbox_pebbles (m : Nat) (b : Mailbox) : (setMbox s m b).pebbles = s.pebbles := rfl
@[simp] theorem setMbox_mem (m : Nat) (b : Mailbox) : (setMbox s m b).mem = s.mem := rfl
@[simp] theorem setMbox_dram (m : Nat) (b : Mailbox) : (setMbox s m b).dram = s.dram := rfl
@[simp] theorem setMbox_eye (m : Nat) (b : Mailbox) : (setMbox s m b).eye = s.eye := rfl
@[simp] theorem setMbox_bus (m : Nat) (b : Mailbox) : (setMbox s m b).bus = s.bus := rfl
@[simp] theorem setMbox_out (m : Nat) (b : Mailbox) : (setMbox s m b).out = s.out := rfl

/-! ### setRing -/

@[simp] theorem setRing_pending (h : Nat) (r : Ring) : (setRing s h r).pending = s.pending := rfl
@[simp] theorem setRing_now (h : Nat) (r : Ring) : (setRing s h r).now = s.now := rfl
@[simp] theorem setRing_draws (h : Nat) (r : Ring) : (setRing s h r).draws = s.draws := rfl
@[simp] theorem setRing_mode (h : Nat) (r : Ring) : (setRing s h r).mode = s.mode := rfl
@[simp] theorem setRing_cause (h : Nat) (r : Ring) : (setRing s h r).cause = s.cause := rfl
@[simp] theorem setRing_fatal (h : Nat) (r : Ring) : (setRing s h r).fatal = s.fatal := rfl
@[simp] theorem setRing_assay (h : Nat) (r : Ring) : (setRing s h r).assay = s.assay := rfl
@[simp] theorem setRing_fuses (h : Nat) (r : Ring) : (setRing s h r).fuses = s.fuses := rfl
@[simp] theorem setRing_nv (h : Nat) (r : Ring) : (setRing s h r).nv = s.nv := rfl
@[simp] theorem setRing_active (h : Nat) (r : Ring) : (setRing s h r).active = s.active := rfl
@[simp] theorem setRing_img (h : Nat) (r : Ring) : (setRing s h r).img = s.img := rfl
@[simp] theorem setRing_bmr (h : Nat) (r : Ring) : (setRing s h r).bmr = s.bmr := rfl
@[simp] theorem setRing_ladder (h : Nat) (r : Ring) : (setRing s h r).ladder = s.ladder := rfl
@[simp] theorem setRing_tamperLatch (h : Nat) (r : Ring) : (setRing s h r).tamperLatch = s.tamperLatch := rfl
@[simp] theorem setRing_tamperLevel (h : Nat) (r : Ring) : (setRing s h r).tamperLevel = s.tamperLevel := rfl
@[simp] theorem setRing_retention (h : Nat) (r : Ring) : (setRing s h r).retention = s.retention := rfl
@[simp] theorem setRing_power (h : Nat) (r : Ring) : (setRing s h r).power = s.power := rfl
@[simp] theorem setRing_tcfg (h : Nat) (r : Ring) : (setRing s h r).tcfg = s.tcfg := rfl
@[simp] theorem setRing_ticks (h : Nat) (r : Ring) : (setRing s h r).ticks = s.ticks := rfl
@[simp] theorem setRing_plan (h : Nat) (r : Ring) : (setRing s h r).plan = s.plan := rfl
@[simp] theorem setRing_ovr (h : Nat) (r : Ring) : (setRing s h r).ovr = s.ovr := rfl
@[simp] theorem setRing_mail (h : Nat) (r : Ring) : (setRing s h r).mail = s.mail := rfl
@[simp] theorem setRing_mbox (h : Nat) (r : Ring) (j : Nat) : (setRing s h r).mbox j = s.mbox j := rfl
@[simp] theorem setRing_rotation (h : Nat) (r : Ring) : (setRing s h r).rotation = s.rotation := rfl
@[simp] theorem setRing_cmds (h : Nat) (r : Ring) : (setRing s h r).cmds = s.cmds := rfl
@[simp] theorem setRing_nextCmd (h : Nat) (r : Ring) : (setRing s h r).nextCmd = s.nextCmd := rfl
@[simp] theorem setRing_staged (h : Nat) (r : Ring) : (setRing s h r).staged = s.staged := rfl
@[simp] theorem setRing_streams (h : Nat) (r : Ring) : (setRing s h r).streams = s.streams := rfl
@[simp] theorem setRing_stream (h : Nat) (r : Ring) (j : Nat) : (setRing s h r).stream j = s.stream j := rfl
@[simp] theorem setRing_shots (h : Nat) (r : Ring) : (setRing s h r).shots = s.shots := rfl
@[simp] theorem setRing_aux (h : Nat) (r : Ring) : (setRing s h r).aux = s.aux := rfl
@[simp] theorem setRing_aux_ (h : Nat) (r : Ring) (j : Nat) : (setRing s h r).aux_ j = s.aux_ j := rfl
@[simp] theorem setRing_adm (h : Nat) (r : Ring) : (setRing s h r).adm = s.adm := rfl
@[simp] theorem setRing_demand (h : Nat) (r : Ring) (j : Nat) : (setRing s h r).demand j = s.demand j := rfl
@[simp] theorem setRing_grace (h : Nat) (r : Ring) : (setRing s h r).grace = s.grace := rfl
@[simp] theorem setRing_slots (h : Nat) (r : Ring) : (setRing s h r).slots = s.slots := rfl
@[simp] theorem setRing_slot (h : Nat) (r : Ring) (j : Nat) : (setRing s h r).slot j = s.slot j := rfl
@[simp] theorem setRing_keyCtl (h : Nat) (r : Ring) : (setRing s h r).keyCtl = s.keyCtl := rfl
@[simp] theorem setRing_ent (h : Nat) (r : Ring) : (setRing s h r).ent = s.ent := rfl
@[simp] theorem setRing_imports (h : Nat) (r : Ring) : (setRing s h r).imports = s.imports := rfl
@[simp] theorem setRing_hostMem (h : Nat) (r : Ring) : (setRing s h r).hostMem = s.hostMem := rfl
@[simp] theorem setRing_jobs (h : Nat) (r : Ring) : (setRing s h r).jobs = s.jobs := rfl
@[simp] theorem setRing_tx (h : Nat) (r : Ring) : (setRing s h r).tx = s.tx := rfl
@[simp] theorem setRing_txFrame (h : Nat) (r : Ring) (j : Nat) : (setRing s h r).txFrame j = s.txFrame j := rfl
@[simp] theorem setRing_rx (h : Nat) (r : Ring) : (setRing s h r).rx = s.rx := rfl
@[simp] theorem setRing_rxFrame (h : Nat) (r : Ring) (j : Nat) : (setRing s h r).rxFrame j = s.rxFrame j := rfl
@[simp] theorem setRing_nextFrame (h : Nat) (r : Ring) : (setRing s h r).nextFrame = s.nextFrame := rfl
@[simp] theorem setRing_egSkip (h : Nat) (r : Ring) : (setRing s h r).egSkip = s.egSkip := rfl
@[simp] theorem setRing_eReady (h : Nat) (r : Ring) : (setRing s h r).eReady = s.eReady := rfl
@[simp] theorem setRing_classifying (h : Nat) (r : Ring) : (setRing s h r).classifying = s.classifying := rfl
@[simp] theorem setRing_ingress (h : Nat) (r : Ring) : (setRing s h r).ingress = s.ingress := rfl
@[simp] theorem setRing_ports (h : Nat) (r : Ring) : (setRing s h r).ports = s.ports := rfl
@[simp] theorem setRing_port (h : Nat) (r : Ring) (j : Nat) : (setRing s h r).port j = s.port j := rfl
@[simp] theorem setRing_pairs (h : Nat) (r : Ring) : (setRing s h r).pairs = s.pairs := rfl
@[simp] theorem setRing_pair (h : Nat) (r : Ring) (j : Nat) : (setRing s h r).pair j = s.pair j := rfl
@[simp] theorem setRing_noticeLog (h : Nat) (r : Ring) : (setRing s h r).noticeLog = s.noticeLog := rfl
@[simp] theorem setRing_gates (h : Nat) (r : Ring) : (setRing s h r).gates = s.gates := rfl
@[simp] theorem setRing_gate (h : Nat) (r : Ring) (j : Nat) : (setRing s h r).gate j = s.gate j := rfl
@[simp] theorem setRing_pubs (h : Nat) (r : Ring) : (setRing s h r).pubs = s.pubs := rfl
@[simp] theorem setRing_pub (h : Nat) (r : Ring) (j : Nat) : (setRing s h r).pub j = s.pub j := rfl
@[simp] theorem setRing_vers (h : Nat) (r : Ring) : (setRing s h r).vers = s.vers := rfl
@[simp] theorem setRing_ver (h : Nat) (r : Ring) (j : Nat) : (setRing s h r).ver j = s.ver j := rfl
@[simp] theorem setRing_v2 (h : Nat) (r : Ring) : (setRing s h r).v2 = s.v2 := rfl
@[simp] theorem setRing_bw (h : Nat) (r : Ring) : (setRing s h r).bw = s.bw := rfl
@[simp] theorem setRing_pebbles (h : Nat) (r : Ring) : (setRing s h r).pebbles = s.pebbles := rfl
@[simp] theorem setRing_mem (h : Nat) (r : Ring) : (setRing s h r).mem = s.mem := rfl
@[simp] theorem setRing_dram (h : Nat) (r : Ring) : (setRing s h r).dram = s.dram := rfl
@[simp] theorem setRing_eye (h : Nat) (r : Ring) : (setRing s h r).eye = s.eye := rfl
@[simp] theorem setRing_bus (h : Nat) (r : Ring) : (setRing s h r).bus = s.bus := rfl
@[simp] theorem setRing_out (h : Nat) (r : Ring) : (setRing s h r).out = s.out := rfl

/-! ### setPort -/

@[simp] theorem setPort_pending (p : Nat) (v : PortState) : (setPort s p v).pending = s.pending := rfl
@[simp] theorem setPort_now (p : Nat) (v : PortState) : (setPort s p v).now = s.now := rfl
@[simp] theorem setPort_draws (p : Nat) (v : PortState) : (setPort s p v).draws = s.draws := rfl
@[simp] theorem setPort_mode (p : Nat) (v : PortState) : (setPort s p v).mode = s.mode := rfl
@[simp] theorem setPort_cause (p : Nat) (v : PortState) : (setPort s p v).cause = s.cause := rfl
@[simp] theorem setPort_fatal (p : Nat) (v : PortState) : (setPort s p v).fatal = s.fatal := rfl
@[simp] theorem setPort_assay (p : Nat) (v : PortState) : (setPort s p v).assay = s.assay := rfl
@[simp] theorem setPort_fuses (p : Nat) (v : PortState) : (setPort s p v).fuses = s.fuses := rfl
@[simp] theorem setPort_nv (p : Nat) (v : PortState) : (setPort s p v).nv = s.nv := rfl
@[simp] theorem setPort_active (p : Nat) (v : PortState) : (setPort s p v).active = s.active := rfl
@[simp] theorem setPort_img (p : Nat) (v : PortState) : (setPort s p v).img = s.img := rfl
@[simp] theorem setPort_bmr (p : Nat) (v : PortState) : (setPort s p v).bmr = s.bmr := rfl
@[simp] theorem setPort_ladder (p : Nat) (v : PortState) : (setPort s p v).ladder = s.ladder := rfl
@[simp] theorem setPort_tamperLatch (p : Nat) (v : PortState) : (setPort s p v).tamperLatch = s.tamperLatch := rfl
@[simp] theorem setPort_tamperLevel (p : Nat) (v : PortState) : (setPort s p v).tamperLevel = s.tamperLevel := rfl
@[simp] theorem setPort_retention (p : Nat) (v : PortState) : (setPort s p v).retention = s.retention := rfl
@[simp] theorem setPort_power (p : Nat) (v : PortState) : (setPort s p v).power = s.power := rfl
@[simp] theorem setPort_tcfg (p : Nat) (v : PortState) : (setPort s p v).tcfg = s.tcfg := rfl
@[simp] theorem setPort_ticks (p : Nat) (v : PortState) : (setPort s p v).ticks = s.ticks := rfl
@[simp] theorem setPort_plan (p : Nat) (v : PortState) : (setPort s p v).plan = s.plan := rfl
@[simp] theorem setPort_ovr (p : Nat) (v : PortState) : (setPort s p v).ovr = s.ovr := rfl
@[simp] theorem setPort_mail (p : Nat) (v : PortState) : (setPort s p v).mail = s.mail := rfl
@[simp] theorem setPort_mbox (p : Nat) (v : PortState) (j : Nat) : (setPort s p v).mbox j = s.mbox j := rfl
@[simp] theorem setPort_rotation (p : Nat) (v : PortState) : (setPort s p v).rotation = s.rotation := rfl
@[simp] theorem setPort_cmds (p : Nat) (v : PortState) : (setPort s p v).cmds = s.cmds := rfl
@[simp] theorem setPort_nextCmd (p : Nat) (v : PortState) : (setPort s p v).nextCmd = s.nextCmd := rfl
@[simp] theorem setPort_staged (p : Nat) (v : PortState) : (setPort s p v).staged = s.staged := rfl
@[simp] theorem setPort_streams (p : Nat) (v : PortState) : (setPort s p v).streams = s.streams := rfl
@[simp] theorem setPort_stream (p : Nat) (v : PortState) (j : Nat) : (setPort s p v).stream j = s.stream j := rfl
@[simp] theorem setPort_shots (p : Nat) (v : PortState) : (setPort s p v).shots = s.shots := rfl
@[simp] theorem setPort_aux (p : Nat) (v : PortState) : (setPort s p v).aux = s.aux := rfl
@[simp] theorem setPort_aux_ (p : Nat) (v : PortState) (j : Nat) : (setPort s p v).aux_ j = s.aux_ j := rfl
@[simp] theorem setPort_adm (p : Nat) (v : PortState) : (setPort s p v).adm = s.adm := rfl
@[simp] theorem setPort_demand (p : Nat) (v : PortState) (j : Nat) : (setPort s p v).demand j = s.demand j := rfl
@[simp] theorem setPort_grace (p : Nat) (v : PortState) : (setPort s p v).grace = s.grace := rfl
@[simp] theorem setPort_slots (p : Nat) (v : PortState) : (setPort s p v).slots = s.slots := rfl
@[simp] theorem setPort_slot (p : Nat) (v : PortState) (j : Nat) : (setPort s p v).slot j = s.slot j := rfl
@[simp] theorem setPort_keyCtl (p : Nat) (v : PortState) : (setPort s p v).keyCtl = s.keyCtl := rfl
@[simp] theorem setPort_ent (p : Nat) (v : PortState) : (setPort s p v).ent = s.ent := rfl
@[simp] theorem setPort_imports (p : Nat) (v : PortState) : (setPort s p v).imports = s.imports := rfl
@[simp] theorem setPort_rings (p : Nat) (v : PortState) : (setPort s p v).rings = s.rings := rfl
@[simp] theorem setPort_ring (p : Nat) (v : PortState) (j : Nat) : (setPort s p v).ring j = s.ring j := rfl
@[simp] theorem setPort_hostMem (p : Nat) (v : PortState) : (setPort s p v).hostMem = s.hostMem := rfl
@[simp] theorem setPort_jobs (p : Nat) (v : PortState) : (setPort s p v).jobs = s.jobs := rfl
@[simp] theorem setPort_tx (p : Nat) (v : PortState) : (setPort s p v).tx = s.tx := rfl
@[simp] theorem setPort_txFrame (p : Nat) (v : PortState) (j : Nat) : (setPort s p v).txFrame j = s.txFrame j := rfl
@[simp] theorem setPort_rx (p : Nat) (v : PortState) : (setPort s p v).rx = s.rx := rfl
@[simp] theorem setPort_rxFrame (p : Nat) (v : PortState) (j : Nat) : (setPort s p v).rxFrame j = s.rxFrame j := rfl
@[simp] theorem setPort_nextFrame (p : Nat) (v : PortState) : (setPort s p v).nextFrame = s.nextFrame := rfl
@[simp] theorem setPort_egSkip (p : Nat) (v : PortState) : (setPort s p v).egSkip = s.egSkip := rfl
@[simp] theorem setPort_eReady (p : Nat) (v : PortState) : (setPort s p v).eReady = s.eReady := rfl
@[simp] theorem setPort_classifying (p : Nat) (v : PortState) : (setPort s p v).classifying = s.classifying := rfl
@[simp] theorem setPort_ingress (p : Nat) (v : PortState) : (setPort s p v).ingress = s.ingress := rfl
@[simp] theorem setPort_pairs (p : Nat) (v : PortState) : (setPort s p v).pairs = s.pairs := rfl
@[simp] theorem setPort_pair (p : Nat) (v : PortState) (j : Nat) : (setPort s p v).pair j = s.pair j := rfl
@[simp] theorem setPort_noticeLog (p : Nat) (v : PortState) : (setPort s p v).noticeLog = s.noticeLog := rfl
@[simp] theorem setPort_gates (p : Nat) (v : PortState) : (setPort s p v).gates = s.gates := rfl
@[simp] theorem setPort_gate (p : Nat) (v : PortState) (j : Nat) : (setPort s p v).gate j = s.gate j := rfl
@[simp] theorem setPort_pubs (p : Nat) (v : PortState) : (setPort s p v).pubs = s.pubs := rfl
@[simp] theorem setPort_pub (p : Nat) (v : PortState) (j : Nat) : (setPort s p v).pub j = s.pub j := rfl
@[simp] theorem setPort_vers (p : Nat) (v : PortState) : (setPort s p v).vers = s.vers := rfl
@[simp] theorem setPort_ver (p : Nat) (v : PortState) (j : Nat) : (setPort s p v).ver j = s.ver j := rfl
@[simp] theorem setPort_v2 (p : Nat) (v : PortState) : (setPort s p v).v2 = s.v2 := rfl
@[simp] theorem setPort_bw (p : Nat) (v : PortState) : (setPort s p v).bw = s.bw := rfl
@[simp] theorem setPort_pebbles (p : Nat) (v : PortState) : (setPort s p v).pebbles = s.pebbles := rfl
@[simp] theorem setPort_mem (p : Nat) (v : PortState) : (setPort s p v).mem = s.mem := rfl
@[simp] theorem setPort_dram (p : Nat) (v : PortState) : (setPort s p v).dram = s.dram := rfl
@[simp] theorem setPort_eye (p : Nat) (v : PortState) : (setPort s p v).eye = s.eye := rfl
@[simp] theorem setPort_bus (p : Nat) (v : PortState) : (setPort s p v).bus = s.bus := rfl
@[simp] theorem setPort_out (p : Nat) (v : PortState) : (setPort s p v).out = s.out := rfl

/-! ### setPair -/

@[simp] theorem setPair_pending (p : Nat) (v : PairState) : (setPair s p v).pending = s.pending := rfl
@[simp] theorem setPair_now (p : Nat) (v : PairState) : (setPair s p v).now = s.now := rfl
@[simp] theorem setPair_draws (p : Nat) (v : PairState) : (setPair s p v).draws = s.draws := rfl
@[simp] theorem setPair_mode (p : Nat) (v : PairState) : (setPair s p v).mode = s.mode := rfl
@[simp] theorem setPair_cause (p : Nat) (v : PairState) : (setPair s p v).cause = s.cause := rfl
@[simp] theorem setPair_fatal (p : Nat) (v : PairState) : (setPair s p v).fatal = s.fatal := rfl
@[simp] theorem setPair_assay (p : Nat) (v : PairState) : (setPair s p v).assay = s.assay := rfl
@[simp] theorem setPair_fuses (p : Nat) (v : PairState) : (setPair s p v).fuses = s.fuses := rfl
@[simp] theorem setPair_nv (p : Nat) (v : PairState) : (setPair s p v).nv = s.nv := rfl
@[simp] theorem setPair_active (p : Nat) (v : PairState) : (setPair s p v).active = s.active := rfl
@[simp] theorem setPair_img (p : Nat) (v : PairState) : (setPair s p v).img = s.img := rfl
@[simp] theorem setPair_bmr (p : Nat) (v : PairState) : (setPair s p v).bmr = s.bmr := rfl
@[simp] theorem setPair_ladder (p : Nat) (v : PairState) : (setPair s p v).ladder = s.ladder := rfl
@[simp] theorem setPair_tamperLatch (p : Nat) (v : PairState) : (setPair s p v).tamperLatch = s.tamperLatch := rfl
@[simp] theorem setPair_tamperLevel (p : Nat) (v : PairState) : (setPair s p v).tamperLevel = s.tamperLevel := rfl
@[simp] theorem setPair_retention (p : Nat) (v : PairState) : (setPair s p v).retention = s.retention := rfl
@[simp] theorem setPair_power (p : Nat) (v : PairState) : (setPair s p v).power = s.power := rfl
@[simp] theorem setPair_tcfg (p : Nat) (v : PairState) : (setPair s p v).tcfg = s.tcfg := rfl
@[simp] theorem setPair_ticks (p : Nat) (v : PairState) : (setPair s p v).ticks = s.ticks := rfl
@[simp] theorem setPair_plan (p : Nat) (v : PairState) : (setPair s p v).plan = s.plan := rfl
@[simp] theorem setPair_ovr (p : Nat) (v : PairState) : (setPair s p v).ovr = s.ovr := rfl
@[simp] theorem setPair_mail (p : Nat) (v : PairState) : (setPair s p v).mail = s.mail := rfl
@[simp] theorem setPair_mbox (p : Nat) (v : PairState) (j : Nat) : (setPair s p v).mbox j = s.mbox j := rfl
@[simp] theorem setPair_rotation (p : Nat) (v : PairState) : (setPair s p v).rotation = s.rotation := rfl
@[simp] theorem setPair_cmds (p : Nat) (v : PairState) : (setPair s p v).cmds = s.cmds := rfl
@[simp] theorem setPair_nextCmd (p : Nat) (v : PairState) : (setPair s p v).nextCmd = s.nextCmd := rfl
@[simp] theorem setPair_staged (p : Nat) (v : PairState) : (setPair s p v).staged = s.staged := rfl
@[simp] theorem setPair_streams (p : Nat) (v : PairState) : (setPair s p v).streams = s.streams := rfl
@[simp] theorem setPair_stream (p : Nat) (v : PairState) (j : Nat) : (setPair s p v).stream j = s.stream j := rfl
@[simp] theorem setPair_shots (p : Nat) (v : PairState) : (setPair s p v).shots = s.shots := rfl
@[simp] theorem setPair_aux (p : Nat) (v : PairState) : (setPair s p v).aux = s.aux := rfl
@[simp] theorem setPair_aux_ (p : Nat) (v : PairState) (j : Nat) : (setPair s p v).aux_ j = s.aux_ j := rfl
@[simp] theorem setPair_adm (p : Nat) (v : PairState) : (setPair s p v).adm = s.adm := rfl
@[simp] theorem setPair_demand (p : Nat) (v : PairState) (j : Nat) : (setPair s p v).demand j = s.demand j := rfl
@[simp] theorem setPair_grace (p : Nat) (v : PairState) : (setPair s p v).grace = s.grace := rfl
@[simp] theorem setPair_slots (p : Nat) (v : PairState) : (setPair s p v).slots = s.slots := rfl
@[simp] theorem setPair_slot (p : Nat) (v : PairState) (j : Nat) : (setPair s p v).slot j = s.slot j := rfl
@[simp] theorem setPair_keyCtl (p : Nat) (v : PairState) : (setPair s p v).keyCtl = s.keyCtl := rfl
@[simp] theorem setPair_ent (p : Nat) (v : PairState) : (setPair s p v).ent = s.ent := rfl
@[simp] theorem setPair_imports (p : Nat) (v : PairState) : (setPair s p v).imports = s.imports := rfl
@[simp] theorem setPair_rings (p : Nat) (v : PairState) : (setPair s p v).rings = s.rings := rfl
@[simp] theorem setPair_ring (p : Nat) (v : PairState) (j : Nat) : (setPair s p v).ring j = s.ring j := rfl
@[simp] theorem setPair_hostMem (p : Nat) (v : PairState) : (setPair s p v).hostMem = s.hostMem := rfl
@[simp] theorem setPair_jobs (p : Nat) (v : PairState) : (setPair s p v).jobs = s.jobs := rfl
@[simp] theorem setPair_tx (p : Nat) (v : PairState) : (setPair s p v).tx = s.tx := rfl
@[simp] theorem setPair_txFrame (p : Nat) (v : PairState) (j : Nat) : (setPair s p v).txFrame j = s.txFrame j := rfl
@[simp] theorem setPair_rx (p : Nat) (v : PairState) : (setPair s p v).rx = s.rx := rfl
@[simp] theorem setPair_rxFrame (p : Nat) (v : PairState) (j : Nat) : (setPair s p v).rxFrame j = s.rxFrame j := rfl
@[simp] theorem setPair_nextFrame (p : Nat) (v : PairState) : (setPair s p v).nextFrame = s.nextFrame := rfl
@[simp] theorem setPair_egSkip (p : Nat) (v : PairState) : (setPair s p v).egSkip = s.egSkip := rfl
@[simp] theorem setPair_eReady (p : Nat) (v : PairState) : (setPair s p v).eReady = s.eReady := rfl
@[simp] theorem setPair_classifying (p : Nat) (v : PairState) : (setPair s p v).classifying = s.classifying := rfl
@[simp] theorem setPair_ingress (p : Nat) (v : PairState) : (setPair s p v).ingress = s.ingress := rfl
@[simp] theorem setPair_ports (p : Nat) (v : PairState) : (setPair s p v).ports = s.ports := rfl
@[simp] theorem setPair_port (p : Nat) (v : PairState) (j : Nat) : (setPair s p v).port j = s.port j := rfl
@[simp] theorem setPair_noticeLog (p : Nat) (v : PairState) : (setPair s p v).noticeLog = s.noticeLog := rfl
@[simp] theorem setPair_gates (p : Nat) (v : PairState) : (setPair s p v).gates = s.gates := rfl
@[simp] theorem setPair_gate (p : Nat) (v : PairState) (j : Nat) : (setPair s p v).gate j = s.gate j := rfl
@[simp] theorem setPair_pubs (p : Nat) (v : PairState) : (setPair s p v).pubs = s.pubs := rfl
@[simp] theorem setPair_pub (p : Nat) (v : PairState) (j : Nat) : (setPair s p v).pub j = s.pub j := rfl
@[simp] theorem setPair_vers (p : Nat) (v : PairState) : (setPair s p v).vers = s.vers := rfl
@[simp] theorem setPair_ver (p : Nat) (v : PairState) (j : Nat) : (setPair s p v).ver j = s.ver j := rfl
@[simp] theorem setPair_v2 (p : Nat) (v : PairState) : (setPair s p v).v2 = s.v2 := rfl
@[simp] theorem setPair_bw (p : Nat) (v : PairState) : (setPair s p v).bw = s.bw := rfl
@[simp] theorem setPair_pebbles (p : Nat) (v : PairState) : (setPair s p v).pebbles = s.pebbles := rfl
@[simp] theorem setPair_mem (p : Nat) (v : PairState) : (setPair s p v).mem = s.mem := rfl
@[simp] theorem setPair_dram (p : Nat) (v : PairState) : (setPair s p v).dram = s.dram := rfl
@[simp] theorem setPair_eye (p : Nat) (v : PairState) : (setPair s p v).eye = s.eye := rfl
@[simp] theorem setPair_bus (p : Nat) (v : PairState) : (setPair s p v).bus = s.bus := rfl
@[simp] theorem setPair_out (p : Nat) (v : PairState) : (setPair s p v).out = s.out := rfl

/-! ### setGate -/

@[simp] theorem setGate_pending (g : Nat) (v : Gate) : (setGate s g v).pending = s.pending := rfl
@[simp] theorem setGate_now (g : Nat) (v : Gate) : (setGate s g v).now = s.now := rfl
@[simp] theorem setGate_draws (g : Nat) (v : Gate) : (setGate s g v).draws = s.draws := rfl
@[simp] theorem setGate_mode (g : Nat) (v : Gate) : (setGate s g v).mode = s.mode := rfl
@[simp] theorem setGate_cause (g : Nat) (v : Gate) : (setGate s g v).cause = s.cause := rfl
@[simp] theorem setGate_fatal (g : Nat) (v : Gate) : (setGate s g v).fatal = s.fatal := rfl
@[simp] theorem setGate_assay (g : Nat) (v : Gate) : (setGate s g v).assay = s.assay := rfl
@[simp] theorem setGate_fuses (g : Nat) (v : Gate) : (setGate s g v).fuses = s.fuses := rfl
@[simp] theorem setGate_nv (g : Nat) (v : Gate) : (setGate s g v).nv = s.nv := rfl
@[simp] theorem setGate_active (g : Nat) (v : Gate) : (setGate s g v).active = s.active := rfl
@[simp] theorem setGate_img (g : Nat) (v : Gate) : (setGate s g v).img = s.img := rfl
@[simp] theorem setGate_bmr (g : Nat) (v : Gate) : (setGate s g v).bmr = s.bmr := rfl
@[simp] theorem setGate_ladder (g : Nat) (v : Gate) : (setGate s g v).ladder = s.ladder := rfl
@[simp] theorem setGate_tamperLatch (g : Nat) (v : Gate) : (setGate s g v).tamperLatch = s.tamperLatch := rfl
@[simp] theorem setGate_tamperLevel (g : Nat) (v : Gate) : (setGate s g v).tamperLevel = s.tamperLevel := rfl
@[simp] theorem setGate_retention (g : Nat) (v : Gate) : (setGate s g v).retention = s.retention := rfl
@[simp] theorem setGate_power (g : Nat) (v : Gate) : (setGate s g v).power = s.power := rfl
@[simp] theorem setGate_tcfg (g : Nat) (v : Gate) : (setGate s g v).tcfg = s.tcfg := rfl
@[simp] theorem setGate_ticks (g : Nat) (v : Gate) : (setGate s g v).ticks = s.ticks := rfl
@[simp] theorem setGate_plan (g : Nat) (v : Gate) : (setGate s g v).plan = s.plan := rfl
@[simp] theorem setGate_ovr (g : Nat) (v : Gate) : (setGate s g v).ovr = s.ovr := rfl
@[simp] theorem setGate_mail (g : Nat) (v : Gate) : (setGate s g v).mail = s.mail := rfl
@[simp] theorem setGate_mbox (g : Nat) (v : Gate) (j : Nat) : (setGate s g v).mbox j = s.mbox j := rfl
@[simp] theorem setGate_rotation (g : Nat) (v : Gate) : (setGate s g v).rotation = s.rotation := rfl
@[simp] theorem setGate_cmds (g : Nat) (v : Gate) : (setGate s g v).cmds = s.cmds := rfl
@[simp] theorem setGate_nextCmd (g : Nat) (v : Gate) : (setGate s g v).nextCmd = s.nextCmd := rfl
@[simp] theorem setGate_staged (g : Nat) (v : Gate) : (setGate s g v).staged = s.staged := rfl
@[simp] theorem setGate_streams (g : Nat) (v : Gate) : (setGate s g v).streams = s.streams := rfl
@[simp] theorem setGate_stream (g : Nat) (v : Gate) (j : Nat) : (setGate s g v).stream j = s.stream j := rfl
@[simp] theorem setGate_shots (g : Nat) (v : Gate) : (setGate s g v).shots = s.shots := rfl
@[simp] theorem setGate_aux (g : Nat) (v : Gate) : (setGate s g v).aux = s.aux := rfl
@[simp] theorem setGate_aux_ (g : Nat) (v : Gate) (j : Nat) : (setGate s g v).aux_ j = s.aux_ j := rfl
@[simp] theorem setGate_adm (g : Nat) (v : Gate) : (setGate s g v).adm = s.adm := rfl
@[simp] theorem setGate_demand (g : Nat) (v : Gate) (j : Nat) : (setGate s g v).demand j = s.demand j := rfl
@[simp] theorem setGate_grace (g : Nat) (v : Gate) : (setGate s g v).grace = s.grace := rfl
@[simp] theorem setGate_slots (g : Nat) (v : Gate) : (setGate s g v).slots = s.slots := rfl
@[simp] theorem setGate_slot (g : Nat) (v : Gate) (j : Nat) : (setGate s g v).slot j = s.slot j := rfl
@[simp] theorem setGate_keyCtl (g : Nat) (v : Gate) : (setGate s g v).keyCtl = s.keyCtl := rfl
@[simp] theorem setGate_ent (g : Nat) (v : Gate) : (setGate s g v).ent = s.ent := rfl
@[simp] theorem setGate_imports (g : Nat) (v : Gate) : (setGate s g v).imports = s.imports := rfl
@[simp] theorem setGate_rings (g : Nat) (v : Gate) : (setGate s g v).rings = s.rings := rfl
@[simp] theorem setGate_ring (g : Nat) (v : Gate) (j : Nat) : (setGate s g v).ring j = s.ring j := rfl
@[simp] theorem setGate_hostMem (g : Nat) (v : Gate) : (setGate s g v).hostMem = s.hostMem := rfl
@[simp] theorem setGate_jobs (g : Nat) (v : Gate) : (setGate s g v).jobs = s.jobs := rfl
@[simp] theorem setGate_tx (g : Nat) (v : Gate) : (setGate s g v).tx = s.tx := rfl
@[simp] theorem setGate_txFrame (g : Nat) (v : Gate) (j : Nat) : (setGate s g v).txFrame j = s.txFrame j := rfl
@[simp] theorem setGate_rx (g : Nat) (v : Gate) : (setGate s g v).rx = s.rx := rfl
@[simp] theorem setGate_rxFrame (g : Nat) (v : Gate) (j : Nat) : (setGate s g v).rxFrame j = s.rxFrame j := rfl
@[simp] theorem setGate_nextFrame (g : Nat) (v : Gate) : (setGate s g v).nextFrame = s.nextFrame := rfl
@[simp] theorem setGate_egSkip (g : Nat) (v : Gate) : (setGate s g v).egSkip = s.egSkip := rfl
@[simp] theorem setGate_eReady (g : Nat) (v : Gate) : (setGate s g v).eReady = s.eReady := rfl
@[simp] theorem setGate_classifying (g : Nat) (v : Gate) : (setGate s g v).classifying = s.classifying := rfl
@[simp] theorem setGate_ingress (g : Nat) (v : Gate) : (setGate s g v).ingress = s.ingress := rfl
@[simp] theorem setGate_ports (g : Nat) (v : Gate) : (setGate s g v).ports = s.ports := rfl
@[simp] theorem setGate_port (g : Nat) (v : Gate) (j : Nat) : (setGate s g v).port j = s.port j := rfl
@[simp] theorem setGate_pairs (g : Nat) (v : Gate) : (setGate s g v).pairs = s.pairs := rfl
@[simp] theorem setGate_pair (g : Nat) (v : Gate) (j : Nat) : (setGate s g v).pair j = s.pair j := rfl
@[simp] theorem setGate_noticeLog (g : Nat) (v : Gate) : (setGate s g v).noticeLog = s.noticeLog := rfl
@[simp] theorem setGate_pubs (g : Nat) (v : Gate) : (setGate s g v).pubs = s.pubs := rfl
@[simp] theorem setGate_pub (g : Nat) (v : Gate) (j : Nat) : (setGate s g v).pub j = s.pub j := rfl
@[simp] theorem setGate_vers (g : Nat) (v : Gate) : (setGate s g v).vers = s.vers := rfl
@[simp] theorem setGate_ver (g : Nat) (v : Gate) (j : Nat) : (setGate s g v).ver j = s.ver j := rfl
@[simp] theorem setGate_v2 (g : Nat) (v : Gate) : (setGate s g v).v2 = s.v2 := rfl
@[simp] theorem setGate_bw (g : Nat) (v : Gate) : (setGate s g v).bw = s.bw := rfl
@[simp] theorem setGate_pebbles (g : Nat) (v : Gate) : (setGate s g v).pebbles = s.pebbles := rfl
@[simp] theorem setGate_mem (g : Nat) (v : Gate) : (setGate s g v).mem = s.mem := rfl
@[simp] theorem setGate_dram (g : Nat) (v : Gate) : (setGate s g v).dram = s.dram := rfl
@[simp] theorem setGate_eye (g : Nat) (v : Gate) : (setGate s g v).eye = s.eye := rfl
@[simp] theorem setGate_bus (g : Nat) (v : Gate) : (setGate s g v).bus = s.bus := rfl
@[simp] theorem setGate_out (g : Nat) (v : Gate) : (setGate s g v).out = s.out := rfl

/-! ### setPub -/

@[simp] theorem setPub_pending (n : Nat) (v : Pub) : (setPub s n v).pending = s.pending := rfl
@[simp] theorem setPub_now (n : Nat) (v : Pub) : (setPub s n v).now = s.now := rfl
@[simp] theorem setPub_draws (n : Nat) (v : Pub) : (setPub s n v).draws = s.draws := rfl
@[simp] theorem setPub_mode (n : Nat) (v : Pub) : (setPub s n v).mode = s.mode := rfl
@[simp] theorem setPub_cause (n : Nat) (v : Pub) : (setPub s n v).cause = s.cause := rfl
@[simp] theorem setPub_fatal (n : Nat) (v : Pub) : (setPub s n v).fatal = s.fatal := rfl
@[simp] theorem setPub_assay (n : Nat) (v : Pub) : (setPub s n v).assay = s.assay := rfl
@[simp] theorem setPub_fuses (n : Nat) (v : Pub) : (setPub s n v).fuses = s.fuses := rfl
@[simp] theorem setPub_nv (n : Nat) (v : Pub) : (setPub s n v).nv = s.nv := rfl
@[simp] theorem setPub_active (n : Nat) (v : Pub) : (setPub s n v).active = s.active := rfl
@[simp] theorem setPub_img (n : Nat) (v : Pub) : (setPub s n v).img = s.img := rfl
@[simp] theorem setPub_bmr (n : Nat) (v : Pub) : (setPub s n v).bmr = s.bmr := rfl
@[simp] theorem setPub_ladder (n : Nat) (v : Pub) : (setPub s n v).ladder = s.ladder := rfl
@[simp] theorem setPub_tamperLatch (n : Nat) (v : Pub) : (setPub s n v).tamperLatch = s.tamperLatch := rfl
@[simp] theorem setPub_tamperLevel (n : Nat) (v : Pub) : (setPub s n v).tamperLevel = s.tamperLevel := rfl
@[simp] theorem setPub_retention (n : Nat) (v : Pub) : (setPub s n v).retention = s.retention := rfl
@[simp] theorem setPub_power (n : Nat) (v : Pub) : (setPub s n v).power = s.power := rfl
@[simp] theorem setPub_tcfg (n : Nat) (v : Pub) : (setPub s n v).tcfg = s.tcfg := rfl
@[simp] theorem setPub_ticks (n : Nat) (v : Pub) : (setPub s n v).ticks = s.ticks := rfl
@[simp] theorem setPub_plan (n : Nat) (v : Pub) : (setPub s n v).plan = s.plan := rfl
@[simp] theorem setPub_ovr (n : Nat) (v : Pub) : (setPub s n v).ovr = s.ovr := rfl
@[simp] theorem setPub_mail (n : Nat) (v : Pub) : (setPub s n v).mail = s.mail := rfl
@[simp] theorem setPub_mbox (n : Nat) (v : Pub) (j : Nat) : (setPub s n v).mbox j = s.mbox j := rfl
@[simp] theorem setPub_rotation (n : Nat) (v : Pub) : (setPub s n v).rotation = s.rotation := rfl
@[simp] theorem setPub_cmds (n : Nat) (v : Pub) : (setPub s n v).cmds = s.cmds := rfl
@[simp] theorem setPub_nextCmd (n : Nat) (v : Pub) : (setPub s n v).nextCmd = s.nextCmd := rfl
@[simp] theorem setPub_staged (n : Nat) (v : Pub) : (setPub s n v).staged = s.staged := rfl
@[simp] theorem setPub_streams (n : Nat) (v : Pub) : (setPub s n v).streams = s.streams := rfl
@[simp] theorem setPub_stream (n : Nat) (v : Pub) (j : Nat) : (setPub s n v).stream j = s.stream j := rfl
@[simp] theorem setPub_shots (n : Nat) (v : Pub) : (setPub s n v).shots = s.shots := rfl
@[simp] theorem setPub_aux (n : Nat) (v : Pub) : (setPub s n v).aux = s.aux := rfl
@[simp] theorem setPub_aux_ (n : Nat) (v : Pub) (j : Nat) : (setPub s n v).aux_ j = s.aux_ j := rfl
@[simp] theorem setPub_adm (n : Nat) (v : Pub) : (setPub s n v).adm = s.adm := rfl
@[simp] theorem setPub_demand (n : Nat) (v : Pub) (j : Nat) : (setPub s n v).demand j = s.demand j := rfl
@[simp] theorem setPub_grace (n : Nat) (v : Pub) : (setPub s n v).grace = s.grace := rfl
@[simp] theorem setPub_slots (n : Nat) (v : Pub) : (setPub s n v).slots = s.slots := rfl
@[simp] theorem setPub_slot (n : Nat) (v : Pub) (j : Nat) : (setPub s n v).slot j = s.slot j := rfl
@[simp] theorem setPub_keyCtl (n : Nat) (v : Pub) : (setPub s n v).keyCtl = s.keyCtl := rfl
@[simp] theorem setPub_ent (n : Nat) (v : Pub) : (setPub s n v).ent = s.ent := rfl
@[simp] theorem setPub_imports (n : Nat) (v : Pub) : (setPub s n v).imports = s.imports := rfl
@[simp] theorem setPub_rings (n : Nat) (v : Pub) : (setPub s n v).rings = s.rings := rfl
@[simp] theorem setPub_ring (n : Nat) (v : Pub) (j : Nat) : (setPub s n v).ring j = s.ring j := rfl
@[simp] theorem setPub_hostMem (n : Nat) (v : Pub) : (setPub s n v).hostMem = s.hostMem := rfl
@[simp] theorem setPub_jobs (n : Nat) (v : Pub) : (setPub s n v).jobs = s.jobs := rfl
@[simp] theorem setPub_tx (n : Nat) (v : Pub) : (setPub s n v).tx = s.tx := rfl
@[simp] theorem setPub_txFrame (n : Nat) (v : Pub) (j : Nat) : (setPub s n v).txFrame j = s.txFrame j := rfl
@[simp] theorem setPub_rx (n : Nat) (v : Pub) : (setPub s n v).rx = s.rx := rfl
@[simp] theorem setPub_rxFrame (n : Nat) (v : Pub) (j : Nat) : (setPub s n v).rxFrame j = s.rxFrame j := rfl
@[simp] theorem setPub_nextFrame (n : Nat) (v : Pub) : (setPub s n v).nextFrame = s.nextFrame := rfl
@[simp] theorem setPub_egSkip (n : Nat) (v : Pub) : (setPub s n v).egSkip = s.egSkip := rfl
@[simp] theorem setPub_eReady (n : Nat) (v : Pub) : (setPub s n v).eReady = s.eReady := rfl
@[simp] theorem setPub_classifying (n : Nat) (v : Pub) : (setPub s n v).classifying = s.classifying := rfl
@[simp] theorem setPub_ingress (n : Nat) (v : Pub) : (setPub s n v).ingress = s.ingress := rfl
@[simp] theorem setPub_ports (n : Nat) (v : Pub) : (setPub s n v).ports = s.ports := rfl
@[simp] theorem setPub_port (n : Nat) (v : Pub) (j : Nat) : (setPub s n v).port j = s.port j := rfl
@[simp] theorem setPub_pairs (n : Nat) (v : Pub) : (setPub s n v).pairs = s.pairs := rfl
@[simp] theorem setPub_pair (n : Nat) (v : Pub) (j : Nat) : (setPub s n v).pair j = s.pair j := rfl
@[simp] theorem setPub_noticeLog (n : Nat) (v : Pub) : (setPub s n v).noticeLog = s.noticeLog := rfl
@[simp] theorem setPub_gates (n : Nat) (v : Pub) : (setPub s n v).gates = s.gates := rfl
@[simp] theorem setPub_gate (n : Nat) (v : Pub) (j : Nat) : (setPub s n v).gate j = s.gate j := rfl
@[simp] theorem setPub_vers (n : Nat) (v : Pub) : (setPub s n v).vers = s.vers := rfl
@[simp] theorem setPub_ver (n : Nat) (v : Pub) (j : Nat) : (setPub s n v).ver j = s.ver j := rfl
@[simp] theorem setPub_v2 (n : Nat) (v : Pub) : (setPub s n v).v2 = s.v2 := rfl
@[simp] theorem setPub_bw (n : Nat) (v : Pub) : (setPub s n v).bw = s.bw := rfl
@[simp] theorem setPub_pebbles (n : Nat) (v : Pub) : (setPub s n v).pebbles = s.pebbles := rfl
@[simp] theorem setPub_mem (n : Nat) (v : Pub) : (setPub s n v).mem = s.mem := rfl
@[simp] theorem setPub_dram (n : Nat) (v : Pub) : (setPub s n v).dram = s.dram := rfl
@[simp] theorem setPub_eye (n : Nat) (v : Pub) : (setPub s n v).eye = s.eye := rfl
@[simp] theorem setPub_bus (n : Nat) (v : Pub) : (setPub s n v).bus = s.bus := rfl
@[simp] theorem setPub_out (n : Nat) (v : Pub) : (setPub s n v).out = s.out := rfl

/-! ### setVer -/

@[simp] theorem setVer_pending (n : Nat) (v : Ver) : (setVer s n v).pending = s.pending := rfl
@[simp] theorem setVer_now (n : Nat) (v : Ver) : (setVer s n v).now = s.now := rfl
@[simp] theorem setVer_draws (n : Nat) (v : Ver) : (setVer s n v).draws = s.draws := rfl
@[simp] theorem setVer_mode (n : Nat) (v : Ver) : (setVer s n v).mode = s.mode := rfl
@[simp] theorem setVer_cause (n : Nat) (v : Ver) : (setVer s n v).cause = s.cause := rfl
@[simp] theorem setVer_fatal (n : Nat) (v : Ver) : (setVer s n v).fatal = s.fatal := rfl
@[simp] theorem setVer_assay (n : Nat) (v : Ver) : (setVer s n v).assay = s.assay := rfl
@[simp] theorem setVer_fuses (n : Nat) (v : Ver) : (setVer s n v).fuses = s.fuses := rfl
@[simp] theorem setVer_nv (n : Nat) (v : Ver) : (setVer s n v).nv = s.nv := rfl
@[simp] theorem setVer_active (n : Nat) (v : Ver) : (setVer s n v).active = s.active := rfl
@[simp] theorem setVer_img (n : Nat) (v : Ver) : (setVer s n v).img = s.img := rfl
@[simp] theorem setVer_bmr (n : Nat) (v : Ver) : (setVer s n v).bmr = s.bmr := rfl
@[simp] theorem setVer_ladder (n : Nat) (v : Ver) : (setVer s n v).ladder = s.ladder := rfl
@[simp] theorem setVer_tamperLatch (n : Nat) (v : Ver) : (setVer s n v).tamperLatch = s.tamperLatch := rfl
@[simp] theorem setVer_tamperLevel (n : Nat) (v : Ver) : (setVer s n v).tamperLevel = s.tamperLevel := rfl
@[simp] theorem setVer_retention (n : Nat) (v : Ver) : (setVer s n v).retention = s.retention := rfl
@[simp] theorem setVer_power (n : Nat) (v : Ver) : (setVer s n v).power = s.power := rfl
@[simp] theorem setVer_tcfg (n : Nat) (v : Ver) : (setVer s n v).tcfg = s.tcfg := rfl
@[simp] theorem setVer_ticks (n : Nat) (v : Ver) : (setVer s n v).ticks = s.ticks := rfl
@[simp] theorem setVer_plan (n : Nat) (v : Ver) : (setVer s n v).plan = s.plan := rfl
@[simp] theorem setVer_ovr (n : Nat) (v : Ver) : (setVer s n v).ovr = s.ovr := rfl
@[simp] theorem setVer_mail (n : Nat) (v : Ver) : (setVer s n v).mail = s.mail := rfl
@[simp] theorem setVer_mbox (n : Nat) (v : Ver) (j : Nat) : (setVer s n v).mbox j = s.mbox j := rfl
@[simp] theorem setVer_rotation (n : Nat) (v : Ver) : (setVer s n v).rotation = s.rotation := rfl
@[simp] theorem setVer_cmds (n : Nat) (v : Ver) : (setVer s n v).cmds = s.cmds := rfl
@[simp] theorem setVer_nextCmd (n : Nat) (v : Ver) : (setVer s n v).nextCmd = s.nextCmd := rfl
@[simp] theorem setVer_staged (n : Nat) (v : Ver) : (setVer s n v).staged = s.staged := rfl
@[simp] theorem setVer_streams (n : Nat) (v : Ver) : (setVer s n v).streams = s.streams := rfl
@[simp] theorem setVer_stream (n : Nat) (v : Ver) (j : Nat) : (setVer s n v).stream j = s.stream j := rfl
@[simp] theorem setVer_shots (n : Nat) (v : Ver) : (setVer s n v).shots = s.shots := rfl
@[simp] theorem setVer_aux (n : Nat) (v : Ver) : (setVer s n v).aux = s.aux := rfl
@[simp] theorem setVer_aux_ (n : Nat) (v : Ver) (j : Nat) : (setVer s n v).aux_ j = s.aux_ j := rfl
@[simp] theorem setVer_adm (n : Nat) (v : Ver) : (setVer s n v).adm = s.adm := rfl
@[simp] theorem setVer_demand (n : Nat) (v : Ver) (j : Nat) : (setVer s n v).demand j = s.demand j := rfl
@[simp] theorem setVer_grace (n : Nat) (v : Ver) : (setVer s n v).grace = s.grace := rfl
@[simp] theorem setVer_slots (n : Nat) (v : Ver) : (setVer s n v).slots = s.slots := rfl
@[simp] theorem setVer_slot (n : Nat) (v : Ver) (j : Nat) : (setVer s n v).slot j = s.slot j := rfl
@[simp] theorem setVer_keyCtl (n : Nat) (v : Ver) : (setVer s n v).keyCtl = s.keyCtl := rfl
@[simp] theorem setVer_ent (n : Nat) (v : Ver) : (setVer s n v).ent = s.ent := rfl
@[simp] theorem setVer_imports (n : Nat) (v : Ver) : (setVer s n v).imports = s.imports := rfl
@[simp] theorem setVer_rings (n : Nat) (v : Ver) : (setVer s n v).rings = s.rings := rfl
@[simp] theorem setVer_ring (n : Nat) (v : Ver) (j : Nat) : (setVer s n v).ring j = s.ring j := rfl
@[simp] theorem setVer_hostMem (n : Nat) (v : Ver) : (setVer s n v).hostMem = s.hostMem := rfl
@[simp] theorem setVer_jobs (n : Nat) (v : Ver) : (setVer s n v).jobs = s.jobs := rfl
@[simp] theorem setVer_tx (n : Nat) (v : Ver) : (setVer s n v).tx = s.tx := rfl
@[simp] theorem setVer_txFrame (n : Nat) (v : Ver) (j : Nat) : (setVer s n v).txFrame j = s.txFrame j := rfl
@[simp] theorem setVer_rx (n : Nat) (v : Ver) : (setVer s n v).rx = s.rx := rfl
@[simp] theorem setVer_rxFrame (n : Nat) (v : Ver) (j : Nat) : (setVer s n v).rxFrame j = s.rxFrame j := rfl
@[simp] theorem setVer_nextFrame (n : Nat) (v : Ver) : (setVer s n v).nextFrame = s.nextFrame := rfl
@[simp] theorem setVer_egSkip (n : Nat) (v : Ver) : (setVer s n v).egSkip = s.egSkip := rfl
@[simp] theorem setVer_eReady (n : Nat) (v : Ver) : (setVer s n v).eReady = s.eReady := rfl
@[simp] theorem setVer_classifying (n : Nat) (v : Ver) : (setVer s n v).classifying = s.classifying := rfl
@[simp] theorem setVer_ingress (n : Nat) (v : Ver) : (setVer s n v).ingress = s.ingress := rfl
@[simp] theorem setVer_ports (n : Nat) (v : Ver) : (setVer s n v).ports = s.ports := rfl
@[simp] theorem setVer_port (n : Nat) (v : Ver) (j : Nat) : (setVer s n v).port j = s.port j := rfl
@[simp] theorem setVer_pairs (n : Nat) (v : Ver) : (setVer s n v).pairs = s.pairs := rfl
@[simp] theorem setVer_pair (n : Nat) (v : Ver) (j : Nat) : (setVer s n v).pair j = s.pair j := rfl
@[simp] theorem setVer_noticeLog (n : Nat) (v : Ver) : (setVer s n v).noticeLog = s.noticeLog := rfl
@[simp] theorem setVer_gates (n : Nat) (v : Ver) : (setVer s n v).gates = s.gates := rfl
@[simp] theorem setVer_gate (n : Nat) (v : Ver) (j : Nat) : (setVer s n v).gate j = s.gate j := rfl
@[simp] theorem setVer_pubs (n : Nat) (v : Ver) : (setVer s n v).pubs = s.pubs := rfl
@[simp] theorem setVer_pub (n : Nat) (v : Ver) (j : Nat) : (setVer s n v).pub j = s.pub j := rfl
@[simp] theorem setVer_v2 (n : Nat) (v : Ver) : (setVer s n v).v2 = s.v2 := rfl
@[simp] theorem setVer_bw (n : Nat) (v : Ver) : (setVer s n v).bw = s.bw := rfl
@[simp] theorem setVer_pebbles (n : Nat) (v : Ver) : (setVer s n v).pebbles = s.pebbles := rfl
@[simp] theorem setVer_mem (n : Nat) (v : Ver) : (setVer s n v).mem = s.mem := rfl
@[simp] theorem setVer_dram (n : Nat) (v : Ver) : (setVer s n v).dram = s.dram := rfl
@[simp] theorem setVer_eye (n : Nat) (v : Ver) : (setVer s n v).eye = s.eye := rfl
@[simp] theorem setVer_bus (n : Nat) (v : Ver) : (setVer s n v).bus = s.bus := rfl
@[simp] theorem setVer_out (n : Nat) (v : Ver) : (setVer s n v).out = s.out := rfl

/-! ### writeHost -/

@[simp] theorem writeHost_pending (a : Nat) (bs : List Byte) : (writeHost s a bs).pending = s.pending := rfl
@[simp] theorem writeHost_now (a : Nat) (bs : List Byte) : (writeHost s a bs).now = s.now := rfl
@[simp] theorem writeHost_draws (a : Nat) (bs : List Byte) : (writeHost s a bs).draws = s.draws := rfl
@[simp] theorem writeHost_mode (a : Nat) (bs : List Byte) : (writeHost s a bs).mode = s.mode := rfl
@[simp] theorem writeHost_cause (a : Nat) (bs : List Byte) : (writeHost s a bs).cause = s.cause := rfl
@[simp] theorem writeHost_fatal (a : Nat) (bs : List Byte) : (writeHost s a bs).fatal = s.fatal := rfl
@[simp] theorem writeHost_assay (a : Nat) (bs : List Byte) : (writeHost s a bs).assay = s.assay := rfl
@[simp] theorem writeHost_fuses (a : Nat) (bs : List Byte) : (writeHost s a bs).fuses = s.fuses := rfl
@[simp] theorem writeHost_nv (a : Nat) (bs : List Byte) : (writeHost s a bs).nv = s.nv := rfl
@[simp] theorem writeHost_active (a : Nat) (bs : List Byte) : (writeHost s a bs).active = s.active := rfl
@[simp] theorem writeHost_img (a : Nat) (bs : List Byte) : (writeHost s a bs).img = s.img := rfl
@[simp] theorem writeHost_bmr (a : Nat) (bs : List Byte) : (writeHost s a bs).bmr = s.bmr := rfl
@[simp] theorem writeHost_ladder (a : Nat) (bs : List Byte) : (writeHost s a bs).ladder = s.ladder := rfl
@[simp] theorem writeHost_tamperLatch (a : Nat) (bs : List Byte) : (writeHost s a bs).tamperLatch = s.tamperLatch := rfl
@[simp] theorem writeHost_tamperLevel (a : Nat) (bs : List Byte) : (writeHost s a bs).tamperLevel = s.tamperLevel := rfl
@[simp] theorem writeHost_retention (a : Nat) (bs : List Byte) : (writeHost s a bs).retention = s.retention := rfl
@[simp] theorem writeHost_power (a : Nat) (bs : List Byte) : (writeHost s a bs).power = s.power := rfl
@[simp] theorem writeHost_tcfg (a : Nat) (bs : List Byte) : (writeHost s a bs).tcfg = s.tcfg := rfl
@[simp] theorem writeHost_ticks (a : Nat) (bs : List Byte) : (writeHost s a bs).ticks = s.ticks := rfl
@[simp] theorem writeHost_plan (a : Nat) (bs : List Byte) : (writeHost s a bs).plan = s.plan := rfl
@[simp] theorem writeHost_ovr (a : Nat) (bs : List Byte) : (writeHost s a bs).ovr = s.ovr := rfl
@[simp] theorem writeHost_mail (a : Nat) (bs : List Byte) : (writeHost s a bs).mail = s.mail := rfl
@[simp] theorem writeHost_mbox (a : Nat) (bs : List Byte) (j : Nat) : (writeHost s a bs).mbox j = s.mbox j := rfl
@[simp] theorem writeHost_rotation (a : Nat) (bs : List Byte) : (writeHost s a bs).rotation = s.rotation := rfl
@[simp] theorem writeHost_cmds (a : Nat) (bs : List Byte) : (writeHost s a bs).cmds = s.cmds := rfl
@[simp] theorem writeHost_nextCmd (a : Nat) (bs : List Byte) : (writeHost s a bs).nextCmd = s.nextCmd := rfl
@[simp] theorem writeHost_staged (a : Nat) (bs : List Byte) : (writeHost s a bs).staged = s.staged := rfl
@[simp] theorem writeHost_streams (a : Nat) (bs : List Byte) : (writeHost s a bs).streams = s.streams := rfl
@[simp] theorem writeHost_stream (a : Nat) (bs : List Byte) (j : Nat) : (writeHost s a bs).stream j = s.stream j := rfl
@[simp] theorem writeHost_shots (a : Nat) (bs : List Byte) : (writeHost s a bs).shots = s.shots := rfl
@[simp] theorem writeHost_aux (a : Nat) (bs : List Byte) : (writeHost s a bs).aux = s.aux := rfl
@[simp] theorem writeHost_aux_ (a : Nat) (bs : List Byte) (j : Nat) : (writeHost s a bs).aux_ j = s.aux_ j := rfl
@[simp] theorem writeHost_adm (a : Nat) (bs : List Byte) : (writeHost s a bs).adm = s.adm := rfl
@[simp] theorem writeHost_demand (a : Nat) (bs : List Byte) (j : Nat) : (writeHost s a bs).demand j = s.demand j := rfl
@[simp] theorem writeHost_grace (a : Nat) (bs : List Byte) : (writeHost s a bs).grace = s.grace := rfl
@[simp] theorem writeHost_slots (a : Nat) (bs : List Byte) : (writeHost s a bs).slots = s.slots := rfl
@[simp] theorem writeHost_slot (a : Nat) (bs : List Byte) (j : Nat) : (writeHost s a bs).slot j = s.slot j := rfl
@[simp] theorem writeHost_keyCtl (a : Nat) (bs : List Byte) : (writeHost s a bs).keyCtl = s.keyCtl := rfl
@[simp] theorem writeHost_ent (a : Nat) (bs : List Byte) : (writeHost s a bs).ent = s.ent := rfl
@[simp] theorem writeHost_imports (a : Nat) (bs : List Byte) : (writeHost s a bs).imports = s.imports := rfl
@[simp] theorem writeHost_rings (a : Nat) (bs : List Byte) : (writeHost s a bs).rings = s.rings := rfl
@[simp] theorem writeHost_ring (a : Nat) (bs : List Byte) (j : Nat) : (writeHost s a bs).ring j = s.ring j := rfl
@[simp] theorem writeHost_jobs (a : Nat) (bs : List Byte) : (writeHost s a bs).jobs = s.jobs := rfl
@[simp] theorem writeHost_tx (a : Nat) (bs : List Byte) : (writeHost s a bs).tx = s.tx := rfl
@[simp] theorem writeHost_txFrame (a : Nat) (bs : List Byte) (j : Nat) : (writeHost s a bs).txFrame j = s.txFrame j := rfl
@[simp] theorem writeHost_rx (a : Nat) (bs : List Byte) : (writeHost s a bs).rx = s.rx := rfl
@[simp] theorem writeHost_rxFrame (a : Nat) (bs : List Byte) (j : Nat) : (writeHost s a bs).rxFrame j = s.rxFrame j := rfl
@[simp] theorem writeHost_nextFrame (a : Nat) (bs : List Byte) : (writeHost s a bs).nextFrame = s.nextFrame := rfl
@[simp] theorem writeHost_egSkip (a : Nat) (bs : List Byte) : (writeHost s a bs).egSkip = s.egSkip := rfl
@[simp] theorem writeHost_eReady (a : Nat) (bs : List Byte) : (writeHost s a bs).eReady = s.eReady := rfl
@[simp] theorem writeHost_classifying (a : Nat) (bs : List Byte) : (writeHost s a bs).classifying = s.classifying := rfl
@[simp] theorem writeHost_ingress (a : Nat) (bs : List Byte) : (writeHost s a bs).ingress = s.ingress := rfl
@[simp] theorem writeHost_ports (a : Nat) (bs : List Byte) : (writeHost s a bs).ports = s.ports := rfl
@[simp] theorem writeHost_port (a : Nat) (bs : List Byte) (j : Nat) : (writeHost s a bs).port j = s.port j := rfl
@[simp] theorem writeHost_pairs (a : Nat) (bs : List Byte) : (writeHost s a bs).pairs = s.pairs := rfl
@[simp] theorem writeHost_pair (a : Nat) (bs : List Byte) (j : Nat) : (writeHost s a bs).pair j = s.pair j := rfl
@[simp] theorem writeHost_noticeLog (a : Nat) (bs : List Byte) : (writeHost s a bs).noticeLog = s.noticeLog := rfl
@[simp] theorem writeHost_gates (a : Nat) (bs : List Byte) : (writeHost s a bs).gates = s.gates := rfl
@[simp] theorem writeHost_gate (a : Nat) (bs : List Byte) (j : Nat) : (writeHost s a bs).gate j = s.gate j := rfl
@[simp] theorem writeHost_pubs (a : Nat) (bs : List Byte) : (writeHost s a bs).pubs = s.pubs := rfl
@[simp] theorem writeHost_pub (a : Nat) (bs : List Byte) (j : Nat) : (writeHost s a bs).pub j = s.pub j := rfl
@[simp] theorem writeHost_vers (a : Nat) (bs : List Byte) : (writeHost s a bs).vers = s.vers := rfl
@[simp] theorem writeHost_ver (a : Nat) (bs : List Byte) (j : Nat) : (writeHost s a bs).ver j = s.ver j := rfl
@[simp] theorem writeHost_v2 (a : Nat) (bs : List Byte) : (writeHost s a bs).v2 = s.v2 := rfl
@[simp] theorem writeHost_bw (a : Nat) (bs : List Byte) : (writeHost s a bs).bw = s.bw := rfl
@[simp] theorem writeHost_pebbles (a : Nat) (bs : List Byte) : (writeHost s a bs).pebbles = s.pebbles := rfl
@[simp] theorem writeHost_mem (a : Nat) (bs : List Byte) : (writeHost s a bs).mem = s.mem := rfl
@[simp] theorem writeHost_dram (a : Nat) (bs : List Byte) : (writeHost s a bs).dram = s.dram := rfl
@[simp] theorem writeHost_eye (a : Nat) (bs : List Byte) : (writeHost s a bs).eye = s.eye := rfl
@[simp] theorem writeHost_bus (a : Nat) (bs : List Byte) : (writeHost s a bs).bus = s.bus := rfl
@[simp] theorem writeHost_out (a : Nat) (bs : List Byte) : (writeHost s a bs).out = s.out := rfl

/-! ### bumpPort -/

@[simp] theorem bumpPort_pending (p i k : Nat) : (bumpPort s p i k).pending = s.pending := rfl
@[simp] theorem bumpPort_now (p i k : Nat) : (bumpPort s p i k).now = s.now := rfl
@[simp] theorem bumpPort_draws (p i k : Nat) : (bumpPort s p i k).draws = s.draws := rfl
@[simp] theorem bumpPort_mode (p i k : Nat) : (bumpPort s p i k).mode = s.mode := rfl
@[simp] theorem bumpPort_cause (p i k : Nat) : (bumpPort s p i k).cause = s.cause := rfl
@[simp] theorem bumpPort_fatal (p i k : Nat) : (bumpPort s p i k).fatal = s.fatal := rfl
@[simp] theorem bumpPort_assay (p i k : Nat) : (bumpPort s p i k).assay = s.assay := rfl
@[simp] theorem bumpPort_fuses (p i k : Nat) : (bumpPort s p i k).fuses = s.fuses := rfl
@[simp] theorem bumpPort_nv (p i k : Nat) : (bumpPort s p i k).nv = s.nv := rfl
@[simp] theorem bumpPort_active (p i k : Nat) : (bumpPort s p i k).active = s.active := rfl
@[simp] theorem bumpPort_img (p i k : Nat) : (bumpPort s p i k).img = s.img := rfl
@[simp] theorem bumpPort_bmr (p i k : Nat) : (bumpPort s p i k).bmr = s.bmr := rfl
@[simp] theorem bumpPort_ladder (p i k : Nat) : (bumpPort s p i k).ladder = s.ladder := rfl
@[simp] theorem bumpPort_tamperLatch (p i k : Nat) : (bumpPort s p i k).tamperLatch = s.tamperLatch := rfl
@[simp] theorem bumpPort_tamperLevel (p i k : Nat) : (bumpPort s p i k).tamperLevel = s.tamperLevel := rfl
@[simp] theorem bumpPort_retention (p i k : Nat) : (bumpPort s p i k).retention = s.retention := rfl
@[simp] theorem bumpPort_power (p i k : Nat) : (bumpPort s p i k).power = s.power := rfl
@[simp] theorem bumpPort_tcfg (p i k : Nat) : (bumpPort s p i k).tcfg = s.tcfg := rfl
@[simp] theorem bumpPort_ticks (p i k : Nat) : (bumpPort s p i k).ticks = s.ticks := rfl
@[simp] theorem bumpPort_plan (p i k : Nat) : (bumpPort s p i k).plan = s.plan := rfl
@[simp] theorem bumpPort_ovr (p i k : Nat) : (bumpPort s p i k).ovr = s.ovr := rfl
@[simp] theorem bumpPort_mail (p i k : Nat) : (bumpPort s p i k).mail = s.mail := rfl
@[simp] theorem bumpPort_mbox (p i k : Nat) (j : Nat) : (bumpPort s p i k).mbox j = s.mbox j := rfl
@[simp] theorem bumpPort_rotation (p i k : Nat) : (bumpPort s p i k).rotation = s.rotation := rfl
@[simp] theorem bumpPort_cmds (p i k : Nat) : (bumpPort s p i k).cmds = s.cmds := rfl
@[simp] theorem bumpPort_nextCmd (p i k : Nat) : (bumpPort s p i k).nextCmd = s.nextCmd := rfl
@[simp] theorem bumpPort_staged (p i k : Nat) : (bumpPort s p i k).staged = s.staged := rfl
@[simp] theorem bumpPort_streams (p i k : Nat) : (bumpPort s p i k).streams = s.streams := rfl
@[simp] theorem bumpPort_stream (p i k : Nat) (j : Nat) : (bumpPort s p i k).stream j = s.stream j := rfl
@[simp] theorem bumpPort_shots (p i k : Nat) : (bumpPort s p i k).shots = s.shots := rfl
@[simp] theorem bumpPort_aux (p i k : Nat) : (bumpPort s p i k).aux = s.aux := rfl
@[simp] theorem bumpPort_aux_ (p i k : Nat) (j : Nat) : (bumpPort s p i k).aux_ j = s.aux_ j := rfl
@[simp] theorem bumpPort_adm (p i k : Nat) : (bumpPort s p i k).adm = s.adm := rfl
@[simp] theorem bumpPort_demand (p i k : Nat) (j : Nat) : (bumpPort s p i k).demand j = s.demand j := rfl
@[simp] theorem bumpPort_grace (p i k : Nat) : (bumpPort s p i k).grace = s.grace := rfl
@[simp] theorem bumpPort_slots (p i k : Nat) : (bumpPort s p i k).slots = s.slots := rfl
@[simp] theorem bumpPort_slot (p i k : Nat) (j : Nat) : (bumpPort s p i k).slot j = s.slot j := rfl
@[simp] theorem bumpPort_keyCtl (p i k : Nat) : (bumpPort s p i k).keyCtl = s.keyCtl := rfl
@[simp] theorem bumpPort_ent (p i k : Nat) : (bumpPort s p i k).ent = s.ent := rfl
@[simp] theorem bumpPort_imports (p i k : Nat) : (bumpPort s p i k).imports = s.imports := rfl
@[simp] theorem bumpPort_rings (p i k : Nat) : (bumpPort s p i k).rings = s.rings := rfl
@[simp] theorem bumpPort_ring (p i k : Nat) (j : Nat) : (bumpPort s p i k).ring j = s.ring j := rfl
@[simp] theorem bumpPort_hostMem (p i k : Nat) : (bumpPort s p i k).hostMem = s.hostMem := rfl
@[simp] theorem bumpPort_jobs (p i k : Nat) : (bumpPort s p i k).jobs = s.jobs := rfl
@[simp] theorem bumpPort_tx (p i k : Nat) : (bumpPort s p i k).tx = s.tx := rfl
@[simp] theorem bumpPort_txFrame (p i k : Nat) (j : Nat) : (bumpPort s p i k).txFrame j = s.txFrame j := rfl
@[simp] theorem bumpPort_rx (p i k : Nat) : (bumpPort s p i k).rx = s.rx := rfl
@[simp] theorem bumpPort_rxFrame (p i k : Nat) (j : Nat) : (bumpPort s p i k).rxFrame j = s.rxFrame j := rfl
@[simp] theorem bumpPort_nextFrame (p i k : Nat) : (bumpPort s p i k).nextFrame = s.nextFrame := rfl
@[simp] theorem bumpPort_egSkip (p i k : Nat) : (bumpPort s p i k).egSkip = s.egSkip := rfl
@[simp] theorem bumpPort_eReady (p i k : Nat) : (bumpPort s p i k).eReady = s.eReady := rfl
@[simp] theorem bumpPort_classifying (p i k : Nat) : (bumpPort s p i k).classifying = s.classifying := rfl
@[simp] theorem bumpPort_ingress (p i k : Nat) : (bumpPort s p i k).ingress = s.ingress := rfl
@[simp] theorem bumpPort_pairs (p i k : Nat) : (bumpPort s p i k).pairs = s.pairs := rfl
@[simp] theorem bumpPort_pair (p i k : Nat) (j : Nat) : (bumpPort s p i k).pair j = s.pair j := rfl
@[simp] theorem bumpPort_noticeLog (p i k : Nat) : (bumpPort s p i k).noticeLog = s.noticeLog := rfl
@[simp] theorem bumpPort_gates (p i k : Nat) : (bumpPort s p i k).gates = s.gates := rfl
@[simp] theorem bumpPort_gate (p i k : Nat) (j : Nat) : (bumpPort s p i k).gate j = s.gate j := rfl
@[simp] theorem bumpPort_pubs (p i k : Nat) : (bumpPort s p i k).pubs = s.pubs := rfl
@[simp] theorem bumpPort_pub (p i k : Nat) (j : Nat) : (bumpPort s p i k).pub j = s.pub j := rfl
@[simp] theorem bumpPort_vers (p i k : Nat) : (bumpPort s p i k).vers = s.vers := rfl
@[simp] theorem bumpPort_ver (p i k : Nat) (j : Nat) : (bumpPort s p i k).ver j = s.ver j := rfl
@[simp] theorem bumpPort_v2 (p i k : Nat) : (bumpPort s p i k).v2 = s.v2 := rfl
@[simp] theorem bumpPort_bw (p i k : Nat) : (bumpPort s p i k).bw = s.bw := rfl
@[simp] theorem bumpPort_pebbles (p i k : Nat) : (bumpPort s p i k).pebbles = s.pebbles := rfl
@[simp] theorem bumpPort_mem (p i k : Nat) : (bumpPort s p i k).mem = s.mem := rfl
@[simp] theorem bumpPort_dram (p i k : Nat) : (bumpPort s p i k).dram = s.dram := rfl
@[simp] theorem bumpPort_eye (p i k : Nat) : (bumpPort s p i k).eye = s.eye := rfl
@[simp] theorem bumpPort_bus (p i k : Nat) : (bumpPort s p i k).bus = s.bus := rfl
@[simp] theorem bumpPort_out (p i k : Nat) : (bumpPort s p i k).out = s.out := rfl

/-! ### bumpPair -/

@[simp] theorem bumpPair_pending (p i : Nat) : (bumpPair s p i).pending = s.pending := rfl
@[simp] theorem bumpPair_now (p i : Nat) : (bumpPair s p i).now = s.now := rfl
@[simp] theorem bumpPair_draws (p i : Nat) : (bumpPair s p i).draws = s.draws := rfl
@[simp] theorem bumpPair_mode (p i : Nat) : (bumpPair s p i).mode = s.mode := rfl
@[simp] theorem bumpPair_cause (p i : Nat) : (bumpPair s p i).cause = s.cause := rfl
@[simp] theorem bumpPair_fatal (p i : Nat) : (bumpPair s p i).fatal = s.fatal := rfl
@[simp] theorem bumpPair_assay (p i : Nat) : (bumpPair s p i).assay = s.assay := rfl
@[simp] theorem bumpPair_fuses (p i : Nat) : (bumpPair s p i).fuses = s.fuses := rfl
@[simp] theorem bumpPair_nv (p i : Nat) : (bumpPair s p i).nv = s.nv := rfl
@[simp] theorem bumpPair_active (p i : Nat) : (bumpPair s p i).active = s.active := rfl
@[simp] theorem bumpPair_img (p i : Nat) : (bumpPair s p i).img = s.img := rfl
@[simp] theorem bumpPair_bmr (p i : Nat) : (bumpPair s p i).bmr = s.bmr := rfl
@[simp] theorem bumpPair_ladder (p i : Nat) : (bumpPair s p i).ladder = s.ladder := rfl
@[simp] theorem bumpPair_tamperLatch (p i : Nat) : (bumpPair s p i).tamperLatch = s.tamperLatch := rfl
@[simp] theorem bumpPair_tamperLevel (p i : Nat) : (bumpPair s p i).tamperLevel = s.tamperLevel := rfl
@[simp] theorem bumpPair_retention (p i : Nat) : (bumpPair s p i).retention = s.retention := rfl
@[simp] theorem bumpPair_power (p i : Nat) : (bumpPair s p i).power = s.power := rfl
@[simp] theorem bumpPair_tcfg (p i : Nat) : (bumpPair s p i).tcfg = s.tcfg := rfl
@[simp] theorem bumpPair_ticks (p i : Nat) : (bumpPair s p i).ticks = s.ticks := rfl
@[simp] theorem bumpPair_plan (p i : Nat) : (bumpPair s p i).plan = s.plan := rfl
@[simp] theorem bumpPair_ovr (p i : Nat) : (bumpPair s p i).ovr = s.ovr := rfl
@[simp] theorem bumpPair_mail (p i : Nat) : (bumpPair s p i).mail = s.mail := rfl
@[simp] theorem bumpPair_mbox (p i : Nat) (j : Nat) : (bumpPair s p i).mbox j = s.mbox j := rfl
@[simp] theorem bumpPair_rotation (p i : Nat) : (bumpPair s p i).rotation = s.rotation := rfl
@[simp] theorem bumpPair_cmds (p i : Nat) : (bumpPair s p i).cmds = s.cmds := rfl
@[simp] theorem bumpPair_nextCmd (p i : Nat) : (bumpPair s p i).nextCmd = s.nextCmd := rfl
@[simp] theorem bumpPair_staged (p i : Nat) : (bumpPair s p i).staged = s.staged := rfl
@[simp] theorem bumpPair_streams (p i : Nat) : (bumpPair s p i).streams = s.streams := rfl
@[simp] theorem bumpPair_stream (p i : Nat) (j : Nat) : (bumpPair s p i).stream j = s.stream j := rfl
@[simp] theorem bumpPair_shots (p i : Nat) : (bumpPair s p i).shots = s.shots := rfl
@[simp] theorem bumpPair_aux (p i : Nat) : (bumpPair s p i).aux = s.aux := rfl
@[simp] theorem bumpPair_aux_ (p i : Nat) (j : Nat) : (bumpPair s p i).aux_ j = s.aux_ j := rfl
@[simp] theorem bumpPair_adm (p i : Nat) : (bumpPair s p i).adm = s.adm := rfl
@[simp] theorem bumpPair_demand (p i : Nat) (j : Nat) : (bumpPair s p i).demand j = s.demand j := rfl
@[simp] theorem bumpPair_grace (p i : Nat) : (bumpPair s p i).grace = s.grace := rfl
@[simp] theorem bumpPair_slots (p i : Nat) : (bumpPair s p i).slots = s.slots := rfl
@[simp] theorem bumpPair_slot (p i : Nat) (j : Nat) : (bumpPair s p i).slot j = s.slot j := rfl
@[simp] theorem bumpPair_keyCtl (p i : Nat) : (bumpPair s p i).keyCtl = s.keyCtl := rfl
@[simp] theorem bumpPair_ent (p i : Nat) : (bumpPair s p i).ent = s.ent := rfl
@[simp] theorem bumpPair_imports (p i : Nat) : (bumpPair s p i).imports = s.imports := rfl
@[simp] theorem bumpPair_rings (p i : Nat) : (bumpPair s p i).rings = s.rings := rfl
@[simp] theorem bumpPair_ring (p i : Nat) (j : Nat) : (bumpPair s p i).ring j = s.ring j := rfl
@[simp] theorem bumpPair_hostMem (p i : Nat) : (bumpPair s p i).hostMem = s.hostMem := rfl
@[simp] theorem bumpPair_jobs (p i : Nat) : (bumpPair s p i).jobs = s.jobs := rfl
@[simp] theorem bumpPair_tx (p i : Nat) : (bumpPair s p i).tx = s.tx := rfl
@[simp] theorem bumpPair_txFrame (p i : Nat) (j : Nat) : (bumpPair s p i).txFrame j = s.txFrame j := rfl
@[simp] theorem bumpPair_rx (p i : Nat) : (bumpPair s p i).rx = s.rx := rfl
@[simp] theorem bumpPair_rxFrame (p i : Nat) (j : Nat) : (bumpPair s p i).rxFrame j = s.rxFrame j := rfl
@[simp] theorem bumpPair_nextFrame (p i : Nat) : (bumpPair s p i).nextFrame = s.nextFrame := rfl
@[simp] theorem bumpPair_egSkip (p i : Nat) : (bumpPair s p i).egSkip = s.egSkip := rfl
@[simp] theorem bumpPair_eReady (p i : Nat) : (bumpPair s p i).eReady = s.eReady := rfl
@[simp] theorem bumpPair_classifying (p i : Nat) : (bumpPair s p i).classifying = s.classifying := rfl
@[simp] theorem bumpPair_ingress (p i : Nat) : (bumpPair s p i).ingress = s.ingress := rfl
@[simp] theorem bumpPair_ports (p i : Nat) : (bumpPair s p i).ports = s.ports := rfl
@[simp] theorem bumpPair_port (p i : Nat) (j : Nat) : (bumpPair s p i).port j = s.port j := rfl
@[simp] theorem bumpPair_noticeLog (p i : Nat) : (bumpPair s p i).noticeLog = s.noticeLog := rfl
@[simp] theorem bumpPair_gates (p i : Nat) : (bumpPair s p i).gates = s.gates := rfl
@[simp] theorem bumpPair_gate (p i : Nat) (j : Nat) : (bumpPair s p i).gate j = s.gate j := rfl
@[simp] theorem bumpPair_pubs (p i : Nat) : (bumpPair s p i).pubs = s.pubs := rfl
@[simp] theorem bumpPair_pub (p i : Nat) (j : Nat) : (bumpPair s p i).pub j = s.pub j := rfl
@[simp] theorem bumpPair_vers (p i : Nat) : (bumpPair s p i).vers = s.vers := rfl
@[simp] theorem bumpPair_ver (p i : Nat) (j : Nat) : (bumpPair s p i).ver j = s.ver j := rfl
@[simp] theorem bumpPair_v2 (p i : Nat) : (bumpPair s p i).v2 = s.v2 := rfl
@[simp] theorem bumpPair_bw (p i : Nat) : (bumpPair s p i).bw = s.bw := rfl
@[simp] theorem bumpPair_pebbles (p i : Nat) : (bumpPair s p i).pebbles = s.pebbles := rfl
@[simp] theorem bumpPair_mem (p i : Nat) : (bumpPair s p i).mem = s.mem := rfl
@[simp] theorem bumpPair_dram (p i : Nat) : (bumpPair s p i).dram = s.dram := rfl
@[simp] theorem bumpPair_eye (p i : Nat) : (bumpPair s p i).eye = s.eye := rfl
@[simp] theorem bumpPair_bus (p i : Nat) : (bumpPair s p i).bus = s.bus := rfl
@[simp] theorem bumpPair_out (p i : Nat) : (bumpPair s p i).out = s.out := rfl

/-! ### setTx -/

@[simp] theorem setTx_pending (x : TxFrame) : (setTx s x).pending = s.pending := rfl
@[simp] theorem setTx_now (x : TxFrame) : (setTx s x).now = s.now := rfl
@[simp] theorem setTx_draws (x : TxFrame) : (setTx s x).draws = s.draws := rfl
@[simp] theorem setTx_mode (x : TxFrame) : (setTx s x).mode = s.mode := rfl
@[simp] theorem setTx_cause (x : TxFrame) : (setTx s x).cause = s.cause := rfl
@[simp] theorem setTx_fatal (x : TxFrame) : (setTx s x).fatal = s.fatal := rfl
@[simp] theorem setTx_assay (x : TxFrame) : (setTx s x).assay = s.assay := rfl
@[simp] theorem setTx_fuses (x : TxFrame) : (setTx s x).fuses = s.fuses := rfl
@[simp] theorem setTx_nv (x : TxFrame) : (setTx s x).nv = s.nv := rfl
@[simp] theorem setTx_active (x : TxFrame) : (setTx s x).active = s.active := rfl
@[simp] theorem setTx_img (x : TxFrame) : (setTx s x).img = s.img := rfl
@[simp] theorem setTx_bmr (x : TxFrame) : (setTx s x).bmr = s.bmr := rfl
@[simp] theorem setTx_ladder (x : TxFrame) : (setTx s x).ladder = s.ladder := rfl
@[simp] theorem setTx_tamperLatch (x : TxFrame) : (setTx s x).tamperLatch = s.tamperLatch := rfl
@[simp] theorem setTx_tamperLevel (x : TxFrame) : (setTx s x).tamperLevel = s.tamperLevel := rfl
@[simp] theorem setTx_retention (x : TxFrame) : (setTx s x).retention = s.retention := rfl
@[simp] theorem setTx_power (x : TxFrame) : (setTx s x).power = s.power := rfl
@[simp] theorem setTx_tcfg (x : TxFrame) : (setTx s x).tcfg = s.tcfg := rfl
@[simp] theorem setTx_ticks (x : TxFrame) : (setTx s x).ticks = s.ticks := rfl
@[simp] theorem setTx_plan (x : TxFrame) : (setTx s x).plan = s.plan := rfl
@[simp] theorem setTx_ovr (x : TxFrame) : (setTx s x).ovr = s.ovr := rfl
@[simp] theorem setTx_mail (x : TxFrame) : (setTx s x).mail = s.mail := rfl
@[simp] theorem setTx_mbox (x : TxFrame) (j : Nat) : (setTx s x).mbox j = s.mbox j := rfl
@[simp] theorem setTx_rotation (x : TxFrame) : (setTx s x).rotation = s.rotation := rfl
@[simp] theorem setTx_cmds (x : TxFrame) : (setTx s x).cmds = s.cmds := rfl
@[simp] theorem setTx_nextCmd (x : TxFrame) : (setTx s x).nextCmd = s.nextCmd := rfl
@[simp] theorem setTx_staged (x : TxFrame) : (setTx s x).staged = s.staged := rfl
@[simp] theorem setTx_streams (x : TxFrame) : (setTx s x).streams = s.streams := rfl
@[simp] theorem setTx_stream (x : TxFrame) (j : Nat) : (setTx s x).stream j = s.stream j := rfl
@[simp] theorem setTx_shots (x : TxFrame) : (setTx s x).shots = s.shots := rfl
@[simp] theorem setTx_aux (x : TxFrame) : (setTx s x).aux = s.aux := rfl
@[simp] theorem setTx_aux_ (x : TxFrame) (j : Nat) : (setTx s x).aux_ j = s.aux_ j := rfl
@[simp] theorem setTx_adm (x : TxFrame) : (setTx s x).adm = s.adm := rfl
@[simp] theorem setTx_demand (x : TxFrame) (j : Nat) : (setTx s x).demand j = s.demand j := rfl
@[simp] theorem setTx_grace (x : TxFrame) : (setTx s x).grace = s.grace := rfl
@[simp] theorem setTx_slots (x : TxFrame) : (setTx s x).slots = s.slots := rfl
@[simp] theorem setTx_slot (x : TxFrame) (j : Nat) : (setTx s x).slot j = s.slot j := rfl
@[simp] theorem setTx_keyCtl (x : TxFrame) : (setTx s x).keyCtl = s.keyCtl := rfl
@[simp] theorem setTx_ent (x : TxFrame) : (setTx s x).ent = s.ent := rfl
@[simp] theorem setTx_imports (x : TxFrame) : (setTx s x).imports = s.imports := rfl
@[simp] theorem setTx_rings (x : TxFrame) : (setTx s x).rings = s.rings := rfl
@[simp] theorem setTx_ring (x : TxFrame) (j : Nat) : (setTx s x).ring j = s.ring j := rfl
@[simp] theorem setTx_hostMem (x : TxFrame) : (setTx s x).hostMem = s.hostMem := rfl
@[simp] theorem setTx_jobs (x : TxFrame) : (setTx s x).jobs = s.jobs := rfl
@[simp] theorem setTx_rx (x : TxFrame) : (setTx s x).rx = s.rx := rfl
@[simp] theorem setTx_rxFrame (x : TxFrame) (j : Nat) : (setTx s x).rxFrame j = s.rxFrame j := rfl
@[simp] theorem setTx_nextFrame (x : TxFrame) : (setTx s x).nextFrame = s.nextFrame := rfl
@[simp] theorem setTx_egSkip (x : TxFrame) : (setTx s x).egSkip = s.egSkip := rfl
@[simp] theorem setTx_eReady (x : TxFrame) : (setTx s x).eReady = s.eReady := rfl
@[simp] theorem setTx_classifying (x : TxFrame) : (setTx s x).classifying = s.classifying := rfl
@[simp] theorem setTx_ingress (x : TxFrame) : (setTx s x).ingress = s.ingress := rfl
@[simp] theorem setTx_ports (x : TxFrame) : (setTx s x).ports = s.ports := rfl
@[simp] theorem setTx_port (x : TxFrame) (j : Nat) : (setTx s x).port j = s.port j := rfl
@[simp] theorem setTx_pairs (x : TxFrame) : (setTx s x).pairs = s.pairs := rfl
@[simp] theorem setTx_pair (x : TxFrame) (j : Nat) : (setTx s x).pair j = s.pair j := rfl
@[simp] theorem setTx_noticeLog (x : TxFrame) : (setTx s x).noticeLog = s.noticeLog := rfl
@[simp] theorem setTx_gates (x : TxFrame) : (setTx s x).gates = s.gates := rfl
@[simp] theorem setTx_gate (x : TxFrame) (j : Nat) : (setTx s x).gate j = s.gate j := rfl
@[simp] theorem setTx_pubs (x : TxFrame) : (setTx s x).pubs = s.pubs := rfl
@[simp] theorem setTx_pub (x : TxFrame) (j : Nat) : (setTx s x).pub j = s.pub j := rfl
@[simp] theorem setTx_vers (x : TxFrame) : (setTx s x).vers = s.vers := rfl
@[simp] theorem setTx_ver (x : TxFrame) (j : Nat) : (setTx s x).ver j = s.ver j := rfl
@[simp] theorem setTx_v2 (x : TxFrame) : (setTx s x).v2 = s.v2 := rfl
@[simp] theorem setTx_bw (x : TxFrame) : (setTx s x).bw = s.bw := rfl
@[simp] theorem setTx_pebbles (x : TxFrame) : (setTx s x).pebbles = s.pebbles := rfl
@[simp] theorem setTx_mem (x : TxFrame) : (setTx s x).mem = s.mem := rfl
@[simp] theorem setTx_dram (x : TxFrame) : (setTx s x).dram = s.dram := rfl
@[simp] theorem setTx_eye (x : TxFrame) : (setTx s x).eye = s.eye := rfl
@[simp] theorem setTx_bus (x : TxFrame) : (setTx s x).bus = s.bus := rfl
@[simp] theorem setTx_out (x : TxFrame) : (setTx s x).out = s.out := rfl

/-! ### setRx -/

@[simp] theorem setRx_pending (x : RxFrame) : (setRx s x).pending = s.pending := rfl
@[simp] theorem setRx_now (x : RxFrame) : (setRx s x).now = s.now := rfl
@[simp] theorem setRx_draws (x : RxFrame) : (setRx s x).draws = s.draws := rfl
@[simp] theorem setRx_mode (x : RxFrame) : (setRx s x).mode = s.mode := rfl
@[simp] theorem setRx_cause (x : RxFrame) : (setRx s x).cause = s.cause := rfl
@[simp] theorem setRx_fatal (x : RxFrame) : (setRx s x).fatal = s.fatal := rfl
@[simp] theorem setRx_assay (x : RxFrame) : (setRx s x).assay = s.assay := rfl
@[simp] theorem setRx_fuses (x : RxFrame) : (setRx s x).fuses = s.fuses := rfl
@[simp] theorem setRx_nv (x : RxFrame) : (setRx s x).nv = s.nv := rfl
@[simp] theorem setRx_active (x : RxFrame) : (setRx s x).active = s.active := rfl
@[simp] theorem setRx_img (x : RxFrame) : (setRx s x).img = s.img := rfl
@[simp] theorem setRx_bmr (x : RxFrame) : (setRx s x).bmr = s.bmr := rfl
@[simp] theorem setRx_ladder (x : RxFrame) : (setRx s x).ladder = s.ladder := rfl
@[simp] theorem setRx_tamperLatch (x : RxFrame) : (setRx s x).tamperLatch = s.tamperLatch := rfl
@[simp] theorem setRx_tamperLevel (x : RxFrame) : (setRx s x).tamperLevel = s.tamperLevel := rfl
@[simp] theorem setRx_retention (x : RxFrame) : (setRx s x).retention = s.retention := rfl
@[simp] theorem setRx_power (x : RxFrame) : (setRx s x).power = s.power := rfl
@[simp] theorem setRx_tcfg (x : RxFrame) : (setRx s x).tcfg = s.tcfg := rfl
@[simp] theorem setRx_ticks (x : RxFrame) : (setRx s x).ticks = s.ticks := rfl
@[simp] theorem setRx_plan (x : RxFrame) : (setRx s x).plan = s.plan := rfl
@[simp] theorem setRx_ovr (x : RxFrame) : (setRx s x).ovr = s.ovr := rfl
@[simp] theorem setRx_mail (x : RxFrame) : (setRx s x).mail = s.mail := rfl
@[simp] theorem setRx_mbox (x : RxFrame) (j : Nat) : (setRx s x).mbox j = s.mbox j := rfl
@[simp] theorem setRx_rotation (x : RxFrame) : (setRx s x).rotation = s.rotation := rfl
@[simp] theorem setRx_cmds (x : RxFrame) : (setRx s x).cmds = s.cmds := rfl
@[simp] theorem setRx_nextCmd (x : RxFrame) : (setRx s x).nextCmd = s.nextCmd := rfl
@[simp] theorem setRx_staged (x : RxFrame) : (setRx s x).staged = s.staged := rfl
@[simp] theorem setRx_streams (x : RxFrame) : (setRx s x).streams = s.streams := rfl
@[simp] theorem setRx_stream (x : RxFrame) (j : Nat) : (setRx s x).stream j = s.stream j := rfl
@[simp] theorem setRx_shots (x : RxFrame) : (setRx s x).shots = s.shots := rfl
@[simp] theorem setRx_aux (x : RxFrame) : (setRx s x).aux = s.aux := rfl
@[simp] theorem setRx_aux_ (x : RxFrame) (j : Nat) : (setRx s x).aux_ j = s.aux_ j := rfl
@[simp] theorem setRx_adm (x : RxFrame) : (setRx s x).adm = s.adm := rfl
@[simp] theorem setRx_demand (x : RxFrame) (j : Nat) : (setRx s x).demand j = s.demand j := rfl
@[simp] theorem setRx_grace (x : RxFrame) : (setRx s x).grace = s.grace := rfl
@[simp] theorem setRx_slots (x : RxFrame) : (setRx s x).slots = s.slots := rfl
@[simp] theorem setRx_slot (x : RxFrame) (j : Nat) : (setRx s x).slot j = s.slot j := rfl
@[simp] theorem setRx_keyCtl (x : RxFrame) : (setRx s x).keyCtl = s.keyCtl := rfl
@[simp] theorem setRx_ent (x : RxFrame) : (setRx s x).ent = s.ent := rfl
@[simp] theorem setRx_imports (x : RxFrame) : (setRx s x).imports = s.imports := rfl
@[simp] theorem setRx_rings (x : RxFrame) : (setRx s x).rings = s.rings := rfl
@[simp] theorem setRx_ring (x : RxFrame) (j : Nat) : (setRx s x).ring j = s.ring j := rfl
@[simp] theorem setRx_hostMem (x : RxFrame) : (setRx s x).hostMem = s.hostMem := rfl
@[simp] theorem setRx_jobs (x : RxFrame) : (setRx s x).jobs = s.jobs := rfl
@[simp] theorem setRx_tx (x : RxFrame) : (setRx s x).tx = s.tx := rfl
@[simp] theorem setRx_txFrame (x : RxFrame) (j : Nat) : (setRx s x).txFrame j = s.txFrame j := rfl
@[simp] theorem setRx_nextFrame (x : RxFrame) : (setRx s x).nextFrame = s.nextFrame := rfl
@[simp] theorem setRx_egSkip (x : RxFrame) : (setRx s x).egSkip = s.egSkip := rfl
@[simp] theorem setRx_eReady (x : RxFrame) : (setRx s x).eReady = s.eReady := rfl
@[simp] theorem setRx_classifying (x : RxFrame) : (setRx s x).classifying = s.classifying := rfl
@[simp] theorem setRx_ingress (x : RxFrame) : (setRx s x).ingress = s.ingress := rfl
@[simp] theorem setRx_ports (x : RxFrame) : (setRx s x).ports = s.ports := rfl
@[simp] theorem setRx_port (x : RxFrame) (j : Nat) : (setRx s x).port j = s.port j := rfl
@[simp] theorem setRx_pairs (x : RxFrame) : (setRx s x).pairs = s.pairs := rfl
@[simp] theorem setRx_pair (x : RxFrame) (j : Nat) : (setRx s x).pair j = s.pair j := rfl
@[simp] theorem setRx_noticeLog (x : RxFrame) : (setRx s x).noticeLog = s.noticeLog := rfl
@[simp] theorem setRx_gates (x : RxFrame) : (setRx s x).gates = s.gates := rfl
@[simp] theorem setRx_gate (x : RxFrame) (j : Nat) : (setRx s x).gate j = s.gate j := rfl
@[simp] theorem setRx_pubs (x : RxFrame) : (setRx s x).pubs = s.pubs := rfl
@[simp] theorem setRx_pub (x : RxFrame) (j : Nat) : (setRx s x).pub j = s.pub j := rfl
@[simp] theorem setRx_vers (x : RxFrame) : (setRx s x).vers = s.vers := rfl
@[simp] theorem setRx_ver (x : RxFrame) (j : Nat) : (setRx s x).ver j = s.ver j := rfl
@[simp] theorem setRx_v2 (x : RxFrame) : (setRx s x).v2 = s.v2 := rfl
@[simp] theorem setRx_bw (x : RxFrame) : (setRx s x).bw = s.bw := rfl
@[simp] theorem setRx_pebbles (x : RxFrame) : (setRx s x).pebbles = s.pebbles := rfl
@[simp] theorem setRx_mem (x : RxFrame) : (setRx s x).mem = s.mem := rfl
@[simp] theorem setRx_dram (x : RxFrame) : (setRx s x).dram = s.dram := rfl
@[simp] theorem setRx_eye (x : RxFrame) : (setRx s x).eye = s.eye := rfl
@[simp] theorem setRx_bus (x : RxFrame) : (setRx s x).bus = s.bus := rfl
@[simp] theorem setRx_out (x : RxFrame) : (setRx s x).out = s.out := rfl

/-! ### dropTx -/

@[simp] theorem dropTx_pending (f : Nat) : (dropTx s f).pending = s.pending := rfl
@[simp] theorem dropTx_now (f : Nat) : (dropTx s f).now = s.now := rfl
@[simp] theorem dropTx_draws (f : Nat) : (dropTx s f).draws = s.draws := rfl
@[simp] theorem dropTx_mode (f : Nat) : (dropTx s f).mode = s.mode := rfl
@[simp] theorem dropTx_cause (f : Nat) : (dropTx s f).cause = s.cause := rfl
@[simp] theorem dropTx_fatal (f : Nat) : (dropTx s f).fatal = s.fatal := rfl
@[simp] theorem dropTx_assay (f : Nat) : (dropTx s f).assay = s.assay := rfl
@[simp] theorem dropTx_fuses (f : Nat) : (dropTx s f).fuses = s.fuses := rfl
@[simp] theorem dropTx_nv (f : Nat) : (dropTx s f).nv = s.nv := rfl
@[simp] theorem dropTx_active (f : Nat) : (dropTx s f).active = s.active := rfl
@[simp] theorem dropTx_img (f : Nat) : (dropTx s f).img = s.img := rfl
@[simp] theorem dropTx_bmr (f : Nat) : (dropTx s f).bmr = s.bmr := rfl
@[simp] theorem dropTx_ladder (f : Nat) : (dropTx s f).ladder = s.ladder := rfl
@[simp] theorem dropTx_tamperLatch (f : Nat) : (dropTx s f).tamperLatch = s.tamperLatch := rfl
@[simp] theorem dropTx_tamperLevel (f : Nat) : (dropTx s f).tamperLevel = s.tamperLevel := rfl
@[simp] theorem dropTx_retention (f : Nat) : (dropTx s f).retention = s.retention := rfl
@[simp] theorem dropTx_power (f : Nat) : (dropTx s f).power = s.power := rfl
@[simp] theorem dropTx_tcfg (f : Nat) : (dropTx s f).tcfg = s.tcfg := rfl
@[simp] theorem dropTx_ticks (f : Nat) : (dropTx s f).ticks = s.ticks := rfl
@[simp] theorem dropTx_plan (f : Nat) : (dropTx s f).plan = s.plan := rfl
@[simp] theorem dropTx_ovr (f : Nat) : (dropTx s f).ovr = s.ovr := rfl
@[simp] theorem dropTx_mail (f : Nat) : (dropTx s f).mail = s.mail := rfl
@[simp] theorem dropTx_mbox (f : Nat) (j : Nat) : (dropTx s f).mbox j = s.mbox j := rfl
@[simp] theorem dropTx_rotation (f : Nat) : (dropTx s f).rotation = s.rotation := rfl
@[simp] theorem dropTx_cmds (f : Nat) : (dropTx s f).cmds = s.cmds := rfl
@[simp] theorem dropTx_nextCmd (f : Nat) : (dropTx s f).nextCmd = s.nextCmd := rfl
@[simp] theorem dropTx_staged (f : Nat) : (dropTx s f).staged = s.staged := rfl
@[simp] theorem dropTx_streams (f : Nat) : (dropTx s f).streams = s.streams := rfl
@[simp] theorem dropTx_stream (f : Nat) (j : Nat) : (dropTx s f).stream j = s.stream j := rfl
@[simp] theorem dropTx_shots (f : Nat) : (dropTx s f).shots = s.shots := rfl
@[simp] theorem dropTx_aux (f : Nat) : (dropTx s f).aux = s.aux := rfl
@[simp] theorem dropTx_aux_ (f : Nat) (j : Nat) : (dropTx s f).aux_ j = s.aux_ j := rfl
@[simp] theorem dropTx_adm (f : Nat) : (dropTx s f).adm = s.adm := rfl
@[simp] theorem dropTx_demand (f : Nat) (j : Nat) : (dropTx s f).demand j = s.demand j := rfl
@[simp] theorem dropTx_grace (f : Nat) : (dropTx s f).grace = s.grace := rfl
@[simp] theorem dropTx_slots (f : Nat) : (dropTx s f).slots = s.slots := rfl
@[simp] theorem dropTx_slot (f : Nat) (j : Nat) : (dropTx s f).slot j = s.slot j := rfl
@[simp] theorem dropTx_keyCtl (f : Nat) : (dropTx s f).keyCtl = s.keyCtl := rfl
@[simp] theorem dropTx_ent (f : Nat) : (dropTx s f).ent = s.ent := rfl
@[simp] theorem dropTx_imports (f : Nat) : (dropTx s f).imports = s.imports := rfl
@[simp] theorem dropTx_rings (f : Nat) : (dropTx s f).rings = s.rings := rfl
@[simp] theorem dropTx_ring (f : Nat) (j : Nat) : (dropTx s f).ring j = s.ring j := rfl
@[simp] theorem dropTx_hostMem (f : Nat) : (dropTx s f).hostMem = s.hostMem := rfl
@[simp] theorem dropTx_jobs (f : Nat) : (dropTx s f).jobs = s.jobs := rfl
@[simp] theorem dropTx_rx (f : Nat) : (dropTx s f).rx = s.rx := rfl
@[simp] theorem dropTx_rxFrame (f : Nat) (j : Nat) : (dropTx s f).rxFrame j = s.rxFrame j := rfl
@[simp] theorem dropTx_nextFrame (f : Nat) : (dropTx s f).nextFrame = s.nextFrame := rfl
@[simp] theorem dropTx_egSkip (f : Nat) : (dropTx s f).egSkip = s.egSkip := rfl
@[simp] theorem dropTx_eReady (f : Nat) : (dropTx s f).eReady = s.eReady := rfl
@[simp] theorem dropTx_classifying (f : Nat) : (dropTx s f).classifying = s.classifying := rfl
@[simp] theorem dropTx_ingress (f : Nat) : (dropTx s f).ingress = s.ingress := rfl
@[simp] theorem dropTx_ports (f : Nat) : (dropTx s f).ports = s.ports := rfl
@[simp] theorem dropTx_port (f : Nat) (j : Nat) : (dropTx s f).port j = s.port j := rfl
@[simp] theorem dropTx_pairs (f : Nat) : (dropTx s f).pairs = s.pairs := rfl
@[simp] theorem dropTx_pair (f : Nat) (j : Nat) : (dropTx s f).pair j = s.pair j := rfl
@[simp] theorem dropTx_noticeLog (f : Nat) : (dropTx s f).noticeLog = s.noticeLog := rfl
@[simp] theorem dropTx_gates (f : Nat) : (dropTx s f).gates = s.gates := rfl
@[simp] theorem dropTx_gate (f : Nat) (j : Nat) : (dropTx s f).gate j = s.gate j := rfl
@[simp] theorem dropTx_pubs (f : Nat) : (dropTx s f).pubs = s.pubs := rfl
@[simp] theorem dropTx_pub (f : Nat) (j : Nat) : (dropTx s f).pub j = s.pub j := rfl
@[simp] theorem dropTx_vers (f : Nat) : (dropTx s f).vers = s.vers := rfl
@[simp] theorem dropTx_ver (f : Nat) (j : Nat) : (dropTx s f).ver j = s.ver j := rfl
@[simp] theorem dropTx_v2 (f : Nat) : (dropTx s f).v2 = s.v2 := rfl
@[simp] theorem dropTx_bw (f : Nat) : (dropTx s f).bw = s.bw := rfl
@[simp] theorem dropTx_pebbles (f : Nat) : (dropTx s f).pebbles = s.pebbles := rfl
@[simp] theorem dropTx_mem (f : Nat) : (dropTx s f).mem = s.mem := rfl
@[simp] theorem dropTx_dram (f : Nat) : (dropTx s f).dram = s.dram := rfl
@[simp] theorem dropTx_eye (f : Nat) : (dropTx s f).eye = s.eye := rfl
@[simp] theorem dropTx_bus (f : Nat) : (dropTx s f).bus = s.bus := rfl
@[simp] theorem dropTx_out (f : Nat) : (dropTx s f).out = s.out := rfl

/-! ### dropRx -/

@[simp] theorem dropRx_pending (f : Nat) : (dropRx s f).pending = s.pending := rfl
@[simp] theorem dropRx_now (f : Nat) : (dropRx s f).now = s.now := rfl
@[simp] theorem dropRx_draws (f : Nat) : (dropRx s f).draws = s.draws := rfl
@[simp] theorem dropRx_mode (f : Nat) : (dropRx s f).mode = s.mode := rfl
@[simp] theorem dropRx_cause (f : Nat) : (dropRx s f).cause = s.cause := rfl
@[simp] theorem dropRx_fatal (f : Nat) : (dropRx s f).fatal = s.fatal := rfl
@[simp] theorem dropRx_assay (f : Nat) : (dropRx s f).assay = s.assay := rfl
@[simp] theorem dropRx_fuses (f : Nat) : (dropRx s f).fuses = s.fuses := rfl
@[simp] theorem dropRx_nv (f : Nat) : (dropRx s f).nv = s.nv := rfl
@[simp] theorem dropRx_active (f : Nat) : (dropRx s f).active = s.active := rfl
@[simp] theorem dropRx_img (f : Nat) : (dropRx s f).img = s.img := rfl
@[simp] theorem dropRx_bmr (f : Nat) : (dropRx s f).bmr = s.bmr := rfl
@[simp] theorem dropRx_ladder (f : Nat) : (dropRx s f).ladder = s.ladder := rfl
@[simp] theorem dropRx_tamperLatch (f : Nat) : (dropRx s f).tamperLatch = s.tamperLatch := rfl
@[simp] theorem dropRx_tamperLevel (f : Nat) : (dropRx s f).tamperLevel = s.tamperLevel := rfl
@[simp] theorem dropRx_retention (f : Nat) : (dropRx s f).retention = s.retention := rfl
@[simp] theorem dropRx_power (f : Nat) : (dropRx s f).power = s.power := rfl
@[simp] theorem dropRx_tcfg (f : Nat) : (dropRx s f).tcfg = s.tcfg := rfl
@[simp] theorem dropRx_ticks (f : Nat) : (dropRx s f).ticks = s.ticks := rfl
@[simp] theorem dropRx_plan (f : Nat) : (dropRx s f).plan = s.plan := rfl
@[simp] theorem dropRx_ovr (f : Nat) : (dropRx s f).ovr = s.ovr := rfl
@[simp] theorem dropRx_mail (f : Nat) : (dropRx s f).mail = s.mail := rfl
@[simp] theorem dropRx_mbox (f : Nat) (j : Nat) : (dropRx s f).mbox j = s.mbox j := rfl
@[simp] theorem dropRx_rotation (f : Nat) : (dropRx s f).rotation = s.rotation := rfl
@[simp] theorem dropRx_cmds (f : Nat) : (dropRx s f).cmds = s.cmds := rfl
@[simp] theorem dropRx_nextCmd (f : Nat) : (dropRx s f).nextCmd = s.nextCmd := rfl
@[simp] theorem dropRx_staged (f : Nat) : (dropRx s f).staged = s.staged := rfl
@[simp] theorem dropRx_streams (f : Nat) : (dropRx s f).streams = s.streams := rfl
@[simp] theorem dropRx_stream (f : Nat) (j : Nat) : (dropRx s f).stream j = s.stream j := rfl
@[simp] theorem dropRx_shots (f : Nat) : (dropRx s f).shots = s.shots := rfl
@[simp] theorem dropRx_aux (f : Nat) : (dropRx s f).aux = s.aux := rfl
@[simp] theorem dropRx_aux_ (f : Nat) (j : Nat) : (dropRx s f).aux_ j = s.aux_ j := rfl
@[simp] theorem dropRx_adm (f : Nat) : (dropRx s f).adm = s.adm := rfl
@[simp] theorem dropRx_demand (f : Nat) (j : Nat) : (dropRx s f).demand j = s.demand j := rfl
@[simp] theorem dropRx_grace (f : Nat) : (dropRx s f).grace = s.grace := rfl
@[simp] theorem dropRx_slots (f : Nat) : (dropRx s f).slots = s.slots := rfl
@[simp] theorem dropRx_slot (f : Nat) (j : Nat) : (dropRx s f).slot j = s.slot j := rfl
@[simp] theorem dropRx_keyCtl (f : Nat) : (dropRx s f).keyCtl = s.keyCtl := rfl
@[simp] theorem dropRx_ent (f : Nat) : (dropRx s f).ent = s.ent := rfl
@[simp] theorem dropRx_imports (f : Nat) : (dropRx s f).imports = s.imports := rfl
@[simp] theorem dropRx_rings (f : Nat) : (dropRx s f).rings = s.rings := rfl
@[simp] theorem dropRx_ring (f : Nat) (j : Nat) : (dropRx s f).ring j = s.ring j := rfl
@[simp] theorem dropRx_hostMem (f : Nat) : (dropRx s f).hostMem = s.hostMem := rfl
@[simp] theorem dropRx_jobs (f : Nat) : (dropRx s f).jobs = s.jobs := rfl
@[simp] theorem dropRx_tx (f : Nat) : (dropRx s f).tx = s.tx := rfl
@[simp] theorem dropRx_txFrame (f : Nat) (j : Nat) : (dropRx s f).txFrame j = s.txFrame j := rfl
@[simp] theorem dropRx_nextFrame (f : Nat) : (dropRx s f).nextFrame = s.nextFrame := rfl
@[simp] theorem dropRx_egSkip (f : Nat) : (dropRx s f).egSkip = s.egSkip := rfl
@[simp] theorem dropRx_eReady (f : Nat) : (dropRx s f).eReady = s.eReady := rfl
@[simp] theorem dropRx_classifying (f : Nat) : (dropRx s f).classifying = s.classifying := rfl
@[simp] theorem dropRx_ingress (f : Nat) : (dropRx s f).ingress = s.ingress := rfl
@[simp] theorem dropRx_ports (f : Nat) : (dropRx s f).ports = s.ports := rfl
@[simp] theorem dropRx_port (f : Nat) (j : Nat) : (dropRx s f).port j = s.port j := rfl
@[simp] theorem dropRx_pairs (f : Nat) : (dropRx s f).pairs = s.pairs := rfl
@[simp] theorem dropRx_pair (f : Nat) (j : Nat) : (dropRx s f).pair j = s.pair j := rfl
@[simp] theorem dropRx_noticeLog (f : Nat) : (dropRx s f).noticeLog = s.noticeLog := rfl
@[simp] theorem dropRx_gates (f : Nat) : (dropRx s f).gates = s.gates := rfl
@[simp] theorem dropRx_gate (f : Nat) (j : Nat) : (dropRx s f).gate j = s.gate j := rfl
@[simp] theorem dropRx_pubs (f : Nat) : (dropRx s f).pubs = s.pubs := rfl
@[simp] theorem dropRx_pub (f : Nat) (j : Nat) : (dropRx s f).pub j = s.pub j := rfl
@[simp] theorem dropRx_vers (f : Nat) : (dropRx s f).vers = s.vers := rfl
@[simp] theorem dropRx_ver (f : Nat) (j : Nat) : (dropRx s f).ver j = s.ver j := rfl
@[simp] theorem dropRx_v2 (f : Nat) : (dropRx s f).v2 = s.v2 := rfl
@[simp] theorem dropRx_bw (f : Nat) : (dropRx s f).bw = s.bw := rfl
@[simp] theorem dropRx_pebbles (f : Nat) : (dropRx s f).pebbles = s.pebbles := rfl
@[simp] theorem dropRx_mem (f : Nat) : (dropRx s f).mem = s.mem := rfl
@[simp] theorem dropRx_dram (f : Nat) : (dropRx s f).dram = s.dram := rfl
@[simp] theorem dropRx_eye (f : Nat) : (dropRx s f).eye = s.eye := rfl
@[simp] theorem dropRx_bus (f : Nat) : (dropRx s f).bus = s.bus := rfl
@[simp] theorem dropRx_out (f : Nat) : (dropRx s f).out = s.out := rfl

/-! ### atTime -/

@[simp] theorem atTime_pending (t : Nat) : (atTime s t).pending = s.pending := rfl
@[simp] theorem atTime_draws (t : Nat) : (atTime s t).draws = s.draws := rfl
@[simp] theorem atTime_mode (t : Nat) : (atTime s t).mode = s.mode := rfl
@[simp] theorem atTime_cause (t : Nat) : (atTime s t).cause = s.cause := rfl
@[simp] theorem atTime_fatal (t : Nat) : (atTime s t).fatal = s.fatal := rfl
@[simp] theorem atTime_assay (t : Nat) : (atTime s t).assay = s.assay := rfl
@[simp] theorem atTime_fuses (t : Nat) : (atTime s t).fuses = s.fuses := rfl
@[simp] theorem atTime_nv (t : Nat) : (atTime s t).nv = s.nv := rfl
@[simp] theorem atTime_active (t : Nat) : (atTime s t).active = s.active := rfl
@[simp] theorem atTime_img (t : Nat) : (atTime s t).img = s.img := rfl
@[simp] theorem atTime_bmr (t : Nat) : (atTime s t).bmr = s.bmr := rfl
@[simp] theorem atTime_ladder (t : Nat) : (atTime s t).ladder = s.ladder := rfl
@[simp] theorem atTime_tamperLatch (t : Nat) : (atTime s t).tamperLatch = s.tamperLatch := rfl
@[simp] theorem atTime_tamperLevel (t : Nat) : (atTime s t).tamperLevel = s.tamperLevel := rfl
@[simp] theorem atTime_retention (t : Nat) : (atTime s t).retention = s.retention := rfl
@[simp] theorem atTime_power (t : Nat) : (atTime s t).power = s.power := rfl
@[simp] theorem atTime_tcfg (t : Nat) : (atTime s t).tcfg = s.tcfg := rfl
@[simp] theorem atTime_ticks (t : Nat) : (atTime s t).ticks = s.ticks := rfl
@[simp] theorem atTime_plan (t : Nat) : (atTime s t).plan = s.plan := rfl
@[simp] theorem atTime_ovr (t : Nat) : (atTime s t).ovr = s.ovr := rfl
@[simp] theorem atTime_mail (t : Nat) : (atTime s t).mail = s.mail := rfl
@[simp] theorem atTime_mbox (t : Nat) (j : Nat) : (atTime s t).mbox j = s.mbox j := rfl
@[simp] theorem atTime_rotation (t : Nat) : (atTime s t).rotation = s.rotation := rfl
@[simp] theorem atTime_cmds (t : Nat) : (atTime s t).cmds = s.cmds := rfl
@[simp] theorem atTime_nextCmd (t : Nat) : (atTime s t).nextCmd = s.nextCmd := rfl
@[simp] theorem atTime_staged (t : Nat) : (atTime s t).staged = s.staged := rfl
@[simp] theorem atTime_streams (t : Nat) : (atTime s t).streams = s.streams := rfl
@[simp] theorem atTime_stream (t : Nat) (j : Nat) : (atTime s t).stream j = s.stream j := rfl
@[simp] theorem atTime_shots (t : Nat) : (atTime s t).shots = s.shots := rfl
@[simp] theorem atTime_aux (t : Nat) : (atTime s t).aux = s.aux := rfl
@[simp] theorem atTime_aux_ (t : Nat) (j : Nat) : (atTime s t).aux_ j = s.aux_ j := rfl
@[simp] theorem atTime_adm (t : Nat) : (atTime s t).adm = s.adm := rfl
@[simp] theorem atTime_demand (t : Nat) (j : Nat) : (atTime s t).demand j = s.demand j := rfl
@[simp] theorem atTime_grace (t : Nat) : (atTime s t).grace = s.grace := rfl
@[simp] theorem atTime_slots (t : Nat) : (atTime s t).slots = s.slots := rfl
@[simp] theorem atTime_slot (t : Nat) (j : Nat) : (atTime s t).slot j = s.slot j := rfl
@[simp] theorem atTime_keyCtl (t : Nat) : (atTime s t).keyCtl = s.keyCtl := rfl
@[simp] theorem atTime_ent (t : Nat) : (atTime s t).ent = s.ent := rfl
@[simp] theorem atTime_imports (t : Nat) : (atTime s t).imports = s.imports := rfl
@[simp] theorem atTime_rings (t : Nat) : (atTime s t).rings = s.rings := rfl
@[simp] theorem atTime_ring (t : Nat) (j : Nat) : (atTime s t).ring j = s.ring j := rfl
@[simp] theorem atTime_hostMem (t : Nat) : (atTime s t).hostMem = s.hostMem := rfl
@[simp] theorem atTime_jobs (t : Nat) : (atTime s t).jobs = s.jobs := rfl
@[simp] theorem atTime_tx (t : Nat) : (atTime s t).tx = s.tx := rfl
@[simp] theorem atTime_txFrame (t : Nat) (j : Nat) : (atTime s t).txFrame j = s.txFrame j := rfl
@[simp] theorem atTime_rx (t : Nat) : (atTime s t).rx = s.rx := rfl
@[simp] theorem atTime_rxFrame (t : Nat) (j : Nat) : (atTime s t).rxFrame j = s.rxFrame j := rfl
@[simp] theorem atTime_nextFrame (t : Nat) : (atTime s t).nextFrame = s.nextFrame := rfl
@[simp] theorem atTime_egSkip (t : Nat) : (atTime s t).egSkip = s.egSkip := rfl
@[simp] theorem atTime_eReady (t : Nat) : (atTime s t).eReady = s.eReady := rfl
@[simp] theorem atTime_classifying (t : Nat) : (atTime s t).classifying = s.classifying := rfl
@[simp] theorem atTime_ingress (t : Nat) : (atTime s t).ingress = s.ingress := rfl
@[simp] theorem atTime_ports (t : Nat) : (atTime s t).ports = s.ports := rfl
@[simp] theorem atTime_port (t : Nat) (j : Nat) : (atTime s t).port j = s.port j := rfl
@[simp] theorem atTime_pairs (t : Nat) : (atTime s t).pairs = s.pairs := rfl
@[simp] theorem atTime_pair (t : Nat) (j : Nat) : (atTime s t).pair j = s.pair j := rfl
@[simp] theorem atTime_noticeLog (t : Nat) : (atTime s t).noticeLog = s.noticeLog := rfl
@[simp] theorem atTime_gates (t : Nat) : (atTime s t).gates = s.gates := rfl
@[simp] theorem atTime_gate (t : Nat) (j : Nat) : (atTime s t).gate j = s.gate j := rfl
@[simp] theorem atTime_pubs (t : Nat) : (atTime s t).pubs = s.pubs := rfl
@[simp] theorem atTime_pub (t : Nat) (j : Nat) : (atTime s t).pub j = s.pub j := rfl
@[simp] theorem atTime_vers (t : Nat) : (atTime s t).vers = s.vers := rfl
@[simp] theorem atTime_ver (t : Nat) (j : Nat) : (atTime s t).ver j = s.ver j := rfl
@[simp] theorem atTime_v2 (t : Nat) : (atTime s t).v2 = s.v2 := rfl
@[simp] theorem atTime_bw (t : Nat) : (atTime s t).bw = s.bw := rfl
@[simp] theorem atTime_pebbles (t : Nat) : (atTime s t).pebbles = s.pebbles := rfl
@[simp] theorem atTime_mem (t : Nat) : (atTime s t).mem = s.mem := rfl
@[simp] theorem atTime_dram (t : Nat) : (atTime s t).dram = s.dram := rfl
@[simp] theorem atTime_eye (t : Nat) : (atTime s t).eye = s.eye := rfl
@[simp] theorem atTime_bus (t : Nat) : (atTime s t).bus = s.bus := rfl
@[simp] theorem atTime_out (t : Nat) : (atTime s t).out = s.out := rfl

/-! ### draw -/

@[simp] theorem draw_pending : (draw s).pending = s.pending := rfl
@[simp] theorem draw_now : (draw s).now = s.now := rfl
@[simp] theorem draw_mode : (draw s).mode = s.mode := rfl
@[simp] theorem draw_cause : (draw s).cause = s.cause := rfl
@[simp] theorem draw_fatal : (draw s).fatal = s.fatal := rfl
@[simp] theorem draw_assay : (draw s).assay = s.assay := rfl
@[simp] theorem draw_fuses : (draw s).fuses = s.fuses := rfl
@[simp] theorem draw_nv : (draw s).nv = s.nv := rfl
@[simp] theorem draw_active : (draw s).active = s.active := rfl
@[simp] theorem draw_img : (draw s).img = s.img := rfl
@[simp] theorem draw_bmr : (draw s).bmr = s.bmr := rfl
@[simp] theorem draw_ladder : (draw s).ladder = s.ladder := rfl
@[simp] theorem draw_tamperLatch : (draw s).tamperLatch = s.tamperLatch := rfl
@[simp] theorem draw_tamperLevel : (draw s).tamperLevel = s.tamperLevel := rfl
@[simp] theorem draw_retention : (draw s).retention = s.retention := rfl
@[simp] theorem draw_power : (draw s).power = s.power := rfl
@[simp] theorem draw_tcfg : (draw s).tcfg = s.tcfg := rfl
@[simp] theorem draw_ticks : (draw s).ticks = s.ticks := rfl
@[simp] theorem draw_plan : (draw s).plan = s.plan := rfl
@[simp] theorem draw_ovr : (draw s).ovr = s.ovr := rfl
@[simp] theorem draw_mail : (draw s).mail = s.mail := rfl
@[simp] theorem draw_mbox  (j : Nat) : (draw s).mbox j = s.mbox j := rfl
@[simp] theorem draw_rotation : (draw s).rotation = s.rotation := rfl
@[simp] theorem draw_cmds : (draw s).cmds = s.cmds := rfl
@[simp] theorem draw_nextCmd : (draw s).nextCmd = s.nextCmd := rfl
@[simp] theorem draw_staged : (draw s).staged = s.staged := rfl
@[simp] theorem draw_streams : (draw s).streams = s.streams := rfl
@[simp] theorem draw_stream  (j : Nat) : (draw s).stream j = s.stream j := rfl
@[simp] theorem draw_shots : (draw s).shots = s.shots := rfl
@[simp] theorem draw_aux : (draw s).aux = s.aux := rfl
@[simp] theorem draw_aux_  (j : Nat) : (draw s).aux_ j = s.aux_ j := rfl
@[simp] theorem draw_adm : (draw s).adm = s.adm := rfl
@[simp] theorem draw_demand  (j : Nat) : (draw s).demand j = s.demand j := rfl
@[simp] theorem draw_grace : (draw s).grace = s.grace := rfl
@[simp] theorem draw_slots : (draw s).slots = s.slots := rfl
@[simp] theorem draw_slot  (j : Nat) : (draw s).slot j = s.slot j := rfl
@[simp] theorem draw_keyCtl : (draw s).keyCtl = s.keyCtl := rfl
@[simp] theorem draw_ent : (draw s).ent = s.ent := rfl
@[simp] theorem draw_imports : (draw s).imports = s.imports := rfl
@[simp] theorem draw_rings : (draw s).rings = s.rings := rfl
@[simp] theorem draw_ring  (j : Nat) : (draw s).ring j = s.ring j := rfl
@[simp] theorem draw_hostMem : (draw s).hostMem = s.hostMem := rfl
@[simp] theorem draw_jobs : (draw s).jobs = s.jobs := rfl
@[simp] theorem draw_tx : (draw s).tx = s.tx := rfl
@[simp] theorem draw_txFrame  (j : Nat) : (draw s).txFrame j = s.txFrame j := rfl
@[simp] theorem draw_rx : (draw s).rx = s.rx := rfl
@[simp] theorem draw_rxFrame  (j : Nat) : (draw s).rxFrame j = s.rxFrame j := rfl
@[simp] theorem draw_nextFrame : (draw s).nextFrame = s.nextFrame := rfl
@[simp] theorem draw_egSkip : (draw s).egSkip = s.egSkip := rfl
@[simp] theorem draw_eReady : (draw s).eReady = s.eReady := rfl
@[simp] theorem draw_classifying : (draw s).classifying = s.classifying := rfl
@[simp] theorem draw_ingress : (draw s).ingress = s.ingress := rfl
@[simp] theorem draw_ports : (draw s).ports = s.ports := rfl
@[simp] theorem draw_port  (j : Nat) : (draw s).port j = s.port j := rfl
@[simp] theorem draw_pairs : (draw s).pairs = s.pairs := rfl
@[simp] theorem draw_pair  (j : Nat) : (draw s).pair j = s.pair j := rfl
@[simp] theorem draw_noticeLog : (draw s).noticeLog = s.noticeLog := rfl
@[simp] theorem draw_gates : (draw s).gates = s.gates := rfl
@[simp] theorem draw_gate  (j : Nat) : (draw s).gate j = s.gate j := rfl
@[simp] theorem draw_pubs : (draw s).pubs = s.pubs := rfl
@[simp] theorem draw_pub  (j : Nat) : (draw s).pub j = s.pub j := rfl
@[simp] theorem draw_vers : (draw s).vers = s.vers := rfl
@[simp] theorem draw_ver  (j : Nat) : (draw s).ver j = s.ver j := rfl
@[simp] theorem draw_v2 : (draw s).v2 = s.v2 := rfl
@[simp] theorem draw_bw : (draw s).bw = s.bw := rfl
@[simp] theorem draw_pebbles : (draw s).pebbles = s.pebbles := rfl
@[simp] theorem draw_mem : (draw s).mem = s.mem := rfl
@[simp] theorem draw_dram : (draw s).dram = s.dram := rfl
@[simp] theorem draw_eye : (draw s).eye = s.eye := rfl
@[simp] theorem draw_bus : (draw s).bus = s.bus := rfl
@[simp] theorem draw_out : (draw s).out = s.out := rfl

/-! ### onEye -/

@[simp] theorem onEye_pending (f : Eye → Eye) : (onEye s f).pending = s.pending := rfl
@[simp] theorem onEye_now (f : Eye → Eye) : (onEye s f).now = s.now := rfl
@[simp] theorem onEye_draws (f : Eye → Eye) : (onEye s f).draws = s.draws := rfl
@[simp] theorem onEye_mode (f : Eye → Eye) : (onEye s f).mode = s.mode := rfl
@[simp] theorem onEye_cause (f : Eye → Eye) : (onEye s f).cause = s.cause := rfl
@[simp] theorem onEye_fatal (f : Eye → Eye) : (onEye s f).fatal = s.fatal := rfl
@[simp] theorem onEye_assay (f : Eye → Eye) : (onEye s f).assay = s.assay := rfl
@[simp] theorem onEye_fuses (f : Eye → Eye) : (onEye s f).fuses = s.fuses := rfl
@[simp] theorem onEye_nv (f : Eye → Eye) : (onEye s f).nv = s.nv := rfl
@[simp] theorem onEye_active (f : Eye → Eye) : (onEye s f).active = s.active := rfl
@[simp] theorem onEye_img (f : Eye → Eye) : (onEye s f).img = s.img := rfl
@[simp] theorem onEye_bmr (f : Eye → Eye) : (onEye s f).bmr = s.bmr := rfl
@[simp] theorem onEye_ladder (f : Eye → Eye) : (onEye s f).ladder = s.ladder := rfl
@[simp] theorem onEye_tamperLatch (f : Eye → Eye) : (onEye s f).tamperLatch = s.tamperLatch := rfl
@[simp] theorem onEye_tamperLevel (f : Eye → Eye) : (onEye s f).tamperLevel = s.tamperLevel := rfl
@[simp] theorem onEye_retention (f : Eye → Eye) : (onEye s f).retention = s.retention := rfl
@[simp] theorem onEye_power (f : Eye → Eye) : (onEye s f).power = s.power := rfl
@[simp] theorem onEye_tcfg (f : Eye → Eye) : (onEye s f).tcfg = s.tcfg := rfl
@[simp] theorem onEye_ticks (f : Eye → Eye) : (onEye s f).ticks = s.ticks := rfl
@[simp] theorem onEye_plan (f : Eye → Eye) : (onEye s f).plan = s.plan := rfl
@[simp] theorem onEye_ovr (f : Eye → Eye) : (onEye s f).ovr = s.ovr := rfl
@[simp] theorem onEye_mail (f : Eye → Eye) : (onEye s f).mail = s.mail := rfl
@[simp] theorem onEye_mbox (f : Eye → Eye) (j : Nat) : (onEye s f).mbox j = s.mbox j := rfl
@[simp] theorem onEye_rotation (f : Eye → Eye) : (onEye s f).rotation = s.rotation := rfl
@[simp] theorem onEye_cmds (f : Eye → Eye) : (onEye s f).cmds = s.cmds := rfl
@[simp] theorem onEye_nextCmd (f : Eye → Eye) : (onEye s f).nextCmd = s.nextCmd := rfl
@[simp] theorem onEye_staged (f : Eye → Eye) : (onEye s f).staged = s.staged := rfl
@[simp] theorem onEye_streams (f : Eye → Eye) : (onEye s f).streams = s.streams := rfl
@[simp] theorem onEye_stream (f : Eye → Eye) (j : Nat) : (onEye s f).stream j = s.stream j := rfl
@[simp] theorem onEye_shots (f : Eye → Eye) : (onEye s f).shots = s.shots := rfl
@[simp] theorem onEye_aux (f : Eye → Eye) : (onEye s f).aux = s.aux := rfl
@[simp] theorem onEye_aux_ (f : Eye → Eye) (j : Nat) : (onEye s f).aux_ j = s.aux_ j := rfl
@[simp] theorem onEye_adm (f : Eye → Eye) : (onEye s f).adm = s.adm := rfl
@[simp] theorem onEye_demand (f : Eye → Eye) (j : Nat) : (onEye s f).demand j = s.demand j := rfl
@[simp] theorem onEye_grace (f : Eye → Eye) : (onEye s f).grace = s.grace := rfl
@[simp] theorem onEye_slots (f : Eye → Eye) : (onEye s f).slots = s.slots := rfl
@[simp] theorem onEye_slot (f : Eye → Eye) (j : Nat) : (onEye s f).slot j = s.slot j := rfl
@[simp] theorem onEye_keyCtl (f : Eye → Eye) : (onEye s f).keyCtl = s.keyCtl := rfl
@[simp] theorem onEye_ent (f : Eye → Eye) : (onEye s f).ent = s.ent := rfl
@[simp] theorem onEye_imports (f : Eye → Eye) : (onEye s f).imports = s.imports := rfl
@[simp] theorem onEye_rings (f : Eye → Eye) : (onEye s f).rings = s.rings := rfl
@[simp] theorem onEye_ring (f : Eye → Eye) (j : Nat) : (onEye s f).ring j = s.ring j := rfl
@[simp] theorem onEye_hostMem (f : Eye → Eye) : (onEye s f).hostMem = s.hostMem := rfl
@[simp] theorem onEye_jobs (f : Eye → Eye) : (onEye s f).jobs = s.jobs := rfl
@[simp] theorem onEye_tx (f : Eye → Eye) : (onEye s f).tx = s.tx := rfl
@[simp] theorem onEye_txFrame (f : Eye → Eye) (j : Nat) : (onEye s f).txFrame j = s.txFrame j := rfl
@[simp] theorem onEye_rx (f : Eye → Eye) : (onEye s f).rx = s.rx := rfl
@[simp] theorem onEye_rxFrame (f : Eye → Eye) (j : Nat) : (onEye s f).rxFrame j = s.rxFrame j := rfl
@[simp] theorem onEye_nextFrame (f : Eye → Eye) : (onEye s f).nextFrame = s.nextFrame := rfl
@[simp] theorem onEye_egSkip (f : Eye → Eye) : (onEye s f).egSkip = s.egSkip := rfl
@[simp] theorem onEye_eReady (f : Eye → Eye) : (onEye s f).eReady = s.eReady := rfl
@[simp] theorem onEye_classifying (f : Eye → Eye) : (onEye s f).classifying = s.classifying := rfl
@[simp] theorem onEye_ingress (f : Eye → Eye) : (onEye s f).ingress = s.ingress := rfl
@[simp] theorem onEye_ports (f : Eye → Eye) : (onEye s f).ports = s.ports := rfl
@[simp] theorem onEye_port (f : Eye → Eye) (j : Nat) : (onEye s f).port j = s.port j := rfl
@[simp] theorem onEye_pairs (f : Eye → Eye) : (onEye s f).pairs = s.pairs := rfl
@[simp] theorem onEye_pair (f : Eye → Eye) (j : Nat) : (onEye s f).pair j = s.pair j := rfl
@[simp] theorem onEye_noticeLog (f : Eye → Eye) : (onEye s f).noticeLog = s.noticeLog := rfl
@[simp] theorem onEye_gates (f : Eye → Eye) : (onEye s f).gates = s.gates := rfl
@[simp] theorem onEye_gate (f : Eye → Eye) (j : Nat) : (onEye s f).gate j = s.gate j := rfl
@[simp] theorem onEye_pubs (f : Eye → Eye) : (onEye s f).pubs = s.pubs := rfl
@[simp] theorem onEye_pub (f : Eye → Eye) (j : Nat) : (onEye s f).pub j = s.pub j := rfl
@[simp] theorem onEye_vers (f : Eye → Eye) : (onEye s f).vers = s.vers := rfl
@[simp] theorem onEye_ver (f : Eye → Eye) (j : Nat) : (onEye s f).ver j = s.ver j := rfl
@[simp] theorem onEye_v2 (f : Eye → Eye) : (onEye s f).v2 = s.v2 := rfl
@[simp] theorem onEye_bw (f : Eye → Eye) : (onEye s f).bw = s.bw := rfl
@[simp] theorem onEye_pebbles (f : Eye → Eye) : (onEye s f).pebbles = s.pebbles := rfl
@[simp] theorem onEye_mem (f : Eye → Eye) : (onEye s f).mem = s.mem := rfl
@[simp] theorem onEye_dram (f : Eye → Eye) : (onEye s f).dram = s.dram := rfl
@[simp] theorem onEye_bus (f : Eye → Eye) : (onEye s f).bus = s.bus := rfl
@[simp] theorem onEye_out (f : Eye → Eye) : (onEye s f).out = s.out := rfl

/-! ### post -/

@[simp] theorem post_pending (n : Nat) : (post s n).pending = s.pending := rfl
@[simp] theorem post_now (n : Nat) : (post s n).now = s.now := rfl
@[simp] theorem post_draws (n : Nat) : (post s n).draws = s.draws := rfl
@[simp] theorem post_mode (n : Nat) : (post s n).mode = s.mode := rfl
@[simp] theorem post_cause (n : Nat) : (post s n).cause = s.cause := rfl
@[simp] theorem post_fatal (n : Nat) : (post s n).fatal = s.fatal := rfl
@[simp] theorem post_assay (n : Nat) : (post s n).assay = s.assay := rfl
@[simp] theorem post_fuses (n : Nat) : (post s n).fuses = s.fuses := rfl
@[simp] theorem post_nv (n : Nat) : (post s n).nv = s.nv := rfl
@[simp] theorem post_active (n : Nat) : (post s n).active = s.active := rfl
@[simp] theorem post_img (n : Nat) : (post s n).img = s.img := rfl
@[simp] theorem post_bmr (n : Nat) : (post s n).bmr = s.bmr := rfl
@[simp] theorem post_ladder (n : Nat) : (post s n).ladder = s.ladder := rfl
@[simp] theorem post_tamperLatch (n : Nat) : (post s n).tamperLatch = s.tamperLatch := rfl
@[simp] theorem post_tamperLevel (n : Nat) : (post s n).tamperLevel = s.tamperLevel := rfl
@[simp] theorem post_retention (n : Nat) : (post s n).retention = s.retention := rfl
@[simp] theorem post_power (n : Nat) : (post s n).power = s.power := rfl
@[simp] theorem post_tcfg (n : Nat) : (post s n).tcfg = s.tcfg := rfl
@[simp] theorem post_ticks (n : Nat) : (post s n).ticks = s.ticks := rfl
@[simp] theorem post_plan (n : Nat) : (post s n).plan = s.plan := rfl
@[simp] theorem post_ovr (n : Nat) : (post s n).ovr = s.ovr := rfl
@[simp] theorem post_mail (n : Nat) : (post s n).mail = s.mail := rfl
@[simp] theorem post_mbox (n : Nat) (j : Nat) : (post s n).mbox j = s.mbox j := rfl
@[simp] theorem post_rotation (n : Nat) : (post s n).rotation = s.rotation := rfl
@[simp] theorem post_cmds (n : Nat) : (post s n).cmds = s.cmds := rfl
@[simp] theorem post_nextCmd (n : Nat) : (post s n).nextCmd = s.nextCmd := rfl
@[simp] theorem post_staged (n : Nat) : (post s n).staged = s.staged := rfl
@[simp] theorem post_streams (n : Nat) : (post s n).streams = s.streams := rfl
@[simp] theorem post_stream (n : Nat) (j : Nat) : (post s n).stream j = s.stream j := rfl
@[simp] theorem post_shots (n : Nat) : (post s n).shots = s.shots := rfl
@[simp] theorem post_aux (n : Nat) : (post s n).aux = s.aux := rfl
@[simp] theorem post_aux_ (n : Nat) (j : Nat) : (post s n).aux_ j = s.aux_ j := rfl
@[simp] theorem post_adm (n : Nat) : (post s n).adm = s.adm := rfl
@[simp] theorem post_demand (n : Nat) (j : Nat) : (post s n).demand j = s.demand j := rfl
@[simp] theorem post_grace (n : Nat) : (post s n).grace = s.grace := rfl
@[simp] theorem post_slots (n : Nat) : (post s n).slots = s.slots := rfl
@[simp] theorem post_slot (n : Nat) (j : Nat) : (post s n).slot j = s.slot j := rfl
@[simp] theorem post_keyCtl (n : Nat) : (post s n).keyCtl = s.keyCtl := rfl
@[simp] theorem post_ent (n : Nat) : (post s n).ent = s.ent := rfl
@[simp] theorem post_imports (n : Nat) : (post s n).imports = s.imports := rfl
@[simp] theorem post_rings (n : Nat) : (post s n).rings = s.rings := rfl
@[simp] theorem post_ring (n : Nat) (j : Nat) : (post s n).ring j = s.ring j := rfl
@[simp] theorem post_hostMem (n : Nat) : (post s n).hostMem = s.hostMem := rfl
@[simp] theorem post_jobs (n : Nat) : (post s n).jobs = s.jobs := rfl
@[simp] theorem post_tx (n : Nat) : (post s n).tx = s.tx := rfl
@[simp] theorem post_txFrame (n : Nat) (j : Nat) : (post s n).txFrame j = s.txFrame j := rfl
@[simp] theorem post_rx (n : Nat) : (post s n).rx = s.rx := rfl
@[simp] theorem post_rxFrame (n : Nat) (j : Nat) : (post s n).rxFrame j = s.rxFrame j := rfl
@[simp] theorem post_nextFrame (n : Nat) : (post s n).nextFrame = s.nextFrame := rfl
@[simp] theorem post_egSkip (n : Nat) : (post s n).egSkip = s.egSkip := rfl
@[simp] theorem post_eReady (n : Nat) : (post s n).eReady = s.eReady := rfl
@[simp] theorem post_classifying (n : Nat) : (post s n).classifying = s.classifying := rfl
@[simp] theorem post_ingress (n : Nat) : (post s n).ingress = s.ingress := rfl
@[simp] theorem post_ports (n : Nat) : (post s n).ports = s.ports := rfl
@[simp] theorem post_port (n : Nat) (j : Nat) : (post s n).port j = s.port j := rfl
@[simp] theorem post_pairs (n : Nat) : (post s n).pairs = s.pairs := rfl
@[simp] theorem post_pair (n : Nat) (j : Nat) : (post s n).pair j = s.pair j := rfl
@[simp] theorem post_noticeLog (n : Nat) : (post s n).noticeLog = s.noticeLog := rfl
@[simp] theorem post_gates (n : Nat) : (post s n).gates = s.gates := rfl
@[simp] theorem post_gate (n : Nat) (j : Nat) : (post s n).gate j = s.gate j := rfl
@[simp] theorem post_pubs (n : Nat) : (post s n).pubs = s.pubs := rfl
@[simp] theorem post_pub (n : Nat) (j : Nat) : (post s n).pub j = s.pub j := rfl
@[simp] theorem post_vers (n : Nat) : (post s n).vers = s.vers := rfl
@[simp] theorem post_ver (n : Nat) (j : Nat) : (post s n).ver j = s.ver j := rfl
@[simp] theorem post_v2 (n : Nat) : (post s n).v2 = s.v2 := rfl
@[simp] theorem post_bw (n : Nat) : (post s n).bw = s.bw := rfl
@[simp] theorem post_pebbles (n : Nat) : (post s n).pebbles = s.pebbles := rfl
@[simp] theorem post_mem (n : Nat) : (post s n).mem = s.mem := rfl
@[simp] theorem post_dram (n : Nat) : (post s n).dram = s.dram := rfl
@[simp] theorem post_bus (n : Nat) : (post s n).bus = s.bus := rfl
@[simp] theorem post_out (n : Nat) : (post s n).out = s.out := rfl

/-! ### count -/

@[simp] theorem count_pending (i h d k : Nat) : (count s i h d k).pending = s.pending := rfl
@[simp] theorem count_now (i h d k : Nat) : (count s i h d k).now = s.now := rfl
@[simp] theorem count_draws (i h d k : Nat) : (count s i h d k).draws = s.draws := rfl
@[simp] theorem count_mode (i h d k : Nat) : (count s i h d k).mode = s.mode := rfl
@[simp] theorem count_cause (i h d k : Nat) : (count s i h d k).cause = s.cause := rfl
@[simp] theorem count_fatal (i h d k : Nat) : (count s i h d k).fatal = s.fatal := rfl
@[simp] theorem count_assay (i h d k : Nat) : (count s i h d k).assay = s.assay := rfl
@[simp] theorem count_fuses (i h d k : Nat) : (count s i h d k).fuses = s.fuses := rfl
@[simp] theorem count_nv (i h d k : Nat) : (count s i h d k).nv = s.nv := rfl
@[simp] theorem count_active (i h d k : Nat) : (count s i h d k).active = s.active := rfl
@[simp] theorem count_img (i h d k : Nat) : (count s i h d k).img = s.img := rfl
@[simp] theorem count_bmr (i h d k : Nat) : (count s i h d k).bmr = s.bmr := rfl
@[simp] theorem count_ladder (i h d k : Nat) : (count s i h d k).ladder = s.ladder := rfl
@[simp] theorem count_tamperLatch (i h d k : Nat) : (count s i h d k).tamperLatch = s.tamperLatch := rfl
@[simp] theorem count_tamperLevel (i h d k : Nat) : (count s i h d k).tamperLevel = s.tamperLevel := rfl
@[simp] theorem count_retention (i h d k : Nat) : (count s i h d k).retention = s.retention := rfl
@[simp] theorem count_power (i h d k : Nat) : (count s i h d k).power = s.power := rfl
@[simp] theorem count_tcfg (i h d k : Nat) : (count s i h d k).tcfg = s.tcfg := rfl
@[simp] theorem count_ticks (i h d k : Nat) : (count s i h d k).ticks = s.ticks := rfl
@[simp] theorem count_plan (i h d k : Nat) : (count s i h d k).plan = s.plan := rfl
@[simp] theorem count_ovr (i h d k : Nat) : (count s i h d k).ovr = s.ovr := rfl
@[simp] theorem count_mail (i h d k : Nat) : (count s i h d k).mail = s.mail := rfl
@[simp] theorem count_mbox (i h d k : Nat) (j : Nat) : (count s i h d k).mbox j = s.mbox j := rfl
@[simp] theorem count_rotation (i h d k : Nat) : (count s i h d k).rotation = s.rotation := rfl
@[simp] theorem count_cmds (i h d k : Nat) : (count s i h d k).cmds = s.cmds := rfl
@[simp] theorem count_nextCmd (i h d k : Nat) : (count s i h d k).nextCmd = s.nextCmd := rfl
@[simp] theorem count_staged (i h d k : Nat) : (count s i h d k).staged = s.staged := rfl
@[simp] theorem count_streams (i h d k : Nat) : (count s i h d k).streams = s.streams := rfl
@[simp] theorem count_stream (i h d k : Nat) (j : Nat) : (count s i h d k).stream j = s.stream j := rfl
@[simp] theorem count_shots (i h d k : Nat) : (count s i h d k).shots = s.shots := rfl
@[simp] theorem count_aux (i h d k : Nat) : (count s i h d k).aux = s.aux := rfl
@[simp] theorem count_aux_ (i h d k : Nat) (j : Nat) : (count s i h d k).aux_ j = s.aux_ j := rfl
@[simp] theorem count_adm (i h d k : Nat) : (count s i h d k).adm = s.adm := rfl
@[simp] theorem count_demand (i h d k : Nat) (j : Nat) : (count s i h d k).demand j = s.demand j := rfl
@[simp] theorem count_grace (i h d k : Nat) : (count s i h d k).grace = s.grace := rfl
@[simp] theorem count_slots (i h d k : Nat) : (count s i h d k).slots = s.slots := rfl
@[simp] theorem count_slot (i h d k : Nat) (j : Nat) : (count s i h d k).slot j = s.slot j := rfl
@[simp] theorem count_keyCtl (i h d k : Nat) : (count s i h d k).keyCtl = s.keyCtl := rfl
@[simp] theorem count_ent (i h d k : Nat) : (count s i h d k).ent = s.ent := rfl
@[simp] theorem count_imports (i h d k : Nat) : (count s i h d k).imports = s.imports := rfl
@[simp] theorem count_rings (i h d k : Nat) : (count s i h d k).rings = s.rings := rfl
@[simp] theorem count_ring (i h d k : Nat) (j : Nat) : (count s i h d k).ring j = s.ring j := rfl
@[simp] theorem count_hostMem (i h d k : Nat) : (count s i h d k).hostMem = s.hostMem := rfl
@[simp] theorem count_jobs (i h d k : Nat) : (count s i h d k).jobs = s.jobs := rfl
@[simp] theorem count_tx (i h d k : Nat) : (count s i h d k).tx = s.tx := rfl
@[simp] theorem count_txFrame (i h d k : Nat) (j : Nat) : (count s i h d k).txFrame j = s.txFrame j := rfl
@[simp] theorem count_rx (i h d k : Nat) : (count s i h d k).rx = s.rx := rfl
@[simp] theorem count_rxFrame (i h d k : Nat) (j : Nat) : (count s i h d k).rxFrame j = s.rxFrame j := rfl
@[simp] theorem count_nextFrame (i h d k : Nat) : (count s i h d k).nextFrame = s.nextFrame := rfl
@[simp] theorem count_egSkip (i h d k : Nat) : (count s i h d k).egSkip = s.egSkip := rfl
@[simp] theorem count_eReady (i h d k : Nat) : (count s i h d k).eReady = s.eReady := rfl
@[simp] theorem count_classifying (i h d k : Nat) : (count s i h d k).classifying = s.classifying := rfl
@[simp] theorem count_ingress (i h d k : Nat) : (count s i h d k).ingress = s.ingress := rfl
@[simp] theorem count_ports (i h d k : Nat) : (count s i h d k).ports = s.ports := rfl
@[simp] theorem count_port (i h d k : Nat) (j : Nat) : (count s i h d k).port j = s.port j := rfl
@[simp] theorem count_pairs (i h d k : Nat) : (count s i h d k).pairs = s.pairs := rfl
@[simp] theorem count_pair (i h d k : Nat) (j : Nat) : (count s i h d k).pair j = s.pair j := rfl
@[simp] theorem count_noticeLog (i h d k : Nat) : (count s i h d k).noticeLog = s.noticeLog := rfl
@[simp] theorem count_gates (i h d k : Nat) : (count s i h d k).gates = s.gates := rfl
@[simp] theorem count_gate (i h d k : Nat) (j : Nat) : (count s i h d k).gate j = s.gate j := rfl
@[simp] theorem count_pubs (i h d k : Nat) : (count s i h d k).pubs = s.pubs := rfl
@[simp] theorem count_pub (i h d k : Nat) (j : Nat) : (count s i h d k).pub j = s.pub j := rfl
@[simp] theorem count_vers (i h d k : Nat) : (count s i h d k).vers = s.vers := rfl
@[simp] theorem count_ver (i h d k : Nat) (j : Nat) : (count s i h d k).ver j = s.ver j := rfl
@[simp] theorem count_v2 (i h d k : Nat) : (count s i h d k).v2 = s.v2 := rfl
@[simp] theorem count_bw (i h d k : Nat) : (count s i h d k).bw = s.bw := rfl
@[simp] theorem count_pebbles (i h d k : Nat) : (count s i h d k).pebbles = s.pebbles := rfl
@[simp] theorem count_mem (i h d k : Nat) : (count s i h d k).mem = s.mem := rfl
@[simp] theorem count_dram (i h d k : Nat) : (count s i h d k).dram = s.dram := rfl
@[simp] theorem count_bus (i h d k : Nat) : (count s i h d k).bus = s.bus := rfl
@[simp] theorem count_out (i h d k : Nat) : (count s i h d k).out = s.out := rfl

/-! ### worked -/

@[simp] theorem worked_pending (u : Nat) : (worked s u).pending = s.pending := rfl
@[simp] theorem worked_now (u : Nat) : (worked s u).now = s.now := rfl
@[simp] theorem worked_draws (u : Nat) : (worked s u).draws = s.draws := rfl
@[simp] theorem worked_mode (u : Nat) : (worked s u).mode = s.mode := rfl
@[simp] theorem worked_cause (u : Nat) : (worked s u).cause = s.cause := rfl
@[simp] theorem worked_fatal (u : Nat) : (worked s u).fatal = s.fatal := rfl
@[simp] theorem worked_assay (u : Nat) : (worked s u).assay = s.assay := rfl
@[simp] theorem worked_fuses (u : Nat) : (worked s u).fuses = s.fuses := rfl
@[simp] theorem worked_nv (u : Nat) : (worked s u).nv = s.nv := rfl
@[simp] theorem worked_active (u : Nat) : (worked s u).active = s.active := rfl
@[simp] theorem worked_img (u : Nat) : (worked s u).img = s.img := rfl
@[simp] theorem worked_bmr (u : Nat) : (worked s u).bmr = s.bmr := rfl
@[simp] theorem worked_ladder (u : Nat) : (worked s u).ladder = s.ladder := rfl
@[simp] theorem worked_tamperLatch (u : Nat) : (worked s u).tamperLatch = s.tamperLatch := rfl
@[simp] theorem worked_tamperLevel (u : Nat) : (worked s u).tamperLevel = s.tamperLevel := rfl
@[simp] theorem worked_retention (u : Nat) : (worked s u).retention = s.retention := rfl
@[simp] theorem worked_tcfg (u : Nat) : (worked s u).tcfg = s.tcfg := rfl
@[simp] theorem worked_ticks (u : Nat) : (worked s u).ticks = s.ticks := rfl
@[simp] theorem worked_plan (u : Nat) : (worked s u).plan = s.plan := rfl
@[simp] theorem worked_ovr (u : Nat) : (worked s u).ovr = s.ovr := rfl
@[simp] theorem worked_mail (u : Nat) : (worked s u).mail = s.mail := rfl
@[simp] theorem worked_mbox (u : Nat) (j : Nat) : (worked s u).mbox j = s.mbox j := rfl
@[simp] theorem worked_rotation (u : Nat) : (worked s u).rotation = s.rotation := rfl
@[simp] theorem worked_cmds (u : Nat) : (worked s u).cmds = s.cmds := rfl
@[simp] theorem worked_nextCmd (u : Nat) : (worked s u).nextCmd = s.nextCmd := rfl
@[simp] theorem worked_staged (u : Nat) : (worked s u).staged = s.staged := rfl
@[simp] theorem worked_streams (u : Nat) : (worked s u).streams = s.streams := rfl
@[simp] theorem worked_stream (u : Nat) (j : Nat) : (worked s u).stream j = s.stream j := rfl
@[simp] theorem worked_shots (u : Nat) : (worked s u).shots = s.shots := rfl
@[simp] theorem worked_aux (u : Nat) : (worked s u).aux = s.aux := rfl
@[simp] theorem worked_aux_ (u : Nat) (j : Nat) : (worked s u).aux_ j = s.aux_ j := rfl
@[simp] theorem worked_adm (u : Nat) : (worked s u).adm = s.adm := rfl
@[simp] theorem worked_demand (u : Nat) (j : Nat) : (worked s u).demand j = s.demand j := rfl
@[simp] theorem worked_grace (u : Nat) : (worked s u).grace = s.grace := rfl
@[simp] theorem worked_slots (u : Nat) : (worked s u).slots = s.slots := rfl
@[simp] theorem worked_slot (u : Nat) (j : Nat) : (worked s u).slot j = s.slot j := rfl
@[simp] theorem worked_keyCtl (u : Nat) : (worked s u).keyCtl = s.keyCtl := rfl
@[simp] theorem worked_ent (u : Nat) : (worked s u).ent = s.ent := rfl
@[simp] theorem worked_imports (u : Nat) : (worked s u).imports = s.imports := rfl
@[simp] theorem worked_rings (u : Nat) : (worked s u).rings = s.rings := rfl
@[simp] theorem worked_ring (u : Nat) (j : Nat) : (worked s u).ring j = s.ring j := rfl
@[simp] theorem worked_hostMem (u : Nat) : (worked s u).hostMem = s.hostMem := rfl
@[simp] theorem worked_jobs (u : Nat) : (worked s u).jobs = s.jobs := rfl
@[simp] theorem worked_tx (u : Nat) : (worked s u).tx = s.tx := rfl
@[simp] theorem worked_txFrame (u : Nat) (j : Nat) : (worked s u).txFrame j = s.txFrame j := rfl
@[simp] theorem worked_rx (u : Nat) : (worked s u).rx = s.rx := rfl
@[simp] theorem worked_rxFrame (u : Nat) (j : Nat) : (worked s u).rxFrame j = s.rxFrame j := rfl
@[simp] theorem worked_nextFrame (u : Nat) : (worked s u).nextFrame = s.nextFrame := rfl
@[simp] theorem worked_egSkip (u : Nat) : (worked s u).egSkip = s.egSkip := rfl
@[simp] theorem worked_eReady (u : Nat) : (worked s u).eReady = s.eReady := rfl
@[simp] theorem worked_classifying (u : Nat) : (worked s u).classifying = s.classifying := rfl
@[simp] theorem worked_ingress (u : Nat) : (worked s u).ingress = s.ingress := rfl
@[simp] theorem worked_ports (u : Nat) : (worked s u).ports = s.ports := rfl
@[simp] theorem worked_port (u : Nat) (j : Nat) : (worked s u).port j = s.port j := rfl
@[simp] theorem worked_pairs (u : Nat) : (worked s u).pairs = s.pairs := rfl
@[simp] theorem worked_pair (u : Nat) (j : Nat) : (worked s u).pair j = s.pair j := rfl
@[simp] theorem worked_noticeLog (u : Nat) : (worked s u).noticeLog = s.noticeLog := rfl
@[simp] theorem worked_gates (u : Nat) : (worked s u).gates = s.gates := rfl
@[simp] theorem worked_gate (u : Nat) (j : Nat) : (worked s u).gate j = s.gate j := rfl
@[simp] theorem worked_pubs (u : Nat) : (worked s u).pubs = s.pubs := rfl
@[simp] theorem worked_pub (u : Nat) (j : Nat) : (worked s u).pub j = s.pub j := rfl
@[simp] theorem worked_vers (u : Nat) : (worked s u).vers = s.vers := rfl
@[simp] theorem worked_ver (u : Nat) (j : Nat) : (worked s u).ver j = s.ver j := rfl
@[simp] theorem worked_v2 (u : Nat) : (worked s u).v2 = s.v2 := rfl
@[simp] theorem worked_bw (u : Nat) : (worked s u).bw = s.bw := rfl
@[simp] theorem worked_pebbles (u : Nat) : (worked s u).pebbles = s.pebbles := rfl
@[simp] theorem worked_mem (u : Nat) : (worked s u).mem = s.mem := rfl
@[simp] theorem worked_dram (u : Nat) : (worked s u).dram = s.dram := rfl
@[simp] theorem worked_eye (u : Nat) : (worked s u).eye = s.eye := rfl
@[simp] theorem worked_bus (u : Nat) : (worked s u).bus = s.bus := rfl
@[simp] theorem worked_out (u : Nat) : (worked s u).out = s.out := rfl

/-! ### postIf -/

@[simp] theorem postIf_pending (b : Bool) (n : Nat) : (postIf s b n).pending = s.pending := by cases b <;> rfl
@[simp] theorem postIf_now (b : Bool) (n : Nat) : (postIf s b n).now = s.now := by cases b <;> rfl
@[simp] theorem postIf_draws (b : Bool) (n : Nat) : (postIf s b n).draws = s.draws := by cases b <;> rfl
@[simp] theorem postIf_mode (b : Bool) (n : Nat) : (postIf s b n).mode = s.mode := by cases b <;> rfl
@[simp] theorem postIf_cause (b : Bool) (n : Nat) : (postIf s b n).cause = s.cause := by cases b <;> rfl
@[simp] theorem postIf_fatal (b : Bool) (n : Nat) : (postIf s b n).fatal = s.fatal := by cases b <;> rfl
@[simp] theorem postIf_assay (b : Bool) (n : Nat) : (postIf s b n).assay = s.assay := by cases b <;> rfl
@[simp] theorem postIf_fuses (b : Bool) (n : Nat) : (postIf s b n).fuses = s.fuses := by cases b <;> rfl
@[simp] theorem postIf_nv (b : Bool) (n : Nat) : (postIf s b n).nv = s.nv := by cases b <;> rfl
@[simp] theorem postIf_active (b : Bool) (n : Nat) : (postIf s b n).active = s.active := by cases b <;> rfl
@[simp] theorem postIf_img (b : Bool) (n : Nat) : (postIf s b n).img = s.img := by cases b <;> rfl
@[simp] theorem postIf_bmr (b : Bool) (n : Nat) : (postIf s b n).bmr = s.bmr := by cases b <;> rfl
@[simp] theorem postIf_ladder (b : Bool) (n : Nat) : (postIf s b n).ladder = s.ladder := by cases b <;> rfl
@[simp] theorem postIf_tamperLatch (b : Bool) (n : Nat) : (postIf s b n).tamperLatch = s.tamperLatch := by cases b <;> rfl
@[simp] theorem postIf_tamperLevel (b : Bool) (n : Nat) : (postIf s b n).tamperLevel = s.tamperLevel := by cases b <;> rfl
@[simp] theorem postIf_retention (b : Bool) (n : Nat) : (postIf s b n).retention = s.retention := by cases b <;> rfl
@[simp] theorem postIf_power (b : Bool) (n : Nat) : (postIf s b n).power = s.power := by cases b <;> rfl
@[simp] theorem postIf_tcfg (b : Bool) (n : Nat) : (postIf s b n).tcfg = s.tcfg := by cases b <;> rfl
@[simp] theorem postIf_ticks (b : Bool) (n : Nat) : (postIf s b n).ticks = s.ticks := by cases b <;> rfl
@[simp] theorem postIf_plan (b : Bool) (n : Nat) : (postIf s b n).plan = s.plan := by simp [State.plan]
@[simp] theorem postIf_ovr (b : Bool) (n : Nat) : (postIf s b n).ovr = s.ovr := by cases b <;> rfl
@[simp] theorem postIf_mail (b : Bool) (n : Nat) : (postIf s b n).mail = s.mail := by cases b <;> rfl
@[simp] theorem postIf_mbox (b : Bool) (n : Nat) (j : Nat) : (postIf s b n).mbox j = s.mbox j := by
  simp [State.mbox]
@[simp] theorem postIf_rotation (b : Bool) (n : Nat) : (postIf s b n).rotation = s.rotation := by cases b <;> rfl
@[simp] theorem postIf_cmds (b : Bool) (n : Nat) : (postIf s b n).cmds = s.cmds := by cases b <;> rfl
@[simp] theorem postIf_nextCmd (b : Bool) (n : Nat) : (postIf s b n).nextCmd = s.nextCmd := by cases b <;> rfl
@[simp] theorem postIf_staged (b : Bool) (n : Nat) : (postIf s b n).staged = s.staged := by cases b <;> rfl
@[simp] theorem postIf_streams (b : Bool) (n : Nat) : (postIf s b n).streams = s.streams := by cases b <;> rfl
@[simp] theorem postIf_stream (b : Bool) (n : Nat) (j : Nat) : (postIf s b n).stream j = s.stream j := by
  simp [State.stream]
@[simp] theorem postIf_shots (b : Bool) (n : Nat) : (postIf s b n).shots = s.shots := by cases b <;> rfl
@[simp] theorem postIf_aux (b : Bool) (n : Nat) : (postIf s b n).aux = s.aux := by cases b <;> rfl
@[simp] theorem postIf_aux_ (b : Bool) (n : Nat) (j : Nat) : (postIf s b n).aux_ j = s.aux_ j := by
  simp [State.aux_]
@[simp] theorem postIf_adm (b : Bool) (n : Nat) : (postIf s b n).adm = s.adm := by cases b <;> rfl
@[simp] theorem postIf_demand (b : Bool) (n : Nat) (j : Nat) : (postIf s b n).demand j = s.demand j := by
  simp [State.demand]
@[simp] theorem postIf_grace (b : Bool) (n : Nat) : (postIf s b n).grace = s.grace := by cases b <;> rfl
@[simp] theorem postIf_slots (b : Bool) (n : Nat) : (postIf s b n).slots = s.slots := by cases b <;> rfl
@[simp] theorem postIf_slot (b : Bool) (n : Nat) (j : Nat) : (postIf s b n).slot j = s.slot j := by
  simp [State.slot]
@[simp] theorem postIf_keyCtl (b : Bool) (n : Nat) : (postIf s b n).keyCtl = s.keyCtl := by cases b <;> rfl
@[simp] theorem postIf_ent (b : Bool) (n : Nat) : (postIf s b n).ent = s.ent := by cases b <;> rfl
@[simp] theorem postIf_imports (b : Bool) (n : Nat) : (postIf s b n).imports = s.imports := by cases b <;> rfl
@[simp] theorem postIf_rings (b : Bool) (n : Nat) : (postIf s b n).rings = s.rings := by cases b <;> rfl
@[simp] theorem postIf_ring (b : Bool) (n : Nat) (j : Nat) : (postIf s b n).ring j = s.ring j := by
  simp [State.ring]
@[simp] theorem postIf_hostMem (b : Bool) (n : Nat) : (postIf s b n).hostMem = s.hostMem := by cases b <;> rfl
@[simp] theorem postIf_jobs (b : Bool) (n : Nat) : (postIf s b n).jobs = s.jobs := by cases b <;> rfl
@[simp] theorem postIf_tx (b : Bool) (n : Nat) : (postIf s b n).tx = s.tx := by cases b <;> rfl
@[simp] theorem postIf_txFrame (b : Bool) (n : Nat) (j : Nat) : (postIf s b n).txFrame j = s.txFrame j := by
  simp [State.txFrame]
@[simp] theorem postIf_rx (b : Bool) (n : Nat) : (postIf s b n).rx = s.rx := by cases b <;> rfl
@[simp] theorem postIf_rxFrame (b : Bool) (n : Nat) (j : Nat) : (postIf s b n).rxFrame j = s.rxFrame j := by
  simp [State.rxFrame]
@[simp] theorem postIf_nextFrame (b : Bool) (n : Nat) : (postIf s b n).nextFrame = s.nextFrame := by cases b <;> rfl
@[simp] theorem postIf_egSkip (b : Bool) (n : Nat) : (postIf s b n).egSkip = s.egSkip := by cases b <;> rfl
@[simp] theorem postIf_eReady (b : Bool) (n : Nat) : (postIf s b n).eReady = s.eReady := by cases b <;> rfl
@[simp] theorem postIf_classifying (b : Bool) (n : Nat) : (postIf s b n).classifying = s.classifying := by cases b <;> rfl
@[simp] theorem postIf_ingress (b : Bool) (n : Nat) : (postIf s b n).ingress = s.ingress := by cases b <;> rfl
@[simp] theorem postIf_ports (b : Bool) (n : Nat) : (postIf s b n).ports = s.ports := by cases b <;> rfl
@[simp] theorem postIf_port (b : Bool) (n : Nat) (j : Nat) : (postIf s b n).port j = s.port j := by
  simp [State.port]
@[simp] theorem postIf_pairs (b : Bool) (n : Nat) : (postIf s b n).pairs = s.pairs := by cases b <;> rfl
@[simp] theorem postIf_pair (b : Bool) (n : Nat) (j : Nat) : (postIf s b n).pair j = s.pair j := by
  simp [State.pair]
@[simp] theorem postIf_noticeLog (b : Bool) (n : Nat) : (postIf s b n).noticeLog = s.noticeLog := by cases b <;> rfl
@[simp] theorem postIf_gates (b : Bool) (n : Nat) : (postIf s b n).gates = s.gates := by cases b <;> rfl
@[simp] theorem postIf_gate (b : Bool) (n : Nat) (j : Nat) : (postIf s b n).gate j = s.gate j := by
  simp [State.gate]
@[simp] theorem postIf_pubs (b : Bool) (n : Nat) : (postIf s b n).pubs = s.pubs := by cases b <;> rfl
@[simp] theorem postIf_pub (b : Bool) (n : Nat) (j : Nat) : (postIf s b n).pub j = s.pub j := by
  simp [State.pub]
@[simp] theorem postIf_vers (b : Bool) (n : Nat) : (postIf s b n).vers = s.vers := by cases b <;> rfl
@[simp] theorem postIf_ver (b : Bool) (n : Nat) (j : Nat) : (postIf s b n).ver j = s.ver j := by
  simp [State.ver]
@[simp] theorem postIf_v2 (b : Bool) (n : Nat) : (postIf s b n).v2 = s.v2 := by cases b <;> rfl
@[simp] theorem postIf_bw (b : Bool) (n : Nat) : (postIf s b n).bw = s.bw := by cases b <;> rfl
@[simp] theorem postIf_pebbles (b : Bool) (n : Nat) : (postIf s b n).pebbles = s.pebbles := by cases b <;> rfl
@[simp] theorem postIf_mem (b : Bool) (n : Nat) : (postIf s b n).mem = s.mem := by cases b <;> rfl
@[simp] theorem postIf_dram (b : Bool) (n : Nat) : (postIf s b n).dram = s.dram := by cases b <;> rfl
@[simp] theorem postIf_bus (b : Bool) (n : Nat) : (postIf s b n).bus = s.bus := by cases b <;> rfl
@[simp] theorem postIf_out (b : Bool) (n : Nat) : (postIf s b n).out = s.out := by cases b <;> rfl

/-! ### setLevel -/

@[simp] theorem setLevel_pending (n : Nat) (b : Bool) : (setLevel s n b).pending = s.pending := by unfold setLevel; split <;> (try split) <;> rfl
@[simp] theorem setLevel_now (n : Nat) (b : Bool) : (setLevel s n b).now = s.now := by unfold setLevel; split <;> (try split) <;> rfl
@[simp] theorem setLevel_draws (n : Nat) (b : Bool) : (setLevel s n b).draws = s.draws := by unfold setLevel; split <;> (try split) <;> rfl
@[simp] theorem setLevel_mode (n : Nat) (b : Bool) : (setLevel s n b).mode = s.mode := by unfold setLevel; split <;> (try split) <;> rfl
@[simp] theorem setLevel_cause (n : Nat) (b : Bool) : (setLevel s n b).cause = s.cause := by unfold setLevel; split <;> (try split) <;> rfl
@[simp] theorem setLevel_fatal (n : Nat) (b : Bool) : (setLevel s n b).fatal = s.fatal := by unfold setLevel; split <;> (try split) <;> rfl
@[simp] theorem setLevel_assay (n : Nat) (b : Bool) : (setLevel s n b).assay = s.assay := by unfold setLevel; split <;> (try split) <;> rfl
@[simp] theorem setLevel_fuses (n : Nat) (b : Bool) : (setLevel s n b).fuses = s.fuses := by unfold setLevel; split <;> (try split) <;> rfl
@[simp] theorem setLevel_nv (n : Nat) (b : Bool) : (setLevel s n b).nv = s.nv := by unfold setLevel; split <;> (try split) <;> rfl
@[simp] theorem setLevel_active (n : Nat) (b : Bool) : (setLevel s n b).active = s.active := by unfold setLevel; split <;> (try split) <;> rfl
@[simp] theorem setLevel_img (n : Nat) (b : Bool) : (setLevel s n b).img = s.img := by unfold setLevel; split <;> (try split) <;> rfl
@[simp] theorem setLevel_bmr (n : Nat) (b : Bool) : (setLevel s n b).bmr = s.bmr := by unfold setLevel; split <;> (try split) <;> rfl
@[simp] theorem setLevel_ladder (n : Nat) (b : Bool) : (setLevel s n b).ladder = s.ladder := by unfold setLevel; split <;> (try split) <;> rfl
@[simp] theorem setLevel_tamperLatch (n : Nat) (b : Bool) : (setLevel s n b).tamperLatch = s.tamperLatch := by unfold setLevel; split <;> (try split) <;> rfl
@[simp] theorem setLevel_tamperLevel (n : Nat) (b : Bool) : (setLevel s n b).tamperLevel = s.tamperLevel := by unfold setLevel; split <;> (try split) <;> rfl
@[simp] theorem setLevel_retention (n : Nat) (b : Bool) : (setLevel s n b).retention = s.retention := by unfold setLevel; split <;> (try split) <;> rfl
@[simp] theorem setLevel_power (n : Nat) (b : Bool) : (setLevel s n b).power = s.power := by unfold setLevel; split <;> (try split) <;> rfl
@[simp] theorem setLevel_tcfg (n : Nat) (b : Bool) : (setLevel s n b).tcfg = s.tcfg := by unfold setLevel; split <;> (try split) <;> rfl
@[simp] theorem setLevel_ticks (n : Nat) (b : Bool) : (setLevel s n b).ticks = s.ticks := by unfold setLevel; split <;> (try split) <;> rfl
@[simp] theorem setLevel_plan (n : Nat) (b : Bool) : (setLevel s n b).plan = s.plan := by simp [State.plan]
@[simp] theorem setLevel_ovr (n : Nat) (b : Bool) : (setLevel s n b).ovr = s.ovr := by unfold setLevel; split <;> (try split) <;> rfl
@[simp] theorem setLevel_mail (n : Nat) (b : Bool) : (setLevel s n b).mail = s.mail := by unfold setLevel; split <;> (try split) <;> rfl
@[simp] theorem setLevel_mbox (n : Nat) (b : Bool) (j : Nat) : (setLevel s n b).mbox j = s.mbox j := by
  simp [State.mbox]
@[simp] theorem setLevel_rotation (n : Nat) (b : Bool) : (setLevel s n b).rotation = s.rotation := by unfold setLevel; split <;> (try split) <;> rfl
@[simp] theorem setLevel_cmds (n : Nat) (b : Bool) : (setLevel s n b).cmds = s.cmds := by unfold setLevel; split <;> (try split) <;> rfl
@[simp] theorem setLevel_nextCmd (n : Nat) (b : Bool) : (setLevel s n b).nextCmd = s.nextCmd := by unfold setLevel; split <;> (try split) <;> rfl
@[simp] theorem setLevel_staged (n : Nat) (b : Bool) : (setLevel s n b).staged = s.staged := by unfold setLevel; split <;> (try split) <;> rfl
@[simp] theorem setLevel_streams (n : Nat) (b : Bool) : (setLevel s n b).streams = s.streams := by unfold setLevel; split <;> (try split) <;> rfl
@[simp] theorem setLevel_stream (n : Nat) (b : Bool) (j : Nat) : (setLevel s n b).stream j = s.stream j := by
  simp [State.stream]
@[simp] theorem setLevel_shots (n : Nat) (b : Bool) : (setLevel s n b).shots = s.shots := by unfold setLevel; split <;> (try split) <;> rfl
@[simp] theorem setLevel_aux (n : Nat) (b : Bool) : (setLevel s n b).aux = s.aux := by unfold setLevel; split <;> (try split) <;> rfl
@[simp] theorem setLevel_aux_ (n : Nat) (b : Bool) (j : Nat) : (setLevel s n b).aux_ j = s.aux_ j := by
  simp [State.aux_]
@[simp] theorem setLevel_adm (n : Nat) (b : Bool) : (setLevel s n b).adm = s.adm := by unfold setLevel; split <;> (try split) <;> rfl
@[simp] theorem setLevel_demand (n : Nat) (b : Bool) (j : Nat) : (setLevel s n b).demand j = s.demand j := by
  simp [State.demand]
@[simp] theorem setLevel_grace (n : Nat) (b : Bool) : (setLevel s n b).grace = s.grace := by unfold setLevel; split <;> (try split) <;> rfl
@[simp] theorem setLevel_slots (n : Nat) (b : Bool) : (setLevel s n b).slots = s.slots := by unfold setLevel; split <;> (try split) <;> rfl
@[simp] theorem setLevel_slot (n : Nat) (b : Bool) (j : Nat) : (setLevel s n b).slot j = s.slot j := by
  simp [State.slot]
@[simp] theorem setLevel_keyCtl (n : Nat) (b : Bool) : (setLevel s n b).keyCtl = s.keyCtl := by unfold setLevel; split <;> (try split) <;> rfl
@[simp] theorem setLevel_ent (n : Nat) (b : Bool) : (setLevel s n b).ent = s.ent := by unfold setLevel; split <;> (try split) <;> rfl
@[simp] theorem setLevel_imports (n : Nat) (b : Bool) : (setLevel s n b).imports = s.imports := by unfold setLevel; split <;> (try split) <;> rfl
@[simp] theorem setLevel_rings (n : Nat) (b : Bool) : (setLevel s n b).rings = s.rings := by unfold setLevel; split <;> (try split) <;> rfl
@[simp] theorem setLevel_ring (n : Nat) (b : Bool) (j : Nat) : (setLevel s n b).ring j = s.ring j := by
  simp [State.ring]
@[simp] theorem setLevel_hostMem (n : Nat) (b : Bool) : (setLevel s n b).hostMem = s.hostMem := by unfold setLevel; split <;> (try split) <;> rfl
@[simp] theorem setLevel_jobs (n : Nat) (b : Bool) : (setLevel s n b).jobs = s.jobs := by unfold setLevel; split <;> (try split) <;> rfl
@[simp] theorem setLevel_tx (n : Nat) (b : Bool) : (setLevel s n b).tx = s.tx := by unfold setLevel; split <;> (try split) <;> rfl
@[simp] theorem setLevel_txFrame (n : Nat) (b : Bool) (j : Nat) : (setLevel s n b).txFrame j = s.txFrame j := by
  simp [State.txFrame]
@[simp] theorem setLevel_rx (n : Nat) (b : Bool) : (setLevel s n b).rx = s.rx := by unfold setLevel; split <;> (try split) <;> rfl
@[simp] theorem setLevel_rxFrame (n : Nat) (b : Bool) (j : Nat) : (setLevel s n b).rxFrame j = s.rxFrame j := by
  simp [State.rxFrame]
@[simp] theorem setLevel_nextFrame (n : Nat) (b : Bool) : (setLevel s n b).nextFrame = s.nextFrame := by unfold setLevel; split <;> (try split) <;> rfl
@[simp] theorem setLevel_egSkip (n : Nat) (b : Bool) : (setLevel s n b).egSkip = s.egSkip := by unfold setLevel; split <;> (try split) <;> rfl
@[simp] theorem setLevel_eReady (n : Nat) (b : Bool) : (setLevel s n b).eReady = s.eReady := by unfold setLevel; split <;> (try split) <;> rfl
@[simp] theorem setLevel_classifying (n : Nat) (b : Bool) : (setLevel s n b).classifying = s.classifying := by unfold setLevel; split <;> (try split) <;> rfl
@[simp] theorem setLevel_ingress (n : Nat) (b : Bool) : (setLevel s n b).ingress = s.ingress := by unfold setLevel; split <;> (try split) <;> rfl
@[simp] theorem setLevel_ports (n : Nat) (b : Bool) : (setLevel s n b).ports = s.ports := by unfold setLevel; split <;> (try split) <;> rfl
@[simp] theorem setLevel_port (n : Nat) (b : Bool) (j : Nat) : (setLevel s n b).port j = s.port j := by
  simp [State.port]
@[simp] theorem setLevel_pairs (n : Nat) (b : Bool) : (setLevel s n b).pairs = s.pairs := by unfold setLevel; split <;> (try split) <;> rfl
@[simp] theorem setLevel_pair (n : Nat) (b : Bool) (j : Nat) : (setLevel s n b).pair j = s.pair j := by
  simp [State.pair]
@[simp] theorem setLevel_noticeLog (n : Nat) (b : Bool) : (setLevel s n b).noticeLog = s.noticeLog := by unfold setLevel; split <;> (try split) <;> rfl
@[simp] theorem setLevel_gates (n : Nat) (b : Bool) : (setLevel s n b).gates = s.gates := by unfold setLevel; split <;> (try split) <;> rfl
@[simp] theorem setLevel_gate (n : Nat) (b : Bool) (j : Nat) : (setLevel s n b).gate j = s.gate j := by
  simp [State.gate]
@[simp] theorem setLevel_pubs (n : Nat) (b : Bool) : (setLevel s n b).pubs = s.pubs := by unfold setLevel; split <;> (try split) <;> rfl
@[simp] theorem setLevel_pub (n : Nat) (b : Bool) (j : Nat) : (setLevel s n b).pub j = s.pub j := by
  simp [State.pub]
@[simp] theorem setLevel_vers (n : Nat) (b : Bool) : (setLevel s n b).vers = s.vers := by unfold setLevel; split <;> (try split) <;> rfl
@[simp] theorem setLevel_ver (n : Nat) (b : Bool) (j : Nat) : (setLevel s n b).ver j = s.ver j := by
  simp [State.ver]
@[simp] theorem setLevel_v2 (n : Nat) (b : Bool) : (setLevel s n b).v2 = s.v2 := by unfold setLevel; split <;> (try split) <;> rfl
@[simp] theorem setLevel_bw (n : Nat) (b : Bool) : (setLevel s n b).bw = s.bw := by unfold setLevel; split <;> (try split) <;> rfl
@[simp] theorem setLevel_pebbles (n : Nat) (b : Bool) : (setLevel s n b).pebbles = s.pebbles := by unfold setLevel; split <;> (try split) <;> rfl
@[simp] theorem setLevel_mem (n : Nat) (b : Bool) : (setLevel s n b).mem = s.mem := by unfold setLevel; split <;> (try split) <;> rfl
@[simp] theorem setLevel_dram (n : Nat) (b : Bool) : (setLevel s n b).dram = s.dram := by unfold setLevel; split <;> (try split) <;> rfl
@[simp] theorem setLevel_bus (n : Nat) (b : Bool) : (setLevel s n b).bus = s.bus := by unfold setLevel; split <;> (try split) <;> rfl
@[simp] theorem setLevel_out (n : Nat) (b : Bool) : (setLevel s n b).out = s.out := by unfold setLevel; split <;> (try split) <;> rfl

/-! ### posts -/

/-- Postings change the event block alone. -/
theorem posts_eq (ns : List Nat) : ∀ s : State, posts s ns = { s with eye := (posts s ns).eye } := by
  induction ns with
  | nil => intro s; rfl
  | cons n ns ih => intro s; exact ih (post s n)

@[simp] theorem posts_pending (ns : List Nat) : (posts s ns).pending = s.pending := by rw [posts_eq]
@[simp] theorem posts_now (ns : List Nat) : (posts s ns).now = s.now := by rw [posts_eq]
@[simp] theorem posts_draws (ns : List Nat) : (posts s ns).draws = s.draws := by rw [posts_eq]
@[simp] theorem posts_mode (ns : List Nat) : (posts s ns).mode = s.mode := by rw [posts_eq]
@[simp] theorem posts_cause (ns : List Nat) : (posts s ns).cause = s.cause := by rw [posts_eq]
@[simp] theorem posts_fatal (ns : List Nat) : (posts s ns).fatal = s.fatal := by rw [posts_eq]
@[simp] theorem posts_assay (ns : List Nat) : (posts s ns).assay = s.assay := by rw [posts_eq]
@[simp] theorem posts_fuses (ns : List Nat) : (posts s ns).fuses = s.fuses := by rw [posts_eq]
@[simp] theorem posts_nv (ns : List Nat) : (posts s ns).nv = s.nv := by rw [posts_eq]
@[simp] theorem posts_active (ns : List Nat) : (posts s ns).active = s.active := by rw [posts_eq]
@[simp] theorem posts_img (ns : List Nat) : (posts s ns).img = s.img := by rw [posts_eq]
@[simp] theorem posts_bmr (ns : List Nat) : (posts s ns).bmr = s.bmr := by rw [posts_eq]
@[simp] theorem posts_ladder (ns : List Nat) : (posts s ns).ladder = s.ladder := by rw [posts_eq]
@[simp] theorem posts_tamperLatch (ns : List Nat) : (posts s ns).tamperLatch = s.tamperLatch := by rw [posts_eq]
@[simp] theorem posts_tamperLevel (ns : List Nat) : (posts s ns).tamperLevel = s.tamperLevel := by rw [posts_eq]
@[simp] theorem posts_retention (ns : List Nat) : (posts s ns).retention = s.retention := by rw [posts_eq]
@[simp] theorem posts_power (ns : List Nat) : (posts s ns).power = s.power := by rw [posts_eq]
@[simp] theorem posts_tcfg (ns : List Nat) : (posts s ns).tcfg = s.tcfg := by rw [posts_eq]
@[simp] theorem posts_ticks (ns : List Nat) : (posts s ns).ticks = s.ticks := by rw [posts_eq]
@[simp] theorem posts_ovr (ns : List Nat) : (posts s ns).ovr = s.ovr := by rw [posts_eq]
@[simp] theorem posts_mail (ns : List Nat) : (posts s ns).mail = s.mail := by rw [posts_eq]
@[simp] theorem posts_rotation (ns : List Nat) : (posts s ns).rotation = s.rotation := by rw [posts_eq]
@[simp] theorem posts_cmds (ns : List Nat) : (posts s ns).cmds = s.cmds := by rw [posts_eq]
@[simp] theorem posts_nextCmd (ns : List Nat) : (posts s ns).nextCmd = s.nextCmd := by rw [posts_eq]
@[simp] theorem posts_staged (ns : List Nat) : (posts s ns).staged = s.staged := by rw [posts_eq]
@[simp] theorem posts_streams (ns : List Nat) : (posts s ns).streams = s.streams := by rw [posts_eq]
@[simp] theorem posts_shots (ns : List Nat) : (posts s ns).shots = s.shots := by rw [posts_eq]
@[simp] theorem posts_aux (ns : List Nat) : (posts s ns).aux = s.aux := by rw [posts_eq]
@[simp] theorem posts_adm (ns : List Nat) : (posts s ns).adm = s.adm := by rw [posts_eq]
@[simp] theorem posts_grace (ns : List Nat) : (posts s ns).grace = s.grace := by rw [posts_eq]
@[simp] theorem posts_slots (ns : List Nat) : (posts s ns).slots = s.slots := by rw [posts_eq]
@[simp] theorem posts_keyCtl (ns : List Nat) : (posts s ns).keyCtl = s.keyCtl := by rw [posts_eq]
@[simp] theorem posts_ent (ns : List Nat) : (posts s ns).ent = s.ent := by rw [posts_eq]
@[simp] theorem posts_imports (ns : List Nat) : (posts s ns).imports = s.imports := by rw [posts_eq]
@[simp] theorem posts_rings (ns : List Nat) : (posts s ns).rings = s.rings := by rw [posts_eq]
@[simp] theorem posts_hostMem (ns : List Nat) : (posts s ns).hostMem = s.hostMem := by rw [posts_eq]
@[simp] theorem posts_jobs (ns : List Nat) : (posts s ns).jobs = s.jobs := by rw [posts_eq]
@[simp] theorem posts_tx (ns : List Nat) : (posts s ns).tx = s.tx := by rw [posts_eq]
@[simp] theorem posts_rx (ns : List Nat) : (posts s ns).rx = s.rx := by rw [posts_eq]
@[simp] theorem posts_nextFrame (ns : List Nat) : (posts s ns).nextFrame = s.nextFrame := by rw [posts_eq]
@[simp] theorem posts_egSkip (ns : List Nat) : (posts s ns).egSkip = s.egSkip := by rw [posts_eq]
@[simp] theorem posts_eReady (ns : List Nat) : (posts s ns).eReady = s.eReady := by rw [posts_eq]
@[simp] theorem posts_classifying (ns : List Nat) : (posts s ns).classifying = s.classifying := by rw [posts_eq]
@[simp] theorem posts_ingress (ns : List Nat) : (posts s ns).ingress = s.ingress := by rw [posts_eq]
@[simp] theorem posts_ports (ns : List Nat) : (posts s ns).ports = s.ports := by rw [posts_eq]
@[simp] theorem posts_pairs (ns : List Nat) : (posts s ns).pairs = s.pairs := by rw [posts_eq]
@[simp] theorem posts_noticeLog (ns : List Nat) : (posts s ns).noticeLog = s.noticeLog := by rw [posts_eq]
@[simp] theorem posts_gates (ns : List Nat) : (posts s ns).gates = s.gates := by rw [posts_eq]
@[simp] theorem posts_pubs (ns : List Nat) : (posts s ns).pubs = s.pubs := by rw [posts_eq]
@[simp] theorem posts_vers (ns : List Nat) : (posts s ns).vers = s.vers := by rw [posts_eq]
@[simp] theorem posts_v2 (ns : List Nat) : (posts s ns).v2 = s.v2 := by rw [posts_eq]
@[simp] theorem posts_bw (ns : List Nat) : (posts s ns).bw = s.bw := by rw [posts_eq]
@[simp] theorem posts_pebbles (ns : List Nat) : (posts s ns).pebbles = s.pebbles := by rw [posts_eq]
@[simp] theorem posts_mem (ns : List Nat) : (posts s ns).mem = s.mem := by rw [posts_eq]
@[simp] theorem posts_dram (ns : List Nat) : (posts s ns).dram = s.dram := by rw [posts_eq]
@[simp] theorem posts_bus (ns : List Nat) : (posts s ns).bus = s.bus := by rw [posts_eq]
@[simp] theorem posts_out (ns : List Nat) : (posts s ns).out = s.out := by rw [posts_eq]
@[simp] theorem posts_stream (ns : List Nat) (j : Nat) : (posts s ns).stream j = s.stream j := by simp [State.stream]
@[simp] theorem posts_aux_ (ns : List Nat) (j : Nat) : (posts s ns).aux_ j = s.aux_ j := by simp [State.aux_]
@[simp] theorem posts_demand (ns : List Nat) (j : Nat) : (posts s ns).demand j = s.demand j := by simp [State.demand]
@[simp] theorem posts_slot (ns : List Nat) (j : Nat) : (posts s ns).slot j = s.slot j := by simp [State.slot]
@[simp] theorem posts_mbox (ns : List Nat) (j : Nat) : (posts s ns).mbox j = s.mbox j := by simp [State.mbox]
@[simp] theorem posts_ring (ns : List Nat) (j : Nat) : (posts s ns).ring j = s.ring j := by simp [State.ring]
@[simp] theorem posts_port (ns : List Nat) (j : Nat) : (posts s ns).port j = s.port j := by simp [State.port]
@[simp] theorem posts_pair (ns : List Nat) (j : Nat) : (posts s ns).pair j = s.pair j := by simp [State.pair]
@[simp] theorem posts_gate (ns : List Nat) (j : Nat) : (posts s ns).gate j = s.gate j := by simp [State.gate]
@[simp] theorem posts_pub (ns : List Nat) (j : Nat) : (posts s ns).pub j = s.pub j := by simp [State.pub]
@[simp] theorem posts_ver (ns : List Nat) (j : Nat) : (posts s ns).ver j = s.ver j := by simp [State.ver]
@[simp] theorem posts_rxFrame (ns : List Nat) (j : Nat) : (posts s ns).rxFrame j = s.rxFrame j := by simp [State.rxFrame]
@[simp] theorem posts_txFrame (ns : List Nat) (j : Nat) : (posts s ns).txFrame j = s.txFrame j := by simp [State.txFrame]
@[simp] theorem posts_plan (ns : List Nat) : (posts s ns).plan  = s.plan := by simp [State.plan]

/-! ### busyPulse -/

/-- A unit's work changes the event block and the unit's rest alone. -/
theorem setLevel_eq (n : Nat) (b : Bool) : setLevel s n b = { s with eye := (setLevel s n b).eye } := by
  unfold setLevel
  split
  · rfl
  · split <;> rfl

theorem busyPulse_eq (n : Nat) :
    busyPulse s n = { s with eye := (busyPulse s n).eye, power := (busyPulse s n).power } := by
  unfold busyPulse worked
  rw [setLevel_eq (setLevel s n true), setLevel_eq s]

@[simp] theorem busyPulse_pending (n : Nat) : (busyPulse s n).pending = s.pending := by rw [busyPulse_eq]
@[simp] theorem busyPulse_now (n : Nat) : (busyPulse s n).now = s.now := by rw [busyPulse_eq]
@[simp] theorem busyPulse_draws (n : Nat) : (busyPulse s n).draws = s.draws := by rw [busyPulse_eq]
@[simp] theorem busyPulse_mode (n : Nat) : (busyPulse s n).mode = s.mode := by rw [busyPulse_eq]
@[simp] theorem busyPulse_cause (n : Nat) : (busyPulse s n).cause = s.cause := by rw [busyPulse_eq]
@[simp] theorem busyPulse_fatal (n : Nat) : (busyPulse s n).fatal = s.fatal := by rw [busyPulse_eq]
@[simp] theorem busyPulse_assay (n : Nat) : (busyPulse s n).assay = s.assay := by rw [busyPulse_eq]
@[simp] theorem busyPulse_fuses (n : Nat) : (busyPulse s n).fuses = s.fuses := by rw [busyPulse_eq]
@[simp] theorem busyPulse_nv (n : Nat) : (busyPulse s n).nv = s.nv := by rw [busyPulse_eq]
@[simp] theorem busyPulse_active (n : Nat) : (busyPulse s n).active = s.active := by rw [busyPulse_eq]
@[simp] theorem busyPulse_img (n : Nat) : (busyPulse s n).img = s.img := by rw [busyPulse_eq]
@[simp] theorem busyPulse_bmr (n : Nat) : (busyPulse s n).bmr = s.bmr := by rw [busyPulse_eq]
@[simp] theorem busyPulse_ladder (n : Nat) : (busyPulse s n).ladder = s.ladder := by rw [busyPulse_eq]
@[simp] theorem busyPulse_tamperLatch (n : Nat) : (busyPulse s n).tamperLatch = s.tamperLatch := by rw [busyPulse_eq]
@[simp] theorem busyPulse_tamperLevel (n : Nat) : (busyPulse s n).tamperLevel = s.tamperLevel := by rw [busyPulse_eq]
@[simp] theorem busyPulse_retention (n : Nat) : (busyPulse s n).retention = s.retention := by rw [busyPulse_eq]
@[simp] theorem busyPulse_tcfg (n : Nat) : (busyPulse s n).tcfg = s.tcfg := by rw [busyPulse_eq]
@[simp] theorem busyPulse_ticks (n : Nat) : (busyPulse s n).ticks = s.ticks := by rw [busyPulse_eq]
@[simp] theorem busyPulse_ovr (n : Nat) : (busyPulse s n).ovr = s.ovr := by rw [busyPulse_eq]
@[simp] theorem busyPulse_mail (n : Nat) : (busyPulse s n).mail = s.mail := by rw [busyPulse_eq]
@[simp] theorem busyPulse_rotation (n : Nat) : (busyPulse s n).rotation = s.rotation := by rw [busyPulse_eq]
@[simp] theorem busyPulse_cmds (n : Nat) : (busyPulse s n).cmds = s.cmds := by rw [busyPulse_eq]
@[simp] theorem busyPulse_nextCmd (n : Nat) : (busyPulse s n).nextCmd = s.nextCmd := by rw [busyPulse_eq]
@[simp] theorem busyPulse_staged (n : Nat) : (busyPulse s n).staged = s.staged := by rw [busyPulse_eq]
@[simp] theorem busyPulse_streams (n : Nat) : (busyPulse s n).streams = s.streams := by rw [busyPulse_eq]
@[simp] theorem busyPulse_shots (n : Nat) : (busyPulse s n).shots = s.shots := by rw [busyPulse_eq]
@[simp] theorem busyPulse_aux (n : Nat) : (busyPulse s n).aux = s.aux := by rw [busyPulse_eq]
@[simp] theorem busyPulse_adm (n : Nat) : (busyPulse s n).adm = s.adm := by rw [busyPulse_eq]
@[simp] theorem busyPulse_grace (n : Nat) : (busyPulse s n).grace = s.grace := by rw [busyPulse_eq]
@[simp] theorem busyPulse_slots (n : Nat) : (busyPulse s n).slots = s.slots := by rw [busyPulse_eq]
@[simp] theorem busyPulse_keyCtl (n : Nat) : (busyPulse s n).keyCtl = s.keyCtl := by rw [busyPulse_eq]
@[simp] theorem busyPulse_ent (n : Nat) : (busyPulse s n).ent = s.ent := by rw [busyPulse_eq]
@[simp] theorem busyPulse_imports (n : Nat) : (busyPulse s n).imports = s.imports := by rw [busyPulse_eq]
@[simp] theorem busyPulse_rings (n : Nat) : (busyPulse s n).rings = s.rings := by rw [busyPulse_eq]
@[simp] theorem busyPulse_hostMem (n : Nat) : (busyPulse s n).hostMem = s.hostMem := by rw [busyPulse_eq]
@[simp] theorem busyPulse_jobs (n : Nat) : (busyPulse s n).jobs = s.jobs := by rw [busyPulse_eq]
@[simp] theorem busyPulse_tx (n : Nat) : (busyPulse s n).tx = s.tx := by rw [busyPulse_eq]
@[simp] theorem busyPulse_rx (n : Nat) : (busyPulse s n).rx = s.rx := by rw [busyPulse_eq]
@[simp] theorem busyPulse_nextFrame (n : Nat) : (busyPulse s n).nextFrame = s.nextFrame := by rw [busyPulse_eq]
@[simp] theorem busyPulse_egSkip (n : Nat) : (busyPulse s n).egSkip = s.egSkip := by rw [busyPulse_eq]
@[simp] theorem busyPulse_eReady (n : Nat) : (busyPulse s n).eReady = s.eReady := by rw [busyPulse_eq]
@[simp] theorem busyPulse_classifying (n : Nat) : (busyPulse s n).classifying = s.classifying := by rw [busyPulse_eq]
@[simp] theorem busyPulse_ingress (n : Nat) : (busyPulse s n).ingress = s.ingress := by rw [busyPulse_eq]
@[simp] theorem busyPulse_ports (n : Nat) : (busyPulse s n).ports = s.ports := by rw [busyPulse_eq]
@[simp] theorem busyPulse_pairs (n : Nat) : (busyPulse s n).pairs = s.pairs := by rw [busyPulse_eq]
@[simp] theorem busyPulse_noticeLog (n : Nat) : (busyPulse s n).noticeLog = s.noticeLog := by rw [busyPulse_eq]
@[simp] theorem busyPulse_gates (n : Nat) : (busyPulse s n).gates = s.gates := by rw [busyPulse_eq]
@[simp] theorem busyPulse_pubs (n : Nat) : (busyPulse s n).pubs = s.pubs := by rw [busyPulse_eq]
@[simp] theorem busyPulse_vers (n : Nat) : (busyPulse s n).vers = s.vers := by rw [busyPulse_eq]
@[simp] theorem busyPulse_v2 (n : Nat) : (busyPulse s n).v2 = s.v2 := by rw [busyPulse_eq]
@[simp] theorem busyPulse_bw (n : Nat) : (busyPulse s n).bw = s.bw := by rw [busyPulse_eq]
@[simp] theorem busyPulse_pebbles (n : Nat) : (busyPulse s n).pebbles = s.pebbles := by rw [busyPulse_eq]
@[simp] theorem busyPulse_mem (n : Nat) : (busyPulse s n).mem = s.mem := by rw [busyPulse_eq]
@[simp] theorem busyPulse_dram (n : Nat) : (busyPulse s n).dram = s.dram := by rw [busyPulse_eq]
@[simp] theorem busyPulse_bus (n : Nat) : (busyPulse s n).bus = s.bus := by rw [busyPulse_eq]
@[simp] theorem busyPulse_out (n : Nat) : (busyPulse s n).out = s.out := by rw [busyPulse_eq]
@[simp] theorem busyPulse_stream (n : Nat) (j : Nat) : (busyPulse s n).stream j = s.stream j := by simp [State.stream]
@[simp] theorem busyPulse_aux_ (n : Nat) (j : Nat) : (busyPulse s n).aux_ j = s.aux_ j := by simp [State.aux_]
@[simp] theorem busyPulse_demand (n : Nat) (j : Nat) : (busyPulse s n).demand j = s.demand j := by simp [State.demand]
@[simp] theorem busyPulse_slot (n : Nat) (j : Nat) : (busyPulse s n).slot j = s.slot j := by simp [State.slot]
@[simp] theorem busyPulse_mbox (n : Nat) (j : Nat) : (busyPulse s n).mbox j = s.mbox j := by simp [State.mbox]
@[simp] theorem busyPulse_ring (n : Nat) (j : Nat) : (busyPulse s n).ring j = s.ring j := by simp [State.ring]
@[simp] theorem busyPulse_port (n : Nat) (j : Nat) : (busyPulse s n).port j = s.port j := by simp [State.port]
@[simp] theorem busyPulse_pair (n : Nat) (j : Nat) : (busyPulse s n).pair j = s.pair j := by simp [State.pair]
@[simp] theorem busyPulse_gate (n : Nat) (j : Nat) : (busyPulse s n).gate j = s.gate j := by simp [State.gate]
@[simp] theorem busyPulse_pub (n : Nat) (j : Nat) : (busyPulse s n).pub j = s.pub j := by simp [State.pub]
@[simp] theorem busyPulse_ver (n : Nat) (j : Nat) : (busyPulse s n).ver j = s.ver j := by simp [State.ver]
@[simp] theorem busyPulse_rxFrame (n : Nat) (j : Nat) : (busyPulse s n).rxFrame j = s.rxFrame j := by simp [State.rxFrame]
@[simp] theorem busyPulse_txFrame (n : Nat) (j : Nat) : (busyPulse s n).txFrame j = s.txFrame j := by simp [State.txFrame]
@[simp] theorem busyPulse_plan (n : Nat) : (busyPulse s n).plan  = s.plan := by simp [State.plan]

end Sys2Proof.Machine.State
end

