-- ==== Sys2Proof/Laws/Touch.lean ====
section
/-!
SUPPORT. Footprints: which fields of the state a function may change. `Touch L s t` says that t agrees with s on every
field that is not in L. Each function of the machine has one lemma `f_touch`: whether its result agrees with a state on
the fields outside L is whether its argument does, for every L that contains its footprint.
-/

namespace Sys2Proof.Machine

/-- The fields of the state. -/
inductive Fld where
  | pending | now | draws | mode | cause | fatal | assay | fuses | nv | active | img | bmr | ladder |
  tamperLatch | tamperLevel | retention | power | tcfg | ticks | ovr | mail | rotation | cmds | nextCmd |
  staged | streams | shots | aux | adm | grace | slots | keyCtl | ent | imports | rings | hostMem | jobs | tx
  | rx | nextFrame | egSkip | eReady | classifying | ingress | ports | pairs | noticeLog | gates | pubs | vers
  | v2 | bw | pebbles | mem | dram | eye | bus | out
  deriving DecidableEq, Repr

/-- The two states agree on a field. -/
def State.same (s t : State) : Fld → Prop
  | .pending => t.pending = s.pending
  | .now => t.now = s.now
  | .draws => t.draws = s.draws
  | .mode => t.mode = s.mode
  | .cause => t.cause = s.cause
  | .fatal => t.fatal = s.fatal
  | .assay => t.assay = s.assay
  | .fuses => t.fuses = s.fuses
  | .nv => t.nv = s.nv
  | .active => t.active = s.active
  | .img => t.img = s.img
  | .bmr => t.bmr = s.bmr
  | .ladder => t.ladder = s.ladder
  | .tamperLatch => t.tamperLatch = s.tamperLatch
  | .tamperLevel => t.tamperLevel = s.tamperLevel
  | .retention => t.retention = s.retention
  | .power => t.power = s.power
  | .tcfg => t.tcfg = s.tcfg
  | .ticks => t.ticks = s.ticks
  | .ovr => t.ovr = s.ovr
  | .mail => t.mail = s.mail
  | .rotation => t.rotation = s.rotation
  | .cmds => t.cmds = s.cmds
  | .nextCmd => t.nextCmd = s.nextCmd
  | .staged => t.staged = s.staged
  | .streams => t.streams = s.streams
  | .shots => t.shots = s.shots
  | .aux => t.aux = s.aux
  | .adm => t.adm = s.adm
  | .grace => t.grace = s.grace
  | .slots => t.slots = s.slots
  | .keyCtl => t.keyCtl = s.keyCtl
  | .ent => t.ent = s.ent
  | .imports => t.imports = s.imports
  | .rings => t.rings = s.rings
  | .hostMem => t.hostMem = s.hostMem
  | .jobs => t.jobs = s.jobs
  | .tx => t.tx = s.tx
  | .rx => t.rx = s.rx
  | .nextFrame => t.nextFrame = s.nextFrame
  | .egSkip => t.egSkip = s.egSkip
  | .eReady => t.eReady = s.eReady
  | .classifying => t.classifying = s.classifying
  | .ingress => t.ingress = s.ingress
  | .ports => t.ports = s.ports
  | .pairs => t.pairs = s.pairs
  | .noticeLog => t.noticeLog = s.noticeLog
  | .gates => t.gates = s.gates
  | .pubs => t.pubs = s.pubs
  | .vers => t.vers = s.vers
  | .v2 => t.v2 = s.v2
  | .bw => t.bw = s.bw
  | .pebbles => t.pebbles = s.pebbles
  | .mem => t.mem = s.mem
  | .dram => t.dram = s.dram
  | .eye => t.eye = s.eye
  | .bus => t.bus = s.bus
  | .out => t.out = s.out

/-- The states agree on every field outside `L`. -/
def Touch (L : List Fld) (s t : State) : Prop := ∀ f, L.contains f = false → s.same t f

/-- Every field of the one list is in the other. -/
def within (a b : List Fld) : Bool := a.all (fun f => b.contains f)

theorem within_refl (a : List Fld) : within a a = true := by simp [within]

@[simp] theorem Touch.refl (L : List Fld) (s : State) : Touch L s s := by
  intro f _; cases f <;> rfl

theorem State.same_symm {s t : State} {f : Fld} (h : s.same t f) : t.same s f := by
  cases f <;> exact Eq.symm h

theorem State.same_trans {s t u : State} {f : Fld} (h : s.same t f) (k : t.same u f) : s.same u f := by
  cases f <;> exact Eq.trans k h

theorem Touch.step {L : List Fld} {s t u : State} (h : Touch L s t) (k : Touch L t u) : Touch L s u :=
  fun f hf => State.same_trans (h f hf) (k f hf)

theorem Touch.mono {A L : List Fld} {s t : State} (h : Touch A s t) (w : within A L = true) : Touch L s t := by
  intro f hf
  refine h f ?_
  cases hc : A.contains f with
  | false => rfl
  | true =>
    have := List.all_eq_true.mp w f (by simpa using hc)
    rw [hf] at this
    exact this.symm

/-- A list that contains all of A contains all of a part of A. -/
theorem Touch.within_of {a A L : List Fld} (h : within a A = true) (w : within A L = true) : within a L = true := by
  simp only [within, List.all_eq_true] at h w ⊢
  intro f hf
  exact w f (by simpa using h f hf)

/-- A change within L does not matter to agreement outside L. -/
theorem Touch.iff {A L : List Fld} {s t s0 : State} (h : Touch A s t) (w : within A L = true) :
    Touch L s0 t ↔ Touch L s0 s :=
  ⟨fun k => k.step (fun f hf => State.same_symm (h.mono w f hf)), fun k => k.step (h.mono w)⟩

/-- A record update on the way: `u` is found from the field that no update touches. -/
theorem Touch.upd {L : List Fld} {s u : State} {a1 : Nat} {a2 : Nat} {a3 : Mode} {a4 : BitVec 8} {a5 : Bool} {a6 : AssayState} {a7 : Fuses} {a8 : NvStore}
    {a9 : Option Active} {a10 : ImgCfg} {a11 : BitVec 384} {a12 : Ladder} {a13 : BitVec 4} {a14 : BitVec 4}
    {a15 : Option Retention} {a16 : Power} {a17 : TickCfg} {a18 : TickState} {a19 : OverrunState} {a20 : Table
    Mailbox} {a21 : Nat} {a22 : List Cmd} {a23 : Nat} {a24 : List Staged} {a25 : Table Context} {a26 : List
    Shot} {a27 : Table StreamAux} {a28 : Table Demand} {a29 : List GraceEntry} {a30 : Table KeySlot} {a31 :
    KeyCtl} {a32 : Entropy} {a33 : List Import} {a34 : Table Ring} {a35 : Table Byte} {a36 : List RecordJob}
    {a37 : List TxFrame} {a38 : List RxFrame} {a39 : Nat} {a40 : List Nat} {a41 : Bool} {a42 : Bool} {a43 :
    List Beat} {a44 : Table PortState} {a45 : Table PairState} {a46 : NoticeLog} {a47 : Table Gate} {a48 :
    Table Pub} {a49 : Table Ver} {a50 : List V2Rec} {a51 : BwState} {a52 : Table (List Word)} {a53 : MemPlane}
    {a54 : Table Byte} {a55 : Eye} {a56 : BusReply} {a57 : Outputs}
    (k : Touch L u ⟨u.pending, a1, a2, a3, a4, a5, a6, a7, a8, a9, a10, a11, a12, a13, a14, a15, a16, a17, a18, a19, a20, a21, a22,
      a23, a24, a25, a26, a27, a28, a29, a30, a31, a32, a33, a34, a35, a36, a37, a38, a39, a40, a41,
      a42, a43, a44, a45, a46, a47, a48, a49, a50, a51, a52, a53, a54, a55, a56, a57⟩) (h : Touch L s u) :
    Touch L s ⟨u.pending, a1, a2, a3, a4, a5, a6, a7, a8, a9, a10, a11, a12, a13, a14, a15, a16, a17, a18, a19, a20, a21, a22,
      a23, a24, a25, a26, a27, a28, a29, a30, a31, a32, a33, a34, a35, a36, a37, a38, a39, a40, a41,
      a42, a43, a44, a45, a46, a47, a48, a49, a50, a51, a52, a53, a54, a55, a56, a57⟩ := h.step k

theorem Touch.of_pair {α : Type} {L : List Fld} {s u : State} {p : α × State} {a : α} (e : p = (a, u))
    (h : Touch L s p.2) : Touch L s u := by rw [e] at h; exact h

theorem Touch.foldl {α : Type} {L : List Fld} {f : State → α → State} (h : ∀ t x, Touch L t (f t x)) (l : List α) :
    ∀ s : State, Touch L s (l.foldl f s) := by
  induction l with
  | nil => exact fun s => Touch.refl L s
  | cons x l ih => exact fun s => (h s x).step (ih (f s x))

theorem Touch.foldl_step {α : Type} {L : List Fld} {s u : State} {f : State → α → State} {l : List α}
    (h : ∀ t x, Touch L t (f t x)) (k : Touch L s u) : Touch L s (l.foldl f u) := k.step (Touch.foldl h l u)

/-! ### What agreement gives, field by field -/

theorem Touch.pending {L : List Fld} {s t : State} (h : Touch L s t) (w : L.contains .pending = false) : t.pending = s.pending :=
  h .pending w
theorem Touch.now {L : List Fld} {s t : State} (h : Touch L s t) (w : L.contains .now = false) : t.now = s.now :=
  h .now w
theorem Touch.draws {L : List Fld} {s t : State} (h : Touch L s t) (w : L.contains .draws = false) : t.draws = s.draws :=
  h .draws w
theorem Touch.mode {L : List Fld} {s t : State} (h : Touch L s t) (w : L.contains .mode = false) : t.mode = s.mode :=
  h .mode w
theorem Touch.cause {L : List Fld} {s t : State} (h : Touch L s t) (w : L.contains .cause = false) : t.cause = s.cause :=
  h .cause w
theorem Touch.fatal {L : List Fld} {s t : State} (h : Touch L s t) (w : L.contains .fatal = false) : t.fatal = s.fatal :=
  h .fatal w
theorem Touch.assay {L : List Fld} {s t : State} (h : Touch L s t) (w : L.contains .assay = false) : t.assay = s.assay :=
  h .assay w
theorem Touch.fuses {L : List Fld} {s t : State} (h : Touch L s t) (w : L.contains .fuses = false) : t.fuses = s.fuses :=
  h .fuses w
theorem Touch.nv {L : List Fld} {s t : State} (h : Touch L s t) (w : L.contains .nv = false) : t.nv = s.nv :=
  h .nv w
theorem Touch.active {L : List Fld} {s t : State} (h : Touch L s t) (w : L.contains .active = false) : t.active = s.active :=
  h .active w
theorem Touch.img {L : List Fld} {s t : State} (h : Touch L s t) (w : L.contains .img = false) : t.img = s.img :=
  h .img w
theorem Touch.bmr {L : List Fld} {s t : State} (h : Touch L s t) (w : L.contains .bmr = false) : t.bmr = s.bmr :=
  h .bmr w
theorem Touch.ladder {L : List Fld} {s t : State} (h : Touch L s t) (w : L.contains .ladder = false) : t.ladder = s.ladder :=
  h .ladder w
theorem Touch.tamperLatch {L : List Fld} {s t : State} (h : Touch L s t) (w : L.contains .tamperLatch = false) : t.tamperLatch = s.tamperLatch :=
  h .tamperLatch w
theorem Touch.tamperLevel {L : List Fld} {s t : State} (h : Touch L s t) (w : L.contains .tamperLevel = false) : t.tamperLevel = s.tamperLevel :=
  h .tamperLevel w
theorem Touch.retention {L : List Fld} {s t : State} (h : Touch L s t) (w : L.contains .retention = false) : t.retention = s.retention :=
  h .retention w
theorem Touch.power {L : List Fld} {s t : State} (h : Touch L s t) (w : L.contains .power = false) : t.power = s.power :=
  h .power w
theorem Touch.tcfg {L : List Fld} {s t : State} (h : Touch L s t) (w : L.contains .tcfg = false) : t.tcfg = s.tcfg :=
  h .tcfg w
theorem Touch.ticks {L : List Fld} {s t : State} (h : Touch L s t) (w : L.contains .ticks = false) : t.ticks = s.ticks :=
  h .ticks w
theorem Touch.ovr {L : List Fld} {s t : State} (h : Touch L s t) (w : L.contains .ovr = false) : t.ovr = s.ovr :=
  h .ovr w
theorem Touch.mail {L : List Fld} {s t : State} (h : Touch L s t) (w : L.contains .mail = false) : t.mail = s.mail :=
  h .mail w
theorem Touch.rotation {L : List Fld} {s t : State} (h : Touch L s t) (w : L.contains .rotation = false) : t.rotation = s.rotation :=
  h .rotation w
theorem Touch.cmds {L : List Fld} {s t : State} (h : Touch L s t) (w : L.contains .cmds = false) : t.cmds = s.cmds :=
  h .cmds w
theorem Touch.nextCmd {L : List Fld} {s t : State} (h : Touch L s t) (w : L.contains .nextCmd = false) : t.nextCmd = s.nextCmd :=
  h .nextCmd w
theorem Touch.staged {L : List Fld} {s t : State} (h : Touch L s t) (w : L.contains .staged = false) : t.staged = s.staged :=
  h .staged w
theorem Touch.streams {L : List Fld} {s t : State} (h : Touch L s t) (w : L.contains .streams = false) : t.streams = s.streams :=
  h .streams w
theorem Touch.shots {L : List Fld} {s t : State} (h : Touch L s t) (w : L.contains .shots = false) : t.shots = s.shots :=
  h .shots w
theorem Touch.aux {L : List Fld} {s t : State} (h : Touch L s t) (w : L.contains .aux = false) : t.aux = s.aux :=
  h .aux w
theorem Touch.adm {L : List Fld} {s t : State} (h : Touch L s t) (w : L.contains .adm = false) : t.adm = s.adm :=
  h .adm w
theorem Touch.grace {L : List Fld} {s t : State} (h : Touch L s t) (w : L.contains .grace = false) : t.grace = s.grace :=
  h .grace w
theorem Touch.slots {L : List Fld} {s t : State} (h : Touch L s t) (w : L.contains .slots = false) : t.slots = s.slots :=
  h .slots w
theorem Touch.keyCtl {L : List Fld} {s t : State} (h : Touch L s t) (w : L.contains .keyCtl = false) : t.keyCtl = s.keyCtl :=
  h .keyCtl w
theorem Touch.ent {L : List Fld} {s t : State} (h : Touch L s t) (w : L.contains .ent = false) : t.ent = s.ent :=
  h .ent w
theorem Touch.imports {L : List Fld} {s t : State} (h : Touch L s t) (w : L.contains .imports = false) : t.imports = s.imports :=
  h .imports w
theorem Touch.rings {L : List Fld} {s t : State} (h : Touch L s t) (w : L.contains .rings = false) : t.rings = s.rings :=
  h .rings w
theorem Touch.hostMem {L : List Fld} {s t : State} (h : Touch L s t) (w : L.contains .hostMem = false) : t.hostMem = s.hostMem :=
  h .hostMem w
theorem Touch.jobs {L : List Fld} {s t : State} (h : Touch L s t) (w : L.contains .jobs = false) : t.jobs = s.jobs :=
  h .jobs w
theorem Touch.tx {L : List Fld} {s t : State} (h : Touch L s t) (w : L.contains .tx = false) : t.tx = s.tx :=
  h .tx w
theorem Touch.rx {L : List Fld} {s t : State} (h : Touch L s t) (w : L.contains .rx = false) : t.rx = s.rx :=
  h .rx w
theorem Touch.nextFrame {L : List Fld} {s t : State} (h : Touch L s t) (w : L.contains .nextFrame = false) : t.nextFrame = s.nextFrame :=
  h .nextFrame w
theorem Touch.egSkip {L : List Fld} {s t : State} (h : Touch L s t) (w : L.contains .egSkip = false) : t.egSkip = s.egSkip :=
  h .egSkip w
theorem Touch.eReady {L : List Fld} {s t : State} (h : Touch L s t) (w : L.contains .eReady = false) : t.eReady = s.eReady :=
  h .eReady w
theorem Touch.classifying {L : List Fld} {s t : State} (h : Touch L s t) (w : L.contains .classifying = false) : t.classifying = s.classifying :=
  h .classifying w
theorem Touch.ingress {L : List Fld} {s t : State} (h : Touch L s t) (w : L.contains .ingress = false) : t.ingress = s.ingress :=
  h .ingress w
theorem Touch.ports {L : List Fld} {s t : State} (h : Touch L s t) (w : L.contains .ports = false) : t.ports = s.ports :=
  h .ports w
theorem Touch.pairs {L : List Fld} {s t : State} (h : Touch L s t) (w : L.contains .pairs = false) : t.pairs = s.pairs :=
  h .pairs w
theorem Touch.noticeLog {L : List Fld} {s t : State} (h : Touch L s t) (w : L.contains .noticeLog = false) : t.noticeLog = s.noticeLog :=
  h .noticeLog w
theorem Touch.gates {L : List Fld} {s t : State} (h : Touch L s t) (w : L.contains .gates = false) : t.gates = s.gates :=
  h .gates w
theorem Touch.pubs {L : List Fld} {s t : State} (h : Touch L s t) (w : L.contains .pubs = false) : t.pubs = s.pubs :=
  h .pubs w
theorem Touch.vers {L : List Fld} {s t : State} (h : Touch L s t) (w : L.contains .vers = false) : t.vers = s.vers :=
  h .vers w
theorem Touch.v2 {L : List Fld} {s t : State} (h : Touch L s t) (w : L.contains .v2 = false) : t.v2 = s.v2 :=
  h .v2 w
theorem Touch.bw {L : List Fld} {s t : State} (h : Touch L s t) (w : L.contains .bw = false) : t.bw = s.bw :=
  h .bw w
theorem Touch.pebbles {L : List Fld} {s t : State} (h : Touch L s t) (w : L.contains .pebbles = false) : t.pebbles = s.pebbles :=
  h .pebbles w
theorem Touch.mem {L : List Fld} {s t : State} (h : Touch L s t) (w : L.contains .mem = false) : t.mem = s.mem :=
  h .mem w
theorem Touch.dram {L : List Fld} {s t : State} (h : Touch L s t) (w : L.contains .dram = false) : t.dram = s.dram :=
  h .dram w
theorem Touch.eye {L : List Fld} {s t : State} (h : Touch L s t) (w : L.contains .eye = false) : t.eye = s.eye :=
  h .eye w
theorem Touch.bus {L : List Fld} {s t : State} (h : Touch L s t) (w : L.contains .bus = false) : t.bus = s.bus :=
  h .bus w
theorem Touch.out {L : List Fld} {s t : State} (h : Touch L s t) (w : L.contains .out = false) : t.out = s.out :=
  h .out w

end Sys2Proof.Machine
end

