-- ==== Sys2Proof/Laws/FrameOps.lean ====
section
/-!
SUPPORT. Footprints of the named operations, events and counters, gates and Lockdown: for each function f, whether its result agrees with a
state on the fields outside L is whether its argument does, for every L that contains the fields that f may change.
-/

namespace Sys2Proof.Machine

@[simp] theorem State.atTime_touch {Lt : List Fld} {st0 : State} (s : State) (t : Nat) (wi : within [.now] Lt =
    true) :
    Touch Lt st0 (State.atTime s t) ↔ Touch Lt st0 s :=
  Touch.iff (A := [.now]) (s := s) (t := (State.atTime s t)) (by
  unfold State.atTime
  repeat' (first
    | with_reducible exact Touch.refl _ _
    | (with_reducible refine Touch.upd ?_ ?_
       · (intro f hf; cases f <;> first | exact absurd hf (by decide) | rfl)
       first
       | with_reducible exact Touch.refl _ _))) wi

@[simp] theorem State.draw_touch {Lt : List Fld} {st0 : State} (s : State) (wi : within [.draws] Lt = true) :
    Touch Lt st0 (State.draw s) ↔ Touch Lt st0 s :=
  Touch.iff (A := [.draws]) (s := s) (t := (State.draw s)) (by
  unfold State.draw
  repeat' (first
    | with_reducible exact Touch.refl _ _
    | (with_reducible refine Touch.upd ?_ ?_
       · (intro f hf; cases f <;> first | exact absurd hf (by decide) | rfl)
       first
       | with_reducible exact Touch.refl _ _))) wi

@[simp] theorem State.setStream_touch {Lt : List Fld} {st0 : State} (s : State) (h : Nat) (c : Context) (wi : within
    [.streams] Lt = true) :
    Touch Lt st0 (State.setStream s h c) ↔ Touch Lt st0 s :=
  Touch.iff (A := [.streams]) (s := s) (t := (State.setStream s h c)) (by
  simp only [State.setStream]
  repeat' (first
    | with_reducible exact Touch.refl _ _
    | (with_reducible refine Touch.upd ?_ ?_
       · (intro f hf; cases f <;> first | exact absurd hf (by decide) | rfl)
       first
       | with_reducible exact Touch.refl _ _))) wi

@[simp] theorem State.onShots_touch {Lt : List Fld} {st0 : State} (s : State) (h f : Nat) (g : Context → Context)
    (wi : within [.shots] Lt = true) :
    Touch Lt st0 (State.onShots s h f g) ↔ Touch Lt st0 s :=
  Touch.iff (A := [.shots]) (s := s) (t := (State.onShots s h f g)) (by
  simp only [State.onShots]
  repeat' (first
    | with_reducible exact Touch.refl _ _
    | split
    | dsimp only
    | (with_reducible refine Touch.upd ?_ ?_
       · (intro f hf; cases f <;> first | exact absurd hf (by decide) | rfl)
       first
       | with_reducible exact Touch.refl _ _
       | split))) wi

@[simp] theorem State.setAux_touch {Lt : List Fld} {st0 : State} (s : State) (h : Nat) (a : StreamAux) (wi : within
    [.aux] Lt = true) :
    Touch Lt st0 (State.setAux s h a) ↔ Touch Lt st0 s :=
  Touch.iff (A := [.aux]) (s := s) (t := (State.setAux s h a)) (by
  simp only [State.setAux]
  repeat' (first
    | with_reducible exact Touch.refl _ _
    | (with_reducible refine Touch.upd ?_ ?_
       · (intro f hf; cases f <;> first | exact absurd hf (by decide) | rfl)
       first
       | with_reducible exact Touch.refl _ _))) wi

@[simp] theorem State.setDemand_touch {Lt : List Fld} {st0 : State} (s : State) (h : Nat) (d : Demand) (wi : within
    [.adm] Lt = true) :
    Touch Lt st0 (State.setDemand s h d) ↔ Touch Lt st0 s :=
  Touch.iff (A := [.adm]) (s := s) (t := (State.setDemand s h d)) (by
  simp only [State.setDemand]
  repeat' (first
    | with_reducible exact Touch.refl _ _
    | (with_reducible refine Touch.upd ?_ ?_
       · (intro f hf; cases f <;> first | exact absurd hf (by decide) | rfl)
       first
       | with_reducible exact Touch.refl _ _))) wi

@[simp] theorem State.setSlot_touch {Lt : List Fld} {st0 : State} (s : State) (k : Nat) (v : KeySlot) (wi : within
    [.slots] Lt = true) :
    Touch Lt st0 (State.setSlot s k v) ↔ Touch Lt st0 s :=
  Touch.iff (A := [.slots]) (s := s) (t := (State.setSlot s k v)) (by
  simp only [State.setSlot]
  repeat' (first
    | with_reducible exact Touch.refl _ _
    | (with_reducible refine Touch.upd ?_ ?_
       · (intro f hf; cases f <;> first | exact absurd hf (by decide) | rfl)
       first
       | with_reducible exact Touch.refl _ _))) wi

@[simp] theorem State.setMbox_touch {Lt : List Fld} {st0 : State} (s : State) (m : Nat) (v : Mailbox) (wi : within
    [.mail] Lt = true) :
    Touch Lt st0 (State.setMbox s m v) ↔ Touch Lt st0 s :=
  Touch.iff (A := [.mail]) (s := s) (t := (State.setMbox s m v)) (by
  simp only [State.setMbox]
  repeat' (first
    | with_reducible exact Touch.refl _ _
    | (with_reducible refine Touch.upd ?_ ?_
       · (intro f hf; cases f <;> first | exact absurd hf (by decide) | rfl)
       first
       | with_reducible exact Touch.refl _ _))) wi

@[simp] theorem State.setRing_touch {Lt : List Fld} {st0 : State} (s : State) (h : Nat) (r : Ring) (wi : within
    [.rings] Lt = true) :
    Touch Lt st0 (State.setRing s h r) ↔ Touch Lt st0 s :=
  Touch.iff (A := [.rings]) (s := s) (t := (State.setRing s h r)) (by
  simp only [State.setRing]
  repeat' (first
    | with_reducible exact Touch.refl _ _
    | (with_reducible refine Touch.upd ?_ ?_
       · (intro f hf; cases f <;> first | exact absurd hf (by decide) | rfl)
       first
       | with_reducible exact Touch.refl _ _))) wi

@[simp] theorem State.setPort_touch {Lt : List Fld} {st0 : State} (s : State) (p : Nat) (v : PortState) (wi : within
    [.ports] Lt = true) :
    Touch Lt st0 (State.setPort s p v) ↔ Touch Lt st0 s :=
  Touch.iff (A := [.ports]) (s := s) (t := (State.setPort s p v)) (by
  simp only [State.setPort]
  repeat' (first
    | with_reducible exact Touch.refl _ _
    | (with_reducible refine Touch.upd ?_ ?_
       · (intro f hf; cases f <;> first | exact absurd hf (by decide) | rfl)
       first
       | with_reducible exact Touch.refl _ _))) wi

@[simp] theorem State.setPair_touch {Lt : List Fld} {st0 : State} (s : State) (p : Nat) (v : PairState) (wi : within
    [.pairs] Lt = true) :
    Touch Lt st0 (State.setPair s p v) ↔ Touch Lt st0 s :=
  Touch.iff (A := [.pairs]) (s := s) (t := (State.setPair s p v)) (by
  simp only [State.setPair]
  repeat' (first
    | with_reducible exact Touch.refl _ _
    | (with_reducible refine Touch.upd ?_ ?_
       · (intro f hf; cases f <;> first | exact absurd hf (by decide) | rfl)
       first
       | with_reducible exact Touch.refl _ _))) wi

@[simp] theorem State.setGate_touch {Lt : List Fld} {st0 : State} (s : State) (g : Nat) (v : Gate) (wi : within
    [.gates] Lt = true) :
    Touch Lt st0 (State.setGate s g v) ↔ Touch Lt st0 s :=
  Touch.iff (A := [.gates]) (s := s) (t := (State.setGate s g v)) (by
  simp only [State.setGate]
  repeat' (first
    | with_reducible exact Touch.refl _ _
    | (with_reducible refine Touch.upd ?_ ?_
       · (intro f hf; cases f <;> first | exact absurd hf (by decide) | rfl)
       first
       | with_reducible exact Touch.refl _ _))) wi

@[simp] theorem State.setPub_touch {Lt : List Fld} {st0 : State} (s : State) (n : Nat) (v : Pub) (wi : within
    [.pubs] Lt = true) :
    Touch Lt st0 (State.setPub s n v) ↔ Touch Lt st0 s :=
  Touch.iff (A := [.pubs]) (s := s) (t := (State.setPub s n v)) (by
  simp only [State.setPub]
  repeat' (first
    | with_reducible exact Touch.refl _ _
    | (with_reducible refine Touch.upd ?_ ?_
       · (intro f hf; cases f <;> first | exact absurd hf (by decide) | rfl)
       first
       | with_reducible exact Touch.refl _ _))) wi

@[simp] theorem State.setVer_touch {Lt : List Fld} {st0 : State} (s : State) (n : Nat) (v : Ver) (wi : within
    [.vers] Lt = true) :
    Touch Lt st0 (State.setVer s n v) ↔ Touch Lt st0 s :=
  Touch.iff (A := [.vers]) (s := s) (t := (State.setVer s n v)) (by
  simp only [State.setVer]
  repeat' (first
    | with_reducible exact Touch.refl _ _
    | (with_reducible refine Touch.upd ?_ ?_
       · (intro f hf; cases f <;> first | exact absurd hf (by decide) | rfl)
       first
       | with_reducible exact Touch.refl _ _))) wi

@[simp] theorem State.writeHost_touch {Lt : List Fld} {st0 : State} (s : State) (a : Nat) (bs : List Byte) (wi :
    within [.hostMem] Lt = true) :
    Touch Lt st0 (State.writeHost s a bs) ↔ Touch Lt st0 s :=
  Touch.iff (A := [.hostMem]) (s := s) (t := (State.writeHost s a bs)) (by
  simp only [State.writeHost]
  repeat' (first
    | with_reducible exact Touch.refl _ _
    | (with_reducible refine Touch.upd ?_ ?_
       · (intro f hf; cases f <;> first | exact absurd hf (by decide) | rfl)
       first
       | with_reducible exact Touch.refl _ _))) wi

@[simp] theorem State.bumpPort_touch {Lt : List Fld} {st0 : State} (s : State) (p i k : Nat) (wi : within [.ports]
    Lt = true) :
    Touch Lt st0 (State.bumpPort s p i k) ↔ Touch Lt st0 s :=
  Touch.iff (A := [.ports]) (s := s) (t := (State.bumpPort s p i k)) (by
  simp only [State.bumpPort]
  repeat' (first
    | with_reducible exact Touch.refl _ _
    | dsimp only
    | simp (disch := decide) only [State.setPort_touch])) wi

@[simp] theorem State.bumpPair_touch {Lt : List Fld} {st0 : State} (s : State) (p i : Nat) (wi : within [.pairs] Lt
    = true) :
    Touch Lt st0 (State.bumpPair s p i) ↔ Touch Lt st0 s :=
  Touch.iff (A := [.pairs]) (s := s) (t := (State.bumpPair s p i)) (by
  simp only [State.bumpPair]
  repeat' (first
    | with_reducible exact Touch.refl _ _
    | dsimp only
    | simp (disch := decide) only [State.setPair_touch])) wi

@[simp] theorem State.setTx_touch {Lt : List Fld} {st0 : State} (s : State) (x : TxFrame) (wi : within [.tx] Lt =
    true) :
    Touch Lt st0 (State.setTx s x) ↔ Touch Lt st0 s :=
  Touch.iff (A := [.tx]) (s := s) (t := (State.setTx s x)) (by
  simp only [State.setTx]
  repeat' (first
    | with_reducible exact Touch.refl _ _
    | split
    | dsimp only
    | (with_reducible refine Touch.upd ?_ ?_
       · (intro f hf; cases f <;> first | exact absurd hf (by decide) | rfl)
       first
       | with_reducible exact Touch.refl _ _
       | split))) wi

@[simp] theorem State.setRx_touch {Lt : List Fld} {st0 : State} (s : State) (x : RxFrame) (wi : within [.rx] Lt =
    true) :
    Touch Lt st0 (State.setRx s x) ↔ Touch Lt st0 s :=
  Touch.iff (A := [.rx]) (s := s) (t := (State.setRx s x)) (by
  simp only [State.setRx]
  repeat' (first
    | with_reducible exact Touch.refl _ _
    | split
    | dsimp only
    | (with_reducible refine Touch.upd ?_ ?_
       · (intro f hf; cases f <;> first | exact absurd hf (by decide) | rfl)
       first
       | with_reducible exact Touch.refl _ _
       | split))) wi

@[simp] theorem State.dropTx_touch {Lt : List Fld} {st0 : State} (s : State) (f : Nat) (wi : within [.tx] Lt = true)
    :
    Touch Lt st0 (State.dropTx s f) ↔ Touch Lt st0 s :=
  Touch.iff (A := [.tx]) (s := s) (t := (State.dropTx s f)) (by
  simp only [State.dropTx]
  repeat' (first
    | with_reducible exact Touch.refl _ _
    | dsimp only
    | (with_reducible refine Touch.upd ?_ ?_
       · (intro f hf; cases f <;> first | exact absurd hf (by decide) | rfl)
       first
       | with_reducible exact Touch.refl _ _))) wi

@[simp] theorem State.dropRx_touch {Lt : List Fld} {st0 : State} (s : State) (f : Nat) (wi : within [.rx] Lt = true)
    :
    Touch Lt st0 (State.dropRx s f) ↔ Touch Lt st0 s :=
  Touch.iff (A := [.rx]) (s := s) (t := (State.dropRx s f)) (by
  simp only [State.dropRx]
  repeat' (first
    | with_reducible exact Touch.refl _ _
    | dsimp only
    | (with_reducible refine Touch.upd ?_ ?_
       · (intro f hf; cases f <;> first | exact absurd hf (by decide) | rfl)
       first
       | with_reducible exact Touch.refl _ _))) wi

@[simp] theorem State.onEye_touch {Lt : List Fld} {st0 : State} (s : State) (f : Eye → Eye) (wi : within [.eye] Lt =
    true) :
    Touch Lt st0 (State.onEye s f) ↔ Touch Lt st0 s :=
  Touch.iff (A := [.eye]) (s := s) (t := (State.onEye s f)) (by
  simp only [State.onEye]
  repeat' (first
    | with_reducible exact Touch.refl _ _
    | (with_reducible refine Touch.upd ?_ ?_
       · (intro f hf; cases f <;> first | exact absurd hf (by decide) | rfl)
       first
       | with_reducible exact Touch.refl _ _))) wi

@[simp] theorem State.post_touch {Lt : List Fld} {st0 : State} (s : State) (n : Nat) (wi : within [.eye] Lt = true)
    :
    Touch Lt st0 (State.post s n) ↔ Touch Lt st0 s :=
  Touch.iff (A := [.eye]) (s := s) (t := (State.post s n)) (by
  simp only [State.post]
  repeat' (first
    | with_reducible exact Touch.refl _ _
    | simp (disch := decide) only [State.onEye_touch])) wi

@[simp] theorem State.posts_touch {Lt : List Fld} {st0 : State} (s : State) (ns : List Nat) (wi : within [.eye] Lt =
    true) :
    Touch Lt st0 (State.posts s ns) ↔ Touch Lt st0 s :=
  Touch.iff (A := [.eye]) (s := s) (t := (State.posts s ns)) (by
  unfold State.posts
  exact Touch.foldl (fun t x => by simp (disch := decide)) _ _) wi

@[simp] theorem State.postIf_touch {Lt : List Fld} {st0 : State} (s : State) (c : Bool) (n : Nat) (wi : within
    [.eye] Lt = true) :
    Touch Lt st0 (State.postIf s c n) ↔ Touch Lt st0 s :=
  Touch.iff (A := [.eye]) (s := s) (t := (State.postIf s c n)) (by
  simp only [State.postIf]
  repeat' (first
    | with_reducible exact Touch.refl _ _
    | split
    | simp (disch := decide) only [State.post_touch])) wi

@[simp] theorem State.setLevel_touch {Lt : List Fld} {st0 : State} (s : State) (n : Nat) (lvl : Bool) (wi : within
    [.eye] Lt = true) :
    Touch Lt st0 (State.setLevel s n lvl) ↔ Touch Lt st0 s :=
  Touch.iff (A := [.eye]) (s := s) (t := (State.setLevel s n lvl)) (by
  simp only [State.setLevel]
  repeat' (first
    | with_reducible exact Touch.refl _ _
    | split
    | dsimp only
    | simp (disch := decide) only [State.onEye_touch])) wi

@[simp] theorem State.worked_touch {Lt : List Fld} {st0 : State} (s : State) (u : Nat) (wi : within [.power] Lt =
    true) :
    Touch Lt st0 (State.worked s u) ↔ Touch Lt st0 s :=
  Touch.iff (A := [.power]) (s := s) (t := (State.worked s u)) (by
  simp only [State.worked]
  repeat' (first
    | with_reducible exact Touch.refl _ _
    | (with_reducible refine Touch.upd ?_ ?_
       · (intro f hf; cases f <;> first | exact absurd hf (by decide) | rfl)
       first
       | with_reducible exact Touch.refl _ _))) wi

@[simp] theorem State.busyPulse_touch {Lt : List Fld} {st0 : State} (s : State) (n : Nat) (wi : within [.power,
    .eye] Lt = true) :
    Touch Lt st0 (State.busyPulse s n) ↔ Touch Lt st0 s :=
  Touch.iff (A := [.power, .eye]) (s := s) (t := (State.busyPulse s n)) (by
  simp only [State.busyPulse]
  repeat' (first
    | with_reducible exact Touch.refl _ _
    | split
    | simp (disch := decide) only [State.setLevel_touch, State.worked_touch])) wi

@[simp] theorem State.discardBlocks_touch {Lt : List Fld} {st0 : State} (s : State) (u c n : Nat) (wi : within
    [.eye] Lt = true) :
    Touch Lt st0 (State.discardBlocks s u c n) ↔ Touch Lt st0 s :=
  Touch.iff (A := [.eye]) (s := s) (t := (State.discardBlocks s u c n)) (by
  simp only [State.discardBlocks]
  repeat' (first
    | with_reducible exact Touch.refl _ _
    | (with_reducible refine Touch.upd ?_ ?_
       · (intro f hf; cases f <;> first | exact absurd hf (by decide) | rfl)
       first
       | with_reducible exact Touch.refl _ _))) wi

@[simp] theorem State.count_touch {Lt : List Fld} {st0 : State} (s : State) (code h d k : Nat) (wi : within [.eye]
    Lt = true) :
    Touch Lt st0 (State.count s code h d k) ↔ Touch Lt st0 s :=
  Touch.iff (A := [.eye]) (s := s) (t := (State.count s code h d k)) (by
  simp only [State.count]
  repeat' (first
    | with_reducible exact Touch.refl _ _
    | split
    | dsimp only
    | simp (disch := decide) only [State.onEye_touch])) wi

@[simp] theorem State.logGate_touch {Lt : List Fld} {st0 : State} (s : State) (g : Nat) (x : GateFault) (wi : within
    [.gates, .eye] Lt = true) :
    Touch Lt st0 (State.logGate s g x) ↔ Touch Lt st0 s :=
  Touch.iff (A := [.gates, .eye]) (s := s) (t := (State.logGate s g x)) (by
  simp only [State.logGate]
  repeat' (first
    | with_reducible exact Touch.refl _ _
    | simp (disch := decide) only [State.post_touch, State.setGate_touch])) wi

@[simp] theorem State.windowFault_touch {Lt : List Fld} {st0 : State} (s : State) (c : Cls) (off : Nat) (write :
    Bool) (cause : Nat) (wi : within [.gates, .eye, .bus] Lt = true) :
    Touch Lt st0 (State.windowFault s c off write cause) ↔ Touch Lt st0 s :=
  Touch.iff (A := [.gates, .eye, .bus]) (s := s) (t := (State.windowFault s c off write cause)) (by
  simp only [State.windowFault]
  repeat' (first
    | with_reducible exact Touch.refl _ _
    | split
    | dsimp only
    | simp (disch := decide) only [State.logGate_touch]
    | (with_reducible refine Touch.upd ?_ ?_
       · (intro f hf; cases f <;> first | exact absurd hf (by decide) | rfl)
       first
       | with_reducible exact Touch.refl _ _
       | split
       | simp (disch := decide) only [State.logGate_touch]))) wi

@[simp] theorem goOffline_touch {Lt : List Fld} {st0 : State} (g : Nat) (s : State) (wi : within [.jobs, .gates,
    .eye] Lt = true) :
    Touch Lt st0 (goOffline g s) ↔ Touch Lt st0 s :=
  Touch.iff (A := [.jobs, .gates, .eye]) (s := s) (t := (goOffline g s)) (by
  simp only [goOffline]
  repeat' (first
    | with_reducible exact Touch.refl _ _
    | split
    | dsimp only
    | simp (disch := decide) only [State.post_touch, State.setGate_touch]
    | (with_reducible refine Touch.upd ?_ ?_
       · (intro f hf; cases f <;> first | exact absurd hf (by decide) | rfl)
       first
       | with_reducible exact Touch.refl _ _
       | split
       | simp (disch := decide) only [State.post_touch, State.setGate_touch]))) wi

@[simp] theorem goOnline_touch {Lt : List Fld} {st0 : State} (g : Nat) (s : State) (wi : within [.gates, .eye] Lt =
    true) :
    Touch Lt st0 (goOnline g s) ↔ Touch Lt st0 s :=
  Touch.iff (A := [.gates, .eye]) (s := s) (t := (goOnline g s)) (by
  simp only [goOnline]
  repeat' (first
    | with_reducible exact Touch.refl _ _
    | simp (disch := decide) only [State.post_touch, State.setGate_touch])) wi

@[simp] theorem State.place_touch {Lt : List Fld} {st0 : State} (s : State) (b : Beat) (wi : within [.ingress] Lt =
    true) :
    Touch Lt st0 (State.place s b) ↔ Touch Lt st0 s :=
  Touch.iff (A := [.ingress]) (s := s) (t := (State.place s b)) (by
  simp only [State.place]
  repeat' (first
    | with_reducible exact Touch.refl _ _
    | (with_reducible refine Touch.upd ?_ ?_
       · (intro f hf; cases f <;> first | exact absurd hf (by decide) | rfl)
       first
       | with_reducible exact Touch.refl _ _))) wi

@[simp] theorem State.placeAll_touch {Lt : List Fld} {st0 : State} (s : State) (bs : List Beat) (wi : within
    [.ingress] Lt = true) :
    Touch Lt st0 (State.placeAll s bs) ↔ Touch Lt st0 s :=
  Touch.iff (A := [.ingress]) (s := s) (t := (State.placeAll s bs)) (by
  simp only [State.placeAll]
  repeat' (first
    | with_reducible exact Touch.refl _ _
    | (with_reducible refine Touch.upd ?_ ?_
       · (intro f hf; cases f <;> first | exact absurd hf (by decide) | rfl)
       first
       | with_reducible exact Touch.refl _ _))) wi

@[simp] theorem State.discardCommands_touch {Lt : List Fld} {st0 : State} (s : State) (wi : within [.mail, .cmds,
    .staged, .imports] Lt = true) :
    Touch Lt st0 (State.discardCommands s) ↔ Touch Lt st0 s :=
  Touch.iff (A := [.mail, .cmds, .staged, .imports]) (s := s) (t := (State.discardCommands s)) (by
  simp only [State.discardCommands]
  repeat' (first
    | with_reducible exact Touch.refl _ _
    | (with_reducible refine Touch.upd ?_ ?_
       · (intro f hf; cases f <;> first | exact absurd hf (by decide) | rfl)
       first
       | with_reducible exact Touch.refl _ _))) wi

@[simp] theorem State.zeroise_touch {Lt : List Fld} {st0 : State} (s : State) (wi : within [.fuses, .mail, .cmds,
    .staged, .streams, .aux, .adm, .grace, .slots, .keyCtl, .imports, .jobs, .tx, .rx, .pubs, .vers, .v2, .bw,
    .pebbles, .mem] Lt = true) :
    Touch Lt st0 (State.zeroise s) ↔ Touch Lt st0 s :=
  Touch.iff (A := [.fuses, .mail, .cmds, .staged, .streams, .aux, .adm, .grace, .slots, .keyCtl, .imports, .jobs, .tx, .rx, .pubs, .vers, .v2, .bw, .pebbles, .mem]) (s := s) (t := (State.zeroise s)) (by
  simp only [State.zeroise]
  repeat' (first
    | with_reducible exact Touch.refl _ _
    | dsimp only
    | simp (disch := decide) only [State.discardCommands_touch]
    | (with_reducible refine Touch.upd ?_ ?_
       · (intro f hf; cases f <;> first | exact absurd hf (by decide) | rfl)
       first
       | with_reducible exact Touch.refl _ _
       | simp (disch := decide) only [State.discardCommands_touch]))) wi

@[simp] theorem State.lockdown_touch {Lt : List Fld} {st0 : State} (s : State) (cause : Nat) (wi : within [.mode,
    .cause, .fatal, .fuses, .retention, .power, .mail, .cmds, .staged, .streams, .aux, .adm, .grace, .slots,
    .keyCtl, .imports, .jobs, .tx, .rx, .egSkip, .eReady, .classifying, .ingress, .ports, .pubs, .vers, .v2, .bw,
    .pebbles, .mem, .eye] Lt = true) :
    Touch Lt st0 (State.lockdown s cause) ↔ Touch Lt st0 s :=
  Touch.iff (A := [.mode, .cause, .fatal, .fuses, .retention, .power, .mail, .cmds, .staged, .streams, .aux, .adm, .grace, .slots, .keyCtl, .imports, .jobs, .tx, .rx, .egSkip, .eReady, .classifying, .ingress, .ports, .pubs, .vers, .v2, .bw, .pebbles, .mem, .eye]) (s := s) (t := (State.lockdown s cause)) (by
  simp only [State.lockdown]
  repeat' (first
    | with_reducible exact Touch.refl _ _
    | split
    | dsimp only
    | simp (disch := decide) only [State.placeAll_touch, State.post_touch, State.zeroise_touch]
    | (with_reducible refine Touch.upd ?_ ?_
       · (intro f hf; cases f <;> first | exact absurd hf (by decide) | rfl)
       first
       | with_reducible exact Touch.refl _ _
       | split
       | simp (disch := decide) only [State.placeAll_touch, State.post_touch, State.zeroise_touch]))) wi

end Sys2Proof.Machine
end

