-- ==== Sys2Proof/Laws/FrameRings.lean ====
section
/-!
SUPPORT. Footprints of keys, rings, Eyebright, time and images: for each function f, whether its result agrees with a
state on the fields outside L is whether its argument does, for every L that contains the fields that f may change.
-/

namespace Sys2Proof.Machine

@[simp] theorem State.requestReseed_touch {Lt : List Fld} {st0 : State} (s : State) (withId : Bool) (wi : within
    [.out] Lt = true) :
    Touch Lt st0 (State.requestReseed s withId) ↔ Touch Lt st0 s :=
  Touch.iff (A := [.out]) (s := s) (t := (State.requestReseed s withId)) (by
  simp only [State.requestReseed]
  repeat' (first
    | with_reducible exact Touch.refl _ _
    | split
    | (with_reducible refine Touch.upd ?_ ?_
       · (intro f hf; cases f <;> first | exact absurd hf (by decide) | rfl)
       first
       | with_reducible exact Touch.refl _ _
       | split))) wi

@[simp] theorem State.generated_touch {Lt : List Fld} {st0 : State} (s : State) (k n : Nat) (wi : within [.keyCtl]
    Lt = true) :
    Touch Lt st0 (State.generated s k n) ↔ Touch Lt st0 s :=
  Touch.iff (A := [.keyCtl]) (s := s) (t := (State.generated s k n)) (by
  simp only [State.generated]
  repeat' (first
    | with_reducible exact Touch.refl _ _
    | dsimp only
    | (with_reducible refine Touch.upd ?_ ?_
       · (intro f hf; cases f <;> first | exact absurd hf (by decide) | rfl)
       first
       | with_reducible exact Touch.refl _ _))) wi

@[simp] theorem State.writeSlot_touch {Lt : List Fld} {st0 : State} (s : State) (k : Nat) (key : Key) (attr limit :
    Word) (wi : within [.draws, .slots, .keyCtl, .eye] Lt = true) :
    Touch Lt st0 (State.writeSlot s k key attr limit) ↔ Touch Lt st0 s :=
  Touch.iff (A := [.draws, .slots, .keyCtl, .eye]) (s := s) (t := (State.writeSlot s k key attr limit)) (by
  simp only [State.writeSlot]
  repeat' (first
    | with_reducible exact Touch.refl _ _
    | dsimp only
    | simp (disch := decide) only [State.draw_touch, State.generated_touch, State.post_touch,
          State.setSlot_touch])) wi

@[simp] theorem State.invalidateQuiet_touch {Lt : List Fld} {st0 : State} (s : State) (k : Nat) (wi : within
    [.slots, .keyCtl] Lt = true) :
    Touch Lt st0 (State.invalidateQuiet s k) ↔ Touch Lt st0 s :=
  Touch.iff (A := [.slots, .keyCtl]) (s := s) (t := (State.invalidateQuiet s k)) (by
  simp only [State.invalidateQuiet]
  repeat' (first
    | with_reducible exact Touch.refl _ _
    | split
    | dsimp only
    | simp (disch := decide) only [State.setSlot_touch]
    | (with_reducible refine Touch.upd ?_ ?_
       · (intro f hf; cases f <;> first | exact absurd hf (by decide) | rfl)
       first
       | with_reducible exact Touch.refl _ _
       | split
       | simp (disch := decide) only [State.setSlot_touch]))) wi

@[simp] theorem State.invalidate_touch {Lt : List Fld} {st0 : State} (s : State) (k : Nat) (wi : within [.slots,
    .keyCtl, .eye] Lt = true) :
    Touch Lt st0 (State.invalidate s k) ↔ Touch Lt st0 s :=
  Touch.iff (A := [.slots, .keyCtl, .eye]) (s := s) (t := (State.invalidate s k)) (by
  simp only [State.invalidate]
  repeat' (first
    | with_reducible exact Touch.refl _ _
    | split
    | simp (disch := decide) only [State.invalidateQuiet_touch, State.post_touch])) wi

@[simp] theorem State.invalidateAll_touch {Lt : List Fld} {st0 : State} (s : State) (ks : List Nat) (wi : within
    [.slots, .keyCtl, .eye] Lt = true) :
    Touch Lt st0 (State.invalidateAll s ks) ↔ Touch Lt st0 s :=
  Touch.iff (A := [.slots, .keyCtl, .eye]) (s := s) (t := (State.invalidateAll s ks)) (by
  simp only [State.invalidateAll]
  repeat' (first
    | with_reducible exact Touch.refl _ _
    | simp (disch := decide) only [State.invalidate_touch]
    | refine Touch.foldl_step (fun _ _ => ?_) ?_)) wi

@[simp] theorem State.clearDigest_touch {Lt : List Fld} {st0 : State} (s : State) (d : Nat) (wi : within [.keyCtl,
    .out] Lt = true) :
    Touch Lt st0 (State.clearDigest s d) ↔ Touch Lt st0 s :=
  Touch.iff (A := [.keyCtl, .out]) (s := s) (t := (State.clearDigest s d)) (by
  simp only [State.clearDigest]
  repeat' (first
    | with_reducible exact Touch.refl _ _
    | (with_reducible refine Touch.upd ?_ ?_
       · (intro f hf; cases f <;> first | exact absurd hf (by decide) | rfl)
       first
       | with_reducible exact Touch.refl _ _))) wi

@[simp] theorem State.scrub_touch {Lt : List Fld} {st0 : State} (s : State) (k : Nat) (wi : within [.slots, .keyCtl,
    .out] Lt = true) :
    Touch Lt st0 (State.scrub s k) ↔ Touch Lt st0 s :=
  Touch.iff (A := [.slots, .keyCtl, .out]) (s := s) (t := (State.scrub s k)) (by
  simp only [State.scrub]
  repeat' (first
    | with_reducible exact Touch.refl _ _
    | split
    | dsimp only
    | simp (disch := decide) only [State.clearDigest_touch, State.generated_touch, State.setSlot_touch])) wi

@[simp] theorem State.cellFault_touch {Lt : List Fld} {st0 : State} (s : State) (k : Nat) (wi : within [.mode,
    .cause, .fatal, .fuses, .ladder, .retention, .power, .mail, .cmds, .staged, .streams, .aux, .adm, .grace,
    .slots, .keyCtl, .imports, .jobs, .tx, .rx, .egSkip, .eReady, .classifying, .ingress, .ports, .pubs, .vers, .v2,
    .bw, .pebbles, .mem, .eye] Lt = true) :
    Touch Lt st0 (State.cellFault s k) ↔ Touch Lt st0 s :=
  Touch.iff (A := [.mode, .cause, .fatal, .fuses, .ladder, .retention, .power, .mail, .cmds, .staged, .streams, .aux, .adm, .grace, .slots, .keyCtl, .imports, .jobs, .tx, .rx, .egSkip, .eReady, .classifying, .ingress, .ports, .pubs, .vers, .v2, .bw, .pebbles, .mem, .eye]) (s := s) (t := (State.cellFault s k)) (by
  simp only [State.cellFault]
  repeat' (first
    | with_reducible exact Touch.refl _ _
    | split
    | dsimp only
    | simp (disch := decide) only [State.invalidate_touch, State.lockdown_touch, State.post_touch]
    | (with_reducible refine Touch.upd ?_ ?_
       · (intro f hf; cases f <;> first | exact absurd hf (by decide) | rfl)
       first
       | with_reducible exact Touch.refl _ _
       | split
       | simp (disch := decide) only [State.invalidate_touch, State.lockdown_touch, State.post_touch]))) wi

@[simp] theorem State.limitMet_touch {Lt : List Fld} {st0 : State} (s : State) (u : Nat) (wi : within [.ladder,
    .eye] Lt = true) :
    Touch Lt st0 (State.limitMet s u) ↔ Touch Lt st0 s :=
  Touch.iff (A := [.ladder, .eye]) (s := s) (t := (State.limitMet s u)) (by
  simp only [State.limitMet]
  repeat' (first
    | with_reducible exact Touch.refl _ _
    | dsimp only
    | simp (disch := decide) only [State.post_touch]
    | (with_reducible refine Touch.upd ?_ ?_
       · (intro f hf; cases f <;> first | exact absurd hf (by decide) | rfl)
       first
       | with_reducible exact Touch.refl _ _
       | simp (disch := decide) only [State.post_touch]))) wi

@[simp] theorem State.fetch_touch {Lt : List Fld} {st0 : State} (s : State) (u k use : Nat) (cellFails : Bool) (wi :
    within [.mode, .cause, .fatal, .fuses, .ladder, .retention, .power, .mail, .cmds, .staged, .streams, .aux, .adm,
    .grace, .slots, .keyCtl, .imports, .jobs, .tx, .rx, .egSkip, .eReady, .classifying, .ingress, .ports, .pubs,
    .vers, .v2, .bw, .pebbles, .mem, .eye] Lt = true) :
    Touch Lt st0 (State.fetch s u k use cellFails).2 ↔ Touch Lt st0 s :=
  Touch.iff (A := [.mode, .cause, .fatal, .fuses, .ladder, .retention, .power, .mail, .cmds, .staged, .streams, .aux, .adm, .grace, .slots, .keyCtl, .imports, .jobs, .tx, .rx, .egSkip, .eReady, .classifying, .ingress, .ports, .pubs, .vers, .v2, .bw, .pebbles, .mem, .eye]) (s := s) (t := (State.fetch s u k use cellFails).2) (by
  simp only [State.fetch]
  repeat' (first
    | with_reducible exact Touch.refl _ _
    | split
    | dsimp only
    | simp (disch := decide) only [State.cellFault_touch, State.limitMet_touch, State.post_touch,
          State.setSlot_touch]
    | (with_reducible refine Touch.upd ?_ ?_
       · (intro f hf; cases f <;> first | exact absurd hf (by decide) | rfl)
       first
       | with_reducible exact Touch.refl _ _
       | split
       | simp (disch := decide) only [State.cellFault_touch, State.limitMet_touch, State.post_touch,
             State.setSlot_touch]))) wi

@[simp] theorem State.coreWorks_touch {Lt : List Fld} {st0 : State} (s : State) (u : Nat) (wi : within [.power,
    .eye] Lt = true) :
    Touch Lt st0 (State.coreWorks s u) ↔ Touch Lt st0 s :=
  Touch.iff (A := [.power, .eye]) (s := s) (t := (State.coreWorks s u)) (by
  simp only [State.coreWorks]
  repeat' (first
    | with_reducible exact Touch.refl _ _
    | simp (disch := decide) only [State.busyPulse_touch])) wi

@[simp] theorem State.coreFetch_touch {Lt : List Fld} {st0 : State} (s : State) (u k use : Nat) (cellBad : Bool) (wi
    : within [.mode, .cause, .fatal, .fuses, .ladder, .retention, .power, .mail, .cmds, .staged, .streams, .aux,
    .adm, .grace, .slots, .keyCtl, .imports, .jobs, .tx, .rx, .egSkip, .eReady, .classifying, .ingress, .ports,
    .pubs, .vers, .v2, .bw, .pebbles, .mem, .eye] Lt = true) :
    Touch Lt st0 (State.coreFetch s u k use cellBad).2 ↔ Touch Lt st0 s :=
  Touch.iff (A := [.mode, .cause, .fatal, .fuses, .ladder, .retention, .power, .mail, .cmds, .staged, .streams, .aux, .adm, .grace, .slots, .keyCtl, .imports, .jobs, .tx, .rx, .egSkip, .eReady, .classifying, .ingress, .ports, .pubs, .vers, .v2, .bw, .pebbles, .mem, .eye]) (s := s) (t := (State.coreFetch s u k use cellBad).2) (by
  simp only [State.coreFetch]
  repeat' (first
    | with_reducible exact Touch.refl _ _
    | split
    | dsimp only
    | simp (disch := decide) only [State.fetch_touch, State.postIf_touch]
    | refine Touch.of_pair (by assumption) ?_)) wi

@[simp] theorem State.deriveBy_touch {Lt : List Fld} {st0 : State} (s : State) (u : Nat) (cellBad : Bool) (k parent
    : Nat) (dom : Option Nat) (label : String) (ctx : List Byte) (uses origin : Nat) (expire : Bool) (limit : Word)
    (wi : within [.draws, .mode, .cause, .fatal, .fuses, .ladder, .retention, .power, .mail, .cmds, .staged,
    .streams, .aux, .adm, .grace, .slots, .keyCtl, .imports, .jobs, .tx, .rx, .egSkip, .eReady, .classifying,
    .ingress, .ports, .pubs, .vers, .v2, .bw, .pebbles, .mem, .eye] Lt = true) :
    Touch Lt st0 (State.deriveBy s u cellBad k parent dom label ctx uses origin expire limit).2 ↔ Touch Lt st0 s :=
  Touch.iff (A := [.draws, .mode, .cause, .fatal, .fuses, .ladder, .retention, .power, .mail, .cmds, .staged, .streams, .aux, .adm, .grace, .slots, .keyCtl, .imports, .jobs, .tx, .rx, .egSkip, .eReady, .classifying, .ingress, .ports, .pubs, .vers, .v2, .bw, .pebbles, .mem, .eye]) (s := s) (t := (State.deriveBy s u cellBad k parent dom label ctx uses origin expire limit).2) (by
  simp only [State.deriveBy]
  repeat' (first
    | with_reducible exact Touch.refl _ _
    | split
    | dsimp only
    | simp (disch := decide) only [State.coreFetch_touch, State.coreWorks_touch, State.writeSlot_touch]
    | refine Touch.of_pair (by assumption) ?_)) wi

@[simp] theorem State.deriveSlot_touch {Lt : List Fld} {st0 : State} (s : State) (k parent : Nat) (dom : Option Nat)
    (label : String) (ctx : List Byte) (uses origin : Nat) (expire : Bool) (limit : Word) (wi : within [.draws,
    .mode, .cause, .fatal, .fuses, .ladder, .retention, .power, .mail, .cmds, .staged, .streams, .aux, .adm, .grace,
    .slots, .keyCtl, .imports, .jobs, .tx, .rx, .egSkip, .eReady, .classifying, .ingress, .ports, .pubs, .vers, .v2,
    .bw, .pebbles, .mem, .eye] Lt = true) :
    Touch Lt st0 (State.deriveSlot s k parent dom label ctx uses origin expire limit) ↔ Touch Lt st0 s :=
  Touch.iff (A := [.draws, .mode, .cause, .fatal, .fuses, .ladder, .retention, .power, .mail, .cmds, .staged, .streams, .aux, .adm, .grace, .slots, .keyCtl, .imports, .jobs, .tx, .rx, .egSkip, .eReady, .classifying, .ingress, .ports, .pubs, .vers, .v2, .bw, .pebbles, .mem, .eye]) (s := s) (t := (State.deriveSlot s k parent dom label ctx uses origin expire limit)) (by
  simp only [State.deriveSlot]
  repeat' (first
    | with_reducible exact Touch.refl _ _
    | simp (disch := decide) only [State.deriveBy_touch]
    | refine Touch.of_pair (by assumption) ?_)) wi

@[simp] theorem State.deriveTree_touch {Lt : List Fld} {st0 : State} (s : State) (ladderSlot sealSlot : Nat) (keys
    roots : List Nat) (ids : List Word) (wi : within [.draws, .mode, .cause, .fatal, .fuses, .ladder, .retention,
    .power, .mail, .cmds, .staged, .streams, .aux, .adm, .grace, .slots, .keyCtl, .imports, .jobs, .tx, .rx,
    .egSkip, .eReady, .classifying, .ingress, .ports, .pubs, .vers, .v2, .bw, .pebbles, .mem, .eye] Lt = true) :
    Touch Lt st0 (State.deriveTree s ladderSlot sealSlot keys roots ids) ↔ Touch Lt st0 s :=
  Touch.iff (A := [.draws, .mode, .cause, .fatal, .fuses, .ladder, .retention, .power, .mail, .cmds, .staged, .streams, .aux, .adm, .grace, .slots, .keyCtl, .imports, .jobs, .tx, .rx, .egSkip, .eReady, .classifying, .ingress, .ports, .pubs, .vers, .v2, .bw, .pebbles, .mem, .eye]) (s := s) (t := (State.deriveTree s ladderSlot sealSlot keys roots ids)) (by
  simp only [State.deriveTree]
  repeat' (first
    | with_reducible exact Touch.refl _ _
    | dsimp only
    | simp (disch := decide) only [State.deriveSlot_touch]
    | refine Touch.foldl_step (fun _ _ => ?_) ?_)) wi

@[simp] theorem State.formLadder_touch {Lt : List Fld} {st0 : State} (s : State) (ids : List Word) (wi : within
    [.draws, .mode, .cause, .fatal, .fuses, .ladder, .retention, .power, .mail, .cmds, .staged, .streams, .aux,
    .adm, .grace, .slots, .keyCtl, .imports, .jobs, .tx, .rx, .egSkip, .eReady, .classifying, .ingress, .ports,
    .pubs, .vers, .v2, .bw, .pebbles, .mem, .eye] Lt = true) :
    Touch Lt st0 (State.formLadder s ids) ↔ Touch Lt st0 s :=
  Touch.iff (A := [.draws, .mode, .cause, .fatal, .fuses, .ladder, .retention, .power, .mail, .cmds, .staged, .streams, .aux, .adm, .grace, .slots, .keyCtl, .imports, .jobs, .tx, .rx, .egSkip, .eReady, .classifying, .ingress, .ports, .pubs, .vers, .v2, .bw, .pebbles, .mem, .eye]) (s := s) (t := (State.formLadder s ids)) (by
  simp only [State.formLadder]
  repeat' (first
    | with_reducible exact Touch.refl _ _
    | dsimp only
    | simp (disch := decide) only [State.deriveSlot_touch, State.deriveTree_touch, State.post_touch,
          State.writeSlot_touch]
    | (with_reducible refine Touch.upd ?_ ?_
       · (intro f hf; cases f <;> first | exact absurd hf (by decide) | rfl)
       first
       | with_reducible exact Touch.refl _ _
       | simp (disch := decide) only [State.deriveSlot_touch, State.deriveTree_touch, State.post_touch,
             State.writeSlot_touch]))) wi

@[simp] theorem State.reseedGenerators_touch {Lt : List Fld} {st0 : State} (s : State) (wi : within [.draws,
    .keyCtl, .eye] Lt = true) :
    Touch Lt st0 (State.reseedGenerators s) ↔ Touch Lt st0 s :=
  Touch.iff (A := [.draws, .keyCtl, .eye]) (s := s) (t := (State.reseedGenerators s)) (by
  simp only [State.reseedGenerators]
  repeat' (first
    | with_reducible exact Touch.refl _ _
    | simp (disch := decide) only [State.posts_touch]
    | (with_reducible refine Touch.upd ?_ ?_
       · (intro f hf; cases f <;> first | exact absurd hf (by decide) | rfl)
       first
       | with_reducible exact Touch.refl _ _
       | simp (disch := decide) only [State.posts_touch]))) wi

@[simp] theorem State.stopRing_touch {Lt : List Fld} {st0 : State} (s : State) (h : Nat) (f : GateFault) (wi :
    within [.rings, .gates, .eye] Lt = true) :
    Touch Lt st0 (State.stopRing s h f) ↔ Touch Lt st0 s :=
  Touch.iff (A := [.rings, .gates, .eye]) (s := s) (t := (State.stopRing s h f)) (by
  simp only [State.stopRing]
  repeat' (first
    | with_reducible exact Touch.refl _ _
    | simp (disch := decide) only [State.logGate_touch, State.setRing_touch])) wi

@[simp] theorem State.writeHeader_touch {Lt : List Fld} {st0 : State} (s : State) (h state : Nat) (wi : within
    [.rings, .hostMem, .gates, .eye] Lt = true) :
    Touch Lt st0 (State.writeHeader s h state) ↔ Touch Lt st0 s :=
  Touch.iff (A := [.rings, .hostMem, .gates, .eye]) (s := s) (t := (State.writeHeader s h state)) (by
  simp only [State.writeHeader]
  repeat' (first
    | with_reducible exact Touch.refl _ _
    | split
    | dsimp only
    | simp (disch := decide) only [State.setRing_touch, State.stopRing_touch, State.writeHost_touch])) wi

@[simp] theorem State.writeHeaders_touch {Lt : List Fld} {st0 : State} (s : State) (wi : within [.rings, .hostMem,
    .gates, .eye] Lt = true) :
    Touch Lt st0 (State.writeHeaders s) ↔ Touch Lt st0 s :=
  Touch.iff (A := [.rings, .hostMem, .gates, .eye]) (s := s) (t := (State.writeHeaders s)) (by
  simp only [State.writeHeaders]
  repeat' (first
    | with_reducible exact Touch.refl _ _
    | split
    | dsimp only
    | simp (disch := decide) only [State.writeHeader_touch]
    | refine Touch.foldl_step (fun _ _ => ?_) ?_)) wi

/-- One of two states. -/
theorem State.allot_pick {α : Type} (P : State → Prop) (b : Bool) (e : α) (s t : State) (hs : P s) (ht : P t) :
    P (if b = true then (some e, t) else (none, s)).2 := by
  cases b
  · exact hs
  · exact ht

/-- The allotment, with the entry's number named. -/
theorem State.allot_eq (s : State) (h : Nat) (e : Nat) (he : e = (s.ring h).era * 2 ^ 32 + (s.ring h).reserve) :
    s.allot h = if (s.ring h).room = true then
      (some e, s.setRing h { s.ring h with reserve := inc32 (s.ring h).reserve }) else (none, s) := by rw [he]; rfl

@[simp] theorem State.allot_touch {Lt : List Fld} {st0 : State} (s : State) (h : Nat) (wi : within [.rings] Lt =
    true) :
    Touch Lt st0 (State.allot s h).2 ↔ Touch Lt st0 s :=
  Touch.iff (A := [.rings]) (s := s) (t := (State.allot s h).2) (by
  generalize he : (s.ring h).era * 2 ^ 32 + (s.ring h).reserve = e
  rw [s.allot_eq h e he.symm]
  exact State.allot_pick (Touch [.rings] s) _ _ _ _ (Touch.refl _ _)
    ((State.setRing_touch s h _ (by decide)).mpr (Touch.refl _ _))) wi

@[simp] theorem State.output_touch {Lt : List Fld} {st0 : State} (s : State) (h entry : Nat) (words : List Word)
    (bufAddr : Nat) (buf : List Byte) (wi : within [.rings] Lt = true) :
    Touch Lt st0 (State.output s h entry words bufAddr buf) ↔ Touch Lt st0 s :=
  Touch.iff (A := [.rings]) (s := s) (t := (State.output s h entry words bufAddr buf)) (by
  simp only [State.output]
  repeat' (first
    | with_reducible exact Touch.refl _ _
    | dsimp only
    | simp (disch := decide) only [State.setRing_touch])) wi

@[simp] theorem State.loseCompletion_touch {Lt : List Fld} {st0 : State} (s : State) (h : Nat) (wi : within [.rings]
    Lt = true) :
    Touch Lt st0 (State.loseCompletion s h) ↔ Touch Lt st0 s :=
  Touch.iff (A := [.rings]) (s := s) (t := (State.loseCompletion s h)) (by
  simp only [State.loseCompletion]
  repeat' (first
    | with_reducible exact Touch.refl _ _
    | dsimp only
    | simp (disch := decide) only [State.setRing_touch])) wi

@[simp] theorem State.loseReport_touch {Lt : List Fld} {st0 : State} (s : State) (h : Nat) (wi : within [.rings] Lt
    = true) :
    Touch Lt st0 (State.loseReport s h) ↔ Touch Lt st0 s :=
  Touch.iff (A := [.rings]) (s := s) (t := (State.loseReport s h)) (by
  simp only [State.loseReport]
  repeat' (first
    | with_reducible exact Touch.refl _ _
    | dsimp only
    | simp (disch := decide) only [State.setRing_touch])) wi

@[simp] theorem State.outputOrWait_touch {Lt : List Fld} {st0 : State} (s : State) (h : Nat) (words : List Word) (wi
    : within [.rings] Lt = true) :
    Touch Lt st0 (State.outputOrWait s h words) ↔ Touch Lt st0 s :=
  Touch.iff (A := [.rings]) (s := s) (t := (State.outputOrWait s h words)) (by
  have k : Touch [.rings] s (s.allot h).2 := (State.allot_touch s h (by decide)).mpr (Touch.refl _ _)
  unfold State.outputOrWait
  generalize s.allot h = p at k ⊢
  obtain ⟨o, s1⟩ := p
  cases (s.ring h).waiting.isEmpty
  · exact (State.setRing_touch s h _ (by decide)).mpr (Touch.refl _ _)
  cases o with
  | none => exact (State.setRing_touch s h _ (by decide)).mpr (Touch.refl _ _)
  | some e => exact (State.output_touch s1 h e words 0 [] (by decide)).mpr k) wi

@[simp] theorem State.judgeHeld_touch {Lt : List Fld} {st0 : State} (s : State) (h : Nat) (o : OutRec) (wi : within
    [.rings, .gates, .eye] Lt = true) :
    Touch Lt st0 (State.judgeHeld s h o).2 ↔ Touch Lt st0 s :=
  Touch.iff (A := [.rings, .gates, .eye]) (s := s) (t := (State.judgeHeld s h o).2) (by
  simp only [State.judgeHeld]
  repeat' (first
    | with_reducible exact Touch.refl _ _
    | split
    | dsimp only
    | simp (disch := decide) only [State.logGate_touch, State.setRing_touch])) wi

@[simp] theorem State.traceV2_touch {Lt : List Fld} {st0 : State} (s : State) (h seq : Nat) (wi : within [.v2, .eye]
    Lt = true) :
    Touch Lt st0 (State.traceV2 s h seq) ↔ Touch Lt st0 s :=
  Touch.iff (A := [.v2, .eye]) (s := s) (t := (State.traceV2 s h seq)) (by
  simp only [State.traceV2]
  repeat' (first
    | with_reducible exact Touch.refl _ _
    | split
    | dsimp only
    | (with_reducible refine Touch.upd ?_ ?_
       · (intro f hf; cases f <;> first | exact absurd hf (by decide) | rfl)
       first
       | with_reducible exact Touch.refl _ _
       | split))) wi

@[simp] theorem State.outputWritten_touch {Lt : List Fld} {st0 : State} (s : State) (h : Nat) (o : OutRec) (wi :
    within [.v2, .eye] Lt = true) :
    Touch Lt st0 (State.outputWritten s h o) ↔ Touch Lt st0 s :=
  Touch.iff (A := [.v2, .eye]) (s := s) (t := (State.outputWritten s h o)) (by
  simp only [State.outputWritten]
  repeat' (first
    | with_reducible exact Touch.refl _ _
    | split
    | dsimp only
    | simp (disch := decide) only [State.count_touch, State.traceV2_touch])) wi

@[simp] theorem State.putOutput_touch {Lt : List Fld} {st0 : State} (s : State) (h : Nat) (o : OutRec) (wi : within
    [.rings, .hostMem, .v2, .eye] Lt = true) :
    Touch Lt st0 (State.putOutput s h o) ↔ Touch Lt st0 s :=
  Touch.iff (A := [.rings, .hostMem, .v2, .eye]) (s := s) (t := (State.putOutput s h o)) (by
  simp only [State.putOutput]
  repeat' (first
    | with_reducible exact Touch.refl _ _
    | split
    | dsimp only
    | simp (disch := decide) only [State.outputWritten_touch, State.setRing_touch, State.writeHost_touch])) wi

@[simp] theorem State.raiseRing_touch {Lt : List Fld} {st0 : State} (s : State) (h : Nat) (wi : within [.rings,
    .eye] Lt = true) :
    Touch Lt st0 (State.raiseRing s h) ↔ Touch Lt st0 s :=
  Touch.iff (A := [.rings, .eye]) (s := s) (t := (State.raiseRing s h)) (by
  simp only [State.raiseRing]
  repeat' (first
    | with_reducible exact Touch.refl _ _
    | split
    | dsimp only
    | simp (disch := decide) only [State.onEye_touch, State.setRing_touch])) wi

@[simp] theorem State.doorbellError_touch {Lt : List Fld} {st0 : State} (s : State) (h : Nat) (wi : within [.gates,
    .eye] Lt = true) :
    Touch Lt st0 (State.doorbellError s h) ↔ Touch Lt st0 s :=
  Touch.iff (A := [.gates, .eye]) (s := s) (t := (State.doorbellError s h)) (by
  simp only [State.doorbellError]
  repeat' (first
    | with_reducible exact Touch.refl _ _
    | split
    | dsimp only
    | simp (disch := decide) only [State.post_touch, State.setGate_touch])) wi

@[simp] theorem State.doorbellPost_touch {Lt : List Fld} {st0 : State} (s : State) (h rsvd count : Nat) (wi : within
    [.rings, .gates, .eye] Lt = true) :
    Touch Lt st0 (State.doorbellPost s h rsvd count) ↔ Touch Lt st0 s :=
  Touch.iff (A := [.rings, .gates, .eye]) (s := s) (t := (State.doorbellPost s h rsvd count)) (by
  simp only [State.doorbellPost]
  repeat' (first
    | with_reducible exact Touch.refl _ _
    | split
    | dsimp only
    | simp (disch := decide) only [State.count_touch, State.doorbellError_touch, State.setRing_touch])) wi

@[simp] theorem State.doorbellRelease_touch {Lt : List Fld} {st0 : State} (s : State) (h rsvd count : Nat) (wi :
    within [.rings, .gates, .eye] Lt = true) :
    Touch Lt st0 (State.doorbellRelease s h rsvd count) ↔ Touch Lt st0 s :=
  Touch.iff (A := [.rings, .gates, .eye]) (s := s) (t := (State.doorbellRelease s h rsvd count)) (by
  simp only [State.doorbellRelease]
  repeat' (first
    | with_reducible exact Touch.refl _ _
    | split
    | dsimp only
    | simp (disch := decide) only [State.count_touch, State.doorbellError_touch, State.setRing_touch])) wi

@[simp] theorem State.keepOwed_touch {Lt : List Fld} {st0 : State} (s : State) (h : Nat) (wi : within [.bw] Lt =
    true) :
    Touch Lt st0 (State.keepOwed s h) ↔ Touch Lt st0 s :=
  Touch.iff (A := [.bw]) (s := s) (t := (State.keepOwed s h)) (by
  simp only [State.keepOwed]
  repeat' (first
    | with_reducible exact Touch.refl _ _
    | split
    | dsimp only
    | (with_reducible refine Touch.upd ?_ ?_
       · (intro f hf; cases f <;> first | exact absurd hf (by decide) | rfl)
       first
       | with_reducible exact Touch.refl _ _
       | split))) wi

@[simp] theorem State.freeStream_touch {Lt : List Fld} {st0 : State} (s : State) (h : Nat) (wi : within [.streams,
    .aux, .adm, .slots, .keyCtl, .rings, .bw, .eye] Lt = true) :
    Touch Lt st0 (State.freeStream s h) ↔ Touch Lt st0 s :=
  Touch.iff (A := [.streams, .aux, .adm, .slots, .keyCtl, .rings, .bw, .eye]) (s := s) (t := (State.freeStream s h)) (by
  simp only [State.freeStream]
  repeat' (first
    | with_reducible exact Touch.refl _ _
    | dsimp only
    | simp (disch := decide) only [State.invalidateAll_touch, State.keepOwed_touch, State.post_touch,
          State.setAux_touch, State.setDemand_touch, State.setRing_touch, State.setStream_touch])) wi

@[simp] theorem State.eyePut_touch {Lt : List Fld} {st0 : State} (s : State) (r : EyeRing) (size : Nat) (words :
    List Word) (wi : within [.rings, .hostMem, .gates, .eye] Lt = true) :
    Touch Lt st0 (State.eyePut s r size words) ↔ Touch Lt st0 s :=
  Touch.iff (A := [.rings, .hostMem, .gates, .eye]) (s := s) (t := (State.eyePut s r size words)) (by
  simp only [State.eyePut]
  repeat' (first
    | with_reducible exact Touch.refl _ _
    | split
    | dsimp only
    | simp (disch := decide) only [State.logGate_touch, State.setRing_touch, State.writeHost_touch]
    | (with_reducible refine Touch.upd ?_ ?_
       · (intro f hf; cases f <;> first | exact absurd hf (by decide) | rfl)
       first
       | with_reducible exact Touch.refl _ _
       | split
       | simp (disch := decide) only [State.logGate_touch, State.setRing_touch, State.writeHost_touch]))) wi

@[simp] theorem State.takeSnapshot_touch {Lt : List Fld} {st0 : State} (s : State) (t : Tick) (wi : within [.eye] Lt
    = true) :
    Touch Lt st0 (State.takeSnapshot s t) ↔ Touch Lt st0 s :=
  Touch.iff (A := [.eye]) (s := s) (t := (State.takeSnapshot s t)) (by
  simp only [State.takeSnapshot]
  repeat' (first
    | with_reducible exact Touch.refl _ _
    | split
    | dsimp only
    | (with_reducible refine Touch.upd ?_ ?_
       · (intro f hf; cases f <;> first | exact absurd hf (by decide) | rfl)
       first
       | with_reducible exact Touch.refl _ _
       | split))) wi

@[simp] theorem State.traceFrame_touch {Lt : List Fld} {st0 : State} (s : State) (f : Nat) (egress : Bool) (h d :
    Nat) (wi : within [.eye] Lt = true) :
    Touch Lt st0 (State.traceFrame s f egress h d).2 ↔ Touch Lt st0 s :=
  Touch.iff (A := [.eye]) (s := s) (t := (State.traceFrame s f egress h d).2) (by
  simp only [State.traceFrame]
  repeat' (first
    | with_reducible exact Touch.refl _ _
    | split
    | dsimp only
    | (with_reducible refine Touch.upd ?_ ?_
       · (intro f hf; cases f <;> first | exact absurd hf (by decide) | rfl)
       first
       | with_reducible exact Touch.refl _ _
       | split))) wi

@[simp] theorem State.traceEnd_touch {Lt : List Fld} {st0 : State} (s : State) (f : Nat) (egress : Bool) (w0 w1 :
    Word) (wi : within [.eye] Lt = true) :
    Touch Lt st0 (State.traceEnd s f egress w0 w1) ↔ Touch Lt st0 s :=
  Touch.iff (A := [.eye]) (s := s) (t := (State.traceEnd s f egress w0 w1)) (by
  simp only [State.traceEnd]
  repeat' (first
    | with_reducible exact Touch.refl _ _
    | split
    | dsimp only
    | (with_reducible refine Touch.upd ?_ ?_
       · (intro f hf; cases f <;> first | exact absurd hf (by decide) | rfl)
       first
       | with_reducible exact Touch.refl _ _
       | split))) wi

@[simp] theorem State.writeEoi_touch {Lt : List Fld} {st0 : State} (s : State) (w : Word) (wi : within [.eye] Lt =
    true) :
    Touch Lt st0 (State.writeEoi s w) ↔ Touch Lt st0 s :=
  Touch.iff (A := [.eye]) (s := s) (t := (State.writeEoi s w)) (by
  simp only [State.writeEoi]
  repeat' (first
    | with_reducible exact Touch.refl _ _
    | split
    | (with_reducible refine Touch.upd ?_ ?_
       · (intro f hf; cases f <;> first | exact absurd hf (by decide) | rfl)
       first
       | with_reducible exact Touch.refl _ _
       | split))) wi

@[simp] theorem State.clearStatus_touch {Lt : List Fld} {st0 : State} (s : State) (k : Nat) (w : Word) (posting :
    List Nat) (wi : within [.eye] Lt = true) :
    Touch Lt st0 (State.clearStatus s k w posting) ↔ Touch Lt st0 s :=
  Touch.iff (A := [.eye]) (s := s) (t := (State.clearStatus s k w posting)) (by
  simp only [State.clearStatus]
  repeat' (first
    | with_reducible exact Touch.refl _ _
    | dsimp only
    | simp (disch := decide) only [State.onEye_touch]
    | refine Touch.foldl_step (fun _ _ => ?_) ?_)) wi

@[simp] theorem State.bumpCounter_touch {Lt : List Fld} {st0 : State} (s : State) (n increment : Nat) (wi : within
    [.eye] Lt = true) :
    Touch Lt st0 (State.bumpCounter s n increment) ↔ Touch Lt st0 s :=
  Touch.iff (A := [.eye]) (s := s) (t := (State.bumpCounter s n increment)) (by
  simp only [State.bumpCounter]
  repeat' (first
    | with_reducible exact Touch.refl _ _
    | split
    | dsimp only
    | simp (disch := decide) only [State.onEye_touch])) wi

@[simp] theorem State.writeCounter_touch {Lt : List Fld} {st0 : State} (s : State) (n : Nat) (w : Word) (increment :
    Nat) (wi : within [.eye] Lt = true) :
    Touch Lt st0 (State.writeCounter s n w increment) ↔ Touch Lt st0 s :=
  Touch.iff (A := [.eye]) (s := s) (t := (State.writeCounter s n w increment)) (by
  simp only [State.writeCounter]
  repeat' (first
    | with_reducible exact Touch.refl _ _
    | simp (disch := decide) only [State.bumpCounter_touch]
    | (with_reducible refine Touch.upd ?_ ?_
       · (intro f hf; cases f <;> first | exact absurd hf (by decide) | rfl)
       first
       | with_reducible exact Touch.refl _ _
       | simp (disch := decide) only [State.bumpCounter_touch]))) wi

@[simp] theorem State.settleLevel_touch {Lt : List Fld} {st0 : State} (s : State) (n : Nat) (wi : within [.eye] Lt =
    true) :
    Touch Lt st0 (State.settleLevel s n) ↔ Touch Lt st0 s :=
  Touch.iff (A := [.eye]) (s := s) (t := (State.settleLevel s n)) (by
  simp only [State.settleLevel]
  repeat' (first
    | with_reducible exact Touch.refl _ _
    | split
    | dsimp only
    | simp (disch := decide) only [State.onEye_touch])) wi

@[simp] theorem State.readCounter_touch {Lt : List Fld} {st0 : State} (s : State) (n : Nat) (wi : within [.eye,
    .bus] Lt = true) :
    Touch Lt st0 (State.readCounter s n) ↔ Touch Lt st0 s :=
  Touch.iff (A := [.eye, .bus]) (s := s) (t := (State.readCounter s n)) (by
  simp only [State.readCounter]
  repeat' (first
    | with_reducible exact Touch.refl _ _
    | split
    | dsimp only
    | (with_reducible refine Touch.upd ?_ ?_
       · (intro f hf; cases f <;> first | exact absurd hf (by decide) | rfl)
       first
       | with_reducible exact Touch.refl _ _
       | split))) wi

@[simp] theorem State.writeEyeRelease_touch {Lt : List Fld} {st0 : State} (s : State) (r : EyeRing) (w : Word) (wi :
    within [.rings, .eye] Lt = true) :
    Touch Lt st0 (State.writeEyeRelease s r w) ↔ Touch Lt st0 s :=
  Touch.iff (A := [.rings, .eye]) (s := s) (t := (State.writeEyeRelease s r w)) (by
  simp only [State.writeEyeRelease]
  repeat' (first
    | with_reducible exact Touch.refl _ _
    | split
    | dsimp only
    | simp (disch := decide) only [State.setRing_touch]
    | (with_reducible refine Touch.upd ?_ ?_
       · (intro f hf; cases f <;> first | exact absurd hf (by decide) | rfl)
       first
       | with_reducible exact Touch.refl _ _
       | split
       | simp (disch := decide) only [State.setRing_touch]))) wi

@[simp] theorem State.writeEyeCtrl_touch {Lt : List Fld} {st0 : State} (s : State) (r : EyeRing) (w : Word) (wi :
    within [.rings, .eye] Lt = true) :
    Touch Lt st0 (State.writeEyeCtrl s r w) ↔ Touch Lt st0 s :=
  Touch.iff (A := [.rings, .eye]) (s := s) (t := (State.writeEyeCtrl s r w)) (by
  simp only [State.writeEyeCtrl]
  repeat' (first
    | with_reducible exact Touch.refl _ _
    | simp (disch := decide) only [State.setRing_touch]
    | (with_reducible refine Touch.upd ?_ ?_
       · (intro f hf; cases f <;> first | exact absurd hf (by decide) | rfl)
       first
       | with_reducible exact Touch.refl _ _
       | simp (disch := decide) only [State.setRing_touch]))) wi

@[simp] theorem State.endOfPeriodCounts_touch {Lt : List Fld} {st0 : State} (s : State) (cycles : Nat) (ledger :
    List (List Nat)) (wi : within [.eye] Lt = true) :
    Touch Lt st0 (State.endOfPeriodCounts s cycles ledger) ↔ Touch Lt st0 s :=
  Touch.iff (A := [.eye]) (s := s) (t := (State.endOfPeriodCounts s cycles ledger)) (by
  simp only [State.endOfPeriodCounts]
  repeat' (first
    | with_reducible exact Touch.refl _ _
    | split
    | dsimp only
    | simp (disch := decide) only [State.onEye_touch]
    | refine Touch.foldl_step (fun _ _ => ?_) ?_
    | (with_reducible refine Touch.upd ?_ ?_
       · (intro f hf; cases f <;> first | exact absurd hf (by decide) | rfl)
       first
       | with_reducible exact Touch.refl _ _
       | split
       | simp (disch := decide) only [State.onEye_touch]
       | refine Touch.foldl_step (fun _ _ => ?_) ?_))) wi

@[simp] theorem State.eyeRingsBoundary_touch {Lt : List Fld} {st0 : State} (s : State) (wi : within [.eye] Lt =
    true) :
    Touch Lt st0 (State.eyeRingsBoundary s) ↔ Touch Lt st0 s :=
  Touch.iff (A := [.eye]) (s := s) (t := (State.eyeRingsBoundary s)) (by
  simp only [State.eyeRingsBoundary]
  repeat' (first
    | with_reducible exact Touch.refl _ _
    | split
    | dsimp only
    | (with_reducible refine Touch.upd ?_ ?_
       · (intro f hf; cases f <;> first | exact absurd hf (by decide) | rfl)
       first
       | with_reducible exact Touch.refl _ _
       | split))) wi

@[simp] theorem State.demotion_touch {Lt : List Fld} {st0 : State} (s : State) (h : Nat) (wi : within [.streams,
    .eye] Lt = true) :
    Touch Lt st0 (State.demotion s h) ↔ Touch Lt st0 s :=
  Touch.iff (A := [.streams, .eye]) (s := s) (t := (State.demotion s h)) (by
  simp only [State.demotion]
  repeat' (first
    | with_reducible exact Touch.refl _ _
    | dsimp only
    | simp (disch := decide) only [State.count_touch, State.post_touch, State.setStream_touch])) wi

@[simp] theorem State.police_touch {Lt : List Fld} {st0 : State} (s : State) (h : Nat) (a : Context) (op above :
    Bool) (wi : within [.streams, .eye] Lt = true) :
    Touch Lt st0 (State.police s h a op above).2 ↔ Touch Lt st0 s :=
  Touch.iff (A := [.streams, .eye]) (s := s) (t := (State.police s h a op above).2) (by
  simp only [State.police]
  repeat' (first
    | with_reducible exact Touch.refl _ _
    | split
    | dsimp only
    | simp (disch := decide) only [State.demotion_touch, State.setStream_touch])) wi

@[simp] theorem State.policeClear_touch {Lt : List Fld} {st0 : State} (s : State) (h : Nat) (v : Context) (op :
    Bool) (wi : within [.streams, .aux] Lt = true) :
    Touch Lt st0 (State.policeClear s h v op).2 ↔ Touch Lt st0 s :=
  Touch.iff (A := [.streams, .aux]) (s := s) (t := (State.policeClear s h v op).2) (by
  simp only [State.policeClear]
  repeat' (first
    | with_reducible exact Touch.refl _ _
    | split
    | dsimp only
    | simp (disch := decide) only [State.setAux_touch, State.setStream_touch])) wi

@[simp] theorem State.useSlots_touch {Lt : List Fld} {st0 : State} (s : State) (h : Nat) (op : Bool) (n : Nat) (wi :
    within [.aux] Lt = true) :
    Touch Lt st0 (State.useSlots s h op n) ↔ Touch Lt st0 s :=
  Touch.iff (A := [.aux]) (s := s) (t := (State.useSlots s h op n)) (by
  simp only [State.useSlots]
  repeat' (first
    | with_reducible exact Touch.refl _ _
    | split
    | dsimp only
    | simp (disch := decide) only [State.setAux_touch])) wi

@[simp] theorem State.setQuality_touch {Lt : List Fld} {st0 : State} (s : State) (q : Nat) (wi : within [.ticks,
    .eye] Lt = true) :
    Touch Lt st0 (State.setQuality s q) ↔ Touch Lt st0 s :=
  Touch.iff (A := [.ticks, .eye]) (s := s) (t := (State.setQuality s q)) (by
  simp only [State.setQuality]
  repeat' (first
    | with_reducible exact Touch.refl _ _
    | split
    | dsimp only
    | simp (disch := decide) only [State.posts_touch]
    | (with_reducible refine Touch.upd ?_ ?_
       · (intro f hf; cases f <;> first | exact absurd hf (by decide) | rfl)
       first
       | with_reducible exact Touch.refl _ _
       | split
       | simp (disch := decide) only [State.posts_touch]))) wi

@[simp] theorem State.sampleBus_touch {Lt : List Fld} {st0 : State} (s : State) (seconds : BitVec 48) (nanos :
    BitVec 32) (valid hold : Bool) (wi : within [.ticks, .eye] Lt = true) :
    Touch Lt st0 (State.sampleBus s seconds nanos valid hold) ↔ Touch Lt st0 s :=
  Touch.iff (A := [.ticks, .eye]) (s := s) (t := (State.sampleBus s seconds nanos valid hold)) (by
  simp only [State.sampleBus]
  repeat' (first
    | with_reducible exact Touch.refl _ _
    | simp (disch := decide) only [State.setLevel_touch]
    | (with_reducible refine Touch.upd ?_ ?_
       · (intro f hf; cases f <;> first | exact absurd hf (by decide) | rfl)
       first
       | with_reducible exact Touch.refl _ _
       | simp (disch := decide) only [State.setLevel_touch]))) wi

@[simp] theorem State.align_touch {Lt : List Fld} {st0 : State} (s : State) (wi : within [.ticks, .eye] Lt = true) :
    Touch Lt st0 (State.align s) ↔ Touch Lt st0 s :=
  Touch.iff (A := [.ticks, .eye]) (s := s) (t := (State.align s)) (by
  have k : ∀ (u : TickState) (q : Nat) (l : List Nat), Touch [.ticks, .eye] s
      (({ ({ s with ticks := u } : State) with ticks := { u with quality := q } } : State).posts l) := fun u q l =>
    (State.posts_touch _ l (by decide)).mpr (fun f hf => by cases f <;> first | exact absurd hf (by decide) | rfl)
  unfold State.align
  exact k _ _ _) wi

@[simp] theorem State.activateImage_touch {Lt : List Fld} {st0 : State} (s : State) (slotB : Bool) (img : ImgCfg)
    (wi : within [.nv, .active, .img, .bmr, .ladder, .gates, .out] Lt = true) :
    Touch Lt st0 (State.activateImage s slotB img) ↔ Touch Lt st0 s :=
  Touch.iff (A := [.nv, .active, .img, .bmr, .ladder, .gates, .out]) (s := s) (t := (State.activateImage s slotB img)) (by
  simp only [State.activateImage]
  repeat' (first
    | with_reducible exact Touch.refl _ _
    | dsimp only
    | refine Touch.foldl_step (fun _ _ => ?_) ?_
    | (with_reducible refine Touch.upd ?_ ?_
       · (intro f hf; cases f <;> first | exact absurd hf (by decide) | rfl)
       first
       | with_reducible exact Touch.refl _ _
       | refine Touch.foldl_step (fun _ _ => ?_) ?_))) wi

end Sys2Proof.Machine
end

