-- ==== Sys2Proof/Laws/FrameTeasel.lean ====
section
/-!
SUPPORT. Footprints of Teasel: for each function f, whether its result agrees with a
state on the fields outside L is whether its argument does, for every L that contains the fields that f may change.
-/

namespace Sys2Proof.Machine

@[simp] theorem State.sliceKey_touch {Lt : List Fld} {st0 : State} (s : State) (sl : Nat) (badA badB : Bool) (i :
    Nat) (wi : within [.mode, .cause, .fatal, .fuses, .ladder, .retention, .power, .mail, .cmds, .staged, .streams,
    .aux, .adm, .grace, .slots, .keyCtl, .imports, .jobs, .tx, .rx, .egSkip, .eReady, .classifying, .ingress,
    .ports, .pubs, .vers, .v2, .bw, .pebbles, .mem, .eye] Lt = true) :
    Touch Lt st0 (State.sliceKey s sl badA badB i).2 ↔ Touch Lt st0 s :=
  Touch.iff (A := [.mode, .cause, .fatal, .fuses, .ladder, .retention, .power, .mail, .cmds, .staged, .streams, .aux, .adm, .grace, .slots, .keyCtl, .imports, .jobs, .tx, .rx, .egSkip, .eReady, .classifying, .ingress, .ports, .pubs, .vers, .v2, .bw, .pebbles, .mem, .eye]) (s := s) (t := (State.sliceKey s sl badA badB i).2) (by
  simp only [State.sliceKey]
  repeat' (first
    | with_reducible exact Touch.refl _ _
    | split
    | dsimp only
    | simp (disch := decide) only [State.fetch_touch, State.postIf_touch]
    | refine Touch.of_pair (by assumption) ?_
    | (with_reducible refine Touch.upd ?_ ?_
       · (intro f hf; cases f <;> first | exact absurd hf (by decide) | rfl)
       first
       | with_reducible exact Touch.refl _ _
       | split
       | simp (disch := decide) only [State.fetch_touch, State.postIf_touch]
       | refine Touch.of_pair (by assumption) ?_))) wi

@[simp] theorem State.sliceWorks_touch {Lt : List Fld} {st0 : State} (s : State) (sl : Nat) (wi : within [.power,
    .eye] Lt = true) :
    Touch Lt st0 (State.sliceWorks s sl) ↔ Touch Lt st0 s :=
  Touch.iff (A := [.power, .eye]) (s := s) (t := (State.sliceWorks s sl)) (by
  simp only [State.sliceWorks]
  repeat' (first
    | with_reducible exact Touch.refl _ _
    | simp (disch := decide) only [State.busyPulse_touch])) wi

@[simp] theorem State.memLog_touch {Lt : List Fld} {st0 : State} (s : State) (x : MemFault) (wi : within [.mem] Lt =
    true) :
    Touch Lt st0 (State.memLog s x) ↔ Touch Lt st0 s :=
  Touch.iff (A := [.mem]) (s := s) (t := (State.memLog s x)) (by
  simp only [State.memLog]
  repeat' (first
    | with_reducible exact Touch.refl _ _
    | split
    | dsimp only
    | (with_reducible refine Touch.upd ?_ ?_
       · (intro f hf; cases f <;> first | exact absurd hf (by decide) | rfl)
       first
       | with_reducible exact Touch.refl _ _
       | split))) wi

@[simp] theorem State.memOutcome_touch {Lt : List Fld} {st0 : State} (s : State) (x : MemFault) (wi : within [.mem,
    .eye] Lt = true) :
    Touch Lt st0 (State.memOutcome s x) ↔ Touch Lt st0 s :=
  Touch.iff (A := [.mem, .eye]) (s := s) (t := (State.memOutcome s x)) (by
  simp only [State.memOutcome]
  repeat' (first
    | with_reducible exact Touch.refl _ _
    | split
    | dsimp only
    | simp (disch := decide) only [State.memLog_touch, State.post_touch])) wi

@[simp] theorem State.poisonNode_touch {Lt : List Fld} {st0 : State} (s : State) (i level j : Nat) (wi : within
    [.mem, .eye] Lt = true) :
    Touch Lt st0 (State.poisonNode s i level j) ↔ Touch Lt st0 s :=
  Touch.iff (A := [.mem, .eye]) (s := s) (t := (State.poisonNode s i level j)) (by
  simp only [State.poisonNode]
  repeat' (first
    | with_reducible exact Touch.refl _ _
    | split
    | simp (disch := decide) only [State.post_touch]
    | (with_reducible refine Touch.upd ?_ ?_
       · (intro f hf; cases f <;> first | exact absurd hf (by decide) | rfl)
       first
       | with_reducible exact Touch.refl _ _
       | split
       | simp (disch := decide) only [State.post_touch]))) wi

@[simp] theorem State.poisonAllSpaces_touch {Lt : List Fld} {st0 : State} (s : State) (wi : within [.mem] Lt = true)
    :
    Touch Lt st0 (State.poisonAllSpaces s) ↔ Touch Lt st0 s :=
  Touch.iff (A := [.mem]) (s := s) (t := (State.poisonAllSpaces s)) (by
  simp only [State.poisonAllSpaces]
  repeat' (first
    | with_reducible exact Touch.refl _ _
    | dsimp only
    | refine Touch.foldl_step (fun _ _ => ?_) ?_
    | (with_reducible refine Touch.upd ?_ ?_
       · (intro f hf; cases f <;> first | exact absurd hf (by decide) | rfl)
       first
       | with_reducible exact Touch.refl _ _
       | refine Touch.foldl_step (fun _ _ => ?_) ?_))) wi

@[simp] theorem State.poisonSpace_touch {Lt : List Fld} {st0 : State} (s : State) (i a level : Nat) (wi : within
    [.mem, .eye] Lt = true) :
    Touch Lt st0 (State.poisonSpace s i a level) ↔ Touch Lt st0 s :=
  Touch.iff (A := [.mem, .eye]) (s := s) (t := (State.poisonSpace s i a level)) (by
  simp only [State.poisonSpace]
  repeat' (first
    | with_reducible exact Touch.refl _ _
    | simp (disch := decide) only [State.memOutcome_touch]
    | (with_reducible refine Touch.upd ?_ ?_
       · (intro f hf; cases f <;> first | exact absurd hf (by decide) | rfl)
       first
       | with_reducible exact Touch.refl _ _
       | simp (disch := decide) only [State.memOutcome_touch]))) wi

@[simp] theorem State.resetMemPlane_touch {Lt : List Fld} {st0 : State} (s : State) (wi : within [.pebbles, .mem] Lt
    = true) :
    Touch Lt st0 (State.resetMemPlane s) ↔ Touch Lt st0 s :=
  Touch.iff (A := [.pebbles, .mem]) (s := s) (t := (State.resetMemPlane s)) (by
  simp only [State.resetMemPlane]
  repeat' (first
    | with_reducible exact Touch.refl _ _
    | dsimp only
    | (with_reducible refine Touch.upd ?_ ?_
       · (intro f hf; cases f <;> first | exact absurd hf (by decide) | rfl)
       first
       | with_reducible exact Touch.refl _ _))) wi

@[simp] theorem State.writeDram_touch {Lt : List Fld} {st0 : State} (s : State) (a : Nat) (bs : List Byte) (wi :
    within [.dram] Lt = true) :
    Touch Lt st0 (State.writeDram s a bs) ↔ Touch Lt st0 s :=
  Touch.iff (A := [.dram]) (s := s) (t := (State.writeDram s a bs)) (by
  simp only [State.writeDram]
  repeat' (first
    | with_reducible exact Touch.refl _ _
    | (with_reducible refine Touch.upd ?_ ?_
       · (intro f hf; cases f <;> first | exact absurd hf (by decide) | rfl)
       first
       | with_reducible exact Touch.refl _ _))) wi

@[simp] theorem State.eccSeen_touch {Lt : List Fld} {st0 : State} (s : State) (e : Ecc) (wi : within [.eye] Lt =
    true) :
    Touch Lt st0 (State.eccSeen s e) ↔ Touch Lt st0 s :=
  Touch.iff (A := [.eye]) (s := s) (t := (State.eccSeen s e)) (by
  simp only [State.eccSeen]
  repeat' (first
    | with_reducible exact Touch.refl _ _
    | simp (disch := decide) only [State.postIf_touch])) wi

@[simp] theorem State.putNode_touch {Lt : List Fld} {st0 : State} (s : State) (i level j : Nat) (ctrs : List Nat)
    (dirty : Bool) (wi : within [.mem] Lt = true) :
    Touch Lt st0 (State.putNode s i level j ctrs dirty) ↔ Touch Lt st0 s :=
  Touch.iff (A := [.mem]) (s := s) (t := (State.putNode s i level j ctrs dirty)) (by
  simp only [State.putNode]
  repeat' (first
    | with_reducible exact Touch.refl _ _
    | split
    | dsimp only
    | (with_reducible refine Touch.upd ?_ ?_
       · (intro f hf; cases f <;> first | exact absurd hf (by decide) | rfl)
       first
       | with_reducible exact Touch.refl _ _
       | split))) wi

@[simp] theorem State.dropNode_touch {Lt : List Fld} {st0 : State} (s : State) (i level j : Nat) (wi : within [.mem]
    Lt = true) :
    Touch Lt st0 (State.dropNode s i level j) ↔ Touch Lt st0 s :=
  Touch.iff (A := [.mem]) (s := s) (t := (State.dropNode s i level j)) (by
  simp only [State.dropNode]
  repeat' (first
    | with_reducible exact Touch.refl _ _
    | dsimp only
    | (with_reducible refine Touch.upd ?_ ?_
       · (intro f hf; cases f <;> first | exact absurd hf (by decide) | rfl)
       first
       | with_reducible exact Touch.refl _ _))) wi

@[simp] theorem State.dropTag_touch {Lt : List Fld} {st0 : State} (s : State) (a : Nat) (wi : within [.mem] Lt =
    true) :
    Touch Lt st0 (State.dropTag s a) ↔ Touch Lt st0 s :=
  Touch.iff (A := [.mem]) (s := s) (t := (State.dropTag s a)) (by
  simp only [State.dropTag]
  repeat' (first
    | with_reducible exact Touch.refl _ _
    | dsimp only
    | (with_reducible refine Touch.upd ?_ ?_
       · (intro f hf; cases f <;> first | exact absurd hf (by decide) | rfl)
       first
       | with_reducible exact Touch.refl _ _))) wi

@[simp] theorem State.trimTags_touch {Lt : List Fld} {st0 : State} (s : State) (a : Nat) (wi : within [.mem, .dram]
    Lt = true) :
    Touch Lt st0 (State.trimTags s a) ↔ Touch Lt st0 s :=
  Touch.iff (A := [.mem, .dram]) (s := s) (t := (State.trimTags s a)) (by
  simp only [State.trimTags]
  repeat' (first
    | with_reducible exact Touch.refl _ _
    | split
    | dsimp only
    | simp (disch := decide) only [State.dropTag_touch, State.writeDram_touch])) wi

@[simp] theorem State.putTagLine_touch {Lt : List Fld} {st0 : State} (s : State) (a : Nat) (bytes : List Byte)
    (dirty : Bool) (wi : within [.mem, .dram] Lt = true) :
    Touch Lt st0 (State.putTagLine s a bytes dirty) ↔ Touch Lt st0 s :=
  Touch.iff (A := [.mem, .dram]) (s := s) (t := (State.putTagLine s a bytes dirty)) (by
  simp only [State.putTagLine]
  repeat' (first
    | with_reducible exact Touch.refl _ _
    | dsimp only
    | simp (disch := decide) only [State.trimTags_touch]
    | (with_reducible refine Touch.upd ?_ ?_
       · (intro f hf; cases f <;> first | exact absurd hf (by decide) | rfl)
       first
       | with_reducible exact Touch.refl _ _
       | simp (disch := decide) only [State.trimTags_touch]))) wi

@[simp] theorem State.tagLine_touch {Lt : List Fld} {st0 : State} (s : State) (lines : List DramLine) (a : Nat) (wi
    : within [.mem, .dram, .eye] Lt = true) :
    Touch Lt st0 (State.tagLine s lines a).2 ↔ Touch Lt st0 s :=
  Touch.iff (A := [.mem, .dram, .eye]) (s := s) (t := (State.tagLine s lines a).2) (by
  simp only [State.tagLine]
  repeat' (first
    | with_reducible exact Touch.refl _ _
    | split
    | dsimp only
    | simp (disch := decide) only [State.eccSeen_touch, State.post_touch, State.putTagLine_touch])) wi

@[simp] theorem State.writeTag_touch {Lt : List Fld} {st0 : State} (s : State) (lines : List DramLine) (i port a :
    Nat) (tag : List Byte) (engine seen : Bool) (wi : within [.mem, .dram, .eye] Lt = true) :
    Touch Lt st0 (State.writeTag s lines i port a tag engine seen) ↔ Touch Lt st0 s :=
  Touch.iff (A := [.mem, .dram, .eye]) (s := s) (t := (State.writeTag s lines i port a tag engine seen)) (by
  simp only [State.writeTag]
  repeat' (first
    | with_reducible exact Touch.refl _ _
    | split
    | dsimp only
    | simp (disch := decide) only [State.memOutcome_touch, State.putTagLine_touch, State.tagLine_touch,
          State.writeDram_touch]
    | refine Touch.of_pair (by assumption) ?_)) wi

@[simp] theorem State.countWalk_touch {Lt : List Fld} {st0 : State} (s : State) (i n : Nat) (wi : within [.eye] Lt =
    true) :
    Touch Lt st0 (State.countWalk s i n) ↔ Touch Lt st0 s :=
  Touch.iff (A := [.eye]) (s := s) (t := (State.countWalk s i n)) (by
  simp only [State.countWalk]
  repeat' (first
    | with_reducible exact Touch.refl _ _
    | split
    | simp (disch := decide) only [State.post_touch])) wi

@[simp] theorem State.touchNode_touch {Lt : List Fld} {st0 : State} (s : State) (i fuel level k : Nat)
    (wi : within [.mem] Lt = true) : Touch Lt st0 (State.touchNode s i fuel level k) ↔ Touch Lt st0 s :=
  Touch.iff (A := [.mem]) (by
    induction fuel generalizing level k with
    | zero => exact Touch.refl _ _
    | succ n ih =>
      rw [State.touchNode]
      split
      · exact (State.putNode_touch _ _ _ _ _ _ (by decide)).mpr (Touch.refl _ _)
      · split
        · exact Touch.refl _ _
        · exact ih _ _) wi

@[simp] theorem readData_touch {Lt : List Fld} {st0 : State} (k : MemKey) (lines : List DramLine) (i n a : Nat) (s :
    State) (wi : within [.mem, .dram, .eye] Lt = true) :
    Touch Lt st0 (readData k lines i n a s).2.2 ↔ Touch Lt st0 s :=
  Touch.iff (A := [.mem, .dram, .eye]) (s := s) (t := (readData k lines i n a s).2.2) (by
  simp only [readData]
  repeat' (first
    | with_reducible exact Touch.refl _ _
    | split
    | dsimp only
    | simp (disch := decide) only [State.eccSeen_touch, State.tagLine_touch]
    | refine Touch.of_pair (by assumption) ?_)) wi

@[simp] theorem State.integrityFailure_touch {Lt : List Fld} {st0 : State} (s : State) (x : MemFault) (wi : within
    [.mode, .cause, .fatal, .fuses, .retention, .power, .mail, .cmds, .staged, .streams, .aux, .adm, .grace, .slots,
    .keyCtl, .imports, .jobs, .tx, .rx, .egSkip, .eReady, .classifying, .ingress, .ports, .pubs, .vers, .v2, .bw,
    .pebbles, .mem, .eye] Lt = true) :
    Touch Lt st0 (State.integrityFailure s x) ↔ Touch Lt st0 s :=
  Touch.iff (A := [.mode, .cause, .fatal, .fuses, .retention, .power, .mail, .cmds, .staged, .streams, .aux, .adm, .grace, .slots, .keyCtl, .imports, .jobs, .tx, .rx, .egSkip, .eReady, .classifying, .ingress, .ports, .pubs, .vers, .v2, .bw, .pebbles, .mem, .eye]) (s := s) (t := (State.integrityFailure s x)) (by
  simp only [State.integrityFailure]
  repeat' (first
    | with_reducible exact Touch.refl _ _
    | simp (disch := decide) only [State.lockdown_touch, State.memOutcome_touch])) wi

@[simp] theorem State.blocksLost_touch {Lt : List Fld} {st0 : State} (s : State) (sl : Nat) (w : Walk) (wi : within
    [.eye] Lt = true) :
    Touch Lt st0 (State.blocksLost s sl w) ↔ Touch Lt st0 s :=
  Touch.iff (A := [.eye]) (s := s) (t := (State.blocksLost s sl w)) (by
  simp only [State.blocksLost]
  repeat' (first
    | with_reducible exact Touch.refl _ _
    | split
    | dsimp only
    | simp (disch := decide) only [State.discardBlocks_touch])) wi

@[simp] theorem State.walkFailed_touch {Lt : List Fld} {st0 : State} (s : State) (w : Walk) (addr i port : Nat)
    (write engine : Bool) (wi : within [.mode, .cause, .fatal, .fuses, .retention, .power, .mail, .cmds, .staged,
    .streams, .aux, .adm, .grace, .slots, .keyCtl, .imports, .jobs, .tx, .rx, .egSkip, .eReady, .classifying,
    .ingress, .ports, .pubs, .vers, .v2, .bw, .pebbles, .mem, .eye] Lt = true) :
    Touch Lt st0 (State.walkFailed s w addr i port write engine) ↔ Touch Lt st0 s :=
  Touch.iff (A := [.mode, .cause, .fatal, .fuses, .retention, .power, .mail, .cmds, .staged, .streams, .aux, .adm, .grace, .slots, .keyCtl, .imports, .jobs, .tx, .rx, .egSkip, .eReady, .classifying, .ingress, .ports, .pubs, .vers, .v2, .bw, .pebbles, .mem, .eye]) (s := s) (t := (State.walkFailed s w addr i port write engine)) (by
  simp only [State.walkFailed]
  repeat' (first
    | with_reducible exact Touch.refl _ _
    | split
    | dsimp only
    | simp (disch := decide) only [State.integrityFailure_touch, State.memOutcome_touch, State.poisonNode_touch])) wi

@[simp] theorem State.chipError_touch {Lt : List Fld} {st0 : State} (s : State) (e : ChipError) (wi : within [.mem,
    .eye] Lt = true) :
    Touch Lt st0 (State.chipError s e) ↔ Touch Lt st0 s :=
  Touch.iff (A := [.mem, .eye]) (s := s) (t := (State.chipError s e)) (by
  simp only [State.chipError]
  repeat' (first
    | with_reducible exact Touch.refl _ _
    | split
    | dsimp only
    | simp (disch := decide) only [State.dropNode_touch, State.dropTag_touch, State.poisonSpace_touch,
          State.post_touch])) wi

@[simp] theorem State.chipErrors_touch {Lt : List Fld} {st0 : State} (s : State) (es : List ChipError) (wi : within
    [.mem, .eye] Lt = true) :
    Touch Lt st0 (State.chipErrors s es) ↔ Touch Lt st0 s :=
  Touch.iff (A := [.mem, .eye]) (s := s) (t := (State.chipErrors s es)) (by
  simp only [State.chipErrors]
  repeat' (first
    | with_reducible exact Touch.refl _ _
    | simp (disch := decide) only [State.chipError_touch]
    | refine Touch.foldl_step (fun _ _ => ?_) ?_)) wi

@[simp] theorem State.writeLine_touch {Lt : List Fld} {st0 : State} (s : State) (k : MemKey) (lines : List DramLine)
    (i n a port : Nat) (seen : Bool) (plain : List Byte) (wi : within [.mem, .dram, .eye] Lt = true) :
    Touch Lt st0 (State.writeLine s k lines i n a port seen plain) ↔ Touch Lt st0 s :=
  Touch.iff (A := [.mem, .dram, .eye]) (s := s) (t := (State.writeLine s k lines i n a port seen plain)) (by
  simp only [State.writeLine]
  repeat' (first
    | with_reducible exact Touch.refl _ _
    | split
    | dsimp only
    | simp (disch := decide) only [State.memOutcome_touch, State.putNode_touch, State.writeDram_touch,
          State.writeTag_touch])) wi

@[simp] theorem State.partialRefused_touch {Lt : List Fld} {st0 : State} (s : State) (e : WmEntry) (wi : within
    [.mem, .eye] Lt = true) :
    Touch Lt st0 (State.partialRefused s e) ↔ Touch Lt st0 s :=
  Touch.iff (A := [.mem, .eye]) (s := s) (t := (State.partialRefused s e)) (by
  simp only [State.partialRefused]
  repeat' (first
    | with_reducible exact Touch.refl _ _
    | split
    | simp (disch := decide) only [State.memOutcome_touch])) wi

@[simp] theorem State.flushTags_touch {Lt : List Fld} {st0 : State} (s : State) (wi : within [.mem, .dram] Lt =
    true) :
    Touch Lt st0 (State.flushTags s) ↔ Touch Lt st0 s :=
  Touch.iff (A := [.mem, .dram]) (s := s) (t := (State.flushTags s)) (by
  simp only [State.flushTags]
  repeat' (first
    | with_reducible exact Touch.refl _ _
    | dsimp only
    | simp (disch := decide) only [State.writeDram_touch]
    | refine Touch.foldl_step (fun _ _ => ?_) ?_
    | (with_reducible refine Touch.upd ?_ ?_
       · (intro f hf; cases f <;> first | exact absurd hf (by decide) | rfl)
       first
       | with_reducible exact Touch.refl _ _
       | simp (disch := decide) only [State.writeDram_touch]
       | refine Touch.foldl_step (fun _ _ => ?_) ?_))) wi

@[simp] theorem State.dropKeys_touch {Lt : List Fld} {st0 : State} (s : State) (p : Nat → Bool) (wi : within [.mem]
    Lt = true) :
    Touch Lt st0 (State.dropKeys s p) ↔ Touch Lt st0 s :=
  Touch.iff (A := [.mem]) (s := s) (t := (State.dropKeys s p)) (by
  simp only [State.dropKeys]
  repeat' (first
    | with_reducible exact Touch.refl _ _
    | dsimp only
    | (with_reducible refine Touch.upd ?_ ?_
       · (intro f hf; cases f <;> first | exact absurd hf (by decide) | rfl)
       first
       | with_reducible exact Touch.refl _ _))) wi

@[simp] theorem State.clearReplies_touch {Lt : List Fld} {st0 : State} (s : State) (wi : within [.mem] Lt = true) :
    Touch Lt st0 (State.clearReplies s) ↔ Touch Lt st0 s :=
  Touch.iff (A := [.mem]) (s := s) (t := (State.clearReplies s)) (by
  simp only [State.clearReplies]
  repeat' (first
    | with_reducible exact Touch.refl _ _
    | (with_reducible refine Touch.upd ?_ ?_
       · (intro f hf; cases f <;> first | exact absurd hf (by decide) | rfl)
       first
       | with_reducible exact Touch.refl _ _))) wi

@[simp] theorem State.memReply_touch {Lt : List Fld} {st0 : State} (s : State) (r : MemReply) (wi : within [.mem] Lt
    = true) :
    Touch Lt st0 (State.memReply s r) ↔ Touch Lt st0 s :=
  Touch.iff (A := [.mem]) (s := s) (t := (State.memReply s r)) (by
  simp only [State.memReply]
  repeat' (first
    | with_reducible exact Touch.refl _ _
    | (with_reducible refine Touch.upd ?_ ?_
       · (intro f hf; cases f <;> first | exact absurd hf (by decide) | rfl)
       first
       | with_reducible exact Touch.refl _ _))) wi

@[simp] theorem State.refuseAccess_touch {Lt : List Fld} {st0 : State} (s : State) (a : MemAccess) (f : MemFault)
    (wi : within [.mem, .eye] Lt = true) :
    Touch Lt st0 (State.refuseAccess s a f) ↔ Touch Lt st0 s :=
  Touch.iff (A := [.mem, .eye]) (s := s) (t := (State.refuseAccess s a f)) (by
  simp only [State.refuseAccess]
  repeat' (first
    | with_reducible exact Touch.refl _ _
    | split
    | dsimp only
    | simp (disch := decide) only [State.memOutcome_touch, State.memReply_touch])) wi

@[simp] theorem State.waitRead_touch {Lt : List Fld} {st0 : State} (s : State) (a : MemAccess) (sl : Nat) (wi :
    within [.mem] Lt = true) :
    Touch Lt st0 (State.waitRead s a sl) ↔ Touch Lt st0 s :=
  Touch.iff (A := [.mem]) (s := s) (t := (State.waitRead s a sl)) (by
  simp only [State.waitRead]
  repeat' (first
    | with_reducible exact Touch.refl _ _
    | split
    | dsimp only
    | (with_reducible refine Touch.upd ?_ ?_
       · (intro f hf; cases f <;> first | exact absurd hf (by decide) | rfl)
       first
       | with_reducible exact Touch.refl _ _
       | split))) wi

@[simp] theorem State.answerNow_touch {Lt : List Fld} {st0 : State} (s : State) (a : MemAccess) (bytes : List Byte)
    (wi : within [.mem, .eye] Lt = true) :
    Touch Lt st0 (State.answerNow s a bytes) ↔ Touch Lt st0 s :=
  Touch.iff (A := [.mem, .eye]) (s := s) (t := (State.answerNow s a bytes)) (by
  simp only [State.answerNow]
  repeat' (first
    | with_reducible exact Touch.refl _ _
    | simp (disch := decide) only [State.post_touch]
    | (with_reducible refine Touch.upd ?_ ?_
       · (intro f hf; cases f <;> first | exact absurd hf (by decide) | rfl)
       first
       | with_reducible exact Touch.refl _ _
       | simp (disch := decide) only [State.post_touch]))) wi

@[simp] theorem State.takeWrite_touch {Lt : List Fld} {st0 : State} (s : State) (a : MemAccess) (wi : within [.mem,
    .eye] Lt = true) :
    Touch Lt st0 (State.takeWrite s a) ↔ Touch Lt st0 s :=
  Touch.iff (A := [.mem, .eye]) (s := s) (t := (State.takeWrite s a)) (by
  simp only [State.takeWrite]
  repeat' (first
    | with_reducible exact Touch.refl _ _
    | split
    | dsimp only
    | simp (disch := decide) only [State.memReply_touch, State.post_touch]
    | (with_reducible refine Touch.upd ?_ ?_
       · (intro f hf; cases f <;> first | exact absurd hf (by decide) | rfl)
       first
       | with_reducible exact Touch.refl _ _
       | split
       | simp (disch := decide) only [State.memReply_touch, State.post_touch]))) wi

@[simp] theorem State.takeRead_touch {Lt : List Fld} {st0 : State} (s : State) (a : MemAccess) (u : MemUnit) (wi :
    within [.mode, .cause, .fatal, .fuses, .ladder, .retention, .power, .mail, .cmds, .staged, .streams, .aux, .adm,
    .grace, .slots, .keyCtl, .imports, .jobs, .tx, .rx, .egSkip, .eReady, .classifying, .ingress, .ports, .pubs,
    .vers, .v2, .bw, .pebbles, .mem, .eye] Lt = true) :
    Touch Lt st0 (State.takeRead s a u) ↔ Touch Lt st0 s :=
  Touch.iff (A := [.mode, .cause, .fatal, .fuses, .ladder, .retention, .power, .mail, .cmds, .staged, .streams, .aux, .adm, .grace, .slots, .keyCtl, .imports, .jobs, .tx, .rx, .egSkip, .eReady, .classifying, .ingress, .ports, .pubs, .vers, .v2, .bw, .pebbles, .mem, .eye]) (s := s) (t := (State.takeRead s a u)) (by
  simp only [State.takeRead]
  repeat' (first
    | with_reducible exact Touch.refl _ _
    | split
    | dsimp only
    | simp (disch := decide) only [State.answerNow_touch, State.countWalk_touch, State.post_touch,
          State.refuseAccess_touch, State.sliceKey_touch, State.sliceWorks_touch, State.touchNode_touch,
          State.waitRead_touch]
    | refine Touch.of_pair (by assumption) ?_)) wi

@[simp] theorem State.takeAccess_touch {Lt : List Fld} {st0 : State} (s : State) (a : MemAccess) (u : MemUnit) (wi :
    within [.mode, .cause, .fatal, .fuses, .ladder, .retention, .power, .mail, .cmds, .staged, .streams, .aux, .adm,
    .grace, .slots, .keyCtl, .imports, .jobs, .tx, .rx, .egSkip, .eReady, .classifying, .ingress, .ports, .pubs,
    .vers, .v2, .bw, .pebbles, .mem, .dram, .eye] Lt = true) :
    Touch Lt st0 (State.takeAccess s a u) ↔ Touch Lt st0 s :=
  Touch.iff (A := [.mode, .cause, .fatal, .fuses, .ladder, .retention, .power, .mail, .cmds, .staged, .streams, .aux, .adm, .grace, .slots, .keyCtl, .imports, .jobs, .tx, .rx, .egSkip, .eReady, .classifying, .ingress, .ports, .pubs, .vers, .v2, .bw, .pebbles, .mem, .dram, .eye]) (s := s) (t := (State.takeAccess s a u)) (by
  simp only [State.takeAccess]
  repeat' (first
    | with_reducible exact Touch.refl _ _
    | split
    | simp (disch := decide) only [State.memReply_touch, State.takeRead_touch, State.takeWrite_touch,
          State.waitRead_touch, State.writeDram_touch])) wi

@[simp] theorem State.ownAccess_touch {Lt : List Fld} {st0 : State} (s : State) (phys : Nat) (write : Bool) (wi :
    within [.mem, .eye] Lt = true) :
    Touch Lt st0 (State.ownAccess s phys write).2 ↔ Touch Lt st0 s :=
  Touch.iff (A := [.mem, .eye]) (s := s) (t := (State.ownAccess s phys write).2) (by
  simp only [State.ownAccess]
  repeat' (first
    | with_reducible exact Touch.refl _ _
    | split
    | dsimp only
    | simp (disch := decide) only [State.countWalk_touch, State.memOutcome_touch])) wi

@[simp] theorem State.ownLines_touch {Lt : List Fld} {st0 : State} (s : State) (phys n : Nat) (write : Bool) (wi :
    within [.mem, .eye] Lt = true) :
    Touch Lt st0 (State.ownLines s phys n write) ↔ Touch Lt st0 s :=
  Touch.iff (A := [.mem, .eye]) (s := s) (t := (State.ownLines s phys n write)) (by
  simp only [State.ownLines]
  repeat' (first
    | with_reducible exact Touch.refl _ _
    | dsimp only
    | simp (disch := decide) only [State.ownAccess_touch]
    | refine Touch.foldl_step (fun _ _ => ?_) ?_
    | refine Touch.of_pair (by assumption) ?_)) wi

@[simp] theorem State.verAccess_touch {Lt : List Fld} {st0 : State} (s : State) (n : Nat) (write : Bool) (wi :
    within [.mem, .eye] Lt = true) :
    Touch Lt st0 (State.verAccess s n write) ↔ Touch Lt st0 s :=
  Touch.iff (A := [.mem, .eye]) (s := s) (t := (State.verAccess s n write)) (by
  simp only [State.verAccess]
  repeat' (first
    | with_reducible exact Touch.refl _ _
    | simp (disch := decide) only [State.ownLines_touch])) wi

@[simp] theorem State.storeVer_touch {Lt : List Fld} {st0 : State} (s : State) (n : Nat) (v : Ver) (wi : within
    [.vers, .mem, .eye] Lt = true) :
    Touch Lt st0 (State.storeVer s n v) ↔ Touch Lt st0 s :=
  Touch.iff (A := [.vers, .mem, .eye]) (s := s) (t := (State.storeVer s n v)) (by
  simp only [State.storeVer]
  repeat' (first
    | with_reducible exact Touch.refl _ _
    | simp (disch := decide) only [State.setVer_touch, State.verAccess_touch])) wi

@[simp] theorem State.holdAccess_touch {Lt : List Fld} {st0 : State} (s : State) (slot : Nat) (write : Bool) (wi :
    within [.mem, .eye] Lt = true) :
    Touch Lt st0 (State.holdAccess s slot write) ↔ Touch Lt st0 s :=
  Touch.iff (A := [.mem, .eye]) (s := s) (t := (State.holdAccess s slot write)) (by
  simp only [State.holdAccess]
  repeat' (first
    | with_reducible exact Touch.refl _ _
    | simp (disch := decide) only [State.ownLines_touch])) wi

@[simp] theorem State.finishRead_touch {Lt : List Fld} {st0 : State} (s : State) (w : MemWait) (line : List Byte)
    (wi : within [.mem, .eye] Lt = true) :
    Touch Lt st0 (State.finishRead s w line) ↔ Touch Lt st0 s :=
  Touch.iff (A := [.mem, .eye]) (s := s) (t := (State.finishRead s w line)) (by
  simp only [State.finishRead]
  repeat' (first
    | with_reducible exact Touch.refl _ _
    | split
    | dsimp only
    | simp (disch := decide) only [State.memReply_touch, State.post_touch])) wi

end Sys2Proof.Machine
end

