-- ==== Sys2Proof/Laws/FramePorts.lean ====
section
/-!
SUPPORT. Footprints of frames, ports and records: for each function f, whether its result agrees with a
state on the fields outside L is whether its argument does, for every L that contains the fields that f may change.
-/

namespace Sys2Proof.Machine

@[simp] theorem State.linkDownCount_touch {Lt : List Fld} {st0 : State} (s : State) (x : TxFrame) (status : Nat) (wi
    : within [.ports] Lt = true) :
    Touch Lt st0 (State.linkDownCount s x status) ↔ Touch Lt st0 s :=
  Touch.iff (A := [.ports]) (s := s) (t := (State.linkDownCount s x status)) (by
  simp only [State.linkDownCount]
  repeat' (first
    | with_reducible exact Touch.refl _ _
    | split
    | simp (disch := decide) only [State.bumpPort_touch])) wi

@[simp] theorem State.completeTx_touch {Lt : List Fld} {st0 : State} (s : State) (x : TxFrame) (status : Nat)
    (onePort : Bool) (wi : within [.streams, .shots, .rings, .tx, .ports, .eye] Lt = true) :
    Touch Lt st0 (State.completeTx s x status onePort) ↔ Touch Lt st0 s :=
  Touch.iff (A := [.streams, .shots, .rings, .tx, .ports, .eye]) (s := s) (t := (State.completeTx s x status onePort)) (by
  unfold State.completeTx
  extract_lets h c s0 s1 s2 s3 s4 s5 w
  have k5 : Touch [.streams, .shots, .rings, .tx, .ports, .eye] s s5 := by
    dsimp only [s5, s4, s3, s2, s1, s0]
    repeat' (first
      | with_reducible exact Touch.refl _ _
      | split
      | simp (disch := decide) only [State.setStream_touch, State.count_touch, State.linkDownCount_touch,
          State.traceEnd_touch, State.onShots_touch, State.dropTx_touch])
  clear_value s5
  have ka : Touch [.streams, .shots, .rings, .tx, .ports, .eye] s (s5.allot h).2 :=
    (State.allot_touch _ _ (by decide)).mpr k5
  split
  · exact k5
  split
  · exact (State.output_touch _ _ _ _ _ _ (by decide)).mpr k5
  split
  · exact k5
  generalize s5.allot h = p at ka ⊢
  obtain ⟨_ | e, s6⟩ := p
  · exact (State.loseReport_touch _ _ (by decide)).mpr k5
  · exact (State.output_touch _ _ _ _ _ _ (by decide)).mpr ka) wi

@[simp] theorem State.readyTx_touch {Lt : List Fld} {st0 : State} (s : State) (x : TxFrame) (wi : within [.tx] Lt =
    true) :
    Touch Lt st0 (State.readyTx s x) ↔ Touch Lt st0 s :=
  Touch.iff (A := [.tx]) (s := s) (t := (State.readyTx s x)) (by
  simp only [State.readyTx]
  repeat' (first
    | with_reducible exact Touch.refl _ _
    | dsimp only
    | (with_reducible refine Touch.upd ?_ ?_
       · (intro f hf; cases f <;> first | exact absurd hf (by decide) | rfl)
       first
       | with_reducible exact Touch.refl _ _))) wi

@[simp] theorem State.classifyTx_touch {Lt : List Fld} {st0 : State} (s : State) (x : TxFrame) (wi : within [.tx,
    .eye] Lt = true) :
    Touch Lt st0 (State.classifyTx s x) ↔ Touch Lt st0 s :=
  Touch.iff (A := [.tx, .eye]) (s := s) (t := (State.classifyTx s x)) (by
  simp only [State.classifyTx]
  repeat' (first
    | with_reducible exact Touch.refl _ _
    | split
    | dsimp only
    | simp (disch := decide) only [State.count_touch, State.setTx_touch, State.traceFrame_touch]
    | refine Touch.of_pair (by assumption) ?_)) wi

@[simp] theorem State.finishClear_touch {Lt : List Fld} {st0 : State} (s : State) (x : TxFrame) (wi : within [.tx,
    .ports] Lt = true) :
    Touch Lt st0 (State.finishClear s x) ↔ Touch Lt st0 s :=
  Touch.iff (A := [.tx, .ports]) (s := s) (t := (State.finishClear s x)) (by
  simp only [State.finishClear]
  repeat' (first
    | with_reducible exact Touch.refl _ _
    | split
    | simp (disch := decide) only [State.bumpPort_touch, State.readyTx_touch])) wi

@[simp] theorem State.judgeTx_touch {Lt : List Fld} {st0 : State} (s : State) (f : Nat) (wi : within [.streams,
    .shots, .aux, .rings, .tx, .ports, .eye] Lt = true) :
    Touch Lt st0 (State.judgeTx s f) ↔ Touch Lt st0 s :=
  Touch.iff (A := [.streams, .shots, .aux, .rings, .tx, .ports, .eye]) (s := s) (t := (State.judgeTx s f)) (by
  have hs : ∀ (t : State) (x : TxFrame), Touch [.streams, .shots, .aux, .rings, .tx, .ports, .eye] t (t.setTx x) := fun t x =>
    (State.setTx_touch t x (by decide)).mpr (Touch.refl _ _)
  unfold State.judgeTx
  split
  · exact Touch.refl _ _
  split
  · exact Touch.refl _ _
  extract_lets c h y s0
  have h0 : Touch [.streams, .shots, .aux, .rings, .tx, .ports, .eye] s s0 := hs s y
  clear_value s0 y
  split
  · exact (State.completeTx_touch _ _ _ _ (by decide)).mpr h0
  split
  · exact (State.finishClear_touch _ _ (by decide)).mpr h0
  split
  · split
    · generalize hp : (s0.onShots h _ policedClear).policeClear h c false = p
      have k : Touch [.streams, .shots, .aux, .rings, .tx, .ports, .eye] s p.2 := by
        rw [← hp]
        exact (State.policeClear_touch _ _ c _ (by decide)).mpr ((State.onShots_touch _ _ _ _ (by decide)).mpr h0)
      clear hp
      exact (State.finishClear_touch _ _ (by decide)).mpr (Touch.step k (hs _ _))
    · exact (State.finishClear_touch _ _ (by decide)).mpr h0
  · exact h0.step (hs _ _)) wi

@[simp] theorem State.offerRefused_touch {Lt : List Fld} {st0 : State} (s : State) (g : Nat) (wi : within [.gates]
    Lt = true) :
    Touch Lt st0 (State.offerRefused s g) ↔ Touch Lt st0 s :=
  Touch.iff (A := [.gates]) (s := s) (t := (State.offerRefused s g)) (by
  simp only [State.offerRefused]
  repeat' (first
    | with_reducible exact Touch.refl _ _
    | simp (disch := decide) only [State.setGate_touch])) wi

@[simp] theorem State.endOpen_touch {Lt : List Fld} {st0 : State} (s : State) (h : Nat) (wi : within [.streams,
    .shots, .aux, .rings, .tx, .ports, .eye] Lt = true) :
    Touch Lt st0 (State.endOpen s h) ↔ Touch Lt st0 s :=
  Touch.iff (A := [.streams, .shots, .aux, .rings, .tx, .ports, .eye]) (s := s) (t := (State.endOpen s h)) (by
  simp only [State.endOpen]
  repeat' (first
    | with_reducible exact Touch.refl _ _
    | split
    | dsimp only
    | simp (disch := decide) only [State.finishClear_touch, State.judgeTx_touch, State.setTx_touch])) wi

@[simp] theorem State.endShort_touch {Lt : List Fld} {st0 : State} (s : State) (h : Nat) (wi : within [.streams,
    .shots, .aux, .rings, .tx, .ports, .eye] Lt = true) :
    Touch Lt st0 (State.endShort s h) ↔ Touch Lt st0 s :=
  Touch.iff (A := [.streams, .shots, .aux, .rings, .tx, .ports, .eye]) (s := s) (t := (State.endShort s h)) (by
  simp only [State.endShort]
  repeat' (first
    | with_reducible exact Touch.refl _ _
    | split
    | dsimp only
    | simp (disch := decide) only [State.endOpen_touch, State.setTx_touch])) wi

@[simp] theorem State.skipHandle_touch {Lt : List Fld} {st0 : State} (s : State) (h : Nat) (wi : within [.egSkip] Lt
    = true) :
    Touch Lt st0 (State.skipHandle s h) ↔ Touch Lt st0 s :=
  Touch.iff (A := [.egSkip]) (s := s) (t := (State.skipHandle s h)) (by
  simp only [State.skipHandle]
  repeat' (first
    | with_reducible exact Touch.refl _ _
    | (with_reducible refine Touch.upd ?_ ?_
       · (intro f hf; cases f <;> first | exact absurd hf (by decide) | rfl)
       first
       | with_reducible exact Touch.refl _ _))) wi

@[simp] theorem State.unskipHandle_touch {Lt : List Fld} {st0 : State} (s : State) (h : Nat) (wi : within [.egSkip]
    Lt = true) :
    Touch Lt st0 (State.unskipHandle s h) ↔ Touch Lt st0 s :=
  Touch.iff (A := [.egSkip]) (s := s) (t := (State.unskipHandle s h)) (by
  simp only [State.unskipHandle]
  repeat' (first
    | with_reducible exact Touch.refl _ _
    | (with_reducible refine Touch.upd ?_ ?_
       · (intro f hf; cases f <;> first | exact absurd hf (by decide) | rfl)
       first
       | with_reducible exact Touch.refl _ _))) wi

@[simp] theorem State.refuseOffer_touch {Lt : List Fld} {st0 : State} (s : State) (x : TxFrame) (status : Nat) (wi :
    within [.streams, .shots, .rings, .tx, .nextFrame, .ports, .eye] Lt = true) :
    Touch Lt st0 (State.refuseOffer s x status) ↔ Touch Lt st0 s :=
  Touch.iff (A := [.streams, .shots, .rings, .tx, .nextFrame, .ports, .eye]) (s := s) (t := (State.refuseOffer s x status)) (by
  simp only [State.refuseOffer]
  repeat' (first
    | with_reducible exact Touch.refl _ _
    | simp (disch := decide) only [State.completeTx_touch]
    | (with_reducible refine Touch.upd ?_ ?_
       · (intro f hf; cases f <;> first | exact absurd hf (by decide) | rfl)
       first
       | with_reducible exact Touch.refl _ _
       | simp (disch := decide) only [State.completeTx_touch]))) wi

@[simp] theorem State.refuseRecord_touch {Lt : List Fld} {st0 : State} (s : State) (h entry status : Nat) (opening :
    Bool) (cookie : Nat) (wi : within [.rings] Lt = true) :
    Touch Lt st0 (State.refuseRecord s h entry status opening cookie) ↔ Touch Lt st0 s :=
  Touch.iff (A := [.rings]) (s := s) (t := (State.refuseRecord s h entry status opening cookie)) (by
  simp only [State.refuseRecord]
  repeat' (first
    | with_reducible exact Touch.refl _ _
    | simp (disch := decide) only [State.output_touch])) wi

@[simp] theorem State.refuse96_touch {Lt : List Fld} {st0 : State} (s : State) (d : Nat) (opening : Bool) (wi :
    within [.gates] Lt = true) :
    Touch Lt st0 (State.refuse96 s d opening) ↔ Touch Lt st0 s :=
  Touch.iff (A := [.gates]) (s := s) (t := (State.refuse96 s d opening)) (by
  simp only [State.refuse96]
  repeat' (first
    | with_reducible exact Touch.refl _ _
    | split
    | simp (disch := decide) only [State.offerRefused_touch])) wi

@[simp] theorem State.takeDescriptor_touch {Lt : List Fld} {st0 : State} (s : State) (h entry : Nat) (d : List Word)
    (source : List Byte) (readOk : Bool) (wi : within [.streams, .shots, .aux, .rings, .jobs, .tx, .nextFrame,
    .ports, .gates, .eye] Lt = true) :
    Touch Lt st0 (State.takeDescriptor s h entry d source readOk) ↔ Touch Lt st0 s :=
  Touch.iff (A := [.streams, .shots, .aux, .rings, .jobs, .tx, .nextFrame, .ports, .gates, .eye]) (s := s) (t := (State.takeDescriptor s h entry d source readOk)) (by
  simp only [State.takeDescriptor]
  repeat' (first
    | with_reducible exact Touch.refl _ _
    | split
    | dsimp only
    | simp (disch := decide) only [State.classifyTx_touch, State.judgeTx_touch, State.logGate_touch,
          State.offerRefused_touch, State.refuse96_touch, State.refuseOffer_touch, State.refuseRecord_touch]
    | (with_reducible refine Touch.upd ?_ ?_
       · (intro f hf; cases f <;> first | exact absurd hf (by decide) | rfl)
       first
       | with_reducible exact Touch.refl _ _
       | split
       | simp (disch := decide) only [State.classifyTx_touch, State.judgeTx_touch, State.logGate_touch,
             State.offerRefused_touch, State.refuse96_touch, State.refuseOffer_touch, State.refuseRecord_touch]))) wi

@[simp] theorem State.takeRunning_touch {Lt : List Fld} {st0 : State} (s : State) (h : Nat) (wi : within [.streams,
    .eye] Lt = true) :
    Touch Lt st0 (State.takeRunning s h).2 ↔ Touch Lt st0 s :=
  Touch.iff (A := [.streams, .eye]) (s := s) (t := (State.takeRunning s h).2) (by
  simp only [State.takeRunning]
  repeat' (first
    | with_reducible exact Touch.refl _ _
    | dsimp only
    | simp (disch := decide) only [State.postIf_touch, State.setStream_touch])) wi

@[simp] theorem State.takeCount_touch {Lt : List Fld} {st0 : State} (s : State) (h : Nat) (ctx : Context) (wi :
    within [.streams, .aux, .eye] Lt = true) :
    Touch Lt st0 (State.takeCount s h ctx).2 ↔ Touch Lt st0 s :=
  Touch.iff (A := [.streams, .aux, .eye]) (s := s) (t := (State.takeCount s h ctx).2) (by
  simp only [State.takeCount]
  repeat' (first
    | with_reducible exact Touch.refl _ _
    | split
    | dsimp only
    | simp (disch := decide) only [State.setAux_touch, State.takeRunning_touch]
    | refine Touch.of_pair (by assumption) ?_)) wi

@[simp] theorem State.fetchFailed_touch {Lt : List Fld} {st0 : State} (s : State) (h : Nat) (g : Gen) (f : Fetch)
    (wi : within [.streams, .aux, .eye] Lt = true) :
    Touch Lt st0 (State.fetchFailed s h g f) ↔ Touch Lt st0 s :=
  Touch.iff (A := [.streams, .aux, .eye]) (s := s) (t := (State.fetchFailed s h g f)) (by
  simp only [State.fetchFailed]
  repeat' (first
    | with_reducible exact Touch.refl _ _
    | split
    | dsimp only
    | simp (disch := decide) only [State.post_touch, State.setAux_touch, State.setStream_touch])) wi

@[simp] theorem State.countUse_touch {Lt : List Fld} {st0 : State} (s : State) (k : Nat) (wi : within [.slots] Lt =
    true) :
    Touch Lt st0 (State.countUse s k) ↔ Touch Lt st0 s :=
  Touch.iff (A := [.slots]) (s := s) (t := (State.countUse s k)) (by
  simp only [State.countUse]
  repeat' (first
    | with_reducible exact Touch.refl _ _
    | simp (disch := decide) only [State.setSlot_touch])) wi

@[simp] theorem State.fetchFrame_touch {Lt : List Fld} {st0 : State} (s : State) (u : Nat) (c : Context) (g : Gen)
    (use : Nat) (cellBad : Bool) (wi : within [.mode, .cause, .fatal, .fuses, .ladder, .retention, .power, .mail,
    .cmds, .staged, .streams, .aux, .adm, .grace, .slots, .keyCtl, .imports, .jobs, .tx, .rx, .egSkip, .eReady,
    .classifying, .ingress, .ports, .pubs, .vers, .v2, .bw, .pebbles, .mem, .eye] Lt = true) :
    Touch Lt st0 (State.fetchFrame s u c g use cellBad).2 ↔ Touch Lt st0 s :=
  Touch.iff (A := [.mode, .cause, .fatal, .fuses, .ladder, .retention, .power, .mail, .cmds, .staged, .streams, .aux, .adm, .grace, .slots, .keyCtl, .imports, .jobs, .tx, .rx, .egSkip, .eReady, .classifying, .ingress, .ports, .pubs, .vers, .v2, .bw, .pebbles, .mem, .eye]) (s := s) (t := (State.fetchFrame s u c g use cellBad).2) (by
  simp only [State.fetchFrame]
  repeat' (first
    | with_reducible exact Touch.refl _ _
    | split
    | dsimp only
    | simp (disch := decide) only [State.fetch_touch, State.limitMet_touch]
    | refine Touch.of_pair (by assumption) ?_)) wi

@[simp] theorem State.fetchMac_touch {Lt : List Fld} {st0 : State} (s : State) (u : Nat) (macBad : Bool) (x :
    TxFrame) (wi : within [.mode, .cause, .fatal, .fuses, .ladder, .retention, .power, .mail, .cmds, .staged,
    .streams, .aux, .adm, .grace, .slots, .keyCtl, .imports, .jobs, .tx, .rx, .egSkip, .eReady, .classifying,
    .ingress, .ports, .pubs, .vers, .v2, .bw, .pebbles, .mem, .eye] Lt = true) :
    Touch Lt st0 (State.fetchMac s u macBad x).2 ↔ Touch Lt st0 s :=
  Touch.iff (A := [.mode, .cause, .fatal, .fuses, .ladder, .retention, .power, .mail, .cmds, .staged, .streams, .aux, .adm, .grace, .slots, .keyCtl, .imports, .jobs, .tx, .rx, .egSkip, .eReady, .classifying, .ingress, .ports, .pubs, .vers, .v2, .bw, .pebbles, .mem, .eye]) (s := s) (t := (State.fetchMac s u macBad x).2) (by
  simp only [State.fetchMac]
  repeat' (first
    | with_reducible exact Touch.refl _ _
    | split
    | dsimp only
    | simp (disch := decide) only [State.fetch_touch]
    | refine Touch.of_pair (by assumption) ?_)) wi

@[simp] theorem State.setOwed_touch {Lt : List Fld} {st0 : State} (s : State) (h : Nat) (a : StreamAux) (wi : within
    [.aux, .bw] Lt = true) :
    Touch Lt st0 (State.setOwed s h a) ↔ Touch Lt st0 s :=
  Touch.iff (A := [.aux, .bw]) (s := s) (t := (State.setOwed s h a)) (by
  simp only [State.setOwed]
  repeat' (first
    | with_reducible exact Touch.refl _ _
    | split
    | dsimp only
    | simp (disch := decide) only [State.setAux_touch]
    | (with_reducible refine Touch.upd ?_ ?_
       · (intro f hf; cases f <;> first | exact absurd hf (by decide) | rfl)
       first
       | with_reducible exact Touch.refl _ _
       | split
       | simp (disch := decide) only [State.setAux_touch]))) wi

@[simp] theorem State.noteSealed_touch {Lt : List Fld} {st0 : State} (s : State) (x : TxFrame) (wi : within [.aux]
    Lt = true) :
    Touch Lt st0 (State.noteSealed s x) ↔ Touch Lt st0 s :=
  Touch.iff (A := [.aux]) (s := s) (t := (State.noteSealed s x)) (by
  simp only [State.noteSealed]
  repeat' (first
    | with_reducible exact Touch.refl _ _
    | split
    | simp (disch := decide) only [State.setAux_touch])) wi

@[simp] theorem State.noteSent_touch {Lt : List Fld} {st0 : State} (s : State) (x : TxFrame) (wi : within [.aux,
    .pubs, .bw] Lt = true) :
    Touch Lt st0 (State.noteSent s x) ↔ Touch Lt st0 s :=
  Touch.iff (A := [.aux, .pubs, .bw]) (s := s) (t := (State.noteSent s x)) (by
  simp only [State.noteSent]
  repeat' (first
    | with_reducible exact Touch.refl _ _
    | split
    | dsimp only
    | simp (disch := decide) only [State.setOwed_touch, State.setPub_touch])) wi

@[simp] theorem State.policeTx_touch {Lt : List Fld} {st0 : State} (s : State) (x : TxFrame) (wi : within [.streams,
    .shots, .eye] Lt = true) :
    Touch Lt st0 (State.policeTx s x).2 ↔ Touch Lt st0 s :=
  Touch.iff (A := [.streams, .shots, .eye]) (s := s) (t := (State.policeTx s x).2) (by
  simp only [State.policeTx]
  repeat' (first
    | with_reducible exact Touch.refl _ _
    | split
    | dsimp only
    | simp (disch := decide) only [State.demotion_touch, State.onShots_touch, State.police_touch]
    | refine Touch.of_pair (by assumption) ?_)) wi

@[simp] theorem State.enterSlice_touch {Lt : List Fld} {st0 : State} (s : State) (x : TxFrame) (u : Nat) (key :
    Shares) (macBad : Bool) (wi : within [.mode, .cause, .fatal, .fuses, .ladder, .retention, .power, .mail, .cmds,
    .staged, .streams, .shots, .aux, .adm, .grace, .slots, .keyCtl, .imports, .jobs, .tx, .rx, .egSkip, .eReady,
    .classifying, .ingress, .ports, .pubs, .vers, .v2, .bw, .pebbles, .mem, .eye] Lt = true) :
    Touch Lt st0 (State.enterSlice s x u key macBad) ↔ Touch Lt st0 s :=
  Touch.iff (A := [.mode, .cause, .fatal, .fuses, .ladder, .retention, .power, .mail, .cmds, .staged, .streams, .shots, .aux, .adm, .grace, .slots, .keyCtl, .imports, .jobs, .tx, .rx, .egSkip, .eReady, .classifying, .ingress, .ports, .pubs, .vers, .v2, .bw, .pebbles, .mem, .eye]) (s := s) (t := (State.enterSlice s x u key macBad)) (by
  simp only [State.enterSlice]
  repeat' (first
    | with_reducible exact Touch.refl _ _
    | split
    | dsimp only
    | simp (disch := decide) only [State.busyPulse_touch, State.count_touch, State.fetchMac_touch,
          State.noteSealed_touch, State.onShots_touch, State.readyTx_touch, State.takeCount_touch,
          State.useSlots_touch]
    | refine Touch.of_pair (by assumption) ?_)) wi

@[simp] theorem State.digestEvents_touch {Lt : List Fld} {st0 : State} (s : State) (r : DigestResult) (wi : within
    [.eye] Lt = true) :
    Touch Lt st0 (State.digestEvents s r) ↔ Touch Lt st0 s :=
  Touch.iff (A := [.eye]) (s := s) (t := (State.digestEvents s r)) (by
  simp only [State.digestEvents]
  repeat' (first
    | with_reducible exact Touch.refl _ _
    | simp (disch := decide) only [State.postIf_touch])) wi

@[simp] theorem State.firstStart_touch {Lt : List Fld} {st0 : State} (s : State) (p : Nat) (x : TxFrame) (wi :
    within [.tx, .pairs] Lt = true) :
    Touch Lt st0 (State.firstStart s p x).2 ↔ Touch Lt st0 s :=
  Touch.iff (A := [.tx, .pairs]) (s := s) (t := (State.firstStart s p x).2) (by
  simp only [State.firstStart]
  repeat' (first
    | with_reducible exact Touch.refl _ _
    | split
    | dsimp only
    | simp (disch := decide) only [State.bumpPair_touch, State.setPair_touch]
    | (with_reducible refine Touch.upd ?_ ?_
       · (intro f hf; cases f <;> first | exact absurd hf (by decide) | rfl)
       first
       | with_reducible exact Touch.refl _ _
       | split
       | simp (disch := decide) only [State.bumpPair_touch, State.setPair_touch]))) wi

@[simp] theorem State.countSent_touch {Lt : List Fld} {st0 : State} (s : State) (c : Nat × List Byte × Bool) (wi :
    within [.ports] Lt = true) :
    Touch Lt st0 (State.countSent s c) ↔ Touch Lt st0 s :=
  Touch.iff (A := [.ports]) (s := s) (t := (State.countSent s c)) (by
  simp only [State.countSent]
  repeat' (first
    | with_reducible exact Touch.refl _ _
    | split
    | simp (disch := decide) only [State.bumpPort_touch])) wi

@[simp] theorem State.endIfDone_touch {Lt : List Fld} {st0 : State} (s : State) (x : TxFrame) (wi : within
    [.streams, .shots, .rings, .tx, .ports, .eye] Lt = true) :
    Touch Lt st0 (State.endIfDone s x) ↔ Touch Lt st0 s :=
  Touch.iff (A := [.streams, .shots, .rings, .tx, .ports, .eye]) (s := s) (t := (State.endIfDone s x)) (by
  simp only [State.endIfDone]
  repeat' (first
    | with_reducible exact Touch.refl _ _
    | split
    | dsimp only
    | simp (disch := decide) only [State.completeTx_touch, State.setTx_touch])) wi

@[simp] theorem State.txRise_touch {Lt : List Fld} {st0 : State} (s : State) (wi : within [.ports] Lt = true) :
    Touch Lt st0 (State.txRise s) ↔ Touch Lt st0 s :=
  Touch.iff (A := [.ports]) (s := s) (t := (State.txRise s)) (by
  simp only [State.txRise]
  repeat' (first
    | with_reducible exact Touch.refl _ _
    | split
    | dsimp only
    | simp (disch := decide) only [State.setPort_touch]
    | refine Touch.foldl_step (fun _ _ => ?_) ?_)) wi

@[simp] theorem State.oneCopyLess_touch {Lt : List Fld} {st0 : State} (s : State) (p : Nat) (x : TxFrame) (wi :
    within [.pairs] Lt = true) :
    Touch Lt st0 (State.oneCopyLess s p x) ↔ Touch Lt st0 s :=
  Touch.iff (A := [.pairs]) (s := s) (t := (State.oneCopyLess s p x)) (by
  simp only [State.oneCopyLess]
  repeat' (first
    | with_reducible exact Touch.refl _ _
    | split
    | simp (disch := decide) only [State.bumpPair_touch])) wi

@[simp] theorem State.cutPort_touch {Lt : List Fld} {st0 : State} (s : State) (p : Nat) (wi : within [.streams,
    .shots, .rings, .tx, .egSkip, .ports, .pairs, .eye] Lt = true) :
    Touch Lt st0 (State.cutPort s p) ↔ Touch Lt st0 s :=
  Touch.iff (A := [.streams, .shots, .rings, .tx, .egSkip, .ports, .pairs, .eye]) (s := s) (t := (State.cutPort s p)) (by
  simp only [State.cutPort]
  repeat' (first
    | with_reducible exact Touch.refl _ _
    | split
    | dsimp only
    | simp (disch := decide) only [State.bumpPort_touch, State.endIfDone_touch, State.oneCopyLess_touch,
          State.post_touch, State.skipHandle_touch]
    | refine Touch.foldl_step (fun _ _ => ?_) ?_)) wi

@[simp] theorem State.failWaiting_touch {Lt : List Fld} {st0 : State} (s : State) (p : Nat) (wi : within [.streams,
    .shots, .rings, .tx, .egSkip, .ports, .pairs, .eye] Lt = true) :
    Touch Lt st0 (State.failWaiting s p) ↔ Touch Lt st0 s :=
  Touch.iff (A := [.streams, .shots, .rings, .tx, .egSkip, .ports, .pairs, .eye]) (s := s) (t := (State.failWaiting s p)) (by
  simp only [State.failWaiting]
  repeat' (first
    | with_reducible exact Touch.refl _ _
    | split
    | dsimp only
    | simp (disch := decide) only [State.bumpPair_touch, State.completeTx_touch, State.skipHandle_touch]
    | refine Touch.foldl_step (fun _ _ => ?_) ?_)) wi

@[simp] theorem State.abortReceive_touch {Lt : List Fld} {st0 : State} (s : State) (p : Nat) (cut : List Nat) (wi :
    within [.rx, .ports] Lt = true) :
    Touch Lt st0 (State.abortReceive s p cut) ↔ Touch Lt st0 s :=
  Touch.iff (A := [.rx, .ports]) (s := s) (t := (State.abortReceive s p cut)) (by
  simp only [State.abortReceive]
  repeat' (first
    | with_reducible exact Touch.refl _ _
    | split
    | dsimp only
    | simp (disch := decide) only [State.bumpPort_touch]
    | (with_reducible refine Touch.upd ?_ ?_
       · (intro f hf; cases f <;> first | exact absurd hf (by decide) | rfl)
       first
       | with_reducible exact Touch.refl _ _
       | split
       | simp (disch := decide) only [State.bumpPort_touch]))) wi

@[simp] theorem State.declareDown_touch {Lt : List Fld} {st0 : State} (s : State) (p : Nat) (cut : List Nat) (wi :
    within [.streams, .shots, .rings, .tx, .rx, .egSkip, .ports, .pairs, .eye] Lt = true) :
    Touch Lt st0 (State.declareDown s p cut) ↔ Touch Lt st0 s :=
  Touch.iff (A := [.streams, .shots, .rings, .tx, .rx, .egSkip, .ports, .pairs, .eye]) (s := s) (t := (State.declareDown s p cut)) (by
  simp only [State.declareDown]
  repeat' (first
    | with_reducible exact Touch.refl _ _
    | split
    | dsimp only
    | simp (disch := decide) only [State.abortReceive_touch, State.bumpPort_touch, State.cutPort_touch,
          State.failWaiting_touch, State.post_touch, State.setPort_touch])) wi

@[simp] theorem State.condBegins_touch {Lt : List Fld} {st0 : State} (s : State) (p : Nat) (c : LinkCond) (wi :
    within [.ports, .eye] Lt = true) :
    Touch Lt st0 (State.condBegins s p c) ↔ Touch Lt st0 s :=
  Touch.iff (A := [.ports, .eye]) (s := s) (t := (State.condBegins s p c)) (by
  simp only [State.condBegins]
  repeat' (first
    | with_reducible exact Touch.refl _ _
    | split
    | dsimp only
    | simp (disch := decide) only [State.bumpPort_touch, State.post_touch])) wi

@[simp] theorem State.resetPort_touch {Lt : List Fld} {st0 : State} (s : State) (p : Nat) (cut : List Nat) (wi :
    within [.streams, .shots, .rings, .tx, .rx, .egSkip, .ports, .pairs, .eye] Lt = true) :
    Touch Lt st0 (State.resetPort s p cut) ↔ Touch Lt st0 s :=
  Touch.iff (A := [.streams, .shots, .rings, .tx, .rx, .egSkip, .ports, .pairs, .eye]) (s := s) (t := (State.resetPort s p cut)) (by
  simp only [State.resetPort]
  repeat' (first
    | with_reducible exact Touch.refl _ _
    | split
    | dsimp only
    | simp (disch := decide) only [State.declareDown_touch, State.setPort_touch])) wi

@[simp] theorem State.unstage_touch {Lt : List Fld} {st0 : State} (s : State) (c : Staged) (wi : within [.staged] Lt
    = true) :
    Touch Lt st0 (State.unstage s c) ↔ Touch Lt st0 s :=
  Touch.iff (A := [.staged]) (s := s) (t := (State.unstage s c)) (by
  simp only [State.unstage]
  repeat' (first
    | with_reducible exact Touch.refl _ _
    | (with_reducible refine Touch.upd ?_ ?_
       · (intro f hf; cases f <;> first | exact absurd hf (by decide) | rfl)
       first
       | with_reducible exact Touch.refl _ _))) wi

@[simp] theorem State.fitPort_touch {Lt : List Fld} {st0 : State} (s : State) (p : Nat) (wi : within [.ports] Lt =
    true) :
    Touch Lt st0 (State.fitPort s p) ↔ Touch Lt st0 s :=
  Touch.iff (A := [.ports]) (s := s) (t := (State.fitPort s p)) (by
  simp only [State.fitPort]
  repeat' (first
    | with_reducible exact Touch.refl _ _
    | split
    | dsimp only
    | simp (disch := decide) only [State.setPort_touch])) wi

@[simp] theorem State.restAt_touch {Lt : List Fld} {st0 : State} (s : State) (u l : Nat) (wi : within [.power, .mem,
    .eye] Lt = true) :
    Touch Lt st0 (State.restAt s u l) ↔ Touch Lt st0 s :=
  Touch.iff (A := [.power, .mem, .eye]) (s := s) (t := (State.restAt s u l)) (by
  have k : Touch [.power, .mem, .eye] s ({ s with power := { s.power with rest := Table.put 0 u l s.power.rest } } : State) :=
    fun f hf => by cases f <;> first | exact absurd hf (by decide) | rfl
  unfold State.restAt
  dsimp only
  refine (State.post_touch _ _ (by decide)).mpr ?_
  split
  · exact (State.dropKeys_touch _ _ (by decide)).mpr k
  · exact k) wi

@[simp] theorem State.setJob_touch {Lt : List Fld} {st0 : State} (s : State) (j : RecordJob) (wi : within [.jobs] Lt
    = true) :
    Touch Lt st0 (State.setJob s j) ↔ Touch Lt st0 s :=
  Touch.iff (A := [.jobs]) (s := s) (t := (State.setJob s j)) (by
  simp only [State.setJob]
  repeat' (first
    | with_reducible exact Touch.refl _ _
    | dsimp only
    | (with_reducible refine Touch.upd ?_ ?_
       · (intro f hf; cases f <;> first | exact absurd hf (by decide) | rfl)
       first
       | with_reducible exact Touch.refl _ _))) wi

@[simp] theorem State.dropJob_touch {Lt : List Fld} {st0 : State} (s : State) (j : RecordJob) (wi : within [.jobs]
    Lt = true) :
    Touch Lt st0 (State.dropJob s j) ↔ Touch Lt st0 s :=
  Touch.iff (A := [.jobs]) (s := s) (t := (State.dropJob s j)) (by
  simp only [State.dropJob]
  repeat' (first
    | with_reducible exact Touch.refl _ _
    | dsimp only
    | (with_reducible refine Touch.upd ?_ ?_
       · (intro f hf; cases f <;> first | exact absurd hf (by decide) | rfl)
       first
       | with_reducible exact Touch.refl _ _))) wi

@[simp] theorem State.discardRecord_touch {Lt : List Fld} {st0 : State} (s : State) (j : RecordJob) (status : Nat)
    (wi : within [.eye] Lt = true) :
    Touch Lt st0 (State.discardRecord s j status) ↔ Touch Lt st0 s :=
  Touch.iff (A := [.eye]) (s := s) (t := (State.discardRecord s j status)) (by
  simp only [State.discardRecord]
  repeat' (first
    | with_reducible exact Touch.refl _ _
    | split
    | dsimp only
    | simp (disch := decide) only [State.discardBlocks_touch]
    | refine Touch.foldl_step (fun _ _ => ?_) ?_)) wi

@[simp] theorem State.endRecord_touch {Lt : List Fld} {st0 : State} (s : State) (j : RecordJob) (status : Nat) (wi :
    within [.streams, .rings, .jobs, .gates, .eye] Lt = true) :
    Touch Lt st0 (State.endRecord s j status) ↔ Touch Lt st0 s :=
  Touch.iff (A := [.streams, .rings, .jobs, .gates, .eye]) (s := s) (t := (State.endRecord s j status)) (by
  simp only [State.endRecord]
  repeat' (first
    | with_reducible exact Touch.refl _ _
    | split
    | dsimp only
    | simp (disch := decide) only [State.count_touch, State.discardRecord_touch, State.dropJob_touch,
          State.output_touch, State.refuse96_touch, State.setStream_touch])) wi

@[simp] theorem State.sealChunk_touch {Lt : List Fld} {st0 : State} (s : State) (j : RecordJob) (key : Key) (data :
    List Byte) (wi : within [.streams, .rings, .hostMem, .jobs, .gates, .eye] Lt = true) :
    Touch Lt st0 (State.sealChunk s j key data) ↔ Touch Lt st0 s :=
  Touch.iff (A := [.streams, .rings, .hostMem, .jobs, .gates, .eye]) (s := s) (t := (State.sealChunk s j key data)) (by
  simp only [State.sealChunk]
  repeat' (first
    | with_reducible exact Touch.refl _ _
    | split
    | dsimp only
    | simp (disch := decide) only [State.endRecord_touch, State.output_touch, State.setJob_touch,
          State.writeHost_touch])) wi

@[simp] theorem State.openChunk_touch {Lt : List Fld} {st0 : State} (s : State) (j : RecordJob) (key : Key) (data
    tag : List Byte) (wi : within [.streams, .rings, .hostMem, .jobs, .gates, .eye] Lt = true) :
    Touch Lt st0 (State.openChunk s j key data tag) ↔ Touch Lt st0 s :=
  Touch.iff (A := [.streams, .rings, .hostMem, .jobs, .gates, .eye]) (s := s) (t := (State.openChunk s j key data tag)) (by
  simp only [State.openChunk]
  repeat' (first
    | with_reducible exact Touch.refl _ _
    | split
    | dsimp only
    | simp (disch := decide) only [State.endRecord_touch, State.setJob_touch, State.writeHost_touch])) wi

@[simp] theorem State.beginSeal_touch {Lt : List Fld} {st0 : State} (s : State) (j : RecordJob) (key : Key) (data :
    List Byte) (wi : within [.streams, .rings, .hostMem, .jobs, .gates, .eye] Lt = true) :
    Touch Lt st0 (State.beginSeal s j key data) ↔ Touch Lt st0 s :=
  Touch.iff (A := [.streams, .rings, .hostMem, .jobs, .gates, .eye]) (s := s) (t := (State.beginSeal s j key data)) (by
  simp only [State.beginSeal]
  repeat' (first
    | with_reducible exact Touch.refl _ _
    | split
    | dsimp only
    | simp (disch := decide) only [State.sealChunk_touch, State.takeRunning_touch]
    | refine Touch.of_pair (by assumption) ?_)) wi

@[simp] theorem State.recheckRing_touch {Lt : List Fld} {st0 : State} (s : State) (h : Nat) (wi : within [.rings,
    .gates, .eye] Lt = true) :
    Touch Lt st0 (State.recheckRing s h) ↔ Touch Lt st0 s :=
  Touch.iff (A := [.rings, .gates, .eye]) (s := s) (t := (State.recheckRing s h)) (by
  simp only [State.recheckRing]
  repeat' (first
    | with_reducible exact Touch.refl _ _
    | split
    | dsimp only
    | simp (disch := decide) only [State.logGate_touch, State.setRing_touch])) wi

end Sys2Proof.Machine
end

