-- ==== Sys2Proof/Laws/FrameChanges.lean ====
section
/-!
SUPPORT. Footprints of notices, staged changes and Bindweed: for each function f, whether its result agrees with a
state on the fields outside L is whether its argument does, for every L that contains the fields that f may change.
-/

namespace Sys2Proof.Machine

@[simp] theorem State.emitNotice_touch {Lt : List Fld} {st0 : State} (s : State) (n : NoticeWait) (wi : within [.tx,
    .nextFrame, .ports] Lt = true) :
    Touch Lt st0 (State.emitNotice s n) ↔ Touch Lt st0 s :=
  Touch.iff (A := [.tx, .nextFrame, .ports]) (s := s) (t := (State.emitNotice s n)) (by
  simp only [State.emitNotice]
  repeat' (first
    | with_reducible exact Touch.refl _ _
    | split
    | dsimp only
    | simp (disch := decide) only [State.bumpPort_touch]
    | (with_reducible refine Touch.upd ?_ ?_
       · (intro f hf; cases f <;> first | exact absurd hf (by decide) | rfl)
       first
       | with_reducible exact Touch.refl _ _
       | split
       | simp (disch := decide) only [State.bumpPort_touch]))) wi

@[simp] theorem State.sendNotice_touch {Lt : List Fld} {st0 : State} (s : State) (n : NoticeWait) (wi : within [.tx,
    .nextFrame, .ports] Lt = true) :
    Touch Lt st0 (State.sendNotice s n) ↔ Touch Lt st0 s :=
  Touch.iff (A := [.tx, .nextFrame, .ports]) (s := s) (t := (State.sendNotice s n)) (by
  simp only [State.sendNotice]
  repeat' (first
    | with_reducible exact Touch.refl _ _
    | split
    | dsimp only
    | simp (disch := decide) only [State.bumpPort_touch, State.emitNotice_touch, State.setPort_touch])) wi

@[simp] theorem State.noteViolation_touch {Lt : List Fld} {st0 : State} (s : State) (v : Violation) (wi : within
    [.tx, .nextFrame, .ports, .eye] Lt = true) :
    Touch Lt st0 (State.noteViolation s v) ↔ Touch Lt st0 s :=
  Touch.iff (A := [.tx, .nextFrame, .ports, .eye]) (s := s) (t := (State.noteViolation s v)) (by
  simp only [State.noteViolation]
  repeat' (first
    | with_reducible exact Touch.refl _ _
    | split
    | dsimp only
    | simp (disch := decide) only [State.bumpPort_touch, State.count_touch, State.sendNotice_touch,
          State.setPort_touch])) wi

@[simp] theorem State.postOnce_touch {Lt : List Fld} {st0 : State} (s : State) (p off : Nat) (wi : within [.ports,
    .eye] Lt = true) :
    Touch Lt st0 (State.postOnce s p off) ↔ Touch Lt st0 s :=
  Touch.iff (A := [.ports, .eye]) (s := s) (t := (State.postOnce s p off)) (by
  simp only [State.postOnce]
  repeat' (first
    | with_reducible exact Touch.refl _ _
    | split
    | simp (disch := decide) only [State.post_touch, State.setPort_touch])) wi

@[simp] theorem State.violation_touch {Lt : List Fld} {st0 : State} (s : State) (v : Violation) (wi : within [.tx,
    .nextFrame, .ports, .eye] Lt = true) :
    Touch Lt st0 (State.violation s v) ↔ Touch Lt st0 s :=
  Touch.iff (A := [.tx, .nextFrame, .ports, .eye]) (s := s) (t := (State.violation s v)) (by
  simp only [State.violation]
  repeat' (first
    | with_reducible exact Touch.refl _ _
    | split
    | dsimp only
    | simp (disch := decide) only [State.noteViolation_touch, State.postOnce_touch])) wi

@[simp] theorem State.report_touch {Lt : List Fld} {st0 : State} (s : State) (x : RxFrame) (v : Violation) (wi :
    within [.tx, .nextFrame, .ports, .eye] Lt = true) :
    Touch Lt st0 (State.report s x v) ↔ Touch Lt st0 s :=
  Touch.iff (A := [.tx, .nextFrame, .ports, .eye]) (s := s) (t := (State.report s x v)) (by
  simp only [State.report]
  repeat' (first
    | with_reducible exact Touch.refl _ _
    | split
    | simp (disch := decide) only [State.violation_touch])) wi

@[simp] theorem State.stage_touch {Lt : List Fld} {st0 : State} (s : State) (c : Staged) (wi : within [.staged] Lt =
    true) :
    Touch Lt st0 (State.stage s c) ↔ Touch Lt st0 s :=
  Touch.iff (A := [.staged]) (s := s) (t := (State.stage s c)) (by
  simp only [State.stage]
  repeat' (first
    | with_reducible exact Touch.refl _ _
    | (with_reducible refine Touch.upd ?_ ?_
       · (intro f hf; cases f <;> first | exact absurd hf (by decide) | rfl)
       first
       | with_reducible exact Touch.refl _ _))) wi

@[simp] theorem State.dropGrace_touch {Lt : List Fld} {st0 : State} (s : State) (h : Nat) (p : GraceEntry → Bool)
    (wi : within [.grace] Lt = true) :
    Touch Lt st0 (State.dropGrace s h p) ↔ Touch Lt st0 s :=
  Touch.iff (A := [.grace]) (s := s) (t := (State.dropGrace s h p)) (by
  simp only [State.dropGrace]
  repeat' (first
    | with_reducible exact Touch.refl _ _
    | dsimp only
    | (with_reducible refine Touch.upd ?_ ?_
       · (intro f hf; cases f <;> first | exact absurd hf (by decide) | rfl)
       first
       | with_reducible exact Touch.refl _ _))) wi

@[simp] theorem State.dropNext_touch {Lt : List Fld} {st0 : State} (s : State) (h g : Nat) (wi : within [.grace] Lt
    = true) :
    Touch Lt st0 (State.dropNext s h g) ↔ Touch Lt st0 s :=
  Touch.iff (A := [.grace]) (s := s) (t := (State.dropNext s h g)) (by
  simp only [State.dropNext]
  repeat' (first
    | with_reducible exact Touch.refl _ _
    | split
    | dsimp only
    | (with_reducible refine Touch.upd ?_ ?_
       · (intro f hf; cases f <;> first | exact absurd hf (by decide) | rfl)
       first
       | with_reducible exact Touch.refl _ _
       | split))) wi

@[simp] theorem State.takeGrace_touch {Lt : List Fld} {st0 : State} (s : State) (h g : Nat) (wi : within [.grace] Lt
    = true) :
    Touch Lt st0 (State.takeGrace s h g) ↔ Touch Lt st0 s :=
  Touch.iff (A := [.grace]) (s := s) (t := (State.takeGrace s h g)) (by
  simp only [State.takeGrace]
  repeat' (first
    | with_reducible exact Touch.refl _ _
    | (with_reducible refine Touch.upd ?_ ?_
       · (intro f hf; cases f <;> first | exact absurd hf (by decide) | rfl)
       first
       | with_reducible exact Touch.refl _ _))) wi

@[simp] theorem State.openEarly_touch {Lt : List Fld} {st0 : State} (s : State) (h : Nat) (wi : within [.grace] Lt =
    true) :
    Touch Lt st0 (State.openEarly s h) ↔ Touch Lt st0 s :=
  Touch.iff (A := [.grace]) (s := s) (t := (State.openEarly s h)) (by
  simp only [State.openEarly]
  repeat' (first
    | with_reducible exact Touch.refl _ _
    | split
    | dsimp only
    | (with_reducible refine Touch.upd ?_ ?_
       · (intro f hf; cases f <;> first | exact absurd hf (by decide) | rfl)
       first
       | with_reducible exact Touch.refl _ _
       | split))) wi

@[simp] theorem State.freeGrace_touch {Lt : List Fld} {st0 : State} (s : State) (h : Nat) (wi : within [.grace] Lt =
    true) :
    Touch Lt st0 (State.freeGrace s h) ↔ Touch Lt st0 s :=
  Touch.iff (A := [.grace]) (s := s) (t := (State.freeGrace s h)) (by
  simp only [State.freeGrace]
  repeat' (first
    | with_reducible exact Touch.refl _ _
    | dsimp only
    | simp (disch := decide) only [State.dropGrace_touch])) wi

@[simp] theorem State.releaseSlot_touch {Lt : List Fld} {st0 : State} (s : State) (h k : Nat) (wi : within [.slots,
    .keyCtl, .eye] Lt = true) :
    Touch Lt st0 (State.releaseSlot s h k) ↔ Touch Lt st0 s :=
  Touch.iff (A := [.slots, .keyCtl, .eye]) (s := s) (t := (State.releaseSlot s h k)) (by
  simp only [State.releaseSlot]
  repeat' (first
    | with_reducible exact Touch.refl _ _
    | split
    | dsimp only
    | simp (disch := decide) only [State.invalidate_touch])) wi

@[simp] theorem State.closePrev_touch {Lt : List Fld} {st0 : State} (s : State) (h : Nat) (wi : within [.aux,
    .grace, .slots, .keyCtl, .eye] Lt = true) :
    Touch Lt st0 (State.closePrev s h) ↔ Touch Lt st0 s :=
  Touch.iff (A := [.aux, .grace, .slots, .keyCtl, .eye]) (s := s) (t := (State.closePrev s h)) (by
  simp only [State.closePrev]
  repeat' (first
    | with_reducible exact Touch.refl _ _
    | split
    | dsimp only
    | simp (disch := decide) only [State.freeGrace_touch, State.releaseSlot_touch, State.setAux_touch])) wi

@[simp] theorem State.commitRoll_touch {Lt : List Fld} {st0 : State} (s : State) (h : Nat) (t : Tick) (first : Nat)
    (wi : within [.streams, .aux, .grace, .slots, .keyCtl, .eye] Lt = true) :
    Touch Lt st0 (State.commitRoll s h t first) ↔ Touch Lt st0 s :=
  Touch.iff (A := [.streams, .aux, .grace, .slots, .keyCtl, .eye]) (s := s) (t := (State.commitRoll s h t first)) (by
  simp only [State.commitRoll]
  repeat' (first
    | with_reducible exact Touch.refl _ _
    | split
    | dsimp only
    | simp (disch := decide) only [State.closePrev_touch, State.setAux_touch, State.setStream_touch]
    | (with_reducible refine Touch.upd ?_ ?_
       · (intro f hf; cases f <;> first | exact absurd hf (by decide) | rfl)
       first
       | with_reducible exact Touch.refl _ _
       | split
       | simp (disch := decide) only [State.closePrev_touch, State.setAux_touch, State.setStream_touch]))) wi

@[simp] theorem State.limitSlot_touch {Lt : List Fld} {st0 : State} (s : State) (k : Nat) (limit : Word) (wi :
    within [.slots] Lt = true) :
    Touch Lt st0 (State.limitSlot s k limit) ↔ Touch Lt st0 s :=
  Touch.iff (A := [.slots]) (s := s) (t := (State.limitSlot s k limit)) (by
  simp only [State.limitSlot]
  repeat' (first
    | with_reducible exact Touch.refl _ _
    | split
    | simp (disch := decide) only [State.setSlot_touch])) wi

@[simp] theorem State.commitInstall_touch {Lt : List Fld} {st0 : State} (s : State) (h : Nat) (t : Tick) (i :
    Install) (wi : within [.streams, .aux, .grace, .slots, .keyCtl, .eye] Lt = true) :
    Touch Lt st0 (State.commitInstall s h t i) ↔ Touch Lt st0 s :=
  Touch.iff (A := [.streams, .aux, .grace, .slots, .keyCtl, .eye]) (s := s) (t := (State.commitInstall s h t i)) (by
  simp only [State.commitInstall]
  repeat' (first
    | with_reducible exact Touch.refl _ _
    | split
    | dsimp only
    | simp (disch := decide) only [State.commitRoll_touch, State.dropGrace_touch, State.dropNext_touch,
          State.limitSlot_touch, State.openEarly_touch, State.releaseSlot_touch, State.setAux_touch,
          State.setStream_touch])) wi

@[simp] theorem State.recharge_touch {Lt : List Fld} {st0 : State} (s : State) (h : Nat) (wi : within [.adm] Lt =
    true) :
    Touch Lt st0 (State.recharge s h) ↔ Touch Lt st0 s :=
  Touch.iff (A := [.adm]) (s := s) (t := (State.recharge s h)) (by
  simp only [State.recharge]
  repeat' (first
    | with_reducible exact Touch.refl _ _
    | simp (disch := decide) only [State.setDemand_touch])) wi

@[simp] theorem State.commitCreate_touch {Lt : List Fld} {st0 : State} (s : State) (h : Nat) (c : Context) (wi :
    within [.streams, .aux, .rings] Lt = true) :
    Touch Lt st0 (State.commitCreate s h c) ↔ Touch Lt st0 s :=
  Touch.iff (A := [.streams, .aux, .rings]) (s := s) (t := (State.commitCreate s h c)) (by
  simp only [State.commitCreate]
  repeat' (first
    | with_reducible exact Touch.refl _ _
    | simp (disch := decide) only [State.setAux_touch, State.setRing_touch, State.setStream_touch])) wi

@[simp] theorem State.commitModify_touch {Lt : List Fld} {st0 : State} (s : State) (h : Nat) (mask : BitVec 11) (v :
    List Word) (wi : within [.streams, .adm, .rings] Lt = true) :
    Touch Lt st0 (State.commitModify s h mask v) ↔ Touch Lt st0 s :=
  Touch.iff (A := [.streams, .adm, .rings]) (s := s) (t := (State.commitModify s h mask v)) (by
  simp only [State.commitModify]
  repeat' (first
    | with_reducible exact Touch.refl _ _
    | split
    | dsimp only
    | simp (disch := decide) only [State.recharge_touch, State.setRing_touch, State.setStream_touch])) wi

@[simp] theorem State.commitArm_touch {Lt : List Fld} {st0 : State} (s : State) (h : Nat) (h0 h1 h2 : Word) (wi :
    within [.streams, .rings, .gates, .eye] Lt = true) :
    Touch Lt st0 (State.commitArm s h h0 h1 h2) ↔ Touch Lt st0 s :=
  Touch.iff (A := [.streams, .rings, .gates, .eye]) (s := s) (t := (State.commitArm s h h0 h1 h2)) (by
  simp only [State.commitArm]
  repeat' (first
    | with_reducible exact Touch.refl _ _
    | dsimp only
    | simp (disch := decide) only [State.recheckRing_touch, State.setRing_touch, State.setStream_touch])) wi

@[simp] theorem State.failHeld_touch {Lt : List Fld} {st0 : State} (s : State) (h status : Nat) (ringOnly : Bool)
    (wi : within [.streams, .shots, .rings, .jobs, .tx, .ports, .gates, .eye] Lt = true) :
    Touch Lt st0 (State.failHeld s h status ringOnly) ↔ Touch Lt st0 s :=
  Touch.iff (A := [.streams, .shots, .rings, .jobs, .tx, .ports, .gates, .eye]) (s := s) (t := (State.failHeld s h status ringOnly)) (by
  simp only [State.failHeld]
  repeat' (first
    | with_reducible exact Touch.refl _ _
    | dsimp only
    | simp (disch := decide) only [State.completeTx_touch, State.endRecord_touch]
    | refine Touch.foldl_step (fun _ _ => ?_) ?_)) wi

@[simp] theorem State.commitDisarm_touch {Lt : List Fld} {st0 : State} (s : State) (h : Nat) (wi : within [.streams,
    .shots, .adm, .rings, .jobs, .tx, .ports, .gates, .eye] Lt = true) :
    Touch Lt st0 (State.commitDisarm s h) ↔ Touch Lt st0 s :=
  Touch.iff (A := [.streams, .shots, .adm, .rings, .jobs, .tx, .ports, .gates, .eye]) (s := s) (t := (State.commitDisarm s h)) (by
  simp only [State.commitDisarm]
  repeat' (first
    | with_reducible exact Touch.refl _ _
    | dsimp only
    | simp (disch := decide) only [State.failHeld_touch, State.recharge_touch, State.setStream_touch])) wi

@[simp] theorem State.closeHolds_touch {Lt : List Fld} {st0 : State} (s : State) (p : V2Rec → Bool) (code : BitVec
    5) (wi : within [.v2] Lt = true) :
    Touch Lt st0 (State.closeHolds s p code) ↔ Touch Lt st0 s :=
  Touch.iff (A := [.v2]) (s := s) (t := (State.closeHolds s p code)) (by
  simp only [State.closeHolds]
  repeat' (first
    | with_reducible exact Touch.refl _ _
    | split
    | dsimp only
    | (with_reducible refine Touch.upd ?_ ?_
       · (intro f hf; cases f <;> first | exact absurd hf (by decide) | rfl)
       first
       | with_reducible exact Touch.refl _ _
       | split))) wi

@[simp] theorem State.commitRetire_touch {Lt : List Fld} {st0 : State} (s : State) (h : Nat) (wi : within [.streams,
    .shots, .aux, .adm, .grace, .rings, .jobs, .tx, .ports, .gates, .v2, .eye] Lt = true) :
    Touch Lt st0 (State.commitRetire s h) ↔ Touch Lt st0 s :=
  Touch.iff (A := [.streams, .shots, .aux, .adm, .grace, .rings, .jobs, .tx, .ports, .gates, .v2, .eye]) (s := s) (t := (State.commitRetire s h)) (by
  simp only [State.commitRetire]
  repeat' (first
    | with_reducible exact Touch.refl _ _
    | split
    | dsimp only
    | simp (disch := decide) only [State.closeHolds_touch, State.dropGrace_touch, State.failHeld_touch,
          State.recharge_touch, State.setAux_touch, State.setStream_touch])) wi

@[simp] theorem State.stageFollow_touch {Lt : List Fld} {st0 : State} (s : State) (h : Nat) (wi : within [.staged,
    .aux, .eye] Lt = true) :
    Touch Lt st0 (State.stageFollow s h) ↔ Touch Lt st0 s :=
  Touch.iff (A := [.staged, .aux, .eye]) (s := s) (t := (State.stageFollow s h)) (by
  simp only [State.stageFollow]
  repeat' (first
    | with_reducible exact Touch.refl _ _
    | split
    | dsimp only
    | simp (disch := decide) only [State.post_touch, State.setAux_touch, State.stage_touch])) wi

@[simp] theorem State.askFollow_touch {Lt : List Fld} {st0 : State} (s : State) (h : Nat) (wi : within [.staged,
    .aux, .eye] Lt = true) :
    Touch Lt st0 (State.askFollow s h) ↔ Touch Lt st0 s :=
  Touch.iff (A := [.staged, .aux, .eye]) (s := s) (t := (State.askFollow s h)) (by
  simp only [State.askFollow]
  repeat' (first
    | with_reducible exact Touch.refl _ _
    | split
    | dsimp only
    | simp (disch := decide) only [State.setAux_touch, State.stageFollow_touch])) wi

@[simp] theorem State.decideHolds_touch {Lt : List Fld} {st0 : State} (s : State) (p : V2Rec → Bool) (code : BitVec
    5) (ev : Bool) (wi : within [.v2, .eye] Lt = true) :
    Touch Lt st0 (State.decideHolds s p code ev) ↔ Touch Lt st0 s :=
  Touch.iff (A := [.v2, .eye]) (s := s) (t := (State.decideHolds s p code ev)) (by
  simp only [State.decideHolds]
  repeat' (first
    | with_reducible exact Touch.refl _ _
    | split
    | dsimp only
    | simp (disch := decide) only [State.closeHolds_touch, State.posts_touch])) wi

@[simp] theorem State.keyPasses_touch {Lt : List Fld} {st0 : State} (s : State) (n : Nat) (v : Ver) (j : Nat) (k :
    List Byte) (wi : within [.vers, .bw, .mem, .eye] Lt = true) :
    Touch Lt st0 (State.keyPasses s n v j k) ↔ Touch Lt st0 s :=
  Touch.iff (A := [.vers, .bw, .mem, .eye]) (s := s) (t := (State.keyPasses s n v j k)) (by
  have hb : ∀ (x : State) (b : BwState), Touch [.vers, .bw, .mem, .eye] x ({ x with bw := b } : State) := fun x b f hf => by
    cases f <;> first | exact absurd hf (by decide) | rfl
  unfold State.keyPasses
  exact Touch.step ((State.storeVer_touch s n _ (by decide)).mpr (Touch.refl _ _)) (hb _ _)) wi

@[simp] theorem State.renewalTakes_touch {Lt : List Fld} {st0 : State} (s : State) (n : Nat) (v : Ver) (j : Nat) (k
    : List Byte) (wi : within [.vers, .v2, .bw, .mem, .eye] Lt = true) :
    Touch Lt st0 (State.renewalTakes s n v j k) ↔ Touch Lt st0 s :=
  Touch.iff (A := [.vers, .v2, .bw, .mem, .eye]) (s := s) (t := (State.renewalTakes s n v j k)) (by
  simp only [State.renewalTakes]
  repeat' (first
    | with_reducible exact Touch.refl _ _
    | dsimp only
    | simp (disch := decide) only [State.count_touch, State.decideHolds_touch, State.keyPasses_touch,
          State.post_touch, State.setVer_touch])) wi

@[simp] theorem State.invalidDisclosure_touch {Lt : List Fld} {st0 : State} (s : State) (x : RxFrame) (wi : within
    [.v2] Lt = true) :
    Touch Lt st0 (State.invalidDisclosure s x) ↔ Touch Lt st0 s :=
  Touch.iff (A := [.v2]) (s := s) (t := (State.invalidDisclosure s x)) (by
  simp only [State.invalidDisclosure]
  repeat' (first
    | with_reducible exact Touch.refl _ _
    | split
    | dsimp only
    | (with_reducible refine Touch.upd ?_ ?_
       · (intro f hf; cases f <;> first | exact absurd hf (by decide) | rfl)
       first
       | with_reducible exact Touch.refl _ _
       | split))) wi

@[simp] theorem State.refuseKey_touch {Lt : List Fld} {st0 : State} (s : State) (w : KeyWalk) (wi : within [.tx,
    .nextFrame, .ports, .v2, .bw, .eye] Lt = true) :
    Touch Lt st0 (State.refuseKey s w) ↔ Touch Lt st0 s :=
  Touch.iff (A := [.tx, .nextFrame, .ports, .v2, .bw, .eye]) (s := s) (t := (State.refuseKey s w)) (by
  simp only [State.refuseKey]
  repeat' (first
    | with_reducible exact Touch.refl _ _
    | split
    | dsimp only
    | simp (disch := decide) only [State.invalidDisclosure_touch, State.post_touch, State.report_touch]
    | (with_reducible refine Touch.upd ?_ ?_
       · (intro f hf; cases f <;> first | exact absurd hf (by decide) | rfl)
       first
       | with_reducible exact Touch.refl _ _
       | split
       | simp (disch := decide) only [State.invalidDisclosure_touch, State.post_touch, State.report_touch]))) wi

@[simp] theorem State.judgeKey_touch {Lt : List Fld} {st0 : State} (s : State) (w : KeyWalk) (wi : within [.tx,
    .nextFrame, .ports, .vers, .v2, .bw, .mem, .eye] Lt = true) :
    Touch Lt st0 (State.judgeKey s w) ↔ Touch Lt st0 s :=
  Touch.iff (A := [.tx, .nextFrame, .ports, .vers, .v2, .bw, .mem, .eye]) (s := s) (t := (State.judgeKey s w)) (by
  simp only [State.judgeKey]
  repeat' (first
    | with_reducible exact Touch.refl _ _
    | split
    | dsimp only
    | simp (disch := decide) only [State.keyPasses_touch, State.refuseKey_touch, State.renewalTakes_touch]
    | (with_reducible refine Touch.upd ?_ ?_
       · (intro f hf; cases f <;> first | exact absurd hf (by decide) | rfl)
       first
       | with_reducible exact Touch.refl _ _
       | split
       | simp (disch := decide) only [State.keyPasses_touch, State.refuseKey_touch, State.renewalTakes_touch]))) wi

theorem State.runWalks_step (L : List Fld) (w : within [.power, .tx, .nextFrame, .ports, .vers, .v2, .bw, .mem, .eye] L = true)
    (n : Nat) : ∀ (k : Nat) (s : State), Touch L s (State.runWalks n k s) := by
  intro k
  induction k with
  | zero => exact fun s => Touch.refl L s
  | succ k ih =>
    intro s
    have hb : ∀ (x : State) (b : BwState), Touch L x ({ x with bw := b } : State) := fun x b =>
      Touch.mono (A := [.power, .tx, .nextFrame, .ports, .vers, .v2, .bw, .mem, .eye])
        (fun f hf => by cases f <;> first | exact absurd hf (by decide) | rfl) w
    rw [State.runWalks]
    split
    · exact Touch.refl L s
    extract_lets gap used left s1 b2 s2 go s3
    have h1 : Touch L s s1 := (State.postIf_touch _ _ _ (Touch.within_of (by decide) w)).mpr (Touch.refl _ _)
    have h2 : Touch L s s2 := h1.step (hb s1 _)
    have h3 : Touch L s s3 := h1.step (hb s1 _)
    clear_value s1 s2 s3
    have core : ∀ (c : Prop) [Decidable c] (x : State), Touch L s x → Touch L s (if c then x.coreWorks 10 else x) := by
      intro c _ x hx
      split
      · exact (State.coreWorks_touch _ _ (Touch.within_of (by decide) w)).mpr hx
      · exact hx
    split
    · refine Touch.step ?_ (ih _)
      exact (State.judgeKey_touch _ _ (Touch.within_of (by decide) w)).mpr (core _ _ h2)
    · exact (State.post_touch _ _ (Touch.within_of (by decide) w)).mpr (core _ _ h3)

@[simp] theorem State.runWalks_touch {Lt : List Fld} {st0 : State} (n k : Nat) (s : State)
    (wi : within [.power, .tx, .nextFrame, .ports, .vers, .v2, .bw, .mem, .eye] Lt = true) :
    Touch Lt st0 (State.runWalks n k s) ↔ Touch Lt st0 s :=
  Touch.iff (State.runWalks_step _ (by decide) n k s) wi

@[simp] theorem State.disclose_touch {Lt : List Fld} {st0 : State} (s : State) (w : KeyWalk) (wi : within [.power,
    .tx, .nextFrame, .ports, .vers, .v2, .bw, .mem, .eye] Lt = true) :
    Touch Lt st0 (State.disclose s w) ↔ Touch Lt st0 s :=
  Touch.iff (A := [.power, .tx, .nextFrame, .ports, .vers, .v2, .bw, .mem, .eye]) (s := s) (t := (State.disclose s w)) (by
  simp only [State.disclose]
  repeat' (first
    | with_reducible exact Touch.refl _ _
    | split
    | dsimp only
    | simp (disch := decide) only [State.runWalks_touch]
    | refine Touch.of_pair (by assumption) ?_
    | (with_reducible refine Touch.upd ?_ ?_
       · (intro f hf; cases f <;> first | exact absurd hf (by decide) | rfl)
       first
       | with_reducible exact Touch.refl _ _
       | split
       | simp (disch := decide) only [State.runWalks_touch]
       | refine Touch.of_pair (by assumption) ?_))) wi

@[simp] theorem State.newSteps_touch {Lt : List Fld} {st0 : State} (s : State) (wi : within [.power, .tx,
    .nextFrame, .ports, .vers, .v2, .bw, .mem, .eye] Lt = true) :
    Touch Lt st0 (State.newSteps s) ↔ Touch Lt st0 s :=
  Touch.iff (A := [.power, .tx, .nextFrame, .ports, .vers, .v2, .bw, .mem, .eye]) (s := s) (t := (State.newSteps s)) (by
  simp only [State.newSteps]
  repeat' (first
    | with_reducible exact Touch.refl _ _
    | dsimp only
    | simp (disch := decide) only [State.runWalks_touch]
    | refine Touch.foldl_step (fun _ _ => ?_) ?_
    | refine Touch.of_pair (by assumption) ?_
    | (with_reducible refine Touch.upd ?_ ?_
       · (intro f hf; cases f <;> first | exact absurd hf (by decide) | rfl)
       first
       | with_reducible exact Touch.refl _ _
       | simp (disch := decide) only [State.runWalks_touch]
       | refine Touch.foldl_step (fun _ _ => ?_) ?_
       | refine Touch.of_pair (by assumption) ?_))) wi

@[simp] theorem State.addV2_touch {Lt : List Fld} {st0 : State} (s : State) (v : V2Rec) (wi : within [.v2] Lt =
    true) :
    Touch Lt st0 (State.addV2 s v) ↔ Touch Lt st0 s :=
  Touch.iff (A := [.v2]) (s := s) (t := (State.addV2 s v)) (by
  simp only [State.addV2]
  repeat' (first
    | with_reducible exact Touch.refl _ _
    | (with_reducible refine Touch.upd ?_ ?_
       · (intro f hf; cases f <;> first | exact absurd hf (by decide) | rfl)
       first
       | with_reducible exact Touch.refl _ _))) wi

@[simp] theorem State.bwArrive_touch {Lt : List Fld} {st0 : State} (s : State) (x : RxFrame) (wi : within [.power,
    .tx, .nextFrame, .ports, .vers, .v2, .bw, .mem, .eye] Lt = true) :
    Touch Lt st0 (State.bwArrive s x) ↔ Touch Lt st0 s :=
  Touch.iff (A := [.power, .tx, .nextFrame, .ports, .vers, .v2, .bw, .mem, .eye]) (s := s) (t := (State.bwArrive s x)) (by
  have hb : ∀ (x : State) (b : BwState), Touch [.power, .tx, .nextFrame, .ports, .vers, .v2, .bw, .mem, .eye] x ({ x with bw := b } : State) := fun x b f hf => by
    cases f <;> first | exact absurd hf (by decide) | rfl
  unfold State.bwArrive
  extract_lets t fate sa s0 s1 b2 s2 told s3
  have ha : Touch [.power, .tx, .nextFrame, .ports, .vers, .v2, .bw, .mem, .eye] s sa := (State.verAccess_touch _ _ _ (by decide)).mpr (Touch.refl _ _)
  have h0 : Touch [.power, .tx, .nextFrame, .ports, .vers, .v2, .bw, .mem, .eye] s s0 := by
    dsimp only [s0]
    split
    · exact (State.coreWorks_touch _ _ (by decide)).mpr ((State.holdAccess_touch _ _ _ (by decide)).mpr ha)
    · exact ha
  have h1 : Touch [.power, .tx, .nextFrame, .ports, .vers, .v2, .bw, .mem, .eye] s s1 := (State.addV2_touch _ _ (by decide)).mpr h0
  clear_value s1
  have h2 : Touch [.power, .tx, .nextFrame, .ports, .vers, .v2, .bw, .mem, .eye] s s2 := by
    dsimp only [s2]
    split
    · exact (State.post_touch _ _ (by decide)).mpr h1
    · exact (State.post_touch _ _ (by decide)).mpr (h1.step (hb s1 _))
    · exact (State.post_touch _ _ (by decide)).mpr h1
    · exact h1
  clear_value s2
  have h3 : Touch [.power, .tx, .nextFrame, .ports, .vers, .v2, .bw, .mem, .eye] s s3 := by
    dsimp only [s3]
    split
    · exact (State.report_touch _ _ _ (by decide)).mpr h2
    · exact h2
  split
  · exact h3
  · exact (State.disclose_touch _ _ (by decide)).mpr h3) wi

@[simp] theorem State.takeAnchor_touch {Lt : List Fld} {st0 : State} (s : State) (n i : Nat) (a : List Byte) (wi :
    within [.vers, .v2, .mem, .eye] Lt = true) :
    Touch Lt st0 (State.takeAnchor s n i a) ↔ Touch Lt st0 s :=
  Touch.iff (A := [.vers, .v2, .mem, .eye]) (s := s) (t := (State.takeAnchor s n i a)) (by
  simp only [State.takeAnchor]
  repeat' (first
    | with_reducible exact Touch.refl _ _
    | split
    | dsimp only
    | simp (disch := decide) only [State.decideHolds_touch, State.post_touch, State.storeVer_touch])) wi

@[simp] theorem State.checkHold_touch {Lt : List Fld} {st0 : State} (s : State) (mk : Key) (x : V2Rec) (wi : within
    [.vers, .v2, .mem, .eye] Lt = true) :
    Touch Lt st0 (State.checkHold s mk x) ↔ Touch Lt st0 s :=
  Touch.iff (A := [.vers, .v2, .mem, .eye]) (s := s) (t := (State.checkHold s mk x)) (by
  simp only [State.checkHold]
  repeat' (first
    | with_reducible exact Touch.refl _ _
    | split
    | dsimp only
    | simp (disch := decide) only [State.closeHolds_touch, State.holdAccess_touch, State.takeAnchor_touch])) wi

@[simp] theorem State.resolveInterval_touch {Lt : List Fld} {st0 : State} (s : State) (u core : Nat) (cellBad :
    Bool) (n : Nat) (v : Ver) (j : Nat) (k : List Byte) (i p : Nat) (wi : within [.draws, .mode, .cause, .fatal,
    .fuses, .ladder, .retention, .power, .mail, .cmds, .staged, .streams, .aux, .adm, .grace, .slots, .keyCtl,
    .imports, .jobs, .tx, .rx, .egSkip, .eReady, .classifying, .ingress, .ports, .pubs, .vers, .v2, .bw, .pebbles,
    .mem, .eye] Lt = true) :
    Touch Lt st0 (State.resolveInterval s u core cellBad n v j k i p).2 ↔ Touch Lt st0 s :=
  Touch.iff (A := [.draws, .mode, .cause, .fatal, .fuses, .ladder, .retention, .power, .mail, .cmds, .staged, .streams, .aux, .adm, .grace, .slots, .keyCtl, .imports, .jobs, .tx, .rx, .egSkip, .eReady, .classifying, .ingress, .ports, .pubs, .vers, .v2, .bw, .pebbles, .mem, .eye]) (s := s) (t := (State.resolveInterval s u core cellBad n v j k i p).2) (by
  simp only [State.resolveInterval]
  repeat' (first
    | with_reducible exact Touch.refl _ _
    | split
    | dsimp only
    | simp (disch := decide) only [State.busyPulse_touch, State.checkHold_touch, State.coreWorks_touch,
          State.fetch_touch, State.invalidate_touch, State.writeSlot_touch]
    | refine Touch.foldl_step (fun _ _ => ?_) ?_
    | refine Touch.of_pair (by assumption) ?_)) wi

@[simp] theorem State.resolved_touch {Lt : List Fld} {st0 : State} (s : State) (e : Nat × Nat × List Byte) (wi :
    within [.bw] Lt = true) :
    Touch Lt st0 (State.resolved s e) ↔ Touch Lt st0 s :=
  Touch.iff (A := [.bw]) (s := s) (t := (State.resolved s e)) (by
  simp only [State.resolved]
  repeat' (first
    | with_reducible exact Touch.refl _ _
    | (with_reducible refine Touch.upd ?_ ?_
       · (intro f hf; cases f <;> first | exact absurd hf (by decide) | rfl)
       first
       | with_reducible exact Touch.refl _ _))) wi

@[simp] theorem State.writeBank_touch {Lt : List Fld} {st0 : State} (s : State) (c : Nat) (v : Pub) (b : Bank) (keys
    : List (Nat × Nat × List Byte)) (wi : within [.pubs, .pebbles, .mem, .eye] Lt = true) :
    Touch Lt st0 (State.writeBank s c v b keys) ↔ Touch Lt st0 s :=
  Touch.iff (A := [.pubs, .pebbles, .mem, .eye]) (s := s) (t := (State.writeBank s c v b keys)) (by
  simp only [State.writeBank]
  repeat' (first
    | with_reducible exact Touch.refl _ _
    | split
    | dsimp only
    | simp (disch := decide) only [State.ownAccess_touch, State.setPub_touch]
    | refine Touch.foldl_step (fun _ _ => ?_) ?_
    | refine Touch.of_pair (by assumption) ?_
    | (with_reducible refine Touch.upd ?_ ?_
       · (intro f hf; cases f <;> first | exact absurd hf (by decide) | rfl)
       first
       | with_reducible exact Touch.refl _ _
       | split
       | simp (disch := decide) only [State.ownAccess_touch, State.setPub_touch]
       | refine Touch.foldl_step (fun _ _ => ?_) ?_
       | refine Touch.of_pair (by assumption) ?_))) wi

@[simp] theorem State.faultBank_touch {Lt : List Fld} {st0 : State} (s : State) (c : Nat) (v : Pub) (b : Bank) (wi :
    within [.pubs, .eye] Lt = true) :
    Touch Lt st0 (State.faultBank s c v b) ↔ Touch Lt st0 s :=
  Touch.iff (A := [.pubs, .eye]) (s := s) (t := (State.faultBank s c v b)) (by
  simp only [State.faultBank]
  repeat' (first
    | with_reducible exact Touch.refl _ _
    | split
    | dsimp only
    | simp (disch := decide) only [State.post_touch, State.setPub_touch])) wi

@[simp] theorem State.readPebble_touch {Lt : List Fld} {st0 : State} (s : State) (c : Nat) (v : Pub) (b : Bank) (k :
    Nat) (r : RecordRead) (wi : within [.pubs, .mem, .eye] Lt = true) :
    Touch Lt st0 (State.readPebble s c v b k r).2 ↔ Touch Lt st0 s :=
  Touch.iff (A := [.pubs, .mem, .eye]) (s := s) (t := (State.readPebble s c v b k r).2) (by
  simp only [State.readPebble]
  repeat' (first
    | with_reducible exact Touch.refl _ _
    | split
    | dsimp only
    | simp (disch := decide) only [State.faultBank_touch, State.ownAccess_touch]
    | refine Touch.of_pair (by assumption) ?_)) wi

@[simp] theorem State.fillSegment_touch {Lt : List Fld} {st0 : State} (s : State) (u c : Nat) (cellBad : Bool) (v :
    Pub) (want : Nat × Nat) (half : Bool) (wi : within [.mode, .cause, .fatal, .fuses, .ladder, .retention, .power,
    .mail, .cmds, .staged, .streams, .aux, .adm, .grace, .slots, .keyCtl, .imports, .jobs, .tx, .rx, .egSkip,
    .eReady, .classifying, .ingress, .ports, .pubs, .vers, .v2, .bw, .pebbles, .mem, .eye] Lt = true) :
    Touch Lt st0 (State.fillSegment s u c cellBad v want half) ↔ Touch Lt st0 s :=
  Touch.iff (A := [.mode, .cause, .fatal, .fuses, .ladder, .retention, .power, .mail, .cmds, .staged, .streams, .aux, .adm, .grace, .slots, .keyCtl, .imports, .jobs, .tx, .rx, .egSkip, .eReady, .classifying, .ingress, .ports, .pubs, .vers, .v2, .bw, .pebbles, .mem, .eye]) (s := s) (t := (State.fillSegment s u c cellBad v want half)) (by
  simp only [State.fillSegment]
  repeat' (first
    | with_reducible exact Touch.refl _ _
    | split
    | dsimp only
    | simp (disch := decide) only [State.coreFetch_touch, State.coreWorks_touch, State.writeBank_touch]
    | refine Touch.of_pair (by assumption) ?_)) wi

@[simp] theorem State.fillBlock_touch {Lt : List Fld} {st0 : State} (s : State) (u c : Nat) (cellBad : Bool) (top :
    RecordRead) (v : Pub) (want : Nat × Nat) (half : Bool) (wi : within [.mode, .cause, .fatal, .fuses, .ladder,
    .retention, .power, .mail, .cmds, .staged, .streams, .aux, .adm, .grace, .slots, .keyCtl, .imports, .jobs, .tx,
    .rx, .egSkip, .eReady, .classifying, .ingress, .ports, .pubs, .vers, .v2, .bw, .pebbles, .mem, .eye] Lt = true)
    :
    Touch Lt st0 (State.fillBlock s u c cellBad top v want half) ↔ Touch Lt st0 s :=
  Touch.iff (A := [.mode, .cause, .fatal, .fuses, .ladder, .retention, .power, .mail, .cmds, .staged, .streams, .aux, .adm, .grace, .slots, .keyCtl, .imports, .jobs, .tx, .rx, .egSkip, .eReady, .classifying, .ingress, .ports, .pubs, .vers, .v2, .bw, .pebbles, .mem, .eye]) (s := s) (t := (State.fillBlock s u c cellBad top v want half)) (by
  simp only [State.fillBlock]
  repeat' (first
    | with_reducible exact Touch.refl _ _
    | split
    | dsimp only
    | simp (disch := decide) only [State.coreFetch_touch, State.coreWorks_touch, State.readPebble_touch,
          State.writeBank_touch]
    | refine Touch.of_pair (by assumption) ?_)) wi

@[simp] theorem State.oldKey_touch {Lt : List Fld} {st0 : State} (s : State) (u c : Nat) (v : Pub) (i j : Nat)
    (segment : RecordRead) (cellBad : Bool) (wi : within [.mode, .cause, .fatal, .fuses, .ladder, .retention,
    .power, .mail, .cmds, .staged, .streams, .aux, .adm, .grace, .slots, .keyCtl, .imports, .jobs, .tx, .rx,
    .egSkip, .eReady, .classifying, .ingress, .ports, .pubs, .vers, .v2, .bw, .pebbles, .mem, .eye] Lt = true) :
    Touch Lt st0 (State.oldKey s u c v i j segment cellBad).2 ↔ Touch Lt st0 s :=
  Touch.iff (A := [.mode, .cause, .fatal, .fuses, .ladder, .retention, .power, .mail, .cmds, .staged, .streams, .aux, .adm, .grace, .slots, .keyCtl, .imports, .jobs, .tx, .rx, .egSkip, .eReady, .classifying, .ingress, .ports, .pubs, .vers, .v2, .bw, .pebbles, .mem, .eye]) (s := s) (t := (State.oldKey s u c v i j segment cellBad).2) (by
  simp only [State.oldKey]
  repeat' (first
    | with_reducible exact Touch.refl _ _
    | split
    | dsimp only
    | simp (disch := decide) only [State.coreFetch_touch, State.readPebble_touch]
    | refine Touch.of_pair (by assumption) ?_)) wi

@[simp] theorem State.disclosedFor_touch {Lt : List Fld} {st0 : State} (s : State) (u c : Nat) (v : Pub) (i : Nat)
    (k : List Byte) (segment : RecordRead) (cellBad : Bool) (wi : within [.mode, .cause, .fatal, .fuses, .ladder,
    .retention, .power, .mail, .cmds, .staged, .streams, .aux, .adm, .grace, .slots, .keyCtl, .imports, .jobs, .tx,
    .rx, .egSkip, .eReady, .classifying, .ingress, .ports, .pubs, .vers, .v2, .bw, .pebbles, .mem, .eye] Lt = true)
    :
    Touch Lt st0 (State.disclosedFor s u c v i k segment cellBad).2 ↔ Touch Lt st0 s :=
  Touch.iff (A := [.mode, .cause, .fatal, .fuses, .ladder, .retention, .power, .mail, .cmds, .staged, .streams, .aux, .adm, .grace, .slots, .keyCtl, .imports, .jobs, .tx, .rx, .egSkip, .eReady, .classifying, .ingress, .ports, .pubs, .vers, .v2, .bw, .pebbles, .mem, .eye]) (s := s) (t := (State.disclosedFor s u c v i k segment cellBad).2) (by
  simp only [State.disclosedFor]
  repeat' (first
    | with_reducible exact Touch.refl _ _
    | split
    | dsimp only
    | simp (disch := decide) only [State.oldKey_touch]
    | refine Touch.of_pair (by assumption) ?_)) wi

@[simp] theorem State.writeMac_touch {Lt : List Fld} {st0 : State} (s : State) (k seed dom : Nat) (key : Key) (wi :
    within [.draws, .slots, .keyCtl, .eye, .out] Lt = true) :
    Touch Lt st0 (State.writeMac s k seed dom key) ↔ Touch Lt st0 s :=
  Touch.iff (A := [.draws, .slots, .keyCtl, .eye, .out]) (s := s) (t := (State.writeMac s k seed dom key)) (by
  simp only [State.writeMac]
  repeat' (first
    | with_reducible exact Touch.refl _ _
    | split
    | dsimp only
    | simp (disch := decide) only [State.scrub_touch, State.writeSlot_touch])) wi

@[simp] theorem State.makeReady_touch {Lt : List Fld} {st0 : State} (s : State) (c : Nat) (seed i : Nat) (late :
    Bool) (k : List Byte) (disclosed : Option (List Byte)) (wi : within [.draws, .slots, .keyCtl, .pubs, .eye, .out]
    Lt = true) :
    Touch Lt st0 (State.makeReady s c seed i late k disclosed) ↔ Touch Lt st0 s :=
  Touch.iff (A := [.draws, .slots, .keyCtl, .pubs, .eye, .out]) (s := s) (t := (State.makeReady s c seed i late k disclosed)) (by
  simp only [State.makeReady]
  repeat' (first
    | with_reducible exact Touch.refl _ _
    | split
    | dsimp only
    | simp (disch := decide) only [State.setPub_touch, State.writeMac_touch])) wi

end Sys2Proof.Machine
end

