-- ==== Sys2Proof/Laws/FrameIngress.lean ====
section
/-!
SUPPORT. Footprints of frames received and the boundary of a period: for each function f, whether its result agrees with a
state on the fields outside L is whether its argument does, for every L that contains the fields that f may change.
-/

namespace Sys2Proof.Machine

@[simp] theorem State.pushRx_touch {Lt : List Fld} {st0 : State} (s : State) (x : RxFrame) (wi : within [.rx,
    .nextFrame] Lt = true) :
    Touch Lt st0 (State.pushRx s x) ↔ Touch Lt st0 s :=
  Touch.iff (A := [.rx, .nextFrame]) (s := s) (t := (State.pushRx s x)) (by
  simp only [State.pushRx]
  repeat' (first
    | with_reducible exact Touch.refl _ _
    | (with_reducible refine Touch.upd ?_ ?_
       · (intro f hf; cases f <;> first | exact absurd hf (by decide) | rfl)
       first
       | with_reducible exact Touch.refl _ _))) wi

@[simp] theorem State.tell_touch {Lt : List Fld} {st0 : State} (s : State) (anomaly : Option Violation) (wi : within
    [.tx, .nextFrame, .ports, .eye] Lt = true) :
    Touch Lt st0 (State.tell s anomaly) ↔ Touch Lt st0 s :=
  Touch.iff (A := [.tx, .nextFrame, .ports, .eye]) (s := s) (t := (State.tell s anomaly)) (by
  unfold State.tell
  cases anomaly
  · exact Touch.refl _ _
  · exact (State.violation_touch _ _ (by decide)).mpr (Touch.refl _ _)) wi

@[simp] theorem State.keepRx_touch {Lt : List Fld} {st0 : State} (s : State) (x : RxFrame) (anomaly : Option
    Violation) (wi : within [.tx, .rx, .nextFrame, .ports, .eye] Lt = true) :
    Touch Lt st0 (State.keepRx s x anomaly) ↔ Touch Lt st0 s :=
  Touch.iff (A := [.tx, .rx, .nextFrame, .ports, .eye]) (s := s) (t := (State.keepRx s x anomaly)) (by
  simp only [State.keepRx]
  repeat' (first
    | with_reducible exact Touch.refl _ _
    | simp (disch := decide) only [State.pushRx_touch, State.tell_touch])) wi

@[simp] theorem State.endTrace_touch {Lt : List Fld} {st0 : State} (s : State) (x : RxFrame) (unit seq code : Nat)
    (wi : within [.eye] Lt = true) :
    Touch Lt st0 (State.endTrace s x unit seq code) ↔ Touch Lt st0 s :=
  Touch.iff (A := [.eye]) (s := s) (t := (State.endTrace s x unit seq code)) (by
  simp only [State.endTrace]
  repeat' (first
    | with_reducible exact Touch.refl _ _
    | split
    | simp (disch := decide) only [State.traceEnd_touch])) wi

@[simp] theorem State.endTagged_touch {Lt : List Fld} {st0 : State} (s : State) (x : RxFrame) (wi : within
    [.nextFrame, .eye] Lt = true) :
    Touch Lt st0 (State.endTagged s x) ↔ Touch Lt st0 s :=
  Touch.iff (A := [.nextFrame, .eye]) (s := s) (t := (State.endTagged s x)) (by
  simp only [State.endTagged]
  repeat' (first
    | with_reducible exact Touch.refl _ _
    | split
    | simp (disch := decide) only [State.endTrace_touch]
    | (with_reducible refine Touch.upd ?_ ?_
       · (intro f hf; cases f <;> first | exact absurd hf (by decide) | rfl)
       first
       | with_reducible exact Touch.refl _ _
       | split
       | simp (disch := decide) only [State.endTrace_touch]))) wi

@[simp] theorem State.bufferRx_touch {Lt : List Fld} {st0 : State} (s : State) (x : RxFrame) (cls : Nat) (anomaly :
    Option Violation) (wi : within [.tx, .rx, .nextFrame, .ports, .eye] Lt = true) :
    Touch Lt st0 (State.bufferRx s x cls anomaly) ↔ Touch Lt st0 s :=
  Touch.iff (A := [.tx, .rx, .nextFrame, .ports, .eye]) (s := s) (t := (State.bufferRx s x cls anomaly)) (by
  simp only [State.bufferRx]
  repeat' (first
    | with_reducible exact Touch.refl _ _
    | split
    | dsimp only
    | simp (disch := decide) only [State.bumpPort_touch, State.endTagged_touch, State.keepRx_touch,
          State.postOnce_touch])) wi

@[simp] theorem State.tagRx_touch {Lt : List Fld} {st0 : State} (s : State) (x : RxFrame) (wi : within [.eye] Lt =
    true) :
    Touch Lt st0 (State.tagRx s x).2 ↔ Touch Lt st0 s :=
  Touch.iff (A := [.eye]) (s := s) (t := (State.tagRx s x).2) (by
  simp only [State.tagRx]
  repeat' (first
    | with_reducible exact Touch.refl _ _
    | split
    | dsimp only
    | simp (disch := decide) only [State.traceFrame_touch]
    | refine Touch.of_pair (by assumption) ?_)) wi

@[simp] theorem State.countClassified_touch {Lt : List Fld} {st0 : State} (s : State) (h d len : Nat) (wi : within
    [.eye] Lt = true) :
    Touch Lt st0 (State.countClassified s h d len) ↔ Touch Lt st0 s :=
  Touch.iff (A := [.eye]) (s := s) (t := (State.countClassified s h d len)) (by
  simp only [State.countClassified]
  repeat' (first
    | with_reducible exact Touch.refl _ _
    | simp (disch := decide) only [State.count_touch])) wi

@[simp] theorem State.noStream_touch {Lt : List Fld} {st0 : State} (s : State) (x : RxFrame) (v : Violation)
    (anomaly : Option Violation) (wi : within [.tx, .nextFrame, .ports, .eye] Lt = true) :
    Touch Lt st0 (State.noStream s x v anomaly) ↔ Touch Lt st0 s :=
  Touch.iff (A := [.tx, .nextFrame, .ports, .eye]) (s := s) (t := (State.noStream s x v anomaly)) (by
  simp only [State.noStream]
  repeat' (first
    | with_reducible exact Touch.refl _ _
    | split
    | dsimp only
    | simp (disch := decide) only [State.bumpPort_touch, State.postOnce_touch, State.tell_touch,
          State.violation_touch])) wi

@[simp] theorem State.classifyProtected_touch {Lt : List Fld} {st0 : State} (s : State) (r : RxIn) (body : List
    Byte) (key : Option (BitVec 48 × BitVec 16)) (anomaly : Option Violation) (found : Option (Nat × Context)) (wi :
    within [.tx, .rx, .nextFrame, .ports, .eye] Lt = true) :
    Touch Lt st0 (State.classifyProtected s r body key anomaly found) ↔ Touch Lt st0 s :=
  Touch.iff (A := [.tx, .rx, .nextFrame, .ports, .eye]) (s := s) (t := (State.classifyProtected s r body key anomaly found)) (by
  simp only [State.classifyProtected]
  repeat' (first
    | with_reducible exact Touch.refl _ _
    | split
    | dsimp only
    | simp (disch := decide) only [State.bufferRx_touch, State.countClassified_touch, State.keepRx_touch,
          State.noStream_touch, State.tagRx_touch]
    | refine Touch.of_pair (by assumption) ?_)) wi

@[simp] theorem State.classifyClear_touch {Lt : List Fld} {st0 : State} (s : State) (r : RxIn) (body : List Byte)
    (key : Option (BitVec 48 × BitVec 16)) (anomaly : Option Violation) (wi : within [.tx, .rx, .nextFrame,
    .ingress, .ports, .eye] Lt = true) :
    Touch Lt st0 (State.classifyClear s r body key anomaly) ↔ Touch Lt st0 s :=
  Touch.iff (A := [.tx, .rx, .nextFrame, .ingress, .ports, .eye]) (s := s) (t := (State.classifyClear s r body key anomaly)) (by
  simp only [State.classifyClear]
  repeat' (first
    | with_reducible exact Touch.refl _ _
    | split
    | dsimp only
    | simp (disch := decide) only [State.bufferRx_touch, State.bumpPort_touch, State.count_touch,
          State.countClassified_touch, State.endTagged_touch, State.place_touch, State.tagRx_touch,
          State.tell_touch]
    | refine Touch.of_pair (by assumption) ?_)) wi

@[simp] theorem State.classifyBody_touch {Lt : List Fld} {st0 : State} (s : State) (r : RxIn) (body : List Byte)
    (key : Option (BitVec 48 × BitVec 16)) (anomaly : Option Violation) (wi : within [.tx, .rx, .nextFrame,
    .ingress, .ports, .eye] Lt = true) :
    Touch Lt st0 (State.classifyBody s r body key anomaly) ↔ Touch Lt st0 s :=
  Touch.iff (A := [.tx, .rx, .nextFrame, .ingress, .ports, .eye]) (s := s) (t := (State.classifyBody s r body key anomaly)) (by
  simp only [State.classifyBody]
  repeat' (first
    | with_reducible exact Touch.refl _ _
    | split
    | dsimp only
    | simp (disch := decide) only [State.bumpPort_touch, State.classifyClear_touch,
          State.classifyProtected_touch, State.keepRx_touch, State.tell_touch])) wi

@[simp] theorem State.countReceived_touch {Lt : List Fld} {st0 : State} (s : State) (r : RxIn) (body : List Byte)
    (wi : within [.ports] Lt = true) :
    Touch Lt st0 (State.countReceived s r body) ↔ Touch Lt st0 s :=
  Touch.iff (A := [.ports]) (s := s) (t := (State.countReceived s r body)) (by
  simp only [State.countReceived]
  repeat' (first
    | with_reducible exact Touch.refl _ _
    | split
    | simp (disch := decide) only [State.bumpPort_touch])) wi

@[simp] theorem State.receivePrp_touch {Lt : List Fld} {st0 : State} (s : State) (a : Nat) (r : RxIn) (wi : within
    [.tx, .rx, .nextFrame, .ingress, .ports, .eye] Lt = true) :
    Touch Lt st0 (State.receivePrp s a r) ↔ Touch Lt st0 s :=
  Touch.iff (A := [.tx, .rx, .nextFrame, .ingress, .ports, .eye]) (s := s) (t := (State.receivePrp s a r)) (by
  simp only [State.receivePrp]
  repeat' (first
    | with_reducible exact Touch.refl _ _
    | split
    | dsimp only
    | simp (disch := decide) only [State.bumpPort_touch, State.classifyBody_touch])) wi

@[simp] theorem State.receiveHsr_touch {Lt : List Fld} {st0 : State} (s : State) (a : Nat) (r : RxIn) (whole : Bool)
    (wi : within [.tx, .rx, .nextFrame, .ingress, .ports, .pairs, .eye] Lt = true) :
    Touch Lt st0 (State.receiveHsr s a r whole) ↔ Touch Lt st0 s :=
  Touch.iff (A := [.tx, .rx, .nextFrame, .ingress, .ports, .pairs, .eye]) (s := s) (t := (State.receiveHsr s a r whole)) (by
  simp only [State.receiveHsr]
  repeat' (first
    | with_reducible exact Touch.refl _ _
    | split
    | dsimp only
    | simp (disch := decide) only [State.bumpPair_touch, State.bumpPort_touch, State.classifyBody_touch,
          State.countReceived_touch, State.pushRx_touch, State.violation_touch])) wi

@[simp] theorem State.macCounts_touch {Lt : List Fld} {st0 : State} (s : State) (r : RxIn) (wi : within [.ports] Lt
    = true) :
    Touch Lt st0 (State.macCounts s r) ↔ Touch Lt st0 s :=
  Touch.iff (A := [.ports]) (s := s) (t := (State.macCounts s r)) (by
  simp only [State.macCounts]
  repeat' (first
    | with_reducible exact Touch.refl _ _
    | split
    | dsimp only
    | simp (disch := decide) only [State.bumpPort_touch])) wi

@[simp] theorem State.takePn_touch {Lt : List Fld} {st0 : State} (s : State) (h g pn : Nat) (wi : within [.streams,
    .grace] Lt = true) :
    Touch Lt st0 (State.takePn s h g pn) ↔ Touch Lt st0 s :=
  Touch.iff (A := [.streams, .grace]) (s := s) (t := (State.takePn s h g pn)) (by
  simp only [State.takePn]
  repeat' (first
    | with_reducible exact Touch.refl _ _
    | split
    | dsimp only
    | simp (disch := decide) only [State.setStream_touch]
    | (with_reducible refine Touch.upd ?_ ?_
       · (intro f hf; cases f <;> first | exact absurd hf (by decide) | rfl)
       first
       | with_reducible exact Touch.refl _ _
       | split
       | simp (disch := decide) only [State.setStream_touch]))) wi

@[simp] theorem State.dropV0_touch {Lt : List Fld} {st0 : State} (s : State) (x : RxFrame) (v : V0Result) (wi :
    within [.streams, .shots, .grace, .tx, .rx, .nextFrame, .ports, .pairs, .eye] Lt = true) :
    Touch Lt st0 (State.dropV0 s x v) ↔ Touch Lt st0 s :=
  Touch.iff (A := [.streams, .shots, .grace, .tx, .rx, .nextFrame, .ports, .pairs, .eye]) (s := s) (t := (State.dropV0 s x v)) (by
  simp only [State.dropV0]
  repeat' (first
    | with_reducible exact Touch.refl _ _
    | split
    | dsimp only
    | simp (disch := decide) only [State.bumpPair_touch, State.bumpPort_touch, State.count_touch,
          State.dropRx_touch, State.endTrace_touch, State.freeGrace_touch, State.onShots_touch,
          State.report_touch, State.setStream_touch])) wi

@[simp] theorem State.receiveEntry_touch {Lt : List Fld} {st0 : State} (s : State) (h : Nat) (wi : within [.rings,
    .gates, .eye] Lt = true) :
    Touch Lt st0 (State.receiveEntry s h).2.2 ↔ Touch Lt st0 s :=
  Touch.iff (A := [.rings, .gates, .eye]) (s := s) (t := (State.receiveEntry s h).2.2) (by
  simp only [State.receiveEntry]
  repeat' (first
    | with_reducible exact Touch.refl _ _
    | split
    | dsimp only
    | simp (disch := decide) only [State.allot_touch, State.logGate_touch, State.loseCompletion_touch]
    | refine Touch.of_pair (by assumption) ?_)) wi

@[simp] theorem State.fillBuffer_touch {Lt : List Fld} {st0 : State} (s : State) (x : RxFrame) (off : Nat) (bs :
    List Byte) (wi : within [.hostMem] Lt = true) :
    Touch Lt st0 (State.fillBuffer s x off bs) ↔ Touch Lt st0 s :=
  Touch.iff (A := [.hostMem]) (s := s) (t := (State.fillBuffer s x off bs)) (by
  simp only [State.fillBuffer]
  repeat' (first
    | with_reducible exact Touch.refl _ _
    | split
    | dsimp only
    | simp (disch := decide) only [State.writeHost_touch])) wi

@[simp] theorem State.placeV0_touch {Lt : List Fld} {st0 : State} (s : State) (x : RxFrame) (wi : within [.rx,
    .ingress] Lt = true) :
    Touch Lt st0 (State.placeV0 s x) ↔ Touch Lt st0 s :=
  Touch.iff (A := [.rx, .ingress]) (s := s) (t := (State.placeV0 s x)) (by
  simp only [State.placeV0]
  repeat' (first
    | with_reducible exact Touch.refl _ _
    | split
    | simp (disch := decide) only [State.place_touch, State.setRx_touch])) wi

@[simp] theorem State.nextSeq_touch {Lt : List Fld} {st0 : State} (s : State) (h : Nat) (wi : within [.streams] Lt =
    true) :
    Touch Lt st0 (State.nextSeq s h).2 ↔ Touch Lt st0 s :=
  Touch.iff (A := [.streams]) (s := s) (t := (State.nextSeq s h).2) (by
  simp only [State.nextSeq]
  repeat' (first
    | with_reducible exact Touch.refl _ _
    | dsimp only
    | simp (disch := decide) only [State.setStream_touch])) wi

@[simp] theorem State.passV0_touch {Lt : List Fld} {st0 : State} (s : State) (x : RxFrame) (g : Gen) (pn sl : Nat)
    (cellBad : Bool) (wi : within [.mode, .cause, .fatal, .fuses, .ladder, .retention, .power, .mail, .cmds,
    .staged, .streams, .shots, .aux, .adm, .grace, .slots, .keyCtl, .imports, .rings, .jobs, .tx, .rx, .egSkip,
    .eReady, .classifying, .ingress, .ports, .gates, .pubs, .vers, .v2, .bw, .pebbles, .mem, .eye] Lt = true) :
    Touch Lt st0 (State.passV0 s x g pn sl cellBad) ↔ Touch Lt st0 s :=
  Touch.iff (A := [.mode, .cause, .fatal, .fuses, .ladder, .retention, .power, .mail, .cmds, .staged, .streams, .shots, .aux, .adm, .grace, .slots, .keyCtl, .imports, .rings, .jobs, .tx, .rx, .egSkip, .eReady, .classifying, .ingress, .ports, .gates, .pubs, .vers, .v2, .bw, .pebbles, .mem, .eye]) (s := s) (t := (State.passV0 s x g pn sl cellBad)) (by
  simp only [State.passV0]
  repeat' (first
    | with_reducible exact Touch.refl _ _
    | split
    | dsimp only
    | simp (disch := decide) only [State.busyPulse_touch, State.count_touch, State.fetchFailed_touch,
          State.fetchFrame_touch, State.lockdown_touch, State.nextSeq_touch, State.onShots_touch,
          State.placeV0_touch, State.police_touch, State.receiveEntry_touch, State.useSlots_touch]
    | refine Touch.of_pair (by assumption) ?_)) wi

@[simp] theorem State.completeRx_touch {Lt : List Fld} {st0 : State} (s : State) (x : RxFrame) (word : Word) (wi :
    within [.rings] Lt = true) :
    Touch Lt st0 (State.completeRx s x word) ↔ Touch Lt st0 s :=
  Touch.iff (A := [.rings]) (s := s) (t := (State.completeRx s x word)) (by
  simp only [State.completeRx]
  repeat' (first
    | with_reducible exact Touch.refl _ _
    | split
    | dsimp only
    | simp (disch := decide) only [State.output_touch])) wi

@[simp] theorem State.failV1_touch {Lt : List Fld} {st0 : State} (s : State) (x : RxFrame) (code : Nat) (wi : within
    [.streams, .tx, .nextFrame, .ports, .pairs, .eye] Lt = true) :
    Touch Lt st0 (State.failV1 s x code) ↔ Touch Lt st0 s :=
  Touch.iff (A := [.streams, .tx, .nextFrame, .ports, .pairs, .eye]) (s := s) (t := (State.failV1 s x code)) (by
  simp only [State.failV1]
  repeat' (first
    | with_reducible exact Touch.refl _ _
    | split
    | dsimp only
    | simp (disch := decide) only [State.bumpPair_touch, State.bumpPort_touch, State.count_touch,
          State.report_touch, State.setStream_touch])) wi

@[simp] theorem State.discardRx_touch {Lt : List Fld} {st0 : State} (s : State) (x : RxFrame) (code : Nat) (wi :
    within [.eye] Lt = true) :
    Touch Lt st0 (State.discardRx s x code) ↔ Touch Lt st0 s :=
  Touch.iff (A := [.eye]) (s := s) (t := (State.discardRx s x code)) (by
  simp only [State.discardRx]
  repeat' (first
    | with_reducible exact Touch.refl _ _
    | split
    | simp (disch := decide) only [State.discardBlocks_touch])) wi

@[simp] theorem State.streamSnapshots_touch {Lt : List Fld} {st0 : State} (s : State) (n : Tick) (wi : within
    [.cmds, .shots] Lt = true) :
    Touch Lt st0 (State.streamSnapshots s n) ↔ Touch Lt st0 s :=
  Touch.iff (A := [.cmds, .shots]) (s := s) (t := (State.streamSnapshots s n)) (by
  simp only [State.streamSnapshots]
  repeat' (first
    | with_reducible exact Touch.refl _ _
    | dsimp only
    | (with_reducible refine Touch.upd ?_ ?_
       · (intro f hf; cases f <;> first | exact absurd hf (by decide) | rfl)
       first
       | with_reducible exact Touch.refl _ _))) wi

theorem State.postTicks_step : ∀ (k : Nat) (l : List (Nat × Tick × Tick)) (s : State),
    Touch [.eye] s (State.postTicks k l s) := by
  intro k
  induction k with
  | zero => exact fun l s => Touch.refl _ _
  | succ k ih =>
    intro l s
    rw [State.postTicks]
    split
    · exact Touch.refl _ _
    · exact Touch.step ((State.post_touch _ _ (by decide)).mpr (Touch.refl _ _)) (ih _ _)

@[simp] theorem State.postTicks_touch {Lt : List Fld} {st0 : State} (k : Nat) (l : List (Nat × Tick × Tick)) (s : State)
    (wi : within [.eye] Lt = true) : Touch Lt st0 (State.postTicks k l s) ↔ Touch Lt st0 s :=
  Touch.iff (State.postTicks_step k l s) wi

@[simp] theorem State.advanceTicks_touch {Lt : List Fld} {st0 : State} (s : State) (n : Tick) (wi : within [.ticks,
    .eye] Lt = true) :
    Touch Lt st0 (State.advanceTicks s n) ↔ Touch Lt st0 s :=
  Touch.iff (A := [.ticks, .eye]) (s := s) (t := (State.advanceTicks s n)) (by
  unfold State.advanceTicks
  exact (State.postTicks_touch _ _ _ (by decide)).mpr
    (fun f hf => by cases f <;> first | exact absurd hf (by decide) | rfl)) wi

@[simp] theorem State.allDown_touch {Lt : List Fld} {st0 : State} (s : State) (wi : within [.streams, .shots,
    .rings, .tx, .rx, .egSkip, .ports, .pairs, .eye] Lt = true) :
    Touch Lt st0 (State.allDown s) ↔ Touch Lt st0 s :=
  Touch.iff (A := [.streams, .shots, .rings, .tx, .rx, .egSkip, .ports, .pairs, .eye]) (s := s) (t := (State.allDown s)) (by
  simp only [State.allDown]
  repeat' (first
    | with_reducible exact Touch.refl _ _
    | split
    | dsimp only
    | simp (disch := decide) only [State.declareDown_touch]
    | refine Touch.foldl_step (fun _ _ => ?_) ?_)) wi

@[simp] theorem State.abandonBegun_touch {Lt : List Fld} {st0 : State} (s : State) (wi : within [.cmds, .imports] Lt
    = true) :
    Touch Lt st0 (State.abandonBegun s) ↔ Touch Lt st0 s :=
  Touch.iff (A := [.cmds, .imports]) (s := s) (t := (State.abandonBegun s)) (by
  simp only [State.abandonBegun]
  repeat' (first
    | with_reducible exact Touch.refl _ _
    | split
    | dsimp only
    | (with_reducible refine Touch.upd ?_ ?_
       · (intro f hf; cases f <;> first | exact absurd hf (by decide) | rfl)
       first
       | with_reducible exact Touch.refl _ _
       | split))) wi

@[simp] theorem State.enterDrill_touch {Lt : List Fld} {st0 : State} (s : State) (wi : within [.draws, .mode,
    .cause, .fatal, .fuses, .ladder, .retention, .power, .mail, .cmds, .staged, .streams, .aux, .adm, .grace,
    .slots, .keyCtl, .imports, .jobs, .tx, .rx, .egSkip, .eReady, .classifying, .ingress, .ports, .pubs, .vers, .v2,
    .bw, .pebbles, .mem, .eye, .out] Lt = true) :
    Touch Lt st0 (State.enterDrill s) ↔ Touch Lt st0 s :=
  Touch.iff (A := [.draws, .mode, .cause, .fatal, .fuses, .ladder, .retention, .power, .mail, .cmds, .staged, .streams, .aux, .adm, .grace, .slots, .keyCtl, .imports, .jobs, .tx, .rx, .egSkip, .eReady, .classifying, .ingress, .ports, .pubs, .vers, .v2, .bw, .pebbles, .mem, .eye, .out]) (s := s) (t := (State.enterDrill s)) (by
  simp only [State.enterDrill]
  repeat' (first
    | with_reducible exact Touch.refl _ _
    | split
    | dsimp only
    | simp (disch := decide) only [State.abandonBegun_touch, State.deriveSlot_touch, State.deriveTree_touch,
          State.invalidate_touch, State.post_touch, State.resetMemPlane_touch, State.scrub_touch,
          State.txRise_touch]
    | refine Touch.foldl_step (fun _ _ => ?_) ?_
    | (with_reducible refine Touch.upd ?_ ?_
       · (intro f hf; cases f <;> first | exact absurd hf (by decide) | rfl)
       first
       | with_reducible exact Touch.refl _ _
       | split
       | simp (disch := decide) only [State.abandonBegun_touch, State.deriveSlot_touch, State.deriveTree_touch,
             State.invalidate_touch, State.post_touch, State.resetMemPlane_touch, State.scrub_touch,
             State.txRise_touch]
       | refine Touch.foldl_step (fun _ _ => ?_) ?_))) wi

@[simp] theorem State.noMoreStarts_touch {Lt : List Fld} {st0 : State} (s : State) (wi : within [.staged, .streams,
    .shots, .rings, .tx, .ports, .pairs, .eye] Lt = true) :
    Touch Lt st0 (State.noMoreStarts s) ↔ Touch Lt st0 s :=
  Touch.iff (A := [.staged, .streams, .shots, .rings, .tx, .ports, .pairs, .eye]) (s := s) (t := (State.noMoreStarts s)) (by
  simp only [State.noMoreStarts]
  repeat' (first
    | with_reducible exact Touch.refl _ _
    | dsimp only
    | simp (disch := decide) only [State.endIfDone_touch, State.oneCopyLess_touch, State.stage_touch]
    | refine Touch.foldl_step (fun _ _ => ?_) ?_
    | (with_reducible refine Touch.upd ?_ ?_
       · (intro f hf; cases f <;> first | exact absurd hf (by decide) | rfl)
       first
       | with_reducible exact Touch.refl _ _
       | simp (disch := decide) only [State.endIfDone_touch, State.oneCopyLess_touch, State.stage_touch]
       | refine Touch.foldl_step (fun _ _ => ?_) ?_))) wi

@[simp] theorem State.endSupply_touch {Lt : List Fld} {st0 : State} (s : State) (wi : within [.staged, .streams,
    .shots, .aux, .rings, .tx, .egSkip, .ports, .eye] Lt = true) :
    Touch Lt st0 (State.endSupply s) ↔ Touch Lt st0 s :=
  Touch.iff (A := [.staged, .streams, .shots, .aux, .rings, .tx, .egSkip, .ports, .eye]) (s := s) (t := (State.endSupply s)) (by
  simp only [State.endSupply]
  repeat' (first
    | with_reducible exact Touch.refl _ _
    | dsimp only
    | simp (disch := decide) only [State.endShort_touch, State.skipHandle_touch, State.stage_touch]
    | refine Touch.foldl_step (fun _ _ => ?_) ?_)) wi

@[simp] theorem State.commitImage_touch {Lt : List Fld} {st0 : State} (s : State) (slotB : Bool) (cut : List Nat)
    (wi : within [.nv, .active, .img, .bmr, .ladder, .streams, .shots, .rings, .tx, .rx, .egSkip, .ports, .pairs,
    .gates, .eye, .out] Lt = true) :
    Touch Lt st0 (State.commitImage s slotB cut) ↔ Touch Lt st0 s :=
  Touch.iff (A := [.nv, .active, .img, .bmr, .ladder, .streams, .shots, .rings, .tx, .rx, .egSkip, .ports, .pairs, .gates, .eye, .out]) (s := s) (t := (State.commitImage s slotB cut)) (by
  simp only [State.commitImage]
  repeat' (first
    | with_reducible exact Touch.refl _ _
    | split
    | dsimp only
    | simp (disch := decide) only [State.activateImage_touch, State.declareDown_touch, State.fitPort_touch,
          State.posts_touch, State.resetPort_touch, State.setGate_touch]
    | refine Touch.foldl_step (fun _ _ => ?_) ?_)) wi

@[simp] theorem State.setBudget_touch {Lt : List Fld} {st0 : State} (s : State) (d : Option Nat) (v : BitVec 32) (wi
    : within [.power] Lt = true) :
    Touch Lt st0 (State.setBudget s d v) ↔ Touch Lt st0 s :=
  Touch.iff (A := [.power]) (s := s) (t := (State.setBudget s d v)) (by
  simp only [State.setBudget]
  repeat' (first
    | with_reducible exact Touch.refl _ _
    | split
    | dsimp only
    | (with_reducible refine Touch.upd ?_ ?_
       · (intro f hf; cases f <;> first | exact absurd hf (by decide) | rfl)
       first
       | with_reducible exact Touch.refl _ _
       | split))) wi

@[simp] theorem State.deleteChain_touch {Lt : List Fld} {st0 : State} (s : State) (verified : Bool) (n : Nat) (wi :
    within [.slots, .keyCtl, .pubs, .vers, .bw, .eye] Lt = true) :
    Touch Lt st0 (State.deleteChain s verified n) ↔ Touch Lt st0 s :=
  Touch.iff (A := [.slots, .keyCtl, .pubs, .vers, .bw, .eye]) (s := s) (t := (State.deleteChain s verified n)) (by
  simp only [State.deleteChain]
  repeat' (first
    | with_reducible exact Touch.refl _ _
    | split
    | dsimp only
    | simp (disch := decide) only [State.invalidateAll_touch]
    | (with_reducible refine Touch.upd ?_ ?_
       · (intro f hf; cases f <;> first | exact absurd hf (by decide) | rfl)
       first
       | with_reducible exact Touch.refl _ _
       | split
       | simp (disch := decide) only [State.invalidateAll_touch]))) wi

@[simp] theorem State.closeIfDue_touch {Lt : List Fld} {st0 : State} (s : State) (h : Nat) (wi : within [.aux,
    .grace, .slots, .keyCtl, .eye] Lt = true) :
    Touch Lt st0 (State.closeIfDue s h) ↔ Touch Lt st0 s :=
  Touch.iff (A := [.aux, .grace, .slots, .keyCtl, .eye]) (s := s) (t := (State.closeIfDue s h)) (by
  simp only [State.closeIfDue]
  repeat' (first
    | with_reducible exact Touch.refl _ _
    | split
    | dsimp only
    | simp (disch := decide) only [State.closePrev_touch])) wi

@[simp] theorem State.earlyIfDue_touch {Lt : List Fld} {st0 : State} (s : State) (h : Nat) (wi : within [.grace] Lt
    = true) :
    Touch Lt st0 (State.earlyIfDue s h) ↔ Touch Lt st0 s :=
  Touch.iff (A := [.grace]) (s := s) (t := (State.earlyIfDue s h)) (by
  simp only [State.earlyIfDue]
  repeat' (first
    | with_reducible exact Touch.refl _ _
    | split
    | dsimp only
    | simp (disch := decide) only [State.openEarly_touch])) wi

@[simp] theorem State.recheckGates_touch {Lt : List Fld} {st0 : State} (s : State) (wi : within [.rings, .gates,
    .eye] Lt = true) :
    Touch Lt st0 (State.recheckGates s) ↔ Touch Lt st0 s :=
  Touch.iff (A := [.rings, .gates, .eye]) (s := s) (t := (State.recheckGates s)) (by
  simp only [State.recheckGates]
  repeat' (first
    | with_reducible exact Touch.refl _ _
    | split
    | dsimp only
    | simp (disch := decide) only [State.recheckRing_touch, State.setGate_touch]
    | refine Touch.foldl_step (fun _ _ => ?_) ?_)) wi

@[simp] theorem State.pcsCounts_touch {Lt : List Fld} {st0 : State} (s : State) (c : PcsCount) (wi : within [.ports,
    .eye] Lt = true) :
    Touch Lt st0 (State.pcsCounts s c) ↔ Touch Lt st0 s :=
  Touch.iff (A := [.ports, .eye]) (s := s) (t := (State.pcsCounts s c)) (by
  simp only [State.pcsCounts]
  repeat' (first
    | with_reducible exact Touch.refl _ _
    | split
    | dsimp only
    | simp (disch := decide) only [State.bumpPort_touch, State.postOnce_touch])) wi

@[simp] theorem State.countPeriod_touch {Lt : List Fld} {st0 : State} (s : State) (cycles : Nat) (ledger : List
    (List Nat)) (pcs : List PcsCount) (wi : within [.ports, .eye] Lt = true) :
    Touch Lt st0 (State.countPeriod s cycles ledger pcs) ↔ Touch Lt st0 s :=
  Touch.iff (A := [.ports, .eye]) (s := s) (t := (State.countPeriod s cycles ledger pcs)) (by
  simp only [State.countPeriod]
  repeat' (first
    | with_reducible exact Touch.refl _ _
    | simp (disch := decide) only [State.endOfPeriodCounts_touch, State.pcsCounts_touch]
    | refine Touch.foldl_step (fun _ _ => ?_) ?_)) wi

@[simp] theorem State.endPeriod_touch {Lt : List Fld} {st0 : State} (s : State) (wi : within [.ovr, .rings,
    .hostMem, .gates, .eye] Lt = true) :
    Touch Lt st0 (State.endPeriod s) ↔ Touch Lt st0 s :=
  Touch.iff (A := [.ovr, .rings, .hostMem, .gates, .eye]) (s := s) (t := (State.endPeriod s)) (by
  simp only [State.endPeriod]
  repeat' (first
    | with_reducible exact Touch.refl _ _
    | dsimp only
    | simp (disch := decide) only [State.recheckGates_touch, State.writeHeaders_touch]
    | (with_reducible refine Touch.upd ?_ ?_
       · (intro f hf; cases f <;> first | exact absurd hf (by decide) | rfl)
       first
       | with_reducible exact Touch.refl _ _
       | simp (disch := decide) only [State.recheckGates_touch, State.writeHeaders_touch]))) wi

@[simp] theorem State.beginPeriod_touch {Lt : List Fld} {st0 : State} (s : State) (wi : within [.power, .streams,
    .aux, .rings, .tx, .nextFrame, .ports, .vers, .v2, .bw, .mem, .eye] Lt = true) :
    Touch Lt st0 (State.beginPeriod s) ↔ Touch Lt st0 s :=
  Touch.iff (A := [.power, .streams, .aux, .rings, .tx, .nextFrame, .ports, .vers, .v2, .bw, .mem, .eye]) (s := s) (t := (State.beginPeriod s)) (by
  simp only [State.beginPeriod]
  repeat' (first
    | with_reducible exact Touch.refl _ _
    | dsimp only
    | simp (disch := decide) only [State.count_touch, State.eyeRingsBoundary_touch, State.newSteps_touch]
    | (with_reducible refine Touch.upd ?_ ?_
       · (intro f hf; cases f <;> first | exact absurd hf (by decide) | rfl)
       first
       | with_reducible exact Touch.refl _ _
       | simp (disch := decide) only [State.count_touch, State.eyeRingsBoundary_touch, State.newSteps_touch]))) wi

end Sys2Proof.Machine
end

