-- ==== Sys2Proof/Laws/FramePyfer.lean ====
section
/-!
SUPPORT. Footprints of the mailboxes, Pyfer commands and modes: for each function f, whether its result agrees with a
state on the fields outside L is whether its argument does, for every L that contains the fields that f may change.
-/

namespace Sys2Proof.Machine

@[simp] theorem State.protocolError_touch {Lt : List Fld} {st0 : State} (s : State) (m cause : Nat) (wi : within
    [.mail, .eye] Lt = true) :
    Touch Lt st0 (State.protocolError s m cause) ↔ Touch Lt st0 s :=
  Touch.iff (A := [.mail, .eye]) (s := s) (t := (State.protocolError s m cause)) (by
  simp only [State.protocolError]
  repeat' (first
    | with_reducible exact Touch.refl _ _
    | dsimp only
    | simp (disch := decide) only [State.post_touch, State.setMbox_touch])) wi

@[simp] theorem State.wakeYarrow_touch {Lt : List Fld} {st0 : State} (s : State) (wi : within [.power] Lt = true) :
    Touch Lt st0 (State.wakeYarrow s) ↔ Touch Lt st0 s :=
  Touch.iff (A := [.power]) (s := s) (t := (State.wakeYarrow s)) (by
  simp only [State.wakeYarrow]
  repeat' (first
    | with_reducible exact Touch.refl _ _
    | split
    | (with_reducible refine Touch.upd ?_ ?_
       · (intro f hf; cases f <;> first | exact absurd hf (by decide) | rfl)
       first
       | with_reducible exact Touch.refl _ _
       | split))) wi

@[simp] theorem State.mbSubmit_touch {Lt : List Fld} {st0 : State} (s : State) (m : Nat) (wi : within [.power,
    .mail, .eye] Lt = true) :
    Touch Lt st0 (State.mbSubmit s m) ↔ Touch Lt st0 s :=
  Touch.iff (A := [.power, .mail, .eye]) (s := s) (t := (State.mbSubmit s m)) (by
  simp only [State.mbSubmit]
  repeat' (first
    | with_reducible exact Touch.refl _ _
    | split
    | dsimp only
    | simp (disch := decide) only [State.protocolError_touch, State.setMbox_touch, State.wakeYarrow_touch])) wi

@[simp] theorem State.mbAck_touch {Lt : List Fld} {st0 : State} (s : State) (m : Nat) (wi : within [.mail, .eye] Lt
    = true) :
    Touch Lt st0 (State.mbAck s m) ↔ Touch Lt st0 s :=
  Touch.iff (A := [.mail, .eye]) (s := s) (t := (State.mbAck s m)) (by
  simp only [State.mbAck]
  repeat' (first
    | with_reducible exact Touch.refl _ _
    | split
    | dsimp only
    | simp (disch := decide) only [State.protocolError_touch, State.setMbox_touch])) wi

@[simp] theorem State.mbDoorbell_touch {Lt : List Fld} {st0 : State} (s : State) (m : Nat) (w : Word) (wi : within
    [.power, .mail, .eye] Lt = true) :
    Touch Lt st0 (State.mbDoorbell s m w) ↔ Touch Lt st0 s :=
  Touch.iff (A := [.power, .mail, .eye]) (s := s) (t := (State.mbDoorbell s m w)) (by
  simp only [State.mbDoorbell]
  repeat' (first
    | with_reducible exact Touch.refl _ _
    | split
    | simp (disch := decide) only [State.mbAck_touch, State.mbSubmit_touch, State.protocolError_touch])) wi

@[simp] theorem State.mbRequest_touch {Lt : List Fld} {st0 : State} (s : State) (m off : Nat) (w : Word) (wi :
    within [.mail, .eye] Lt = true) :
    Touch Lt st0 (State.mbRequest s m off w) ↔ Touch Lt st0 s :=
  Touch.iff (A := [.mail, .eye]) (s := s) (t := (State.mbRequest s m off w)) (by
  simp only [State.mbRequest]
  repeat' (first
    | with_reducible exact Touch.refl _ _
    | split
    | dsimp only
    | simp (disch := decide) only [State.protocolError_touch, State.setMbox_touch])) wi

@[simp] theorem State.mbWrite_touch {Lt : List Fld} {st0 : State} (s : State) (m off : Nat) (w : Word) (wi : within
    [.power, .mail, .eye] Lt = true) :
    Touch Lt st0 (State.mbWrite s m off w) ↔ Touch Lt st0 s :=
  Touch.iff (A := [.power, .mail, .eye]) (s := s) (t := (State.mbWrite s m off w)) (by
  simp only [State.mbWrite]
  repeat' (first
    | with_reducible exact Touch.refl _ _
    | split
    | simp (disch := decide) only [State.mbDoorbell_touch, State.mbRequest_touch])) wi

@[simp] theorem State.setPhase_touch {Lt : List Fld} {st0 : State} (s : State) (id : Nat) (p : CmdPhase) (wi :
    within [.cmds] Lt = true) :
    Touch Lt st0 (State.setPhase s id p) ↔ Touch Lt st0 s :=
  Touch.iff (A := [.cmds]) (s := s) (t := (State.setPhase s id p)) (by
  simp only [State.setPhase]
  repeat' (first
    | with_reducible exact Touch.refl _ _
    | split
    | dsimp only
    | (with_reducible refine Touch.upd ?_ ?_
       · (intro f hf; cases f <;> first | exact absurd hf (by decide) | rfl)
       first
       | with_reducible exact Touch.refl _ _
       | split))) wi

@[simp] theorem State.answer_touch {Lt : List Fld} {st0 : State} (s : State) (id : Nat) (ws : List Word) (wi :
    within [.cmds] Lt = true) :
    Touch Lt st0 (State.answer s id ws) ↔ Touch Lt st0 s :=
  Touch.iff (A := [.cmds]) (s := s) (t := (State.answer s id ws)) (by
  simp only [State.answer]
  repeat' (first
    | with_reducible exact Touch.refl _ _
    | simp (disch := decide) only [State.setPhase_touch])) wi

@[simp] theorem State.wakeAs_touch {Lt : List Fld} {st0 : State} (s hyp : State) (wi : within [.power] Lt = true) :
    Touch Lt st0 (State.wakeAs s hyp) ↔ Touch Lt st0 s :=
  Touch.iff (A := [.power]) (s := s) (t := (State.wakeAs s hyp)) (by
  simp only [State.wakeAs]
  repeat' (first
    | with_reducible exact Touch.refl _ _
    | split
    | dsimp only
    | refine Touch.foldl_step (fun _ _ => ?_) ?_
    | (with_reducible refine Touch.upd ?_ ?_
       · (intro f hf; cases f <;> first | exact absurd hf (by decide) | rfl)
       first
       | with_reducible exact Touch.refl _ _
       | split
       | refine Touch.foldl_step (fun _ _ => ?_) ?_))) wi

@[simp] theorem State.takeRoll_touch {Lt : List Fld} {st0 : State} (s : State) (h g : Nat) (opens : Bool) (wi :
    within [.aux, .grace] Lt = true) :
    Touch Lt st0 (State.takeRoll s h g opens) ↔ Touch Lt st0 s :=
  Touch.iff (A := [.aux, .grace]) (s := s) (t := (State.takeRoll s h g opens)) (by
  simp only [State.takeRoll]
  repeat' (first
    | with_reducible exact Touch.refl _ _
    | split
    | dsimp only
    | simp (disch := decide) only [State.setAux_touch, State.takeGrace_touch])) wi

@[simp] theorem State.sendBus_touch {Lt : List Fld} {st0 : State} (s : State) (m : KeyBusMsg) (wi : within [.out] Lt
    = true) :
    Touch Lt st0 (State.sendBus s m) ↔ Touch Lt st0 s :=
  Touch.iff (A := [.out]) (s := s) (t := (State.sendBus s m)) (by
  simp only [State.sendBus]
  repeat' (first
    | with_reducible exact Touch.refl _ _
    | (with_reducible refine Touch.upd ?_ ?_
       · (intro f hf; cases f <;> first | exact absurd hf (by decide) | rfl)
       first
       | with_reducible exact Touch.refl _ _))) wi

@[simp] theorem State.startImport_touch {Lt : List Fld} {st0 : State} (s : State) (c : Cmd) (t : Nat) (wi : within
    [.keyCtl, .imports, .out] Lt = true) :
    Touch Lt st0 (State.startImport s c t) ↔ Touch Lt st0 s :=
  Touch.iff (A := [.keyCtl, .imports, .out]) (s := s) (t := (State.startImport s c t)) (by
  simp only [State.startImport]
  repeat' (first
    | with_reducible exact Touch.refl _ _
    | dsimp only
    | simp (disch := decide) only [State.sendBus_touch]
    | (with_reducible refine Touch.upd ?_ ?_
       · (intro f hf; cases f <;> first | exact absurd hf (by decide) | rfl)
       first
       | with_reducible exact Touch.refl _ _
       | simp (disch := decide) only [State.sendBus_touch]))) wi

@[simp] theorem State.endImport_touch {Lt : List Fld} {st0 : State} (s : State) (i : Import) (keep : Bool) (wi :
    within [.keyCtl, .imports] Lt = true) :
    Touch Lt st0 (State.endImport s i keep) ↔ Touch Lt st0 s :=
  Touch.iff (A := [.keyCtl, .imports]) (s := s) (t := (State.endImport s i keep)) (by
  simp only [State.endImport]
  repeat' (first
    | with_reducible exact Touch.refl _ _
    | split
    | dsimp only
    | (with_reducible refine Touch.upd ?_ ?_
       · (intro f hf; cases f <;> first | exact absurd hf (by decide) | rfl)
       first
       | with_reducible exact Touch.refl _ _
       | split))) wi

@[simp] theorem State.refuseImport_touch {Lt : List Fld} {st0 : State} (s : State) (i : Import) (cause : Nat) (wi :
    within [.cmds, .keyCtl, .imports, .eye, .out] Lt = true) :
    Touch Lt st0 (State.refuseImport s i cause) ↔ Touch Lt st0 s :=
  Touch.iff (A := [.cmds, .keyCtl, .imports, .eye, .out]) (s := s) (t := (State.refuseImport s i cause)) (by
  simp only [State.refuseImport]
  repeat' (first
    | with_reducible exact Touch.refl _ _
    | simp (disch := decide) only [State.answer_touch, State.endImport_touch, State.post_touch,
          State.sendBus_touch])) wi

@[simp] theorem State.writeImport_touch {Lt : List Fld} {st0 : State} (s : State) (i : Import) (r : KeyBusReply) (wi
    : within [.draws, .mode, .cause, .fatal, .fuses, .ladder, .retention, .power, .mail, .cmds, .staged, .streams,
    .aux, .adm, .grace, .slots, .keyCtl, .imports, .jobs, .tx, .rx, .egSkip, .eReady, .classifying, .ingress,
    .ports, .pubs, .vers, .v2, .bw, .pebbles, .mem, .eye] Lt = true) :
    Touch Lt st0 (State.writeImport s i r) ↔ Touch Lt st0 s :=
  Touch.iff (A := [.draws, .mode, .cause, .fatal, .fuses, .ladder, .retention, .power, .mail, .cmds, .staged, .streams, .aux, .adm, .grace, .slots, .keyCtl, .imports, .jobs, .tx, .rx, .egSkip, .eReady, .classifying, .ingress, .ports, .pubs, .vers, .v2, .bw, .pebbles, .mem, .eye]) (s := s) (t := (State.writeImport s i r)) (by
  simp only [State.writeImport]
  repeat' (first
    | with_reducible exact Touch.refl _ _
    | split
    | dsimp only
    | simp (disch := decide) only [State.deriveSlot_touch, State.post_touch, State.setSlot_touch,
          State.writeSlot_touch])) wi

@[simp] theorem State.deriveKind_touch {Lt : List Fld} {st0 : State} (s : State) (u : Nat) (cellBad : Bool) (c :
    Cmd) (kind : Nat) (wi : within [.draws, .mode, .cause, .fatal, .fuses, .ladder, .retention, .power, .mail,
    .cmds, .staged, .streams, .aux, .adm, .grace, .slots, .keyCtl, .imports, .jobs, .tx, .rx, .egSkip, .eReady,
    .classifying, .ingress, .ports, .pubs, .vers, .v2, .bw, .pebbles, .mem, .eye] Lt = true) :
    Touch Lt st0 (State.deriveKind s u cellBad c kind).2 ↔ Touch Lt st0 s :=
  Touch.iff (A := [.draws, .mode, .cause, .fatal, .fuses, .ladder, .retention, .power, .mail, .cmds, .staged, .streams, .aux, .adm, .grace, .slots, .keyCtl, .imports, .jobs, .tx, .rx, .egSkip, .eReady, .classifying, .ingress, .ports, .pubs, .vers, .v2, .bw, .pebbles, .mem, .eye]) (s := s) (t := (State.deriveKind s u cellBad c kind).2) (by
  simp only [State.deriveKind]
  repeat' (first
    | with_reducible exact Touch.refl _ _
    | split
    | dsimp only
    | simp (disch := decide) only [State.deriveBy_touch]
    | refine Touch.of_pair (by assumption) ?_)) wi

@[simp] theorem State.zeroPebbles_touch {Lt : List Fld} {st0 : State} (s : State) (n : Nat) (wi : within [.pebbles]
    Lt = true) :
    Touch Lt st0 (State.zeroPebbles s n) ↔ Touch Lt st0 s :=
  Touch.iff (A := [.pebbles]) (s := s) (t := (State.zeroPebbles s n)) (by
  simp only [State.zeroPebbles]
  repeat' (first
    | with_reducible exact Touch.refl _ _
    | dsimp only
    | (with_reducible refine Touch.upd ?_ ?_
       · (intro f hf; cases f <;> first | exact absurd hf (by decide) | rfl)
       first
       | with_reducible exact Touch.refl _ _))) wi

@[simp] theorem State.createChain_touch {Lt : List Fld} {st0 : State} (s : State) (d : Nat) (a : ChainArgs) (wi :
    within [.pubs, .pebbles, .eye] Lt = true) :
    Touch Lt st0 (State.createChain s d a) ↔ Touch Lt st0 s :=
  Touch.iff (A := [.pubs, .pebbles, .eye]) (s := s) (t := (State.createChain s d a)) (by
  simp only [State.createChain]
  repeat' (first
    | with_reducible exact Touch.refl _ _
    | split
    | dsimp only
    | simp (disch := decide) only [State.count_touch, State.setPub_touch, State.zeroPebbles_touch])) wi

@[simp] theorem State.deriveSeed_touch {Lt : List Fld} {st0 : State} (s : State) (u : Nat) (cellBad : Bool) (d word
    : Nat) (a : ChainArgs) (wi : within [.draws, .mode, .cause, .fatal, .fuses, .ladder, .retention, .power, .mail,
    .cmds, .staged, .streams, .aux, .adm, .grace, .slots, .keyCtl, .imports, .jobs, .tx, .rx, .egSkip, .eReady,
    .classifying, .ingress, .ports, .pubs, .vers, .v2, .bw, .pebbles, .mem, .eye] Lt = true) :
    Touch Lt st0 (State.deriveSeed s u cellBad d word a).2 ↔ Touch Lt st0 s :=
  Touch.iff (A := [.draws, .mode, .cause, .fatal, .fuses, .ladder, .retention, .power, .mail, .cmds, .staged, .streams, .aux, .adm, .grace, .slots, .keyCtl, .imports, .jobs, .tx, .rx, .egSkip, .eReady, .classifying, .ingress, .ports, .pubs, .vers, .v2, .bw, .pebbles, .mem, .eye]) (s := s) (t := (State.deriveSeed s u cellBad d word a).2) (by
  simp only [State.deriveSeed]
  repeat' (first
    | with_reducible exact Touch.refl _ _
    | simp (disch := decide) only [State.count_touch, State.deriveBy_touch]
    | refine Touch.of_pair (by assumption) ?_)) wi

@[simp] theorem State.setStep_touch {Lt : List Fld} {st0 : State} (s : State) (n : Nat) (wi : within [.assay] Lt =
    true) :
    Touch Lt st0 (State.setStep s n) ↔ Touch Lt st0 s :=
  Touch.iff (A := [.assay]) (s := s) (t := (State.setStep s n)) (by
  simp only [State.setStep]
  repeat' (first
    | with_reducible exact Touch.refl _ _
    | (with_reducible refine Touch.upd ?_ ?_
       · (intro f hf; cases f <;> first | exact absurd hf (by decide) | rfl)
       first
       | with_reducible exact Touch.refl _ _))) wi

@[simp] theorem State.loadGate_touch {Lt : List Fld} {st0 : State} (img : ImgCfg) (s : State) (g : Nat) (wi : within
    [.gates, .eye] Lt = true) :
    Touch Lt st0 (State.loadGate img s g) ↔ Touch Lt st0 s :=
  Touch.iff (A := [.gates, .eye]) (s := s) (t := (State.loadGate img s g)) (by
  simp only [State.loadGate]
  repeat' (first
    | with_reducible exact Touch.refl _ _
    | simp (disch := decide) only [State.post_touch, State.setGate_touch])) wi

@[simp] theorem State.loadImage_touch {Lt : List Fld} {st0 : State} (s : State) (img : ImgCfg) (wi : within [.assay,
    .img, .tcfg, .gates, .pebbles, .mem, .eye] Lt = true) :
    Touch Lt st0 (State.loadImage s img) ↔ Touch Lt st0 s :=
  Touch.iff (A := [.assay, .img, .tcfg, .gates, .pebbles, .mem, .eye]) (s := s) (t := (State.loadImage s img)) (by
  simp only [State.loadImage]
  repeat' (first
    | with_reducible exact Touch.refl _ _
    | split
    | dsimp only
    | simp (disch := decide) only [State.loadGate_touch, State.resetMemPlane_touch]
    | refine Touch.foldl_step (fun _ _ => ?_) ?_
    | (with_reducible refine Touch.upd ?_ ?_
       · (intro f hf; cases f <;> first | exact absurd hf (by decide) | rfl)
       first
       | with_reducible exact Touch.refl _ _
       | split
       | simp (disch := decide) only [State.loadGate_touch, State.resetMemPlane_touch]
       | refine Touch.foldl_step (fun _ _ => ?_) ?_))) wi

@[simp] theorem State.assayTamper_touch {Lt : List Fld} {st0 : State} (s : State) (k : Fin 4) (wi : within [.mode,
    .cause, .fatal, .assay, .fuses, .tamperLatch, .tamperLevel, .retention, .power, .mail, .cmds, .staged, .streams,
    .aux, .adm, .grace, .slots, .keyCtl, .imports, .jobs, .tx, .rx, .egSkip, .eReady, .classifying, .ingress,
    .ports, .pubs, .vers, .v2, .bw, .pebbles, .mem, .eye] Lt = true) :
    Touch Lt st0 (State.assayTamper s k) ↔ Touch Lt st0 s :=
  Touch.iff (A := [.mode, .cause, .fatal, .assay, .fuses, .tamperLatch, .tamperLevel, .retention, .power, .mail, .cmds, .staged, .streams, .aux, .adm, .grace, .slots, .keyCtl, .imports, .jobs, .tx, .rx, .egSkip, .eReady, .classifying, .ingress, .ports, .pubs, .vers, .v2, .bw, .pebbles, .mem, .eye]) (s := s) (t := (State.assayTamper s k)) (by
  simp only [State.assayTamper]
  repeat' (first
    | with_reducible exact Touch.refl _ _
    | simp (disch := decide) only [State.lockdown_touch, State.post_touch, State.setStep_touch]
    | (with_reducible refine Touch.upd ?_ ?_
       · (intro f hf; cases f <;> first | exact absurd hf (by decide) | rfl)
       first
       | with_reducible exact Touch.refl _ _
       | simp (disch := decide) only [State.lockdown_touch, State.post_touch, State.setStep_touch]))) wi

@[simp] theorem State.choose_touch {Lt : List Fld} {st0 : State} (s : State) (slotB : Bool) (wi : within [.assay,
    .active] Lt = true) :
    Touch Lt st0 (State.choose s slotB) ↔ Touch Lt st0 s :=
  Touch.iff (A := [.assay, .active]) (s := s) (t := (State.choose s slotB)) (by
  simp only [State.choose]
  repeat' (first
    | with_reducible exact Touch.refl _ _
    | dsimp only
    | (with_reducible refine Touch.upd ?_ ?_
       · (intro f hf; cases f <;> first | exact absurd hf (by decide) | rfl)
       first
       | with_reducible exact Touch.refl _ _))) wi

@[simp] theorem State.assayImage_touch {Lt : List Fld} {st0 : State} (s : State) (wi : within [.assay, .active,
    .eye] Lt = true) :
    Touch Lt st0 (State.assayImage s) ↔ Touch Lt st0 s :=
  Touch.iff (A := [.assay, .active, .eye]) (s := s) (t := (State.assayImage s)) (by
  simp only [State.assayImage]
  repeat' (first
    | with_reducible exact Touch.refl _ _
    | split
    | dsimp only
    | simp (disch := decide) only [State.choose_touch, State.post_touch]
    | (with_reducible refine Touch.upd ?_ ?_
       · (intro f hf; cases f <;> first | exact absurd hf (by decide) | rfl)
       first
       | with_reducible exact Touch.refl _ _
       | split
       | simp (disch := decide) only [State.choose_touch, State.post_touch]))) wi

@[simp] theorem State.assaySeed_touch {Lt : List Fld} {st0 : State} (s : State) (wi : within [.draws, .keyCtl, .eye,
    .out] Lt = true) :
    Touch Lt st0 (State.assaySeed s) ↔ Touch Lt st0 s :=
  Touch.iff (A := [.draws, .keyCtl, .eye, .out]) (s := s) (t := (State.assaySeed s)) (by
  simp only [State.assaySeed]
  repeat' (first
    | with_reducible exact Touch.refl _ _
    | dsimp only
    | simp (disch := decide) only [State.draw_touch, State.post_touch, State.requestReseed_touch,
          State.reseedGenerators_touch]
    | (with_reducible refine Touch.upd ?_ ?_
       · (intro f hf; cases f <;> first | exact absurd hf (by decide) | rfl)
       first
       | with_reducible exact Touch.refl _ _
       | simp (disch := decide) only [State.draw_touch, State.post_touch, State.requestReseed_touch,
             State.reseedGenerators_touch]))) wi

@[simp] theorem State.dropStaged_touch {Lt : List Fld} {st0 : State} (s : State) (wi : within [.mail, .cmds,
    .staged, .adm, .grace, .imports] Lt = true) :
    Touch Lt st0 (State.dropStaged s) ↔ Touch Lt st0 s :=
  Touch.iff (A := [.mail, .cmds, .staged, .adm, .grace, .imports]) (s := s) (t := (State.dropStaged s)) (by
  simp only [State.dropStaged]
  repeat' (first
    | with_reducible exact Touch.refl _ _
    | dsimp only
    | simp (disch := decide) only [State.discardCommands_touch, State.recharge_touch]
    | refine Touch.foldl_step (fun _ _ => ?_) ?_
    | (with_reducible refine Touch.upd ?_ ?_
       · (intro f hf; cases f <;> first | exact absurd hf (by decide) | rfl)
       first
       | with_reducible exact Touch.refl _ _
       | simp (disch := decide) only [State.discardCommands_touch, State.recharge_touch]
       | refine Touch.foldl_step (fun _ _ => ?_) ?_))) wi

@[simp] theorem State.scrubExpired_touch {Lt : List Fld} {st0 : State} (s : State) (wi : within [.slots, .keyCtl,
    .pubs, .out] Lt = true) :
    Touch Lt st0 (State.scrubExpired s) ↔ Touch Lt st0 s :=
  Touch.iff (A := [.slots, .keyCtl, .pubs, .out]) (s := s) (t := (State.scrubExpired s)) (by
  simp only [State.scrubExpired]
  repeat' (first
    | with_reducible exact Touch.refl _ _
    | dsimp only
    | simp (disch := decide) only [State.scrub_touch]
    | refine Touch.foldl_step (fun _ _ => ?_) ?_
    | (with_reducible refine Touch.upd ?_ ?_
       · (intro f hf; cases f <;> first | exact absurd hf (by decide) | rfl)
       first
       | with_reducible exact Touch.refl _ _
       | simp (disch := decide) only [State.scrub_touch]
       | refine Touch.foldl_step (fun _ _ => ?_) ?_))) wi

@[simp] theorem State.surviveChains_touch {Lt : List Fld} {st0 : State} (s : State) (wi : within [.pubs, .vers, .bw]
    Lt = true) :
    Touch Lt st0 (State.surviveChains s) ↔ Touch Lt st0 s :=
  Touch.iff (A := [.pubs, .vers, .bw]) (s := s) (t := (State.surviveChains s)) (by
  simp only [State.surviveChains]
  repeat' (first
    | with_reducible exact Touch.refl _ _
    | split
    | dsimp only
    | (with_reducible refine Touch.upd ?_ ?_
       · (intro f hf; cases f <;> first | exact absurd hf (by decide) | rfl)
       first
       | with_reducible exact Touch.refl _ _
       | split))) wi

@[simp] theorem State.resetRegisters_touch {Lt : List Fld} {st0 : State} (s : State) (wi : within [.ovr, .mail,
    .ports, .pairs, .noticeLog, .gates, .mem, .eye, .bus] Lt = true) :
    Touch Lt st0 (State.resetRegisters s) ↔ Touch Lt st0 s :=
  Touch.iff (A := [.ovr, .mail, .ports, .pairs, .noticeLog, .gates, .mem, .eye, .bus]) (s := s) (t := (State.resetRegisters s)) (by
  simp only [State.resetRegisters]
  repeat' (first
    | with_reducible exact Touch.refl _ _
    | dsimp only
    | simp (disch := decide) only [State.offerRefused_touch]
    | (with_reducible refine Touch.upd ?_ ?_
       · (intro f hf; cases f <;> first | exact absurd hf (by decide) | rfl)
       first
       | with_reducible exact Touch.refl _ _
       | simp (disch := decide) only [State.offerRefused_touch]))) wi

@[simp] theorem State.emptyCaches_touch {Lt : List Fld} {st0 : State} (s : State) (wi : within [.mem] Lt = true) :
    Touch Lt st0 (State.emptyCaches s) ↔ Touch Lt st0 s :=
  Touch.iff (A := [.mem]) (s := s) (t := (State.emptyCaches s)) (by
  simp only [State.emptyCaches]
  repeat' (first
    | with_reducible exact Touch.refl _ _
    | dsimp only
    | simp (disch := decide) only [State.dropKeys_touch]
    | (with_reducible refine Touch.upd ?_ ?_
       · (intro f hf; cases f <;> first | exact absurd hf (by decide) | rfl)
       first
       | with_reducible exact Touch.refl _ _
       | simp (disch := decide) only [State.dropKeys_touch]))) wi

@[simp] theorem State.resume_touch {Lt : List Fld} {st0 : State} (s : State) (wi : within [.power, .eReady,
    .classifying, .ports] Lt = true) :
    Touch Lt st0 (State.resume s) ↔ Touch Lt st0 s :=
  Touch.iff (A := [.power, .eReady, .classifying, .ports]) (s := s) (t := (State.resume s)) (by
  simp only [State.resume]
  repeat' (first
    | with_reducible exact Touch.refl _ _
    | simp (disch := decide) only [State.txRise_touch]
    | (with_reducible refine Touch.upd ?_ ?_
       · (intro f hf; cases f <;> first | exact absurd hf (by decide) | rfl)
       first
       | with_reducible exact Touch.refl _ _
       | simp (disch := decide) only [State.txRise_touch]))) wi

@[simp] theorem State.restartPower_touch {Lt : List Fld} {st0 : State} (s : State) (wi : within [.power] Lt = true)
    :
    Touch Lt st0 (State.restartPower s) ↔ Touch Lt st0 s :=
  Touch.iff (A := [.power]) (s := s) (t := (State.restartPower s)) (by
  simp only [State.restartPower]
  repeat' (first
    | with_reducible exact Touch.refl _ _
    | (with_reducible refine Touch.upd ?_ ?_
       · (intro f hf; cases f <;> first | exact absurd hf (by decide) | rfl)
       first
       | with_reducible exact Touch.refl _ _))) wi

@[simp] theorem State.clearBegun_touch {Lt : List Fld} {st0 : State} (s : State) (wi : within [.keyCtl, .out] Lt =
    true) :
    Touch Lt st0 (State.clearBegun s) ↔ Touch Lt st0 s :=
  Touch.iff (A := [.keyCtl, .out]) (s := s) (t := (State.clearBegun s)) (by
  simp only [State.clearBegun]
  repeat' (first
    | with_reducible exact Touch.refl _ _
    | simp (disch := decide) only [State.clearDigest_touch]
    | refine Touch.foldl_step (fun _ _ => ?_) ?_)) wi

end Sys2Proof.Machine
end

