-- ==== Sys2Proof/Laws/Commands.lean ====
section
/-!
SUPPORT. What the shared operations of a Pyfer command come to: the oldest waiting command executes, a list of checks
that all pass lets its result stand, a timely change is staged; and the canonical form of the two memories under the
operations that write them.
-/

namespace Sys2Proof.Machine

/-! ### Checks -/

theorem failOf_nil {l : List Check} (h : ∀ x ∈ l, x.1 = false) : failOf l = none := by
  simp only [failOf, Option.map_eq_none_iff, List.find?_eq_none]
  intro x hx; simp [h x hx]

/-- A list of checks that all pass lets the result stand. -/
theorem checked_ok {l : List Check} (h : ∀ x ∈ l, x.1 = false) (r : Res) : checked l r = r := by
  simp [checked, failOf_nil h]

/-- A list of checks with a first failure is answered with it. -/
theorem checked_fail {l : List Check} {e d : Nat} (h : failOf l = some (e, d)) (r : Res) : checked l r = .fail e d [] := by
  simp [checked, h]

/-! ### Execution of the oldest waiting command -/

/-- The oldest waiting command, with its opcode and past checks 1 to 4, is answered by its own function. -/
theorem front_exec {s : State} {c : Cmd} {op : Nat} {f : State → Cmd → Res} (h : Front s c op) :
    execPyfer op f s = .next (s.finish c (f s c)) := by
  obtain ⟨h1, rfl, hb, i, h2, h3⟩ := h
  simp [execPyfer, h1, judge, hb, h2, h3]

/-- A command that has begun is ended by its own function: its checks 1 to 4 stand. -/
theorem begun_exec {s : State} {c : Cmd} {op w : Nat} {f : State → Cmd → Res} (h : Begun s c op w)
    (i : ∃ i, opInfo op = some i) : execPyfer op f s = .next (s.finish c (f s c)) := by
  obtain ⟨h1, rfl, hb⟩ := h
  obtain ⟨i, hi⟩ := i
  simp [execPyfer, h1, judge, hb, hi]

theorem answer_okWords (t : Nat) (ws : List Word) : answerWords 0 0 t ws = okWords t ws := by
  simp [answerWords, okWords, at_]

/-- A timely change is staged for its effective tick. -/
theorem stage_ok {s : State} {c : Cmd} {os : List Obj} {d : Nat} (h : Timely s c os d) (ws : List Word) (s' : State) :
    stageRes s c d (effTick s c os d) ws s' = .done (effTick s c os d) ws s' := by
  obtain ⟨h1, h2, h3 | ⟨h3, h4⟩⟩ := h
  · simp [stageRes, h3]
  · simp [stageRes, Nat.not_le.mpr h3, Nat.not_le.mpr h4]

/-- A timely change of the plan domain whose own checks pass is staged for its plan tick. -/
theorem plan_ok {s : State} {c : Cmd} {o : Obj} (h : Timely s c [o] 4) (chg : Change) (d : Nat) (e l : List Check)
    (he : failOf e = none) (hl : failOf l = none) :
    stagePlan s c o chg d e l = .done (effTick s c [o] 4) [] (s.stage ⟨o, 4, effTick s c [o] 4, chg⟩) := by
  have hs := stage_ok h [] (s.stage ⟨o, 4, effTick s c [o] 4, chg⟩)
  obtain ⟨h1, h2, h3⟩ := h
  simp only [failOf, Option.map_eq_none_iff, List.find?_eq_none] at he hl
  have : failOf (e ++ [(tickFar c 4, eRange, 0)] ++ l ++ [(orderBad s [o] (effTick s c [o] 4), eState, d)]) = none := by
    simp only [failOf, Option.map_eq_none_iff, List.find?_eq_none, List.mem_append, List.mem_singleton]
    rintro x (((hx | rfl) | hx) | rfl)
    · exact he x hx
    · simp [h1]
    · exact hl x hx
    · simp [h2]
  simp only [stagePlan, checked, this, hs]

/-! ### The owner of a stream -/

theorem not_free_of_created {x : Context} (h : x.created = true) : x.free = false := by
  simp only [Context.created, Context.free, beq_iff_eq, beq_eq_false_iff_ne] at *; omega

theorem not_free_of_armed {x : Context} (h : x.armed = true) : x.free = false := by
  simp only [Context.armed, Context.free, beq_iff_eq, beq_eq_false_iff_ne] at *; omega

theorem owner_ok {s : State} {c : Cmd} {h : Nat} {x : Context} (hf : x.free = false) (hd : x.domain = c.domain) :
    notOwner s c h x = false := by
  simp [notOwner, streamOwner, hf, hd]

/-! ### The canonical form of host memory and DRAM -/

theorem canonical_writeHost {s : State} (h : s.canonical) (a : Nat) (bs : List Byte) : (s.writeHost a bs).canonical :=
  ⟨Memory.wf_write bs _ h.1, h.2⟩

theorem canonical_writeDram {s : State} (h : s.canonical) (a : Nat) (bs : List Byte) : (s.writeDram a bs).canonical :=
  ⟨h.1, Memory.wf_write bs _ h.2⟩

/-- What touches neither memory keeps the canonical form of both. -/
theorem canonical_of_touch {L : List Fld} {s t : State} (h : s.canonical) (k : Touch L s t)
    (w : L.contains .hostMem = false) (v : L.contains .dram = false) : t.canonical := by
  have e : t.hostMem = s.hostMem := k .hostMem w
  have f : t.dram = s.dram := k .dram v
  exact ⟨e ▸ h.1, f ▸ h.2⟩

end Sys2Proof.Machine
end

