-- ==== Sys2Proof/Tests/Slice0.lean ====
section
/-!
SUPPORT. Tests. The well-formedness smoke test; for every statement that has hypotheses, a concrete state and operands
that meet them all (`witness_<statement>…`: the statement, applied to that state, says that the command answers a next
state there); and tests of single commands.
-/

open Sys2Proof.Machine

namespace Sys2Proof.Tests

set_option Elab.async false
set_option maxRecDepth 4000
set_option exponentiation.threshold 600

/-- The block in Service, offered frames being taken. -/
def svc : State := { State.reset with mode := .service, eReady := true }

/-- An accepted command of a mailbox: its opcode, the domain of its header, NEXT, and its payload words. -/
def cmd (op mb dom : Nat) (next : Bool) (ws : List Word) : Cmd :=
  ⟨0, mb, at_ 40 op ||| at_ 36 dom ||| at_ 32 (boolNat next) ||| at_ 0 ws.length, ws, 0, [], .waiting⟩

/-- A state whose only accepted command is this one. -/
def withCmd (s : State) (c : Cmd) : State := { s with cmds := [c], nextCmd := 1 }

/-- A command that passes checks 1 to 4 of R377 is the front one. -/
theorem front_of {s : State} {c : Cmd} {op : Nat} (i : OpInfo) (h1 : frontCmd s = some c) (h2 : c.opcode = op)
    (h3 : opInfo op = some i) (h4 : failOf (commonChecks s c i) = none) (h5 : begunWith c = none := by rfl) : Front s c
      op :=
  ⟨h1, h2, h5, i, h3, h4⟩
/-! ### The step, reset and the invariants -/

theorem witness_StepRunsFrontCommand (h : Obligations.StepRunsFrontCommand) :
    step { svc with pending := [.echo] } = exec .echo { svc with pending := [] } :=
  h.1 .echo [] _ rfl

theorem witness_StepIdles (h : Obligations.StepRunsFrontCommand) : step svc = .next svc := h.2 _ rfl

theorem witness_MemoryStaysCanonical (h : Obligations.MemoryStaysCanonical) (hr : State.reset.canonical) :
    State.reset.canonical := h State.reset _ hr rfl

theorem witness_LockdownEndsOnlyByReset (h : Obligations.LockdownEndsOnlyByReset) :
    (svc.lockdown 3).mode = .lockdown ∧ ∃ t, exec .snapshotWrite { svc with mode := .lockdown, cause := 3 } = .next t ∧
      t.mode = .lockdown :=
  ⟨(h.1 svc 3 (by decide)).1, _, rfl, (h.2.1 .snapshotWrite { svc with mode := .lockdown, cause := 3 } _ rfl rfl rfl).1⟩

theorem witness_LockdownReset (h : Obligations.LockdownEndsOnlyByReset) :
    ∃ t, exec (.engineReset 7) { svc with mode := .lockdown, cause := 3 } = .next t ∧ t.mode = .assay :=
  let ⟨t, e, m, _⟩ := (h.2.2 7 { svc with mode := .lockdown, cause := 3 }).2
  ⟨t, e, m⟩

theorem witness_DrillEndsOnlyByLockdownOrReset (h : Obligations.DrillEndsOnlyByLockdownOrReset) :
    ∃ t, exec (.tamperInput 0 false) { svc with mode := .drill } = .next t ∧ (t.mode = .drill ∨ t.mode = .lockdown) :=
  ⟨_, rfl, h (.tamperInput 0 false) { svc with mode := .drill } _ rfl rfl rfl⟩

theorem witness_FuseFieldsHeld (h : Obligations.FuseFieldsHeld) :
    ∃ t, exec .echo svc = .next t ∧ t.fuses.lifecycle = svc.fuses.lifecycle :=
  ⟨_, rfl, (h .echo svc _ rfl (fun _ _ => by simp) rfl).1⟩

theorem witness_TamperLatchHolds (h : Obligations.TamperLatchHolds) :
    ∃ t, exec (.tamperInput 1 true) { svc with tamperLatch := 1 } = .next t ∧ (1 : BitVec 4) &&& t.tamperLatch = 1 :=
  ⟨_, rfl, h.1 (.tamperInput 1 true) { svc with tamperLatch := 1 } _ (fun _ => by simp) rfl⟩

theorem witness_CommandsLeaveQueue (h : Obligations.CommandsLeaveQueue) :
    ∃ t, exec .echo { svc with pending := [.status] } = .next t ∧ t.pending = [.status] :=
  (h .echo { svc with pending := [.status] }).1 rfl

theorem witness_CommandsLeaveQueue_illFormed (h : Obligations.CommandsLeaveQueue) :
    exec (.traceRecordWrite 0 [] 0) svc = .refused .illFormed := (h (.traceRecordWrite 0 [] 0) svc).2 (by decide)
/-! ### Mailboxes and engine commands -/

theorem witness_MailboxDoorbells_submit (h : Obligations.MailboxDoorbells) :
    ∃ t, exec (.mbSubmit 16 16) svc = .next t :=
  let ⟨_, e, _⟩ := (h 16 16 svc (by decide) (by decide)).1 ⟨by decide, by decide⟩
  ⟨_, e⟩

theorem witness_MailboxDoorbells_submitBusy (h : Obligations.MailboxDoorbells) :
    ∃ t, exec (.mbSubmit 16 17) { svc with mail := [(17, { Mailbox.zero with reqBusy := true })] } = .next t :=
  ⟨_, (h 16 17 { svc with mail := [(17, { Mailbox.zero with reqBusy := true })] } (by decide) (by decide)).2.1
    (Or.inl (by decide))⟩

theorem witness_MailboxDoorbells_ack (h : Obligations.MailboxDoorbells) :
    ∃ t, exec (.mbAck 0 0) { svc with mail := [(0, { Mailbox.zero with rspValid := true })] } = .next t :=
  ⟨_, (h 0 0 { svc with mail := [(0, { Mailbox.zero with rspValid := true })] } (by decide) (by decide)).2.2.1 (by
      decide)⟩

theorem witness_MailboxDoorbells_ackEmpty (h : Obligations.MailboxDoorbells) :
    ∃ t, exec (.mbAck 0 0) svc = .next t :=
  ⟨_, (h 0 0 svc (by decide) (by decide)).2.2.2.1 (by decide)⟩

theorem witness_MailboxDoorbells_reserved (h : Obligations.MailboxDoorbells) :
    ∃ t, exec (.mbDoorbellReserved 16 16 0) svc = .next t :=
  ⟨_, (h 16 16 svc (by decide) (by decide)).2.2.2.2 0 (by decide) (by decide)⟩

theorem witness_WindowRefusesAndLogs (h : Obligations.WindowRefusesAndLogs) :
    ∃ t, exec (.mbSubmit 2 16) svc = .next t ∧ ∀ k, t.mbox k = svc.mbox k :=
  ⟨_, rfl, (h 2 16 7 svc _ (by decide) (by decide) (Or.inl rfl)).1⟩

/-- A mailbox with a request that waits. -/
def asked : State :=
  { svc with mail := [(16, { Mailbox.zero with reqBusy := true, reqHdr := at_ 40 1 ||| at_ 0 1 })] }

theorem witness_RequestAccepted (h : Obligations.RequestAccepted) :
    ∃ t, exec (.requestAccept 5) { asked with power := { asked.power with pd1 := true } } = .next t :=
  ⟨_, ((h 5 { asked with power := { asked.power with pd1 := true } }).1 16 _ _ _ rfl rfl (by decide) rfl rfl rfl).1⟩

theorem witness_RequestAccepted_asleep (h : Obligations.RequestAccepted) :
    ∃ t, exec (.requestAccept 5) { asked with power := { asked.power with pd1 := false } } = .next t :=
  ⟨_, (h 5 { asked with power := { asked.power with pd1 := false } }).2 (Or.inl rfl)⟩

/-- A command with its answer, in the management mailbox. -/
def answered : Cmd := { cmd 0x01 16 0 false [0] with phase := .answered [0, 0] }

theorem witness_ResponseWritten (h : Obligations.ResponseWritten) :
    ∃ t, exec (.responseWrite 16) (withCmd svc answered) = .next t :=
  ⟨_, ((h 16 answered (withCmd svc answered) (by decide)).1 [0, 0] _ _ _ rfl (by decide) (by decide) rfl rfl rfl).2⟩

theorem witness_ResponseWritten_waits (h : Obligations.ResponseWritten) :
    ∃ t, exec (.responseWrite 16) (withCmd svc (cmd 0x01 16 0 false [0])) = .next t :=
  ⟨_, (h 16 (cmd 0x01 16 0 false [0]) (withCmd svc (cmd 0x01 16 0 false [0])) (by decide)).2 (Or.inr (Or.inr (by
      decide)))⟩

theorem witness_QueryCommandsAnswer_echo (h : Obligations.QueryCommandsAnswer) :
    ∃ t, exec .echo (withCmd svc (cmd 0x01 16 0 false [0, 7])) = .next t :=
  ⟨_, (h _ _).1 (front_of _ rfl (by decide) rfl (by decide))⟩

theorem witness_QueryCommandsAnswer_status (h : Obligations.QueryCommandsAnswer) :
    ∃ t, exec .status (withCmd svc (cmd 0x02 16 0 false [0])) = .next t :=
  ⟨_, (h _ _).2.1 (front_of _ rfl (by decide) rfl (by decide))⟩

theorem witness_QueryCommandsAnswer_gateRead (h : Obligations.QueryCommandsAnswer) :
    ∃ t, exec .gateRead (withCmd svc (cmd 0x43 16 0 false [0, 16])) = .next t :=
  ⟨_, (h _ _).2.2.1 (front_of _ rfl (by decide) rfl (by decide)) (by decide) (by decide)⟩

theorem witness_QueryCommandsAnswer_imageInfo (h : Obligations.QueryCommandsAnswer) :
    ∃ t, exec .imageInfo (withCmd svc (cmd 0x52 16 0 false [0])) = .next t :=
  ⟨_, (h _ _).2.2.2.1 (front_of _ rfl (by decide) rfl (by decide))⟩

theorem witness_QueryCommandsAnswer_umaz (h : Obligations.QueryCommandsAnswer) :
    ∃ t, exec .umazRequest (withCmd svc (cmd 0x60 17 0 false [0, 1, 2, 3, 4, 5, 0])) = .next t :=
  let ⟨_, _, e⟩ := (h (cmd 0x60 17 0 false [0, 1, 2, 3, 4, 5, 0]) (withCmd svc (cmd 0x60 17 0 false [0, 1, 2, 3, 4, 5,
      0]))).2.2.2.2
    (front_of _ rfl (by decide) rfl (by decide)) (by decide)
  ⟨_, e⟩

theorem witness_PlanTick_mode (h : Obligations.PlanTickCommandsStage) :
    ∃ t, exec .modeRequest (withCmd svc (cmd 0x08 16 0 true [0, 4])) = .next t :=
  ⟨_, (h _ _).1 (front_of _ rfl (by decide) rfl (by decide)) (by decide) (by decide) (by decide) (by decide)
    ⟨by decide, by decide, Or.inl (by decide)⟩⟩

theorem witness_PlanTick_budget (h : Obligations.PlanTickCommandsStage) :
    ∃ t, exec .latencyBudget (withCmd svc (cmd 0x0A 3 3 true [0, 100])) = .next t :=
  ⟨_, (h _ _).2.1 (some 3) (front_of _ rfl (by decide) rfl (by decide)) (by decide) (by decide) (by decide)
    ⟨by decide, by decide, Or.inl (by decide)⟩⟩

theorem witness_PlanTick_gateOffline (h : Obligations.PlanTickCommandsStage) :
    ∃ t, exec .gateOffline (withCmd svc (cmd 0x40 16 0 true [0, 16])) = .next t :=
  ⟨_, (h _ _).2.2.1 16 (by decide) (front_of _ rfl (by decide) rfl (by decide)) (by decide) (by decide)
    ⟨by decide, by decide, Or.inl (by decide)⟩⟩

theorem witness_PlanTick_gateOnline (h : Obligations.PlanTickCommandsStage) :
    ∃ t, exec .gateOnline (withCmd svc (cmd 0x42 16 0 true [0, 3])) = .next t :=
  ⟨_, (h _ _).2.2.2.1 3 (by decide) (front_of _ rfl (by decide) rfl (by decide)) (by decide) (by decide) (by decide)
    (by decide) (by decide) (by decide) ⟨by decide, by decide, Or.inl (by decide)⟩⟩

/-- A quad of one port in use. -/
def ported : State := { svc with img := { svc.img with quads := [1, 0, 0, 0] } }

theorem witness_PlanTick_portReset (h : Obligations.PlanTickCommandsStage) :
    ∃ t, exec .portReset (withCmd ported (cmd 0x48 16 0 true [0, 0])) = .next t :=
  ⟨_, (h _ _).2.2.2.2.1 0 (by decide) (front_of _ rfl (by decide) rfl (by decide)) (by decide) (by decide)
    ⟨by decide, by decide, Or.inl (by decide)⟩⟩

theorem witness_Realign (h : Obligations.RealignGateWriteImageWrite) :
    ∃ t, exec .timeRealign (withCmd { svc with ticks := { svc.ticks with valid := true } } (cmd 0x09 16 0 false [0])) =
      .next t :=
  ⟨_, (h _ _).1 (front_of _ rfl (by decide) rfl (by decide)) (by decide) (Or.inl rfl)⟩

theorem witness_GateWrite (h : Obligations.RealignGateWriteImageWrite) :
    ∃ t, exec .gateWrite (withCmd svc (cmd 0x41 16 0 false [0, 4, 1, 2, 3])) = .next t :=
  ⟨_, (h _ _).2.1 4 (by decide) (front_of _ rfl (by decide) rfl (by decide)) (by decide) (by decide) (by decide)⟩

theorem witness_ImageWrite (h : Obligations.RealignGateWriteImageWrite) :
    ∃ t, exec .imageWrite (withCmd svc (cmd 0x50 16 0 false ([0, at_ 46 1 ||| at_ 32 6, 77] ++ List.replicate 59 0))) =
      .next t :=
  ⟨_, (h _ _).2.2 false true 6 _ _ (by decide) (by decide) (by decide) rfl rfl (front_of _ rfl (by decide) rfl (by
      decide))
    (by decide) (by decide) (by decide) (by decide) (by decide) (by decide)⟩

theorem witness_FailedCheck (h : Obligations.FailedCheckAnswersAndChangesNothing) :
    ∃ t, exec .echo (withCmd { svc with mode := .assay } (cmd 0x01 16 0 false [0])) = .next t :=
  let ⟨_, e, _⟩ := h.1 (cmd 0x01 16 0 false [0]) _ 6 noObject .echo (withCmd { svc with mode := .assay } (cmd 0x01 16 0
      false [0])) rfl rfl
    rfl (by decide) (by decide)
  ⟨_, e⟩

theorem witness_MissedBoundary (h : Obligations.FailedCheckAnswersAndChangesNothing) :
    ∃ t, exec .stagingMiss (withCmd { svc with ticks := { svc.ticks with plan := 9 } } (cmd 0x40 16 0 false [5, 3])) =
      .next t :=
  ⟨_, h.2 _ _ 5 4 rfl rfl⟩

/-! ### Streams and generations -/

/-- A port, domain 3 with ring block 0, slot block 0 and a gate that admits 1 MiB from 1 MiB on, tick domain 0 enabled. -/
def wired : State :=
  { svc with
    active := some ⟨false, 0, 1⟩
    img := { svc.img with
      quads := [1, 0, 0, 0]
      ports := { PortCfg.default with enable := true } :: List.replicate 15 .default
      ringBlocks := 3 :: List.replicate 63 255
      slotBlocks := 3 :: List.replicate 63 255 }
    tcfg := .default
    gates := [(3, { Gate.zero with
      rules := [(0, (at_ 12 0x100 ||| at_ 7 1, at_ 24 0xFF, at_ 42 63))]
      online := true })] }

/-- Words w0 to w11 of a stream of domain 3: type, class, suite, steady budget, committed rate, handle. -/
def ctxWords (type cls suite steady rate h : Nat) : List Word :=
  [at_ 44 type ||| at_ 42 cls ||| at_ 38 3 ||| at_ 0 h, at_ 32 1, 0, 0, at_ 37 100 ||| at_ 29 steady, at_ 16 rate,
   at_ 44 suite, 0, 0x100000, 0, 0, 0]

/-- The same as a context in state `st`, with a current generation under slot 0. -/
def ctx (type cls suite steady rate h st : Nat) : Context :=
  let w := ctxWords type cls suite steady rate h
  ({ Context.zero with
    w0 := w.getD 0 0, w1 := w.getD 1 0, w4 := w.getD 4 0, w5 := w.getD 5 0, w6 := w.getD 6 0, w8 := w.getD 8 0
    cur := ⟨at_ 15 1 ||| at_ 14 1, 0, 0, 0⟩ }).setSt st

/-- A stream of class B, created; with a port and a gate. -/
def created : State := { wired with streams := [(0, ctx 1 2 1 0 0 0 1)] }

theorem witness_StreamCreate_B (h : Obligations.StreamCreateStages) :
    ∃ t, exec .streamCreate (withCmd wired (cmd 0x10 3 3 true (0 :: ctxWords 1 2 1 0 0 0))) = .next t :=
  ⟨_, (h _ _ _ 0 0 _ _ (front_of _ rfl (by decide) rfl (by decide)) rfl (by decide) (by decide) rfl
    ⟨by decide, by decide, Or.inl (by decide)⟩ (by decide) (by decide) (by decide) (by decide) (by decide) (by decide)
    (by decide) (by decide) (by decide) (by decide) (by decide) (by decide) rfl).1 (by decide)⟩

theorem witness_StreamCreate_C (h : Obligations.StreamCreateStages) :
    ∃ t, exec .streamCreate (withCmd wired (cmd 0x10 3 3 true (0 :: ctxWords 1 1 1 1 9 0))) = .next t :=
  ⟨_, (h _ _ _ 0 0 _ _ (front_of _ rfl (by decide) rfl (by decide)) rfl (by decide) (by decide) rfl
    ⟨by decide, by decide, Or.inl (by decide)⟩ (by decide) (by decide) (by decide) (by decide) (by decide) (by decide)
    (by decide) (by decide) (by decide) (by decide) (by decide) (by decide) rfl).2 _ (by decide) rfl (by decide)⟩

theorem witness_StreamModify_free (h : Obligations.StreamModifyStages) :
    ∃ t, exec .streamModify (withCmd created (cmd 0x11 3 3 true ([0, at_ 37 1] ++ List.replicate 11 0))) = .next t :=
  ⟨_, (h _ _ _ _ 0 0 _ _ _ (front_of _ rfl (by decide) rfl (by decide)) (by decide) rfl (by decide) rfl rfl rfl rfl
    ⟨by decide, by decide, Or.inl (by decide)⟩ (by decide) (by decide) (by decide) (by decide) (by decide) (by decide)
    (by decide) (by decide) (Or.inl (by decide)) (by decide)).1 (Or.inl (by decide))⟩

theorem witness_StreamModify_charged (h : Obligations.StreamModifyStages) :
    ∃ t, exec .streamModify (withCmd { wired with streams := [(0, ctx 1 0 1 1 0 0 2)] } (cmd 0x11 3 3 true ([0, at_ 43
      1, 0, 0, 0, 0, at_ 37 100 ||| at_ 29 2] ++ List.replicate 6 0))) = .next t :=
  ⟨_, (h _ _ _ _ 0 0 _ _ _ (front_of _ rfl (by decide) rfl (by decide)) (by decide) rfl (by decide) rfl rfl rfl rfl
    ⟨by decide, by decide, Or.inl (by decide)⟩ (by decide) (by decide) (by decide) (by decide) (by decide) (by decide)
    (by decide) (by decide) (Or.inl (by decide)) (by decide)).2 _ (by decide) (by decide) rfl (by decide)⟩

theorem witness_StreamArm_B (h : Obligations.StreamArmStages) :
    ∃ t, exec (.streamArm 0 0 0) (withCmd created (cmd 0x12 3 3 true [0, 0])) = .next t :=
  ⟨_, (h _ _ _ 0 0 _ 0 0 0 _ (front_of _ rfl (by decide) rfl (by decide)) (by decide) rfl (by decide) rfl
    ⟨by decide, by decide, Or.inl (by decide)⟩ (by decide) (by decide) (by decide) (by decide) (by decide) (by decide)
    (by decide) (by decide) rfl).1 (by decide)⟩

theorem witness_StreamArm_P (h : Obligations.StreamArmStages) :
    ∃ t, exec (.streamArm 0 0 0) (withCmd { wired with streams := [(0, ctx 1 0 1 1 0 0 1)] } (cmd 0x12 3 3 true [0, 0]))
      = .next t :=
  ⟨_, (h _ _ _ 0 0 _ 0 0 0 _ (front_of _ rfl (by decide) rfl (by decide)) (by decide) rfl (by decide) rfl
    ⟨by decide, by decide, Or.inl (by decide)⟩ (by decide) (by decide) (by decide) (by decide) (by decide) (by decide)
    (by decide) (by decide) rfl).2 _ (by decide) rfl (by decide)⟩

theorem witness_StreamDisarm (h : Obligations.StreamCommandsStageOrRead) :
    ∃ t, exec .streamDisarm (withCmd { wired with streams := [(0, ctx 1 2 1 0 0 0 2)] } (cmd 0x13 3 3 true [0, 0])) =
      .next t :=
  ⟨_, ((h.1 _ _).1 _ 0 0 _ (by decide) rfl (by decide) rfl ⟨by decide, by decide, Or.inl (by decide)⟩ (by decide) (by
      decide)
    (by decide)).1 (front_of _ rfl (by decide) rfl (by decide)) (by decide)⟩

theorem witness_StreamRetire (h : Obligations.StreamCommandsStageOrRead) :
    ∃ t, exec .streamRetire (withCmd created (cmd 0x14 3 3 true [0, 0])) = .next t :=
  ⟨_, ((h.1 _ _).1 _ 0 0 _ (by decide) rfl (by decide) rfl ⟨by decide, by decide, Or.inl (by decide)⟩ (by decide) (by
      decide)
    (by decide)).2 (front_of _ rfl (by decide) rfl (by decide)) (by decide) (by decide)⟩

/-- A publisher and a subscriber that are twins of each other. -/
def pairLinked : State :=
  { wired with streams := [(0, (ctx 3 2 3 0 0 0 1).setTwin true 1), (1, (ctx 4 2 3 0 0 1 1).setTwin true 0)] }

theorem witness_StreamRetire_linked (h : Obligations.StreamCommandsStageOrRead) :
    ∃ t, exec .streamRetire (withCmd pairLinked (cmd 0x14 3 3 true [0, 0])) = .next t :=
  ⟨_, (h.1 _ _).2.1 _ 0 0 _ (by decide) rfl (by decide) (by decide) rfl ⟨by decide, by decide, Or.inl (by decide)⟩
    (by decide) (by decide) (by decide) (front_of _ rfl (by decide) rfl (by decide)) (by decide)⟩

theorem witness_TwinLink (h : Obligations.StreamCommandsStageOrRead) :
    ∃ t, exec .twinLink (withCmd { wired with streams := [(0, ctx 3 2 3 0 0 0 1), (1, ctx 4 2 3 0 0 1 1)] } (cmd 0x17 3
      3 true [0, at_ 15 1])) = .next t :=
  ⟨_, (h.1 _ _).2.2 0 1 _ _ 0 _ (by decide) (by decide) rfl rfl (by decide) rfl (front_of _ rfl (by decide) rfl (by
      decide))
    ⟨by decide, by decide, Or.inl (by decide)⟩ (by decide) (by decide) (by decide) (by decide) (by decide) (by decide)
    (by decide) (by decide) (by decide) (by decide) (by decide)⟩

theorem witness_StreamRead (h : Obligations.StreamCommandsStageOrRead) :
    ∃ t, exec .streamRead (withCmd created (cmd 0x15 3 3 false [0, 0])) = .next t :=
  ⟨_, (h.2 _ _ 0 (by decide) (by decide)).1 (front_of _ rfl (by decide) rfl (by decide)) (by decide) (by decide)⟩

theorem witness_StreamSnapshot (h : Obligations.StreamCommandsStageOrRead) :
    ∃ t, exec .streamSnapshot (withCmd created (cmd 0x16 3 3 true [0, 0])) = .next t :=
  ⟨_, (h.2 _ _ 0 (by decide) (by decide)).2 _ (front_of _ rfl (by decide) rfl (by decide)) rfl (by decide)
    (Or.inl (by decide)) (by decide) (by decide)⟩

/-- The created stream with its key in slot 0, of domain 3. -/
def keyed : State :=
  { created with slots := [(0, ⟨5, 0, attrWord 1 false (some 3) 127 2 0 noParent, 0, 100, none⟩)] }

theorem witness_GenInstall (h : Obligations.GenInstallAndRollStage) :
    ∃ t, exec .genInstall (withCmd keyed (cmd 0x20 3 3 true [0, at_ 15 2, at_ 14 1, 0, 0, 0, 0, 0])) = .next t :=
  ⟨_, (h.1 _ _ _ _ 0 0 _ 0 _ _ [0] _ (by decide) rfl (by decide) (by decide) rfl rfl rfl rfl
    ⟨by decide, by decide, Or.inl (by decide)⟩ (by decide) (by decide) (by decide) (by decide) (by decide) (by decide)
    (by decide) (by decide) (by decide) (by decide) (by decide) (by decide) (by decide) rfl).1 (by decide)
    (front_of _ rfl (by decide) rfl (by decide))⟩

/-- The same with a salt to be drawn, and the command's word drawn. -/
def salted (begun : Option Nat) : State :=
  withCmd { keyed with streams := [(0, ctx 1 2 2 0 0 0 1)], ent := { keyed.ent with ready := true } }
    { cmd 0x20 3 3 true [0, at_ 15 2, at_ 14 1 ||| at_ 11 1, 0, 0, 0, 0, 0] with
      phase := match begun with
        | some w => .begun w
        | none => .waiting }

theorem witness_GenInstall_draws (h : Obligations.GenInstallAndRollStage) :
    ∃ t, exec .genInstall (salted none) = .next t :=
  ⟨_, (h.1 _ (salted none) _ _ 0 0 _ 0 _ _ [0] _ (by decide) rfl (by decide) (by decide) rfl rfl rfl rfl
    ⟨by decide, by decide, Or.inl (by decide)⟩ (by decide) (by decide) (by decide) (by decide) (by decide) (by decide)
    (by decide) (by decide) (by decide) (by decide) (by decide) (by decide) (by decide) rfl).2.1 (by decide)
    (front_of _ rfl (by decide) rfl (by decide)) (by decide) rfl⟩

theorem witness_GenInstall_drawn (h : Obligations.GenInstallAndRollStage) :
    ∃ t, exec .genInstall (salted (some 0)) = .next t :=
  ⟨_, (h.1 _ (salted (some 0)) _ _ 0 0 _ 0 _ _ [0] _ (by decide) rfl (by decide) (by decide) rfl rfl rfl rfl
    ⟨by decide, by decide, Or.inl (by decide)⟩ (by decide) (by decide) (by decide) (by decide) (by decide) (by decide)
    (by decide) (by decide) (by decide) (by decide) (by decide) (by decide) (by decide) rfl).2.2 (by decide)
    ⟨rfl, by decide, rfl⟩ (by decide)⟩

theorem witness_GenRoll (h : Obligations.GenInstallAndRollStage) :
    ∃ t, exec .genRoll (withCmd
      { wired with streams := [(0, { ctx 1 2 1 0 0 0 1 with nxt := ⟨at_ 15 2 ||| at_ 14 1, 0, 0, 0⟩ })] } (cmd 0x21 3 3
      true [0, at_ 15 2])) = .next t :=
  ⟨_, h.2 _ _ 0 2 0 _ [0] (front_of _ rfl (by decide) rfl (by decide)) (by decide) (by decide) (by decide) (by decide) rfl
    ⟨by decide, by decide, Or.inl (by decide)⟩ (by decide) (by decide) (by decide) (by decide) (by decide) (by decide)⟩

/-! ### Keys and chains -/

/-- Domain 3 with its domain key, entropy, a seeded store, and the Bindweed areas of memory. -/
def armedStore : State :=
  { wired with
    img := { wired.img with bwId := 1 }
    slots := [(65555, ⟨5, 0, attrWord 1 false (some 3) 127 0 0 noParent, 0, 0, none⟩)]
    keyCtl := { KeyCtl.reset with seeded := true }
    ent := { Entropy.reset with ready := true } }

theorem witness_KeyImport (h : Obligations.KeyImportExchange) :
    ∃ t, exec (.keyImport false 7) (withCmd armedStore (cmd 0x28 3 3 false [0, at_ 31 9 ||| at_ 25 1, at_ 16 1, 0])) =
      .next t :=
  let ⟨_, e, _⟩ := (h.1.1 _ 7 9 _ _ rfl (front_of _ rfl (by decide) rfl (by decide)) (by decide) (by decide) (by decide)
      (by decide)
    (by decide) (by decide) (by decide) (by decide) (by decide) (by decide)).1
  ⟨_, e⟩

/-- With two keyed-digest slots. -/
def digesting : State := { armedStore with img := { armedStore.img with digestCount := 2 } }

theorem witness_KeyImport_busy (h : Obligations.KeyImportExchange) :
    ∃ t, exec (.keyImport true 7) (withCmd digesting (cmd 0x28 3 3 false [0, at_ 31 9 ||| at_ 24 1, at_ 16 1, 0])) =
      .next t :=
  ⟨_, (h.1.1 (cmd 0x28 3 3 false [0, at_ 31 9 ||| at_ 24 1, at_ 16 1, 0]) 7 9
    (withCmd digesting (cmd 0x28 3 3 false [0, at_ 31 9 ||| at_ 24 1, at_ 16 1, 0])) _ rfl
    (front_of _ rfl (by decide) rfl (by decide)) (by decide) (by decide) (by decide) (by decide)
    (by decide) (by decide) (by decide) (by decide) (by decide) (by decide)).2⟩

/-- An import that waits for its key. -/
def waiting : Import := ⟨0, 1, 3, 9, 2, false, 8, 0, none, false⟩

def importing : State := { withCmd armedStore { cmd 0x28 3 3 false [0, at_ 31 9, at_ 16 1, 0] with phase := .keyBus } with
  imports := [waiting] }

theorem witness_KeyBusRefused (h : Obligations.KeyImportExchange) :
    ∃ t, exec (.keyBusResponse ⟨1, 3, 256, 4, 6, 9, true⟩) importing = .next t :=
  ⟨_, (h.1.2.1 waiting [] ⟨1, 3, 256, 4, 6, 9, true⟩ importing rfl).1 4 (by decide)⟩

theorem witness_KeyBusWritten (h : Obligations.KeyImportExchange) :
    ∃ t, exec (.keyBusResponse ⟨1, 3, 256, 127, 6, 9, true⟩) importing = .next t := by
  have k := (h.1.2.1 waiting [] ⟨1, 3, 256, 127, 6, 9, true⟩ importing rfl).2.1 (by decide) (by decide) (by decide) (by
      decide) _ rfl
  rcases e : (((importing.endImport waiting true).writeImport waiting ⟨1, 3, 256, 127, 6, 9, true⟩).slot 9).empty_ with
      _ | _
  · exact ⟨_, k.1 e⟩
  · exact let ⟨u, x, _⟩ := k.2 e; ⟨u, x⟩

theorem witness_KeyBusSlotTaken (h : Obligations.KeyImportExchange) :
    ∃ t, exec (.keyBusResponse ⟨1, 3, 256, 127, 6, 9, true⟩)
      { importing with slots := [(9, ⟨5, 0, attrWord 1 false (some 3) 127 0 0 noParent, 0, 0, none⟩)] } = .next t :=
  let ⟨_, e, _⟩ := (h.1.2.1 waiting [] ⟨1, 3, 256, 127, 6, 9, true⟩ { importing with
    slots := [(9, ⟨5, 0, attrWord 1 false (some 3) 127 0 0 noParent, 0, 0, none⟩)] } rfl).2.2 (by decide)
    (Or.inr (Or.inr (by decide)))
  ⟨_, e⟩

theorem witness_KeyBusAbandoned (h : Obligations.KeyImportExchange) :
    ∃ t, exec (.keyBusResponse ⟨1, 3, 256, 127, 6, 9, true⟩)
      { importing with imports := [{ waiting with abandoned := true }] } = .next t :=
  let ⟨_, e, _⟩ := (h.1.2.1 { waiting with abandoned := true } [] ⟨1, 3, 256, 127, 6, 9, true⟩ { importing with
    imports := [{ waiting with abandoned := true }] } rfl).2.2 (by decide) (Or.inr (Or.inl rfl))
  ⟨_, e⟩

theorem witness_ImportTimeout (h : Obligations.KeyImportExchange) :
    ∃ t, exec (.importTimeout 10000) importing = .next t :=
  let ⟨_, e, _⟩ := h.1.2.2 waiting [] 10000 importing rfl (by decide)
  ⟨_, e⟩

theorem witness_ImportWrites (h : Obligations.KeyImportExchange) :
    (((importing.endImport waiting true).writeImport waiting ⟨1, 3, 256, 127, 6, 9, true⟩).slot 9).u1 = 8 :=
  let ⟨_, e, _, _, _, u, _⟩ := h.2 waiting ⟨1, 3, 256, 127, 6, 9, true⟩ importing (by decide) rfl (by decide) (by decide)
    (by decide) (by decide)
  e ▸ u

/-- With the device ladder key, and the command's entropy word drawn where it has begun. -/
def laddered (begun : Option Nat) (parent : Bool) : State :=
  withCmd
      { armedStore with slots := if parent then [(65536, ⟨5, 0, attrWord 1 false none 127 0 0 noParent, 0, 100, none⟩)] else [] }
    { cmd 0x29 16 3 false [0, at_ 31 65555, 0, 0] with
      phase := match begun with
        | some w => .begun w
        | none => .waiting }

theorem witness_KeyDerive_domain (h : Obligations.KeyDeriveInvalidateRead) :
    ∃ t, exec (.keyDerive 0 false) (laddered none true) = .next t :=
  ⟨_, ((h.1 _ (laddered none true) 65555 _ 0 _ _ 0 false (by decide) (by decide) rfl rfl rfl
    (Or.inl ⟨rfl, by decide⟩)).1 (front_of _ rfl (by decide) rfl (by decide)) (by decide) (by decide) (by decide)
    (by decide) (by decide) (by decide) (Or.inl ⟨by decide, by decide, by decide⟩))⟩

theorem witness_KeyDerive_begun (h : Obligations.KeyDeriveInvalidateRead) :
    ∃ t, exec (.keyDerive 0 false) (laddered (some 0) true) = .next t :=
  let ⟨_, e, _⟩ := (h.1 _ (laddered (some 0) true) 65555 _ 0 _ _ 0 false (by decide) (by decide) rfl rfl rfl
    (Or.inl ⟨rfl, by decide⟩)).2.1 0 _ ⟨rfl, by decide, rfl⟩ (by decide) (by decide) (by decide) rfl
  ⟨_, e⟩

theorem witness_KeyDerive_parentGone (h : Obligations.KeyDeriveInvalidateRead) :
    ∃ t, exec (.keyDerive 0 false) (laddered (some 0) false) = .next t :=
  ⟨_, (h.1 _ (laddered (some 0) false) 65555 _ 0 _ _ 0 false (by decide) (by decide) rfl rfl rfl
    (Or.inl ⟨rfl, by decide⟩)).2.2 0 ⟨rfl, by decide, rfl⟩ (Or.inl (by decide))⟩

/-- With the record root of domain 3. -/
def rooted : State :=
      { armedStore with slots := [(65571, ⟨5, 0, attrWord 1 false (some 3) 127 0 0 noParent, 0, 0, none⟩)] }

theorem witness_KeyDerive_stream (h : Obligations.KeyDeriveInvalidateRead) :
    ∃ t, exec (.keyDerive 0 false) (withCmd rooted (cmd 0x29 3 3 false [0, at_ 31 9 ||| at_ 20 2, 0, 0])) = .next t :=
  ⟨_, ((h.1 (cmd 0x29 3 3 false [0, at_ 31 9 ||| at_ 20 2, 0, 0]) (withCmd rooted
    (cmd 0x29 3 3 false [0, at_ 31 9 ||| at_ 20 2, 0, 0])) 9 _ 2 _ _ 0 false (by decide) (by decide) rfl rfl rfl
    (Or.inr (Or.inr ⟨rfl, by decide⟩))).1 (front_of _ rfl (by decide) rfl (by decide)) (by decide) (by decide) (by decide)
    (by decide) (by decide) (by decide) (Or.inr ⟨by decide, by decide⟩))⟩

theorem witness_KeyInvalidate (h : Obligations.KeyDeriveInvalidateRead) :
    ∃ t, exec .keyInvalidate (withCmd armedStore (cmd 0x2A 3 3 true [0, 9])) = .next t :=
  ⟨_, (h.2 _ _).1 9 (front_of _ rfl (by decide) rfl (by decide)) (by decide) (by decide) (by decide)
    ⟨by decide, by decide, Or.inl (by decide)⟩ (Or.inl (by decide))⟩

theorem witness_KeyInvalidate_service (h : Obligations.KeyDeriveInvalidateRead) :
    ∃ t, exec .keyInvalidate (withCmd armedStore (cmd 0x2A 16 3 true [0, 65555])) = .next t :=
  ⟨_, (h.2 _ _).1 65555 (front_of _ rfl (by decide) rfl (by decide)) (by decide) (by decide) (by decide)
    ⟨by decide, by decide, Or.inl (by decide)⟩ (Or.inr (by decide))⟩

theorem witness_KeyRead (h : Obligations.KeyDeriveInvalidateRead) :
    ∃ t, exec .keyRead (withCmd armedStore (cmd 0x2B 16 0 false [0, 69631])) = .next t :=
  ⟨_, (h.2 _ _).2 69631 (front_of _ rfl (by decide) rfl (by decide)) (by decide) (by decide) (by decide) (Or.inr (by
      decide))⟩

/-- The command that creates a publisher chain under slot 9, in a phase. -/
def chainCmd (p : CmdPhase) : Cmd := { cmd 0x30 3 3 false [0, at_ 38 1023 ||| at_ 0 9, at_ 16 1, 2] with phase := p }

theorem witness_ChainCreate (h : Obligations.ChainCommandsAct) :
    ∃ t, exec (.chainCreate 0 false) (withCmd armedStore (chainCmd .waiting)) = .next t :=
  ⟨_, (h.1 _ (withCmd armedStore (chainCmd .waiting)) 0 false).1 _ rfl (front_of _ rfl (by decide) rfl (by decide)) (by
      decide)
    (by decide) (by decide) (by decide) (by decide) (by decide) (by decide) (by decide) (by decide) (by decide)
    (Or.inr (by decide)) (by decide) (by decide) (Or.inr (by decide)) (by decide)⟩

theorem witness_ChainCreate_failed (h : Obligations.ChainCommandsAct) :
    ∃ t, exec (.chainCreate 0 false) (withCmd { armedStore with ent := { armedStore.ent with fail := true } } (chainCmd
      (.begun 0))) = .next t :=
  ⟨_, ((h.1 _ (withCmd { armedStore with ent := { armedStore.ent with fail := true } } (chainCmd (.begun 0))) 0
      false).2.2.1 0
    ⟨rfl, by decide, rfl⟩).1 rfl⟩

theorem witness_ChainCreate_parentGone (h : Obligations.ChainCommandsAct) :
    ∃ t, exec (.chainCreate 0 false) (withCmd { armedStore with slots := [] } (chainCmd (.begun 0))) = .next t :=
  ⟨_, ((h.1 _ (withCmd { armedStore with slots := [] } (chainCmd (.begun 0))) 0 false).2.2.1 0 ⟨rfl, by decide, rfl⟩).2
      rfl
    (by decide)⟩

/-- The domain key may derive, and the command's entropy word is drawn. -/
def creating : State :=
  withCmd { armedStore with slots := [(65555, ⟨5, 0, attrWord 1 false (some 3) 127 0 0 noParent, 0, 100, none⟩)] }
      (chainCmd (.begun 0))

/-- What a fetch answers is what its slot is judged to give. -/
theorem fetch_answers (s : State) (u k use : Nat) (bad : Bool) :
    (s.fetch u k use bad).1 = fetchJudge (s.slot k) use (bad && (s.slot k).digestRef.isNone) := by
  unfold State.fetch
  dsimp only
  split <;> rfl

/-- A slot that has been written holds what was written. -/
theorem slot_written (s : State) (k : Nat) (key : Key) (attr limit : Word) :
    (s.writeSlot k key attr limit).slot k = ⟨key ^^^ s.drawn, s.drawn, attr, 0, limit, none⟩ := Table.get_put_same _ _ _ _

theorem witness_ChainCreate_begun (h : Obligations.ChainCommandsAct) :
    ∃ t, exec (.chainCreate 0 false) creating = .next t := by
  have k : ∀ s1, (∃ (s : State) (key : Key), s1 = s.writeSlot 9 key
        (childAttr creating 65555 (some 3) false maskKdf 1) unlimited) →
      ∃ y, s1.coreFetch 10 9 useKdf false = (.ok (s1.slot 9).shares, y) := by
    rintro s1 ⟨s, key, rfl⟩
    refine ⟨_, Prod.ext ?_ rfl⟩
    show (State.fetch _ 10 9 useKdf false).1 = _
    rw [fetch_answers, slot_written]
    have a : fetchJudge ⟨0, 0, childAttr creating 65555 (some 3) false maskKdf 1, 0, unlimited, none⟩ useKdf false =
        .ok ⟨0, 0⟩ := by decide
    unfold fetchJudge at a ⊢
    split at a
    · exact absurd a (by simp)
    · split at a
      · exact absurd a (by simp)
      · rename_i p q
        exact (if_neg p).trans (if_neg q)
  obtain ⟨y, e⟩ := k _ ⟨_, _, rfl⟩
  exact ⟨_, (h.1 _ creating 0 false).2.1 _ 0 ⟨5, 0⟩ _ _ y _ rfl ⟨rfl, by decide, rfl⟩ rfl (by decide) rfl e rfl⟩

theorem witness_ChainVerifier (h : Obligations.ChainCommandsAct) :
    ∃ t, exec .chainVerifier (withCmd armedStore (cmd 0x31 3 3 false [0, at_ 35 8191 ||| at_ 11 1000])) = .next t :=
  ⟨_, (h.1 _ _ 0 false).2.2.2.1 8191 _ (by decide) (front_of _ rfl (by decide) rfl (by decide)) (by decide) (by decide)
      (by decide)
    (by decide) (by decide) rfl⟩

/-- A verified chain of domain 3, with the parameters of an all-zero request. -/
def verChain : Ver := newVer (cmd 0x31 3 3 false [0, 0])

def verifying : State := { armedStore with vers := [(5, verChain)] }

/-- A statement of interval length 1, delay 1, 4,800 Hz and publisher 7. -/
def statement : List Word := [0x010001010000, 0x0007000012C0, 0, at_ 32 1, at_ 32 5, 0, 0, 0, 0, 0, 0]

theorem witness_ChainInstall (h : Obligations.ChainCommandsAct) :
    ∃ t, exec .chainInstall (withCmd verifying (cmd 0x32 3 3 false ([0, at_ 35 5] ++ statement))) = .next t :=
  ⟨_, (h.1 _ _ 0 false).2.2.2.2.1 5 verChain (by decide) (front_of _ rfl (by decide) rfl (by decide)) (by decide) (by
      decide) (by decide)
    (by decide) (by decide)⟩

theorem witness_ChainDelete (h : Obligations.ChainCommandsAct) :
    ∃ t, exec .chainDelete (withCmd verifying (cmd 0x33 3 3 true [0, at_ 47 1 ||| at_ 34 5])) = .next t :=
  ⟨_, (h.1 _ _ 0 false).2.2.2.2.2.1 true 5 (by decide) (by decide) (front_of _ rfl (by decide) rfl (by decide)) (by
      decide)
    (Or.inl rfl) (by decide) (by decide) (by decide) (Or.inl rfl) ⟨by decide, by decide, Or.inl (by decide)⟩⟩

theorem witness_ChainRead (h : Obligations.ChainCommandsAct) :
    ∃ t, exec .chainRead (withCmd verifying (cmd 0x34 3 3 false [0, at_ 47 1 ||| at_ 34 5])) = .next t :=
  ⟨_, (h.1 _ _ 0 false).2.2.2.2.2.2 true 5 _ (by decide) (by decide) (front_of _ rfl (by decide) rfl (by decide)) (by
      decide)
    (Or.inl rfl) (by decide) rfl⟩

theorem witness_InstallStatement (h : Obligations.ChainCommandsAct) :
    (installStatement verChain (List.replicate 64 0)).installed = true ∧
      (installStatement { verChain with installed := true } (List.replicate 64 0)).inValid = true := by
  constructor
  · rw [(h.2 verChain (List.replicate 64 0)).1 (by decide)]
  · rw [(h.2 { verChain with installed := true } (List.replicate 64 0)).2 (by decide)]

/-! ### Rings -/

/-- The created stream with a ring of 64 entries. -/
def ring0 : Ring := { Ring.zero with base := 0x100000, entries := 64, fetch := 1, tail := 1, head := 5 }

def ringed : State := { created with rings := [(0, ring0)] }

theorem witness_DoorbellPost (h : Obligations.DoorbellsSetCounts) :
    ∃ t, exec (.doorbellPost 3 0 0 64) ringed = .next t :=
  ⟨_, (h 3 0 0 64 ringed _ rfl (by decide) (by decide)).1 (by decide) rfl (by decide) (by decide) (by decide)⟩

theorem witness_DoorbellRelease (h : Obligations.DoorbellsSetCounts) :
    ∃ t, exec (.doorbellRelease 3 0 0 5) ringed = .next t :=
  ⟨_, (h 3 0 0 5 ringed _ rfl (by decide) (by decide)).2.1 (by decide) rfl (by decide) (by decide)⟩

theorem witness_DoorbellPost_beyond (h : Obligations.DoorbellsSetCounts) :
    ∃ t, exec (.doorbellPost 3 0 0 65) ringed = .next t :=
  ⟨_, ((h 3 0 0 65 ringed _ rfl (by decide) (by decide)).2.2 3 _ (by decide) rfl).1
    (Or.inr (Or.inr (Or.inr (Or.inl (by decide)))))⟩

theorem witness_DoorbellRelease_beyond (h : Obligations.DoorbellsSetCounts) :
    ∃ t, exec (.doorbellRelease 3 0 0 6) ringed = .next t :=
  ⟨_, ((h 3 0 0 6 ringed _ rfl (by decide) (by decide)).2.2 3 _ (by decide) rfl).2
    (Or.inr (Or.inr (Or.inr (by decide))))⟩

/-- An output of two buffer bytes for entry 0. -/
def out0 : OutRec := ⟨0, [1, 2, 3, 4], 0x110000, [7, 8]⟩

def outing : State := { created with rings := [(0, { ring0 with outs := [out0] })] }

theorem witness_OutputWrite (h : Obligations.OutputWriteStores) :
    ∃ t, exec (.outputWrite 0) outing = .next t :=
  let ⟨_, e, _⟩ := (h 0 outing out0 [] (0x100000 + 64) none rfl rfl (by decide) (by decide) (by decide) (by decide)
    (by decide)).1 (Or.inr rfl) (by decide) (Or.inr (by decide))
  ⟨_, e⟩

/-- An output whose buffer the gate does not admit. -/
def outBarred : State :=
  { outing with rings := [(0, { ring0 with outs := [{ out0 with bufAddr := 0x700000 }], h0 := at_ 46 1 })] }

theorem witness_OutputWrite_refused (h : Obligations.OutputWriteStores) :
    ∃ t, exec (.outputWrite 0) outBarred = .next t :=
  let ⟨_, e, _⟩ := (h 0 outBarred { out0 with bufAddr := 0x700000 } [] (0x100000 + 64) _ rfl rfl (by decide) (by decide)
      rfl
    (by decide) (by decide)).2 (by decide) (by decide)
  ⟨_, e⟩

theorem witness_RingInterrupt (h : Obligations.RingRowsComplete) :
    ∃ t, exec (.ringInterrupt 0) { created with rings := [(0, { ring0 with raise_ := true })] } = .next t :=
  let ⟨_, e, _⟩ := (h 0 { created with rings := [(0, { ring0 with raise_ := true })] } _ rfl).1 (by decide) (by decide)
      (by decide)
    (by decide)
  ⟨_, e⟩

theorem witness_RingInterrupt_refused (h : Obligations.RingRowsComplete) :
    ∃ t, exec (.ringInterrupt 0)
      { created with gates := [(3, { Gate.zero with online := true })], rings := [(0, { ring0 with raise_ := true })] }
      = .next t :=
  ⟨_, (h 0
      { created with gates := [(3, { Gate.zero with online := true })], rings := [(0, { ring0 with raise_ := true })] } _
    rfl).2.1 _ (by decide) (by decide) (by decide) rfl⟩

theorem witness_RingStarved (h : Obligations.RingRowsComplete) :
    ∃ t, exec (.ringStarved 0) { created with rings := [(0, { ring0 with reserve := 1, waiting := [[0, 0, 0, 0]] })] } =
      .next t :=
  ⟨_, (h 0 { created with rings := [(0, { ring0 with reserve := 1, waiting := [[0, 0, 0, 0]] })] } _ rfl).2.2.1 (by
      decide)
    (by decide) (Or.inl (by decide))⟩

/-- A stopped ring, with a gate whose rules have changed. -/
def stoppedRing : State :=
  { created with
    gates := wired.gates.map (fun e => (e.1, { e.2 with changed := true }))
    rings := [(0, { ring0 with stopped := true })] }

theorem witness_RingRecheck (h : Obligations.RingRowsComplete) :
    ∃ t, exec (.ringRecheck 0) stoppedRing = .next t :=
  ⟨_, ((h 0 stoppedRing _ rfl).2.2.2 (by decide) (by decide) (by decide) _ rfl).1 rfl⟩

theorem witness_RingRecheck_refused (h : Obligations.RingRowsComplete) :
    ∃ t, exec (.ringRecheck 0) { stoppedRing with gates := [(3, { Gate.zero with changed := true, online := true })] } =
      .next t :=
  ⟨_, ((h 0 { stoppedRing with gates := [(3, { Gate.zero with changed := true, online := true })] } _ rfl).2.2.2 (by
      decide)
    (by decide) (by decide) _ rfl).2 _ rfl⟩

theorem witness_StreamFreed (h : Obligations.RetiredStreamFreed) :
    ∃ t, exec (.streamFreed 0) { wired with streams := [(0, ctx 1 2 1 0 0 0 3)], rings := [(0, ring0)] } = .next t :=
  let ⟨_, e, _⟩ := h 0 { wired with streams := [(0, ctx 1 2 1 0 0 0 3)], rings := [(0, ring0)] } _ rfl (by decide) (by
      decide)
    (Or.inl (by decide)) (by decide) (by decide) (by decide) (by decide) _ rfl (by decide) (by decide)
  ⟨_, e⟩

/-! ### The boundary of a plan period and what takes effect there -/

/-- Twelve units with no cycles. -/
def ledger0 : List (List Nat) := List.replicate 12 (List.replicate 8 0)

/-- The ticks run. -/
def ticking : State := { svc with tcfg := .default, ticks := { svc.ticks with running := true } }

theorem witness_PlanBoundary (h : Obligations.BoundaryOrder) :
    ∃ t, exec (.planBoundary 1000000000 0 ledger0 [⟨0, 1, 2, 3, []⟩]) ticking = .next t :=
  ⟨_, (h.1 1000000000 0 ledger0 [⟨0, 1, 2, 3, []⟩] ticking (by decide)).1 1 _ _ _ (by decide) rfl rfl rfl⟩

theorem witness_PlanBoundary_early (h : Obligations.BoundaryOrder) :
    ∃ t, exec (.planBoundary 5 0 ledger0 []) ticking = .next t :=
  ⟨_, (h.1 5 0 ledger0 [] ticking (by decide)).2 (by decide)⟩

/-- A snapshot of stream 0 that is asked for. -/
def shot0 : Cmd := { cmd 0x16 3 3 true [0, 0] with phase := .snapshot 0 1 }

theorem witness_Snapshot (h : Obligations.BoundaryOrder) :
    { shot0 with phase := .answered (answerWords 0 0 1 ((created.stream 0).words.drop 24)) } ∈
      ((withCmd created shot0).streamSnapshots 1).cmds :=
  (h.2 1 1 shot0 0 (withCmd created shot0) (by simp [withCmd]) rfl (by decide) (by decide)).1 (by decide)

theorem witness_TicksAdvance (h : Obligations.TicksAdvance) :
    tickNow (wired.advanceTicks 5) 0 =
      max (tickNow wired 0) (ticksAt (domFreq wired 0) (tickInstant (planFreq wired) 5)) ∧
    tickNow (wired.advanceTicks 5) 1 = tickNow wired 1 :=
  ⟨(h 5 wired).2.1 0 (by decide) (by decide), (h 5 wired).2.2.1 1 (by decide) (by decide)⟩

/-- A state with one staged change of stream 0. -/
def staging (s : State) (c : Change) : State := { s with staged := [⟨.stream 0, 0, 0, c⟩] }

theorem witness_StreamArmCommit (h : Obligations.StreamStateChangesTakeEffect) :
    ∃ t, exec (.streamArmCommit 0) (staging ringed (.arm 1 2 3)) = .next t :=
  let ⟨_, e, _⟩ := (h.1 0 (staging ringed (.arm 1 2 3))).2 ⟨.stream 0, 0, 0, .arm 1 2 3⟩ 1 2 3 (by decide) rfl
  ⟨_, e⟩

/-- Stream 0 armed, with a twin. -/
def twinned : State :=
  { wired with streams := [(0, (ctx 3 2 3 0 0 0 2).setTwin true 1), (1, (ctx 4 2 3 0 0 1 2).setTwin true 0)] }

theorem witness_StreamDisarmCommit (h : Obligations.StreamStateChangesTakeEffect) :
    ∃ t, exec (.streamDisarmCommit 0) (staging twinned .disarm) = .next t :=
  let ⟨_, e, _⟩ := ((h.2 0 (staging twinned .disarm)).2.2 ⟨.stream 0, 0, 0, .disarm⟩).1 (by decide)
  ⟨_, e⟩

theorem witness_RetirementCommit (h : Obligations.StreamStateChangesTakeEffect) :
    ∃ t, exec (.retirementCommit 0) (staging twinned .retire) = .next t :=
  let ⟨_, e, _⟩ := ((h.2 0 (staging twinned .retire)).2.2 ⟨.stream 0, 0, 0, .retire⟩).2 (by decide)
  ⟨_, e⟩

/-- A stream with a next and a previous generation. -/
def rolling : State :=
  { wired with streams := [(0, { ctx 2 2 1 0 0 0 2 with
      nxt := ⟨at_ 15 2 ||| at_ 14 1, 0, 0, 0⟩, prv := ⟨at_ 15 9 ||| at_ 14 1, 0, 0, 0⟩ })] }

theorem witness_EarlyWindow (h : Obligations.GenerationWindowsMove) :
    ∃ t, exec (.earlyWindowOpen 0) { staging rolling (.roll 2) with grace := [⟨0, 2, 9, 0, false, false⟩] } = .next t :=
  ⟨_, (h 0 { staging rolling (.roll 2) with grace := [⟨0, 2, 9, 0, false, false⟩] } _ rfl).1
    ⟨⟨.stream 0, 0, 0, .roll 2⟩, by decide, by decide, by decide, by decide⟩ (by decide)⟩

theorem witness_CloseTick (h : Obligations.GenerationWindowsMove) :
    ∃ t, exec (.closeTick 0) rolling = .next t :=
  let ⟨_, e, _⟩ := (h 0 rolling _ rfl).2.1 (by decide) (by decide)
  ⟨_, e⟩

theorem witness_GraceFree (h : Obligations.GenerationWindowsMove) :
    ∃ t, exec (.graceEntryFree 0)
      { rolling with aux := [(0, { StreamAux.zero with closed := [9] })], grace := [⟨0, 9, 9, 0, true, true⟩] } = .next
      t :=
  ⟨_, (h 0 { rolling with aux := [(0, { StreamAux.zero with closed := [9] })], grace := [⟨0, 9, 9, 0, true, true⟩] } _
    rfl).2.2.1⟩

theorem witness_FollowRoll (h : Obligations.GenerationWindowsMove) :
    ∃ t, exec (.followRollRetry 0)
      { rolling with aux := [(0, { StreamAux.zero with follow := true, followWait := true })] } = .next t :=
  ⟨_, ((h 0 { rolling with aux := [(0, { StreamAux.zero with follow := true, followWait := true })] } _ rfl).2.2.2 _ _
      rfl rfl
    (by decide) (by decide) (by decide) (by decide) (by decide) (by decide)).1 (by decide)⟩

/-- An install of generation 3. -/
def install3 : Install := ⟨⟨at_ 15 3 ||| at_ 14 1, 0, 0, 0⟩, 4, 0, false, false⟩

theorem witness_GenInstallCommit (h : Obligations.InstallAndRollTakeEffect) :
    ∃ t, exec (.genInstallCommit 0) (staging created (.install install3)) = .next t :=
  let ⟨_, e, _⟩ := h.2.1 0 (staging created (.install install3)) ⟨.stream 0, 0, 0, .install install3⟩ install3 _ rfl (by
      decide) rfl
  ⟨_, e⟩

theorem witness_RollCommit (h : Obligations.InstallAndRollTakeEffect) :
    ∃ t, exec (.rollCommit 0) (staging rolling (.roll 2)) = .next t :=
  let ⟨_, e, _⟩ := h.2.2 0 (staging rolling (.roll 2)) ⟨.stream 0, 0, 0, .roll 2⟩ 2 _ rfl (by decide) rfl (by decide)
  ⟨_, e⟩

/-- A state with one change staged for the plan. -/
def planned (s : State) (o : Obj) (c : Change) : State := { s with staged := [⟨o, 4, 0, c⟩] }

theorem witness_InvalidationCommit (h : Obligations.OtherCommitsTakeEffect) :
    ∃ t, exec (.invalidationCommit 0) (planned keyed (.slot 0) .invalidate) = .next t :=
  let ⟨_, e, _⟩ := (h.1 0 (planned keyed (.slot 0) .invalidate)).1 ⟨.slot 0, 4, 0, .invalidate⟩ _ _ (by decide) rfl (by
      decide) rfl
  ⟨_, e⟩

theorem witness_GateOfflineCommit (h : Obligations.OtherCommitsTakeEffect) :
    ∃ t, exec (.gateOfflineCommit 16) (planned wired (.gate 16) .gateOffline) = .next t :=
  ⟨_, (h.2.1 16 (planned wired (.gate 16) .gateOffline)).1 ⟨.gate 16, 4, 0, .gateOffline⟩ (by decide)⟩

theorem witness_GateOnlineCommit (h : Obligations.OtherCommitsTakeEffect) :
    ∃ t, exec (.gateOnlineCommit 3) (planned wired (.gate 3) .gateOnline) = .next t :=
  ⟨_, (h.2.1 3 (planned wired (.gate 3) .gateOnline)).2.1 ⟨.gate 3, 4, 0, .gateOnline⟩ (by decide)⟩

theorem witness_PortResetAction (h : Obligations.OtherCommitsTakeEffect) :
    ∃ t, exec (.portResetAction 0 6 []) (planned wired (.port 0) .portReset) = .next t :=
  let ⟨_, e, _⟩ := (h.2.2.2.1 0 6 [] (planned wired (.port 0) .portReset) _ rfl).1 ⟨.port 0, 4, 0, .portReset⟩ (by
      decide) (by decide)
  ⟨_, e⟩

theorem witness_ImageActivationCommit_bad (h : Obligations.OtherCommitsTakeEffect) :
    ∃ t, exec (.imageActivationCommit []) (planned wired .image (.activate false)) = .next t :=
  ⟨_, ((h.2.2.1 [] (planned wired .image (.activate false))).1 ⟨.image, 4, 0, .activate false⟩ false (by decide) rfl
      rfl).2
    (fun img e => ImgResult.noConfusion ((show verifyImage (planned wired .image (.activate false)).fuses
      ((planned wired .image (.activate false)).nv.slotOf false).bytes = .bad 1 0 from rfl).symm.trans e))⟩

theorem witness_ModeDrill (h : Obligations.ModeChangesTakeEffect) :
    ∃ t, exec .drillEntry (planned wired .mode (.mode .drill)) = .next t :=
  let ⟨_, _, e, _⟩ := ((h (planned wired .mode (.mode .drill))).1 (by decide) (by decide)).1 ⟨.mode, 4, 0, .mode .drill⟩
      (by decide)
  ⟨_, e⟩

theorem witness_ModeDormant (h : Obligations.ModeChangesTakeEffect) :
    ∃ t, exec .dormantEntry (planned wired .mode (.mode .dormant)) = .next t :=
  let ⟨_, _, e, _⟩ := ((h (planned wired .mode (.mode .dormant))).1 (by decide) (by decide)).2.1 ⟨.mode, 4, 0, .mode
      .dormant⟩ (by decide)
  ⟨_, e⟩

theorem witness_ModeCommission (h : Obligations.ModeChangesTakeEffect) :
    ∃ t, exec .commissionServiceChange (planned wired .mode (.mode .commission)) = .next t :=
  ⟨_, (((h (planned wired .mode (.mode .commission))).1 (by decide) (by decide)).2.2 (by decide)
    ⟨.mode, 4, 0, .mode .commission⟩ (by decide)).2 rfl⟩

theorem witness_ModeService (h : Obligations.ModeChangesTakeEffect) :
    ∃ t, exec .commissionServiceChange (planned { wired with mode := .commission } .mode (.mode .service)) = .next t :=
  ⟨_, (((h (planned { wired with mode := .commission } .mode (.mode .service))).1 (by decide) (by decide)).2.2 (by decide)
    ⟨.mode, 4, 0, .mode .service⟩ (by decide)).1 rfl⟩

theorem witness_ModeBarred (h : Obligations.ModeChangesTakeEffect) :
    ∃ t, exec .dormantEntry (planned { wired with mode := .drill } .mode (.mode .dormant)) = .next t :=
  ⟨_, ((h (planned { wired with mode := .drill } .mode (.mode .dormant))).2.1 (Or.inl rfl)).2.1 ⟨.mode, 4, 0, .mode
      .dormant⟩
    (by decide)⟩

theorem witness_ModeNone (h : Obligations.ModeChangesTakeEffect) :
    ∃ t, exec .drillEntry wired = .next t :=
  ⟨_, (h wired).2.2.2.1 (by decide)⟩

/-! ### Admission, policing, time, links and rest -/

theorem witness_AdmissionKeepsEveryShare (h : Obligations.AdmissionKeepsEveryShare) : wired.ovr.overload = false :=
  (h wired _ 0 .zero rfl (by decide)).1

/-- The context of a P-class stream: Q = 1, Qb = 2, burst allowance 1. -/
def pCtx : Context := { ctx 1 0 1 1 0 0 2 with w4 := at_ 37 100 ||| at_ 29 1 ||| at_ 21 2, w5 := at_ 32 1 }

theorem witness_PolicingDemotes (h : Obligations.PolicingDemotes) :
    (policeP 8 pCtx (pCtx.setPeriodCount false 1) false).2.periodCount false = 2 :=
  (h.1 8 2 pCtx.burstAllow false pCtx (pCtx.setPeriodCount false 1) false (by decide) (by decide) (by decide)
    (by decide)).2.1

theorem witness_PolicingDemotes_window (h : Obligations.PolicingDemotes) :
    (policeP 8 pCtx (pCtx.setPeriodCount false 1) false).2.windowOpen false = true :=
  ((h.1 8 2 pCtx.burstAllow false pCtx (pCtx.setPeriodCount false 1) false (by decide) (by decide) (by decide)
    (by decide)).2.2.1 (by decide)).1

theorem witness_PolicingDemotes_used (h : Obligations.PolicingDemotes) :
    (policeP 8 pCtx (pCtx.setPeriodCount false 1) false).2.burstLeft false = pCtx.burstAllow - 1 :=
  (h.1 8 2 pCtx.burstAllow false pCtx (pCtx.setPeriodCount false 1) false (by decide) (by decide) (by decide)
    (by decide)).2.2.2.1 (by decide) (by decide) (by decide)

theorem witness_PolicingDemotes_within (h : Obligations.PolicingDemotes) :
    (policeP 8 pCtx pCtx false).2.burstLeft false = pCtx.burstLeft false :=
  ((h.1 8 1 pCtx.burstAllow false pCtx pCtx false (by decide) (by decide) (by decide)
    (by decide)).2.2.2.2 (by decide)).1

/-- A stream whose burst window is open and has run out. -/
def bursting : State := { wired with streams := [(0, (ctx 1 0 1 1 0 0 2).setWindowOpen false true)] }

theorem witness_BurstWindowEnd (h : Obligations.PolicingDemotes) :
    ∃ t, exec (.burstWindowEnd 0 false) bursting = .next t :=
  ⟨_, (h.2 0 false bursting).1 (by decide)⟩

theorem witness_BurstWindowEnd_none (h : Obligations.PolicingDemotes) :
    ∃ t, exec (.burstWindowEnd 0 false) wired = .next t :=
  ⟨_, (h.2 0 false wired).2 (Or.inl (by decide))⟩

/-- Tick domains running, not yet aligned. -/
def unaligned : State := { wired with ticks := { wired.ticks with running := true } }

theorem witness_TimeAlign (h : Obligations.TimeAndOverrunRowsAct) :
    ∃ t, exec (.timeAlign 9 5 true false) unaligned = .next t :=
  let ⟨_, e, _⟩ := (h.1 9 5 true false unaligned).1 (by decide) (by decide) (Or.inl rfl)
  ⟨_, e⟩

theorem witness_TimeAlign_no (h : Obligations.TimeAndOverrunRowsAct) :
    ∃ t, exec (.timeAlign 9 5 false false) unaligned = .next t :=
  ⟨_, (h.1 9 5 false false unaligned).2.1 (Or.inr (Or.inr ⟨rfl, rfl⟩))⟩

theorem witness_PlanOverloadSet (h : Obligations.TimeAndOverrunRowsAct) :
    ∃ t, exec .planOverloadSet { wired with ovr := { wired.ovr with run := 8 } } = .next t :=
  ⟨_, (h.2.2 { wired with ovr := { wired.ovr with run := 8 } }).1 (by decide) (by decide)⟩

theorem witness_PlanOverloadSet_no (h : Obligations.TimeAndOverrunRowsAct) :
    ∃ t, exec .planOverloadSet { wired with ovr := { wired.ovr with run := 7 } } = .next t :=
  ⟨_, (h.2.2 { wired with ovr := { wired.ovr with run := 7 } }).2.1 (Or.inl (by decide))⟩

theorem witness_PlanOverloadClear (h : Obligations.TimeAndOverrunRowsAct) :
    ∃ t, exec .planOverloadClear { wired with ovr := { wired.ovr with calm := 96, overload := true } } = .next t :=
  ⟨_, (h.2.2 { wired with ovr := { wired.ovr with calm := 96, overload := true } }).2.2.1 (by decide) (by decide)⟩

theorem witness_PlanOverloadClear_no (h : Obligations.TimeAndOverrunRowsAct) :
    ∃ t, exec .planOverloadClear { wired with ovr := { wired.ovr with calm := 95, overload := true } } = .next t :=
  ⟨_, (h.2.2 { wired with ovr := { wired.ovr with calm := 95, overload := true } }).2.2.2 (Or.inl (by decide))⟩

/-- Port 0 with its link up. -/
def linked : State := { wired with ports := [(0, { PortState.zero with up := true })] }

/-- Port 0 with its link down for want of a signal. -/
def unlinked : State := { wired with ports := [(0, { PortState.zero with conds := [.signal] })] }

theorem witness_LinkDown (h : Obligations.LinkAndPortResetRowsAct) :
    ∃ t, exec (.linkDown 0 .signal true 5 []) linked = .next t :=
  let ⟨_, e, _⟩ := (h.1 0 .signal 5 [] linked (by decide) (by decide)).1
  ⟨_, e⟩

theorem witness_LinkDown_clears (h : Obligations.LinkAndPortResetRowsAct) :
    ∃ t, exec (.linkDown 0 .signal false 5 []) unlinked = .next t :=
  ⟨_, (h.1 0 .signal 5 [] unlinked (by decide) (by decide)).2.1 _ (by decide) rfl⟩

theorem witness_LinkDown_other (h : Obligations.LinkAndPortResetRowsAct) :
    ∃ t, exec (.linkDown 0 .signal false 5 []) linked = .next t :=
  ⟨_, (h.1 0 .signal 5 [] linked (by decide) (by decide)).2.2 (by decide)⟩

theorem witness_LinkUp (h : Obligations.LinkAndPortResetRowsAct) :
    ∃ t, exec (.linkUp 0 10000000 none) wired = .next t :=
  ⟨_, h.2.1 0 10000000 none wired (by decide) (by decide) (by decide) (by decide) (by decide)⟩

theorem witness_PortResetRequest (h : Obligations.LinkAndPortResetRowsAct) :
    ∃ t, exec (.portResetRequest 0 3 []) linked = .next t :=
  let ⟨_, e, _⟩ := (h.2.2 0 3 [] linked).1 (by decide) (by decide) (by decide) (by decide)
  ⟨_, e⟩

theorem witness_PortResetRequest_none (h : Obligations.LinkAndPortResetRowsAct) :
    ∃ t, exec (.portResetRequest 4 3 []) linked = .next t :=
  ⟨_, (h.2.2 4 3 [] linked).2.1 (Or.inr (Or.inr (Or.inl (by decide))))⟩

theorem witness_PortResetComplete (h : Obligations.LinkAndPortResetRowsAct) :
    ∃ t, exec (.portResetComplete 0 10000) { wired with ports := [(0, { PortState.zero with inReset := true })] } =
      .next t :=
  ⟨_, (h.2.2 0 10000 [] { wired with ports := [(0, { PortState.zero with inReset := true })] }).2.2.2 (by decide)
    (by decide) (by decide)⟩

theorem witness_RestEntry (h : Obligations.UnitsAndYarrowRest) :
    ∃ t, exec (.restEntry 0 205) { wired with power := { wired.power with level := 1 } } = .next t :=
  ⟨_, (h.1 0 205 { wired with power := { wired.power with level := 1 } }).1 0 205 (by decide) (by decide) (Or.inr
      (Or.inl (by decide)))
    (by decide) (by decide) (by decide) (Or.inl (by decide))⟩

theorem witness_RestEntry_off (h : Obligations.UnitsAndYarrowRest) :
    ∃ t, exec (.restEntry 11 10000) { wired with power := { wired.power with level := 2, rest := [(11, 1)] } } = .next t
      :=
  ⟨_, (h.1 11 10000 { wired with power := { wired.power with level := 2, rest := [(11, 1)] } }).1 1 10000 (by decide)
    (by decide) (Or.inr (Or.inl (by decide))) (by decide) (by decide) (by decide) (Or.inr (by decide))⟩

/-- Dormant, reached. -/
def asleep : State := { wired with mode := .dormant, power := { wired.power with dormantReached := true } }

theorem witness_YarrowRest (h : Obligations.UnitsAndYarrowRest) :
    ∃ t, exec (.yarrowRest 1000000) asleep = .next t :=
  ⟨_, h.2 1000000 asleep rfl rfl (by decide) (by decide) rfl (by decide) (by decide)⟩

/-! ### Frames sent -/

/-- Stream 0 of class B armed, port 0 up, a key in slot 0. -/
def sending : State :=
  { linked with
    streams := [(0, ctx 1 2 1 0 0 0 2)]
    slots := keyed.slots
    rings := [(0, ring0)] }

/-- A header beat of an 18-byte part of a 20-byte frame. -/
def headBeat : EgressBeat :=
  ⟨0, 18, false, 3, false, List.replicate 18 0, [BitVec.ofNat 64 (at_ 44 2 ||| at_ 29 20).toNat, 0, 0, 0]⟩

theorem witness_HeaderBeat (h : Obligations.EgressBeatsAct) :
    ∃ t, exec (.egressHeaderBeat headBeat) sending = .next t :=
  ⟨_, (((h.1 headBeat sending 0 _ true false _ _ _ (by decide) (by decide) rfl (by decide) (by decide) rfl rfl rfl).1
      (by decide)
    (by decide) (by decide)).1 rfl (by decide) (by decide) (by decide) (by decide)).1 (by decide) (by decide)⟩

/-- Another frame, of the wire bytes w, waits in the egress buffer of the quad. -/
def brimming (w : List Byte) : State :=
  { sending with tx := [{ newTx sending 0 0 0 true none with id := 1, ended := true, wire := w }] }

theorem brim_used (w : List Byte) : egressUsed (brimming w) 0 0 = w.length := by
  unfold egressUsed brimming
  simp only [List.foldl]
  have c : (1 != 0 && TxFrame.inQuad (newTx sending 0 0 0 true none) 0) = true := by decide
  exact ((if_pos c).trans (Nat.zero_add _)).trans (Nat.zero_max _)

theorem brim_full (w : List Byte) (h : w.length = 262144) (x : TxFrame) (i : x.id = 0) (q : x.inQuad 0 = true)
    (b : 0 < x.held) : egressFits (brimming w) x = false := by
  refine Bool.eq_false_iff.mpr fun k => ?_
  have := List.all_eq_true.mp k 0 (by decide)
  rw [q, i, brim_used, h] at this
  simp at this
  omega

theorem witness_HeaderBeat_full (h : Obligations.EgressBeatsAct) :
    ∃ t, exec (.egressHeaderBeat headBeat) (brimming (List.replicate 262144 0)) = .next t :=
  ⟨_, (((h.1 headBeat (brimming (List.replicate 262144 0)) 0 _ true false _ _ _ (by decide) (by decide) rfl rfl (by
      decide) rfl
    rfl rfl).1 rfl rfl (by decide)).1 rfl (by decide) rfl rfl (fun e => absurd e (by decide))).2
  (Or.inr (brim_full _ List.length_replicate _ rfl rfl (by decide)))⟩

theorem witness_HeaderBeat_malformed (h : Obligations.EgressBeatsAct) :
    ∃ t, exec (.egressHeaderBeat { headBeat with desc := [BitVec.ofNat 64 (2 ^ 48), 0, 0, 0] }) sending = .next t :=
  ⟨_, ((h.1 { headBeat with desc := [BitVec.ofNat 64 (2 ^ 48), 0, 0, 0] } sending 0 _ true true _ _ _ (by decide) (by
      decide) rfl
    (by decide) (by decide) rfl rfl rfl).1 (by decide) (by decide) (by decide)).2.2 (Or.inl rfl)⟩

theorem witness_HeaderBeat_refused (h : Obligations.EgressBeatsAct) :
    ∃ t, exec (.egressHeaderBeat { headBeat with domain := 4 }) sending = .next t :=
  ⟨_, ((h.1 { headBeat with domain := 4 } sending 0 _ false false _ _ _ (by decide) (by decide) rfl (by decide) (by
      decide) rfl
    rfl rfl).1 (by decide) (by decide) (by decide)).2.1 0x03 rfl (by decide)⟩

theorem witness_HeaderBeat_notReady (h : Obligations.EgressBeatsAct) :
    ∃ t, exec (.egressHeaderBeat headBeat) { sending with eReady := false } = .next t :=
  ⟨_, (h.1 headBeat { sending with eReady := false } 0 _ true false _ _ _ (by decide) (by decide) rfl (by decide) (by
      decide) rfl
    rfl rfl).2.2 rfl⟩

theorem witness_HeaderBeat_over (h : Obligations.EgressBeatsAct) :
    ∃ t, exec (.egressHeaderBeat { headBeat with bytes := 33, data := List.replicate 32 0 }) sending = .next t :=
  ⟨_, (h.1 { headBeat with bytes := 33, data := List.replicate 32 0 } sending 0 _ true false _ _ _ (by decide) (by
      decide) rfl
    (by decide) (by decide) rfl rfl rfl).2.1 _ _ (by decide) (by decide) (by decide) rfl rfl⟩

/-- An offered frame of stream 0, its header supplied, and a state that holds it. -/
def frame0 : TxFrame :=
  { newTx sending 0 (at_ 29 20) 0 true none with bytes := List.replicate 18 0, judged := true, cls := 2 }

def offered (x : TxFrame) : State := { sending with tx := [x], nextFrame := 1 }

theorem witness_DataBeat (h : Obligations.EgressBeatsAct) :
    ∃ t, exec (.egressDataBeat ⟨0, 1, false, 3, false, [0], []⟩) (offered frame0) = .next t :=
  ⟨_, (((h.2 ⟨0, 1, false, 3, false, [0], []⟩ (offered frame0) 0 (by decide) (by decide)).2.2 (by decide) (by decide)).1
      frame0
    _ (by decide) rfl (by decide) (by decide)).1 (by decide)⟩

theorem witness_DataBeat_notReady (h : Obligations.EgressBeatsAct) :
    ∃ t, exec (.egressDataBeat ⟨0, 1, false, 3, false, [0], []⟩) { sending with eReady := false } = .next t :=
  ⟨_, (h.2 ⟨0, 1, false, 3, false, [0], []⟩ { sending with eReady := false } 0 (by decide) (by decide)).1 rfl⟩

theorem witness_DataBeat_skipped (h : Obligations.EgressBeatsAct) :
    ∃ t, exec (.egressDataBeat ⟨0, 1, false, 3, false, [0], []⟩) { sending with egSkip := [0] } = .next t :=
  ⟨_, (h.2 ⟨0, 1, false, 3, false, [0], []⟩ { sending with egSkip := [0] } 0 (by decide) (by decide)).2.1 rfl (by decide)⟩

theorem witness_DataBeat_last (h : Obligations.EgressBeatsAct) :
    ∃ t, exec (.egressDataBeat ⟨0, 2, true, 3, false, [0, 1], []⟩) (offered frame0) = .next t :=
  ⟨_, (((h.2 ⟨0, 2, true, 3, false, [0, 1], []⟩ (offered frame0) 0 (by decide) (by decide)).2.2 (by decide) (by
      decide)).1 frame0
    _ (by decide) rfl (by decide) (by decide)).1 (by decide)⟩

theorem witness_DataBeat_bad (h : Obligations.EgressBeatsAct) :
    ∃ t, exec (.egressDataBeat ⟨0, 0, false, 3, false, [], []⟩) (offered frame0) = .next t :=
  ⟨_, ((h.2 ⟨0, 0, false, 3, false, [], []⟩ (offered frame0) 0 (by decide) (by decide)).2.2 (by decide) (by decide)).2.1
      frame0
    (by decide) (Or.inl (by decide))⟩

theorem brim_full2 (w : List Byte) (h : w.length = 262144) (x y : TxFrame) (i : x.id = 0) (q : x.inQuad 0 = true)
    (b : 0 < x.held) (k : y.id = 0) :
    egressFits { brimming w with tx := y :: (brimming w).tx } x = false := by
  refine Bool.eq_false_iff.mpr fun e => ?_
  have e := List.all_eq_true.mp e 0 (by decide)
  have u : egressUsed { brimming w with tx := y :: (brimming w).tx } 0 0 = w.length := by
    have z := brim_used w
    unfold egressUsed at z ⊢
    simp only [List.foldl_cons, k]
    exact z
  rw [q, i, u, h] at e
  simp at e
  omega

theorem witness_DataBeat_full (h : Obligations.EgressBeatsAct) :
    ∃ t, exec (.egressDataBeat ⟨0, 1, false, 3, false, [0], []⟩)
      { brimming (List.replicate 262144 0) with tx := { frame0 with bytes := [] } :: (brimming (List.replicate 262144 0)).tx } = .next t :=
  ⟨_, (((h.2 ⟨0, 1, false, 3, false, [0], []⟩ { brimming (List.replicate 262144 0) with
      tx := { frame0 with bytes := [] } :: (brimming (List.replicate 262144 0)).tx } 0 (by decide) (by decide)).2.2 rfl
    rfl).1 { frame0 with bytes := [] } _ rfl rfl (by decide) (by decide)).2
  (brim_full2 _ List.length_replicate _ _ rfl rfl (by decide) rfl)⟩

theorem witness_DataBeat_orphan (h : Obligations.EgressBeatsAct) :
    ∃ t, exec (.egressDataBeat ⟨0, 1, false, 3, false, [0], []⟩) sending = .next t :=
  ⟨_, ((h.2 ⟨0, 1, false, 3, false, [0], []⟩ sending 0 (by decide) (by decide)).2.2 (by decide) (by decide)).2.2 (by
      decide)⟩

/-- A ring with one posted descriptor and no room yet. -/
def posting : State := { sending with rings := [(0, { ring0 with tail := 1, fetch := 0 })] }

/-- A Slot descriptor of ring 0. -/
def slot0 : List Container := [BitVec.ofNat 64 (at_ 44 1).toNat, 0, 0, 0]

/-- A transmit descriptor of 20 bytes from 0x110000. -/
def desc0 : List Container := [BitVec.ofNat 64 (at_ 44 2 ||| at_ 29 20).toNat, 0x110000, 0, 0]

theorem witness_DescriptorFetch_empty (h : Obligations.DescriptorsFetched) :
    ∃ t, exec (.descriptorFetch 0 slot0 [] true) posting = .next t :=
  ⟨_, ((h.1 0 slot0 [] true posting _ _ _ none rfl rfl rfl (by decide) (Or.inl (by decide)) (by decide) (by decide)
    (by decide) (by decide)).1 _ (by decide) (by decide) rfl rfl).1⟩

theorem witness_DescriptorFetch_malformed (h : Obligations.DescriptorsFetched) :
    ∃ t, exec (.descriptorFetch 0 [1, 0, 0, 0] [] true) posting = .next t :=
  ⟨_, ((h.1 0 [1, 0, 0, 0] [] true posting _ _ _ none rfl rfl rfl (by decide) (Or.inl (by decide)) (by decide) (by decide)
    (by decide) (by decide)).2.1 _ (Or.inr (by decide)) (by decide) (by decide) rfl (by decide) rfl).1 (by decide)⟩

theorem witness_DescriptorFetch_taken (h : Obligations.DescriptorsFetched) :
    ∃ t, exec (.descriptorFetch 0 desc0 (List.replicate 20 0) true) posting = .next t :=
  ⟨_, ((h.1 0 desc0 (List.replicate 20 0) true posting _ _ _ none rfl rfl rfl (by decide) (Or.inl (by decide)) (by decide)
    (by decide) (by decide) (by decide)).2.1 _ (Or.inr (by decide)) (by decide) (by decide) rfl (by decide) rfl).2.1
  (by decide) (by decide)⟩

/-- The same ring, its stream Retiring. -/
def leaving : State := { posting with streams := [(0, ctx 1 2 1 0 0 0 3)] }

theorem witness_DescriptorFetch_retired (h : Obligations.DescriptorsFetched) :
    ∃ t, exec (.descriptorFetch 0 desc0 (List.replicate 20 0) true) leaving = .next t :=
  ⟨_, ((h.1 0 desc0 (List.replicate 20 0) true leaving _ _ _ none rfl rfl rfl (by decide) (Or.inr (by decide)) (by decide)
    (by decide) (by decide) (by decide)).2.1 _ (Or.inr (by decide)) (by decide) (by decide) rfl (by decide) rfl).2.2
  (by decide) (by decide)⟩

/-- The refusal of the ring's first entry before an image is active. -/
def noImage : GateFault := ⟨0x100040, 0, 8, 2, false, none, 3, some 0⟩

/-- The same ring, without an active image. -/
def barred : State := { posting with active := none }

theorem witness_DescriptorFetch_stopped (h : Obligations.DescriptorsFetched) :
    ∃ t, exec (.descriptorFetch 0 slot0 [] true) barred = .next t :=
  ⟨_, (h.1 0 slot0 [] true barred _ _ _ (some noImage) rfl rfl rfl (by decide) (Or.inl (by decide)) (by decide) (by
      decide)
    (by decide) rfl).2.2 noImage rfl (by decide) (by decide)⟩

/-- A SEAL record of 64 bytes of stream 0. -/
def job0 : RecordJob :=
  ⟨0, 0, false, ctx 6 2 6 0 0 0 2, 0, [at_ 44 3 ||| at_ 0 64, 0x110000, 0x120000, 0], false, 1, ⟨0, 0, 0, 0⟩, [], 64, 0,
   [], [], [], [], true⟩

theorem witness_RecordStart (h : Obligations.DescriptorsFetched) :
    ∃ t, exec .recordStart { sending with jobs := [job0] } = .next t :=
  ⟨_, h.2 job0 { sending with jobs := [job0] } (by decide) (by decide)⟩

theorem witness_SealSliceEntry (h : Obligations.FrameEntersSealSlice) :
    ∃ t, exec (.sealSliceEntry 0 2 false false) (offered frame0) = .next t :=
  let ⟨_, _, e, _⟩ := (h 0 2 false false (offered frame0) _ frame0 _ 0 _ _ (by decide) (by decide) (by decide) (by
      decide) (by decide)
    (by decide) rfl rfl rfl rfl).1 ⟨5, 0⟩ (by decide) (Or.inr (by decide)) (by decide)
  ⟨_, e⟩

/-- Slot 0 at its use limit. -/
def atLimit : State :=
  { offered frame0 with slots := [(0, ⟨5, 0, attrWord 1 false (some 3) 127 2 0 noParent, 8, 8, none⟩)] }

theorem witness_SealSliceEntry_atLimit (h : Obligations.FrameEntersSealSlice) :
    ∃ t, exec (.sealSliceEntry 0 2 false false) atLimit = .next t :=
  let ⟨_, e, _⟩ := (h 0 2 false false atLimit _ frame0 _ 0 _ _ (by decide) (by decide) (by decide) (by decide) (by decide)
    (by decide) rfl rfl rfl rfl).2 (Or.inr (Or.inl (by decide)))
  ⟨_, e⟩

theorem witness_SealSliceEntry_refused (h : Obligations.FrameEntersSealSlice) :
    ∃ t, exec (.sealSliceEntry 0 2 false false) { offered frame0 with slots := [] } = .next t :=
  let ⟨_, e, _⟩ := (h 0 2 false false { offered frame0 with slots := [] } _ frame0 _ 0 _ _ (by decide) (by decide) (by
      decide) (by decide) (by decide)
    (by decide) rfl rfl rfl rfl).2 (Or.inr (Or.inr (by decide)))
  ⟨_, e⟩

/-- The stream has given its last transmit count. -/
def spentCount : State :=
  { offered frame0 with streams := [(0, { ctx 1 2 1 0 0 0 2 with w27 := setBit 0 14 true })] }

theorem witness_SealSliceEntry_spent (h : Obligations.FrameEntersSealSlice) :
    ∃ t, exec (.sealSliceEntry 0 2 false false) spentCount = .next t :=
  let ⟨_, e, _⟩ := (h 0 2 false false spentCount _ frame0 _ 0 _ _ (by decide) (by decide) (by decide) (by decide) (by
      decide)
    (by decide) rfl rfl rfl rfl).2 (Or.inl (by decide))
  ⟨_, e⟩

/-- The frame sealed under key 5, all of it supplied. -/
def sealed0 : TxFrame :=
  { frame0 with bytes := List.replicate 20 0, ended := true, stage := .sealed, key := ⟨5, 0⟩, count := some 1 }

/-- The stream's version with echo, and under suite 5. -/
def withEcho : Context := { sealed0.ctx with w0 := setBit sealed0.ctx.w0 32 true }
def withDigest : Context := { sealed0.ctx with w0 := setFld sealed0.ctx.w0 44 4 3, w6 := setFld sealed0.ctx.w6 44 4 5 }

theorem witness_SupplyCheck_short (h : Obligations.SealedFramesLeaveTheSlice) :
    ∃ t, exec (.sealSupplyCheck 0) (offered { sealed0 with bytes := List.replicate 19 0, ctx := withEcho }) = .next t :=
  ⟨_, ((h.1 0 (offered { sealed0 with bytes := List.replicate 19 0, ctx := withEcho })
    { sealed0 with bytes := List.replicate 19 0, ctx := withEcho } (by decide) (Or.inl (by decide)) (by decide) (by
      decide)
    (by decide) (by decide)).1 _ _ (Or.inl (by decide)) rfl rfl).1 (Or.inl (by decide))⟩

theorem witness_SupplyCheck_shortWire (h : Obligations.SealedFramesLeaveTheSlice) :
    ∃ t, exec (.sealSupplyCheck 0) (offered { sealed0 with bytes := List.replicate 19 0 }) = .next t :=
  ⟨_, ((h.1 0 (offered { sealed0 with bytes := List.replicate 19 0 }) { sealed0 with bytes := List.replicate 19 0 } (by
      decide)
    (Or.inl (by decide)) (by decide) (by decide) (by decide) (by decide)).1 _ _ (Or.inl (by decide)) rfl rfl).2 (by
      decide)
  (by decide)⟩

theorem witness_SupplyCheck (h : Obligations.SealedFramesLeaveTheSlice) :
    ∃ t, exec (.sealSupplyCheck 0) (offered sealed0) = .next t :=
  ⟨_, ((h.1 0 (offered sealed0) sealed0 (by decide) (Or.inl (by decide)) (by decide) (by decide) (by decide) (by
      decide)).2 _ _ _
    (by decide) (by decide) rfl rfl rfl).2.2 (by decide) (by decide)⟩

theorem witness_SupplyCheck_echo (h : Obligations.SealedFramesLeaveTheSlice) :
    ∃ t, exec (.sealSupplyCheck 0) (offered { sealed0 with ctx := withEcho }) = .next t :=
  ⟨_, ((h.1 0 (offered { sealed0 with ctx := withEcho }) { sealed0 with ctx := withEcho } (by decide) (Or.inl (by decide))
    (by decide) (by decide) (by decide) (by decide)).2 _ _ _ (by decide) (by decide) rfl rfl rfl).2.1 (by decide) (by
      decide)⟩

theorem witness_SupplyCheck_digest (h : Obligations.SealedFramesLeaveTheSlice) :
    ∃ t, exec (.sealSupplyCheck 0) (offered { sealed0 with ctx := withDigest }) = .next t :=
  ⟨_, ((h.1 0 (offered { sealed0 with ctx := withDigest }) { sealed0 with ctx := withDigest } (by decide) (Or.inl (by
      decide))
    (by decide) (by decide) (by decide) (by decide)).2 _ _ _ (by decide) (by decide) rfl rfl rfl).1 (by decide)⟩

/-- The digest engine's answer. -/
def digest0 (match_ : Bool) : DigestResult := ⟨match_, false, false, List.replicate 32 0⟩

theorem witness_DigestSealResult (h : Obligations.SealedFramesLeaveTheSlice) :
    ∃ t, exec (.digestSealResult 0 (digest0 true)) (offered { sealed0 with stage := .digestWait }) = .next t :=
  ⟨_, ((h.2.1 0 (digest0 true) (offered { sealed0 with stage := .digestWait }) { sealed0 with stage := .digestWait } (by
      decide)
    (by decide) (by decide)).1 (by decide) (by decide) (by decide)).1 (by decide)⟩

theorem witness_DigestSealResult_echo (h : Obligations.SealedFramesLeaveTheSlice) :
    ∃ t, exec (.digestSealResult 0 (digest0 true)) (offered { sealed0 with stage := .digestWait, ctx := withEcho }) =
      .next t :=
  ⟨_, ((h.2.1 0 (digest0 true) (offered { sealed0 with stage := .digestWait, ctx := withEcho })
    { sealed0 with stage := .digestWait, ctx := withEcho } (by decide) (by decide) (by decide)).1 (by decide) (by decide)
    (by decide)).2 (by decide)⟩

/-- The sealed frame waits for its echo. -/
def unheard : TxFrame := { sealed0 with stage := .echoWait, ctx := withEcho, wire := List.replicate 60 0 }

theorem witness_SealEcho_unfetched (h : Obligations.SealedFramesLeaveTheSlice) :
    ∃ t, exec (.sealEcho 0 0 [] false) { offered unheard with slots := [] } = .next t :=
  ⟨_, (h.2.2 0 0 [] false { offered unheard with slots := [] } _ unheard _ (by decide) (by decide) (by decide) rfl
    (by decide)).2 (by decide)⟩

/-- A frame ready at the MAC. -/
def ready0 : TxFrame := { sealed0 with stage := .ready, wire := List.replicate 60 0 }

theorem witness_FrameStart (h : Obligations.FramesLeaveThePort) :
    ∃ t, exec (.frameStart 0) (offered ready0) = .next t :=
  ⟨_, (h.1 0 (offered ready0) ready0 (by decide) (by decide) (by decide) (by decide) (by decide)).2 (by decide)⟩

theorem witness_FrameStart_second (h : Obligations.FramesLeaveThePort) :
    ∃ t, exec (.frameStart 0) (offered { ready0 with stage := .onWire }) = .next t :=
  ⟨_, (h.1 0 (offered { ready0 with stage := .onWire }) { ready0 with stage := .onWire } (by decide) (by decide) (by
      decide)
    (by decide) (by decide)).1 (by decide)⟩

theorem witness_TransmitComplete (h : Obligations.FramesLeaveThePort) :
    ∃ t, exec (.transmitComplete 0 0 9 5) (offered { ready0 with stage := .onWire, onPorts := 1, ports := 0 }) = .next t
      :=
  let ⟨_, e, _⟩ := h.2 0 0 9 5 false (offered { ready0 with stage := .onWire, onPorts := 1, ports := 0 }) _ _
    { ready0 with stage := .onWire, onPorts := 1, ports := 0 } _ (by decide) (by decide) (by decide) (by decide)
    rfl (by decide) rfl rfl
  ⟨_, e⟩

/-! ### Frames received -/

/-- Port 0 up; SECY_RX stream 0 armed under slot 0, with CLEAR stream 1 beside it. -/
def listening : State :=
  { linked with
    slots := keyed.slots
    streams := [(0, ctx 2 2 1 0 0 0 2), (1, { ctx 8 2 0 0 0 1 2 with w3 := at_ 32 0x0800 })] }

/-- A broadcast frame with these bytes from its EtherType on. -/
def wireIn (bs : List Byte) : RxIn := ⟨0, List.replicate 6 255 ++ List.replicate 6 0 ++ bs, true, false, 0, 0⟩

/-- A MACsec frame under SCI 0 with PN 1, and one under SCI 1. -/
def macIn : RxIn := wireIn ([0x88, 0xE5, 0x2C, 0, 0, 0, 0, 1] ++ List.replicate 72 0)
def strayIn : RxIn := wireIn ([0x88, 0xE5, 0x2C, 0, 0, 0, 0, 1] ++ List.replicate 7 0 ++ [1] ++ List.replicate 64 0)
def ptpIn : RxIn := wireIn ([0x88, 0xF7] ++ List.replicate 46 0)
def clearIn : RxIn := wireIn ([0x08, 0x00] ++ List.replicate 46 0)

theorem witness_Classify_notReceiving (h : Obligations.FramesClassified) :
    ∃ t, exec (.frameClassify macIn) svc = .next t :=
  ⟨_, (h macIn svc 0 rfl).1 (by decide)⟩

theorem witness_Classify_ptp (h : Obligations.FramesClassified) :
    ∃ t, exec (.frameClassify ptpIn) listening = .next t :=
  let ⟨_, _, e, _⟩ := ((h ptpIn listening 0 rfl).2 (by decide) rfl rfl (by decide) (by decide) (by decide)).1 (by decide)
  ⟨_, e⟩

theorem witness_Classify_macsec (h : Obligations.FramesClassified) :
    ∃ t, exec (.frameClassify macIn) listening = .next t :=
  let ⟨_, _, e, _⟩ := (((h macIn listening 0 rfl).2 (by decide) rfl rfl (by decide) (by decide) (by decide)).2 (by
      decide)).1 _
    (Or.inl ⟨by decide, by decide, rfl⟩) |>.1 0 _ rfl (Or.inr ⟨by decide, Or.inr (by decide)⟩)
  ⟨_, e⟩

theorem witness_Classify_stray (h : Obligations.FramesClassified) :
    ∃ t, exec (.frameClassify strayIn) listening = .next t :=
  let ⟨_, e, _⟩ := (((h strayIn listening 0 rfl).2 (by decide) rfl rfl (by decide) (by decide) (by decide)).2 (by
      decide)).1 _
    (Or.inl ⟨by decide, by decide, rfl⟩) |>.2 (by decide)
  ⟨_, e⟩

/-- A frame that fits a standalone disclosure's EtherType, and one of a stream only Created. -/
def aloneIn : RxIn := wireIn ([0x88, 0xB5] ++ List.replicate 60 0)

theorem witness_Classify_standalone (h : Obligations.FramesClassified) :
    ∃ t, exec (.frameClassify aloneIn) listening = .next t :=
  let ⟨_, _, e, _⟩ := (((h aloneIn listening 0 rfl).2 (by decide) rfl rfl (by decide) (by decide) (by decide)).2 (by
      decide)).2.1 _ _
    (List.mem_cons_self) rfl
  ⟨_, e⟩

/-- The same port with stream 0 only Created. -/
def unarmed : State := { listening with streams := [(0, ctx 2 2 1 0 0 0 1)] }

theorem witness_Classify_created (h : Obligations.FramesClassified) :
    ∃ t, exec (.frameClassify macIn) unarmed = .next t :=
  let ⟨_, _, e, _⟩ := (((h macIn unarmed 0 rfl).2 (by decide) rfl rfl (by decide) (by decide) (by decide)).2 (by
      decide)).1 _
    (Or.inl ⟨by decide, by decide, rfl⟩) |>.1 0 _ rfl (Or.inl (by decide))
  ⟨_, e⟩

theorem witness_Classify_clear (h : Obligations.FramesClassified) :
    ∃ t, exec (.frameClassify clearIn) listening = .next t :=
  let ⟨_, _, e, _⟩ := (((h clearIn listening 0 rfl).2 (by decide) rfl rfl (by decide) (by decide) (by decide)).2 (by
      decide)).2.2 1 _ (by decide)
    rfl (by decide) (by decide)
  ⟨_, e⟩

/-- A received frame of a kind, in a state that holds it. -/
def got (kind : RxKind) (r : RxIn) : RxFrame := rxNew listening kind r r.bytes none 0 (listening.stream 0)
def holding (x : RxFrame) : State := { listening with rx := [x], nextFrame := 1 }

theorem witness_V0_pass (h : Obligations.V0Decides) :
    ∃ t, exec (.v0Check 0 0 false true 0) (holding (got .protected_ macIn)) = .next t :=
  let ⟨_, _, e, _⟩ := ((h 0 0 false true 0 (holding (got .protected_ macIn)) _ (got .protected_ macIn) rfl rfl rfl
      rfl).2 (by decide)).1
    (listening.stream 0).cur 1 ⟨5, 0⟩ (by decide) (by decide) (by decide) (fun e => absurd e (by decide)) (by decide)
    (by decide)
  ⟨_, e⟩

/-- An older frame of its class waits too. -/
def queued : State :=
  { holding (got .protected_ macIn) with
    rx := [got .protected_ macIn, { got .protected_ macIn with id := 1 }] }

theorem witness_V0_waits (h : Obligations.V0Decides) :
    ∃ t, exec (.v0Check 1 0 false true 0) queued = .next t :=
  ⟨_, ((h 1 0 false true 0 queued _ { got .protected_ macIn with id := 1 } rfl rfl rfl rfl).2 (by decide)).2.1
    (listening.stream 0).cur 1 (by decide) (by decide)⟩

theorem witness_V0_unseen (h : Obligations.V0Decides) :
    ∃ t, exec (.v0Check 0 0 false true 0) (holding { got .protected_ macIn with aborted := true }) = .next t :=
  ⟨_, (h 0 0 false true 0 (holding { got .protected_ macIn with aborted := true }) _
      { got .protected_ macIn with aborted := true }
    rfl rfl rfl rfl).1 rfl (Or.inl rfl)⟩

/-- The same frame without its last 80 bytes, and with PN 0 behind a replay state of 5. -/
def shortIn : RxIn := { macIn with bytes := macIn.bytes.take 28 }

theorem witness_V0_malformed (h : Obligations.V0Decides) :
    ∃ t, exec (.v0Check 0 0 false true 0) (holding (got .protected_ shortIn)) = .next t :=
  let ⟨_, e, _⟩ := ((h 0 0 false true 0 (holding (got .protected_ shortIn)) _ (got .protected_ shortIn) rfl rfl rfl
      rfl).2 (by decide)).2.2 (by
      have e : v0Checks ((holding (got .protected_ shortIn)).atTime 0) (got .protected_ shortIn) = .malformed := by decide
      intro g pn; rw [e]; intro h; cases h)
  ⟨_, e⟩

/-- Replay protection in force, PN 1 accepted. -/
def guarded : Context := { listening.stream 0 with w6 := at_ 44 1 ||| at_ 40 1, w26 := 1 }
def replayed : RxFrame := { got .protected_ macIn with ctx := guarded }
def guarding (x : RxFrame) : State := { holding x with streams := [(0, guarded)] }

theorem witness_V0_replay (h : Obligations.V0Decides) :
    ∃ t, exec (.v0Check 0 0 false true 0) (guarding replayed) = .next t ∧ fld (t.stream 0).w29 0 16 = 1 := by
  have e : v0Checks ((guarding replayed).atTime 0) replayed = .replay false 1 := by decide
  obtain ⟨t, e1, _, _, _, _, _, _, _, _, k⟩ := ((h 0 0 false true 0 (guarding replayed) _ replayed rfl rfl
    rfl rfl).2 (by decide)).2.2 (by intro g pn; rw [e]; intro h; cases h)
  exact ⟨t, e1, (k false 1 e).trans (by decide)⟩

/-- A frame that passed V0, with 48 bytes of plaintext of which none is placed, and with all placed. -/
def passed : RxFrame :=
  { got .protected_ macIn with v0 := true, plain := List.replicate 60 0, tagOk := true, v0Placed := true }
def shown : RxFrame := { passed with placed := 1 }

theorem witness_Plaintext (h : Obligations.PlaintextThenVerdict) :
    ∃ t, exec (.plaintextBeat 0) (holding passed) = .next t :=
  let ⟨_, _, e, _⟩ := (h 0 (holding passed) passed rfl rfl rfl).1 (by decide) (by decide)
  ⟨_, e⟩

theorem witness_V1_ok (h : Obligations.PlaintextThenVerdict) :
    ∃ t, exec (.v1Verdict 0 0) (holding shown) = .next t :=
  let ⟨_, e, _⟩ := ((h 0 (holding shown) shown rfl rfl rfl).2 0 _ rfl (by decide)).1 0 _ rfl (Or.inr (by decide)) rfl
  ⟨_, e⟩

theorem witness_V1_early (h : Obligations.PlaintextThenVerdict) :
    ∃ t, exec (.v1Verdict 0 0) (holding { shown with aborted := true }) = .next t :=
  let ⟨_, e, _⟩ := ((h 0 (holding { shown with aborted := true }) { shown with aborted := true } rfl rfl rfl).2 0 _ rfl
      (by decide)).1 5 _ rfl
    (Or.inl (by decide)) rfl
  ⟨_, e⟩

/-- A frame of suite 5 that is ready for its V1 word. -/
def hashed : RxFrame := { shown with ctx := { shown.ctx with w0 := setFld shown.ctx.w0 44 4 4, w6 := at_ 44 5 } }

theorem witness_V1_digest (h : Obligations.PlaintextThenVerdict) :
    ∃ t, exec (.v1Verdict 0 0) (holding hashed) = .next t :=
  let ⟨_, e, _⟩ := ((h 0 (holding hashed) hashed rfl rfl rfl).2 0 _ rfl (by decide)).2.1 rfl (by decide) (by decide)
  ⟨_, e⟩

/-- The same with the digest engine at work. -/
def hashing : RxFrame := { hashed with digest := some (false, false) }

theorem witness_V1_digestResult (h : Obligations.PlaintextThenVerdict) :
    ∃ t, exec (.digestOpenResult 0 (digest0 false) 0) (holding hashing) = .next t :=
  let ⟨_, e, _⟩ := ((h 0 (holding hashing) hashing rfl rfl rfl).2 0 _ rfl (by decide)).2.2 (digest0 false) 10 _ (by
      decide) (by decide)
    (by decide) rfl
  ⟨_, e⟩

/-- A CLEAR frame, and one that is a copy on a PRP pair of ports 0 and 1. -/
def plainRx : RxFrame := { got .clear clearIn with handle := 1, ctx := listening.stream 1 }
def copyRx : RxFrame := { plainRx with key := some (7, 3) }
def copied : State := { holding copyRx with pairs := [(0, { PairState.zero with dup := [⟨7, 3, 1, 0⟩] })] }

theorem witness_Clear (h : Obligations.OtherFramesLeave) :
    ∃ t, exec (.clearFrameDelivery 0 0) (holding plainRx) = .next t :=
  let ⟨_, _, e, _⟩ := (h.1 0 0 (holding plainRx) plainRx rfl rfl (by decide)).1 (by decide) rfl rfl (by decide)
  ⟨_, e⟩

theorem witness_Clear_copy (h : Obligations.OtherFramesLeave) :
    ∃ t, exec (.clearFrameDelivery 0 0) copied = .next t :=
  ⟨_, (h.1 0 0 copied copyRx rfl rfl (by decide)).2 (by decide)⟩

theorem witness_Bypass (h : Obligations.OtherFramesLeave) :
    ∃ t, exec (.ptpBypass 0) (holding (got .ptp ptpIn)) = .next t :=
  let ⟨_, _, e, _⟩ := h.2.1 0 (holding (got .ptp ptpIn)) (got .ptp ptpIn) rfl rfl rfl (by decide)
  ⟨_, e⟩

/-- Ports 0 and 1 of an HSR pair. -/
def ringImg : ImgCfg := { listening.img with pairs := [2, 0, 0, 0, 0, 0, 0, 0] }
def hsrRx : RxFrame := { got .hsr clearIn with key := some (7, 3) }
def hsrOf (up1 : Bool) : State :=
  { holding hsrRx with
    img := ringImg
    ports := [(0, { PortState.zero with up := true }), (1, { PortState.zero with up := up1 })] }

theorem witness_HsrForward (h : Obligations.OtherFramesLeave) :
    ∃ t, exec (.hsrForward 0 0) (hsrOf true) = .next t :=
  let ⟨_, _, e, _⟩ := (h.2.2.1 0 0 (hsrOf true) hsrRx 0 1 2 7 3 1 rfl rfl (by decide) rfl rfl).1 (by decide)
  ⟨_, e⟩

theorem witness_HsrForward_down (h : Obligations.OtherFramesLeave) :
    ∃ t, exec (.hsrForward 0 0) (hsrOf false) = .next t :=
  ⟨_, (h.2.2.1 0 0 (hsrOf false) hsrRx 0 1 2 7 3 1 rfl rfl (by decide) rfl rfl).2 (by decide)⟩

theorem witness_DupForget (h : Obligations.OtherFramesLeave) :
    ∃ t, exec (.duplicateEntryForget 0 5) listening = .next t :=
  ⟨_, (h.2.2.2.1 0 5 0 listening _ rfl (by decide)).1⟩

theorem witness_FwdForget (h : Obligations.OtherFramesLeave) :
    ∃ t, exec (.hsrForwardEntryForget 0 5) listening = .next t :=
  ⟨_, (h.2.2.2.1 0 5 0 listening _ rfl (by decide)).2⟩

theorem witness_BeatTaken (h : Obligations.OtherFramesLeave) :
    ∃ t, exec .ingressBeatTaken listening = .next t :=
  ⟨_, h.2.2.2.2 listening⟩

/-! ### A snapshot of a stream with a frame in the block (R20) -/

/-- STREAM_SNAPSHOT of stream 0 for plan tick 1, waiting for its boundary. -/
def snapCmd : Cmd := { cmd 0x16 16 0 false [1, 0] with phase := .snapshot 0 1 }
def snapped (x : RxFrame) : State := { holding x with cmds := [snapCmd], nextCmd := 1 }

theorem witness_Snapshot_kept (h : Obligations.BoundaryOrder) :
    (⟨0, 0, 1, 1, listening.stream 0⟩ : Shot) ∈ ((snapped shown).streamSnapshots 1).shots :=
  ((h.2 1 1 snapCmd 0 (snapped shown) (by decide) rfl (by decide) (by decide)).2 (by decide)).2

theorem witness_Snapshot_answered (h : Obligations.BoundaryOrder) :
    { snapCmd with phase := .answered (answerWords 0 0 1 (((listening.stream 0).words).drop 24)) } ∈
      (({ snapped shown with rx := [] } : State).streamSnapshots 1).cmds :=
  (h.2 1 1 snapCmd 0 { snapped shown with rx := [] } (by decide) rfl (by decide) (by decide)).1 (by decide)

/-- No answer while the frame waits for its V1 word; after it, w30 of the snapshot counts the frame. -/
theorem test_snapshot_includes_frame :
    answerOf ((snapped shown).streamSnapshots 1) { snapCmd with phase := .settling } = none ∧
    ((answerOf (((snapped shown).streamSnapshots 1).giveV1 shown 0) { snapCmd with phase := .settling }).map
      (fun ws => ws.getD 8 0)) = some 1 := by decide
/-! ### Notices, holds and publisher chains -/

/-- An entry of the notice limiter that has counted n. -/
def entry0 (n : Nat) : NoticeEntry := ⟨9, 4, n, 0, 0, 0, 0, 0, 0, [], none⟩

def noticing (v : PortState) : State := { listening with ports := [(0, v)] }

theorem witness_NoticeToken_idle (h : Obligations.NoticesAct) :
    ∃ t, exec (.noticeToken 0 60000000000) (noticing { PortState.zero with tokens := 1 }) = .next t :=
  ⟨_, (h.1 0 60000000000 0 (noticing { PortState.zero with tokens := 1 }) _ (by decide) rfl (by decide) (by decide)).1
      rfl⟩

theorem witness_NoticeToken_early (h : Obligations.NoticesAct) :
    ∃ t, exec (.noticeToken 0 5) (noticing { PortState.zero with tokens := 1 }) = .next t :=
  ⟨_, h.2.1 0 5 (noticing { PortState.zero with tokens := 1 }) _ rfl (Or.inr (by decide))⟩

theorem witness_NoticeToken (h : Obligations.NoticesAct) :
    ∃ t, exec (.noticeToken 0 60000000000) (noticing { PortState.zero with tokens := 1, waits := [⟨entry0 1, false⟩] })
      = .next t :=
  let ⟨_, e, _⟩ := (h.1 0 60000000000 0 (noticing { PortState.zero with tokens := 1, waits := [⟨entry0 1, false⟩] }) _
      (by decide) rfl
    (by decide) (by decide)).2 _ _ rfl
  ⟨_, e⟩

theorem witness_NoticeInterval_free (h : Obligations.NoticesAct) :
    ∃ t, exec (.noticeIntervalEnd 0 9 4 7) (noticing { PortState.zero with notices := [(3, entry0 0)] }) = .next t :=
  ⟨_, (h.2.2.1 0 9 4 7 0 3 (noticing { PortState.zero with notices := [(3, entry0 0)] }) _ (by decide) rfl).2.1 (by
      decide) rfl⟩

theorem witness_NoticeInterval_summary (h : Obligations.NoticesAct) :
    ∃ t, exec (.noticeIntervalEnd 0 9 4 7) (noticing { PortState.zero with notices := [(3, entry0 2)] }) = .next t :=
  let ⟨_, e, _⟩ := (h.2.2.1 0 9 4 7 0 3 (noticing { PortState.zero with notices := [(3, entry0 2)] }) _ (by decide)
      rfl).2.2 (by decide)
    (by decide)
  ⟨_, e⟩

theorem witness_NoticeInterval_early (h : Obligations.NoticesAct) :
    ∃ t, exec (.noticeIntervalEnd 0 9 4 7) (noticing
      { PortState.zero with notices := [(3, { entry0 2 with endAt := 8 })] }) = .next t :=
  ⟨_, (h.2.2.1 0 9 4 7 0 3 (noticing { PortState.zero with notices := [(3, { entry0 2 with endAt := 8 })] }) _ (by decide)
    rfl).1 (by decide)⟩

/-- A received notice of one violation. -/
def noticeIn : RxIn := wireIn ([0x88, 0xB6, 1, 1] ++ List.replicate 44 0)

theorem witness_NoticeReceive (h : Obligations.NoticesAct) :
    ∃ t, exec (.partnerNoticeReceive 0) (holding (got .notice noticeIn)) = .next t :=
  let ⟨_, e, _⟩ := h.2.2.2 0 (holding (got .notice noticeIn)) (got .notice noticeIn) rfl rfl
  ⟨_, e⟩

/-- A standalone disclosure of the key of interval 5, all zeros, and its trailer. -/
def trailer0 : List Byte := [0xB1, 54, 64, 1, 0, 0, 0, 7, 0, 0, 0, 0, 0, 6] ++ List.replicate 40 0
def discIn : RxIn := wireIn ([0x88, 0xB5, 0, 1] ++ trailer0)

/-- The GSV_SUB stream of verified chain 5 that it matches. -/
def subscriber : Context :=
  { ctx 4 2 3 0 0 2 2 with
    w0 := setBit (ctx 4 2 3 0 0 2 2).w0 31 true, w2 := BitVec.allOnes 48, w3 := at_ 32 0x88BA ||| at_ 16 1, w9 := at_ 19
      5 }

/-- Chain 5, installed, with the key of interval 4 in force. -/
def chain5 : Ver :=
  { verChain with
    publisher := 7, v := 4, installed := true, key := walkDown 7 1 5 (List.replicate 32 0) }

def subscribing (x : RxFrame) : State := { holding x with streams := [(2, subscriber)], vers := [(5, chain5)] }

theorem witness_Standalone_bad (h : Obligations.HoldsDecided) :
    ∃ t, exec (.standaloneDisclosureReceive 0) (holding (got .standalone clearIn)) = .next t :=
  let ⟨_, e, _⟩ := (h.1 0 (holding (got .standalone clearIn)) (got .standalone clearIn) _ rfl rfl rfl).1 (by decide)
  ⟨_, e⟩

theorem witness_Standalone_stray (h : Obligations.HoldsDecided) :
    ∃ t, exec (.standaloneDisclosureReceive 0) (holding (got .standalone discIn)) = .next t :=
  ⟨_, (h.1 0 (holding (got .standalone discIn)) (got .standalone discIn) _ rfl rfl rfl).2.1 (by decide) (by decide)⟩

theorem witness_Standalone (h : Obligations.HoldsDecided) :
    ∃ t, exec (.standaloneDisclosureReceive 0) (subscribing (got .standalone discIn)) = .next t :=
  let ⟨_, e, _⟩ := ((h.1 0 (subscribing (got .standalone discIn)) (got .standalone discIn) _ rfl rfl rfl).2.2 2
      subscriber 5 _ (by decide)
    (by decide) (by decide) (by decide) rfl).2 chain5 (by decide) rfl rfl rfl (by decide) (by decide) (by decide)
  ⟨_, e⟩

/-- The same while another key of the chain is being checked. -/
def checking : State :=
  { subscribing (got .standalone discIn) with
    bw := { listening.bw with walks := [⟨5, 4, List.replicate 32 0, 0, got .standalone discIn, false⟩] } }

theorem witness_Standalone_behind (h : Obligations.HoldsDecided) :
    ∃ t, exec (.standaloneDisclosureReceive 0) checking = .next t :=
  ⟨_, ((h.1 0 checking (got .standalone discIn) _ rfl rfl rfl).2.2 2 subscriber 5 _ (by decide) (by decide) (by decide)
    (by decide) rfl).1 (by decide)⟩

/-- A hold of interval 5 of chain 5, and a state with it and a verified key for it. -/
def hold0 : V2Rec := ⟨0, 2, 0, 5, 5, List.replicate 16 0, List.replicate 8 0, 0, [], none, 0⟩

def resolving (vs : List V2Rec) : State :=
  { subscribing (got .clear clearIn) with
    slots := armedStore.slots, v2 := vs, bw := { listening.bw with resolve := [(5, 5, List.replicate 32 0)] } }

theorem witness_HoldResolution_done (h : Obligations.HoldsDecided) :
    ∃ t, exec (.holdResolution 5 0 1 false) (resolving []) = .next t :=
  ⟨_, (h.2.1 5 0 1 false (resolving []) 5 (List.replicate 32 0) (by decide) rfl).1 (Or.inr (by decide))⟩

theorem witness_HoldResolution (h : Obligations.HoldsDecided) :
    ∃ t, exec (.holdResolution 5 2 1 false) (resolving [hold0]) = .next t :=
  let ⟨_, e, _⟩ := (h.2.1 5 2 1 false (resolving [hold0]) 5 (List.replicate 32 0) (by decide) rfl).2.2 chain5 5 (slotVer
      0) rfl (by decide)
    (by decide) (by decide) (by decide) rfl (by decide) (by decide)
  ⟨_, e⟩

/-- Every slot of the verification pool holds a key. -/
def poolFull : State :=
  { resolving [hold0] with
    slots := armedStore.slots ++
      (List.range 512).map (fun i => (slotVer i, ⟨5, 0, attrWord 1 false (some 4) 4 8 0 noParent, 0, 0, none⟩)) }

theorem witness_HoldResolution_waits (h : Obligations.HoldsDecided) :
    ∃ t, exec (.holdResolution 5 2 1 false) poolFull = .next t :=
  ⟨_, (h.2.1 5 2 1 false poolFull 5 (List.replicate 32 0) (by decide) rfl).2.1 chain5 rfl (by decide) (by decide +kernel)⟩

theorem witness_HoldCloseMissing (h : Obligations.HoldsDecided) :
    ∃ t, exec (.holdCloseMissing 5) (resolving [hold0]) = .next t :=
  let ⟨_, e, _⟩ := (h.2.2.1 5 (resolving [hold0])).2 chain5 rfl
  ⟨_, e⟩

theorem witness_HoldCloseMissing_none (h : Obligations.HoldsDecided) :
    ∃ t, exec (.holdCloseMissing 6) (resolving [hold0]) = .next t :=
  ⟨_, (h.2.2.1 6 (resolving [hold0])).1 rfl⟩

theorem witness_HoldExpired (h : Obligations.HoldsDecided) :
    ∃ t, exec (.holdExpired 2) (resolving [hold0]) = .next t :=
  let ⟨_, e, _⟩ := h.2.2.2.1 2 (resolving [hold0])
  ⟨_, e⟩

theorem witness_V2RecordWrite (h : Obligations.HoldsDecided) :
    ∃ t, exec (.v2RecordWrite 2) (resolving [{ hold0 with code := some 0 }]) = .next t :=
  let ⟨_, _, e, _⟩ := (h.2.2.2.2 2 (resolving [{ hold0 with code := some 0 }])).2 { hold0 with code := some 0 } 0 (by
      decide) rfl rfl
  ⟨_, e⟩

theorem witness_V2RecordWrite_open (h : Obligations.HoldsDecided) :
    ∃ t, exec (.v2RecordWrite 2) (resolving [hold0]) = .next t :=
  ⟨_, (h.2.2.2.2 2 (resolving [hold0])).1 (Or.inr fun _ e => Option.some.inj e ▸ rfl)⟩

/-- The segment bank and the block bank of interval 0 under seed slot 0. -/
def segBank : Bank := ⟨false, false, 0, 0, List.replicate 32 0, false⟩
def blockBank : Bank := ⟨true, false, 0, 0, [], false⟩

/-- Publisher chain 3 of domain 3 with seed slot 0, its delay 1, from interval 0 on, its banks filled. -/
def chain3 : Pub := ⟨3, 0, 1, 1, 7, [(0, 0, 1)], 0, [], none, [segBank, blockBank], none, none⟩

/-- With the records of its banks that its first block needs. -/
def publishing (v : Pub) (x : Nat) : State :=
  { sending with
    pubs := [(3, v)], ticks := { sending.ticks with idx := [(0, x)] }
    pebbles := [(768, pebbleWords 3 false false 1023 (List.replicate 32 0)),
      (896, pebbleWords 3 true false 15 (List.replicate 32 0))] }

theorem witness_KeyPrepare_late (h : Obligations.PublisherRowsAct) :
    ∃ t, exec (.intervalKeyPrepare 3 0 .stored .stored false) (publishing chain3 1) = .next t :=
  let ⟨_, e, _⟩ := (((h 3 3 (publishing chain3 1) chain3 rfl rfl).1 0 .stored .stored false 1 _ 0 (by decide) rfl rfl).2
      blockBank 0
    (by decide) (by decide) (by decide) (by decide) rfl rfl (by decide) (Or.inl (by decide))).1 _ _ _ (by decide) rfl
    (by decide) rfl (Or.inr ⟨by decide, by decide, by decide, rfl⟩)
  ⟨_, e⟩

/-- The chain with its keys for interval 1 ready. -/
def chain3r : Pub := { chain3 with ready := [⟨1, true, none⟩] }

theorem witness_KeyPrepare (h : Obligations.PublisherRowsAct) :
    ∃ t, exec (.intervalKeyPrepare 3 0 .stored .stored false) (publishing chain3r 1) = .next t :=
  let ⟨_, e, _⟩ := (((h 3 3 (publishing chain3r 1) chain3r rfl rfl).1 0 .stored .stored false 2 _ 0 (by decide) rfl
      rfl).2 blockBank 0
    (by decide) (by decide) (by decide) (by decide) rfl rfl (by decide) (Or.inr (by decide))).1 _ _ _ (by decide) rfl
    (by decide) rfl (Or.inr ⟨by decide, by decide, by decide, rfl⟩)
  ⟨_, e⟩

/-- The chain with its keys for intervals 1 and 2 ready. -/
def chain3s : Pub := { chain3 with ready := [⟨2, true, none⟩, ⟨1, true, none⟩] }

theorem witness_KeyPrepare_ready (h : Obligations.PublisherRowsAct) :
    ∃ t, exec (.intervalKeyPrepare 3 0 .stored .stored false) (publishing chain3s 1) = .next t :=
  ⟨_, ((h 3 3 (publishing chain3s 1) chain3s rfl rfl).1 0 .stored .stored false 2 _ 0 (by decide) rfl rfl).1
    (Or.inr (Or.inr (by decide)))⟩

theorem witness_KeyPrepare_poison (h : Obligations.PublisherRowsAct) :
    ∃ t, exec (.intervalKeyPrepare 3 0 .poison .stored false) (publishing chain3 1) = .next t :=
  let ⟨_, _, e⟩ := (((h 3 3 (publishing chain3 1) chain3 rfl rfl).1 0 .poison .stored false 1 _ 0 (by decide) rfl rfl).2
      blockBank 0
    (by decide) (by decide) (by decide) (by decide) rfl rfl (by decide) (Or.inl (by decide))).2
    (Or.inr fun _ e => nomatch e)
  ⟨_, e⟩

theorem witness_KeyLate (h : Obligations.PublisherRowsAct) :
    ∃ t, exec (.publisherKeyLate 3) (publishing chain3 1) = .next t :=
  let ⟨_, _, e⟩ := (h 3 3 (publishing chain3 1) chain3 rfl rfl).2.1 (by decide) (by decide) (by decide)
  ⟨_, e⟩

/-- The same chain with nothing in its banks, and with its segment bank alone. -/
def bare : Pub := { chain3 with banks := [] }
def half : Pub := { chain3 with banks := [segBank] }

theorem witness_BankFill_segment (h : Obligations.PublisherRowsAct) :
    ∃ t, exec (.pebbleBankFill 3 true 1 .stored false) (publishing bare 1) = .next t :=
  let ⟨_, e, _⟩ := (h 3 3 (publishing bare 1) bare rfl rfl).2.2.1 true false 1 .stored (0, 0) false _ _ (by decide) (by
      decide) (by decide)
    (by decide) (Or.inl ⟨⟨5, 0⟩, rfl, by decide, rfl, rfl⟩)
  ⟨_, e⟩

theorem witness_BankFill_block (h : Obligations.PublisherRowsAct) :
    ∃ t, exec (.pebbleBankFill 3 false 1 .stored false) (publishing half 1) = .next t :=
  let ⟨_, e, _⟩ := (h 3 3 (publishing half 1) half rfl rfl).2.2.1 false false 1 .stored (0, 0) false _ _ (by decide) (by
      decide) (by decide)
    (by decide) (Or.inr (Or.inl ⟨segBank, _, rfl, by decide, by decide, rfl, by decide, rfl, by decide, rfl, rfl⟩))
  ⟨_, e⟩

/-- The same chain, its block bank at fault. -/
def spoiled : Pub := { chain3 with banks := [segBank, { blockBank with faulty := true }] }

theorem witness_BankFill_rebuild (h : Obligations.PublisherRowsAct) :
    ∃ t, exec (.pebbleBankFill 3 false 1 .stored false) (publishing spoiled 1) = .next t :=
  let ⟨_, e, _⟩ := (h 3 3 (publishing spoiled 1) spoiled rfl rfl).2.2.1 false false 1 .stored (0, 0) false _ _ (by
      decide) (by decide)
    (by decide) (by decide) (Or.inr (Or.inr ⟨⟨5, 0⟩, rfl, by decide, by decide, rfl, rfl⟩))
  ⟨_, e⟩

theorem witness_AnchorStarved (h : Obligations.PublisherRowsAct) :
    ∃ t, exec (.anchorStarved 3) (publishing chain3 64512) = .next t :=
  ⟨_, (h 3 3 (publishing chain3 64512) chain3 rfl rfl).2.2.2.1 64512 (0, 1) (by decide) (by decide) (by decide) (by
      decide)
    (by decide) (by decide)⟩

/-- A renewal from interval 9 on, under seed slot 1. -/
def renewing : Pub := { chain3 with seeds := [(0, 0, 1), (1, 9, 2)] }

theorem witness_Renewal (h : Obligations.PublisherRowsAct) :
    ∃ t, exec (.publisherRenewalStart 3) (publishing renewing 9) = .next t :=
  ⟨_, (h 3 3 (publishing renewing 9) renewing rfl rfl).2.2.2.2.1 (1, 9, 2) (by decide)⟩

theorem witness_Renewal_retired (h : Obligations.PublisherRowsAct) :
    ∃ t, exec (.publisherRenewalStart 3) (publishing { renewing with inForce := 9 } 10) = .next t :=
  ⟨_, (h 3 3 (publishing { renewing with inForce := 9 } 10) { renewing with inForce := 9 } rfl rfl).2.2.2.2.2.1 _ _ []
      (by decide)
    rfl (by decide)⟩

/-- GSV_PUB stream 0 of chain 3, which sealed last in interval 3. -/
def publisher0 : Context :=
  { ctx 3 2 3 0 0 0 2 with w0 := setBit (ctx 3 2 3 0 0 0 2).w0 31 true, w9 := at_ 19 3 }
def aux0 : StreamAux := { StreamAux.zero with sealedIn := [3] }
def owing (ports : Table PortState) : State :=
  { publishing { chain3 with ready := [⟨5, true, some (List.replicate 32 0)⟩] } 5 with
    streams := [(0, publisher0)], aux := [(0, aux0)], ports := ports }

theorem witness_Disclosure (h : Obligations.PublisherRowsAct) :
    ∃ t, exec (.standaloneDisclosureSend 0) (owing linked.ports) = .next t :=
  let ⟨_, _, _, e, _⟩ := ((h 3 3 (owing linked.ports) _ rfl rfl).2.2.2.2.2.2 0 aux0 publisher0 5 (List.replicate 32 0)
    ⟨5, true, some (List.replicate 32 0)⟩ rfl (by decide) (by decide) (by decide) rfl rfl).2 (by decide) (by decide)
  ⟨_, e⟩

theorem witness_Disclosure_down (h : Obligations.PublisherRowsAct) :
    ∃ t, exec (.standaloneDisclosureSend 0) (owing []) = .next t :=
  ⟨_, ((h 3 3 (owing []) _ rfl rfl).2.2.2.2.2.2 0 aux0 publisher0 5 (List.replicate 32 0)
    ⟨5, true, some (List.replicate 32 0)⟩ rfl (by decide) (by decide) (by decide) rfl rfl).1 (Or.inl (by decide))⟩

/-! ### The memory plane -/

/-- Identifier 1 encrypt-only on page 0x100 on, identifier 2 integrity-protected on page 0x180 on, both with keys; gate 3
admits domain 3 to both and to plain memory. -/
def mapped : State :=
  let key : KeySlot := ⟨5, 0, attrWord 1 false none 127 0 0 noParent, 0, 100, none⟩
  { wired with
    slots := [(65584, key), (65585, key), (65586, key), (65587, key)]
    gates := [(3, { Gate.zero with
      rules := [(0, (at_ 12 0x100 ||| at_ 7 1, at_ 24 0xFF, at_ 42 63)),
        (1, (at_ 12 0x100 ||| at_ 8 1 ||| at_ 7 1, at_ 24 0xFF, at_ 42 63)),
        (2, (at_ 12 0x100 ||| at_ 8 2 ||| at_ 7 1, at_ 24 0xFF, at_ 42 63))]
      online := true })]
    mem := { wired.mem with
      ids := [at_ 1 1, at_ 12 0x10000 ||| at_ 1 3]
      regions := [(at_ 12 0x100 ||| at_ 8 1 ||| at_ 7 1, at_ 24 15), (at_ 12 0x180 ||| at_ 8 2 ||| at_ 7 1, at_ 24 15)]
      } }

/-- An access of 4 bytes of domain 3. -/
def access (a : BitVec 52) (w : Bool) : MemAccess := ⟨0, 3, a, 4, w, if w then [1, 2, 3, 4] else []⟩

/-- Slice 1 serves the lines, and no store shows an error. -/
def unit1 : MemUnit := ⟨1, false, false, []⟩

theorem witness_Access_gate (h : Obligations.MemoryRowsAct) :
    ∃ t, exec (.memoryAccess (access 0 false) 0 unit1) mapped = .next t :=
  let ⟨_, e, _⟩ := ((h.1 (access 0 false) 0 unit1 mapped _ 0 0 (by decide) rfl (by decide) (by decide)).2 (by decide)).1
      _ rfl
  ⟨_, e⟩

theorem witness_Access_dormant (h : Obligations.MemoryRowsAct) :
    ∃ t, exec (.memoryAccess (access 0 false) 0 unit1) { mapped with mode := .dormant } = .next t :=
  ⟨_, (h.1 (access 0 false) 0 unit1 { mapped with mode := .dormant } _ 0 0 (by decide) rfl (by decide) (by decide)).1 rfl⟩

theorem witness_Access_checked (h : Obligations.MemoryRowsAct) :
    ∃ t, exec (.memoryAccess (access 0x10000001C0000 false) 0 unit1) mapped = .next t :=
  let ⟨_, e, _⟩ := ((h.1 (access 0x10000001C0000 false) 0 unit1 mapped _ 1 0x1C0000 (by decide) rfl (by decide) (by
      decide)).2
    (by decide)).2.1 _ (by decide) rfl
  ⟨_, e⟩

theorem witness_Access_held (h : Obligations.MemoryRowsAct) :
    ∃ t, exec (.memoryAccess (access 0x1C0000 false) 0 unit1)
      { mapped with mem := { mapped.mem with held := [access 0x1C0000 true] } } = .next t :=
  let ⟨_, e, _⟩ := (((h.1 (access 0x1C0000 false) 0 unit1
      { mapped with mem := { mapped.mem with held := [access 0x1C0000 true] } } _ 0 0x1C0000
    (by decide) rfl (by decide) (by decide)).2 (by decide)).2.2 (by decide) (by decide)).1 (by decide)
  ⟨_, e⟩

theorem witness_Access_plainWrite (h : Obligations.MemoryRowsAct) :
    ∃ t, exec (.memoryAccess (access 0x1C0000 true) 0 unit1) mapped = .next t :=
  let ⟨_, e, _⟩ := ((((h.1 (access 0x1C0000 true) 0 unit1 mapped _ 0 0x1C0000 (by decide) rfl (by decide) (by decide)).2
    (by decide)).2.2 (by decide) (by decide)).2 (by decide)).1 rfl rfl
  ⟨_, e⟩

theorem witness_Access_write (h : Obligations.MemoryRowsAct) :
    ∃ t, exec (.memoryAccess (access 0x1000000100000 true) 0 unit1) mapped = .next t :=
  let ⟨_, _, e, _⟩ := ((((h.1 (access 0x1000000100000 true) 0 unit1 mapped _ 1 0x100000 (by decide) rfl (by decide) (by
      decide)).2
    (by decide)).2.2 (by decide) (by decide)).2 (by decide)).2.1 (by decide) rfl
  ⟨_, e⟩

theorem witness_Access_plainRead (h : Obligations.MemoryRowsAct) :
    ∃ t, exec (.memoryAccess (access 0x1C0000 false) 0 unit1) mapped = .next t :=
  let ⟨_, _, e, _⟩ := (((((h.1 (access 0x1C0000 false) 0 unit1 mapped _ 0 0x1C0000 (by decide) rfl (by decide) (by
      decide)).2
    (by decide)).2.2 (by decide) (by decide)).2 (by decide)).2.2 rfl).2.2 (Or.inl rfl) |>.1 (Or.inl rfl)
  ⟨_, e⟩

theorem witness_Access_read (h : Obligations.MemoryRowsAct) :
    ∃ t, exec (.memoryAccess (access 0x1000000100000 false) 0 unit1) mapped = .next t :=
  let ⟨_, _, e, _⟩ := (((((h.1 (access 0x1000000100000 false) 0 unit1 mapped _ 1 0x100000 (by decide) rfl (by decide)
      (by decide)).2
    (by decide)).2.2 (by decide) (by decide)).2 (by decide)).2.2 rfl).2.2
    (Or.inr ⟨fun _ k => (nomatch (k : (none : Option WmEntry) = some _)), Or.inr (Or.inl rfl)⟩) |>.1
    (Or.inr (by decide))
  ⟨_, e⟩

theorem witness_Access_noKey (h : Obligations.MemoryRowsAct) :
    ∃ t, exec (.memoryAccess (access 0x1000000100000 false) 0 { unit1 with badA := true }) mapped = .next t :=
  let ⟨_, e, _⟩ := (((((h.1 (access 0x1000000100000 false) 0 { unit1 with badA := true } mapped _ 1 0x100000 (by decide)
      rfl (by decide)
    (by decide)).2 (by decide)).2.2 (by decide) (by decide)).2 (by decide)).2.2 rfl).2.2
    (Or.inr ⟨fun _ k => (nomatch (k : (none : Option WmEntry) = some _)), Or.inr (Or.inl rfl)⟩) |>.2 (by decide) rfl
  ⟨_, e⟩

theorem witness_Access_zero (h : Obligations.MemoryRowsAct) :
    ∃ t, exec (.memoryAccess (access 0x2000000180000 false) 0 unit1) mapped = .next t :=
  let ⟨_, e, _⟩ := (((((h.1 (access 0x2000000180000 false) 0 unit1 mapped _ 2 0x180000 (by decide) rfl (by decide) (by
      decide)).2
    (by decide)).2.2 (by decide) (by decide)).2 (by decide)).2.2 rfl).2.1 (by decide) (by decide) (by decide) (by decide)
  ⟨_, e⟩

/-- A whole line in the write-merge buffer. -/
def line7 : WmEntry := ⟨1, 0x100000, List.replicate 64 7, fullMask, 0, 0⟩
def whole : State := { mapped with mem := { mapped.mem with wmb := [line7] } }

theorem witness_Access_buffered (h : Obligations.MemoryRowsAct) :
    ∃ t, exec (.memoryAccess (access 0x1000000100000 false) 0 unit1) whole = .next t :=
  let ⟨_, e, _⟩ := (((((h.1 (access 0x1000000100000 false) 0 unit1 whole _ 1 0x100000 (by decide) rfl (by decide) (by
      decide)).2
    (by decide)).2.2 (by decide) (by decide)).2 (by decide)).2.2 rfl).1 line7 (by decide) rfl (by decide)
  ⟨_, e⟩

/-- A read that waits on slice 1. -/
def readWait (i a : Nat) : State :=
  { mapped with mem := { mapped.mem with waits := [⟨7, 0, i, a, 4, 1, List.replicate 64 0, 0⟩] } }

theorem witness_Return_plain (h : Obligations.MemoryRowsAct) :
    ∃ t, exec (.memoryReadReturn 7 [] false false []) (readWait 0 0x1C0000) = .next t :=
  let ⟨_, e, _⟩ := ((h.2.1 7 [] false false [] (readWait 0 0x1C0000) _ rfl).2 _ _ _ _ rfl rfl rfl (by decide) rfl rfl).1
      rfl (by decide)
  ⟨_, e⟩

/-- A plain line that comes back uncorrectable. -/
def lost : List DramLine := [⟨0x1C0000, List.replicate 64 0, .uncorrectable⟩]

theorem witness_Return_lost (h : Obligations.MemoryRowsAct) :
    ∃ t, exec (.memoryReadReturn 7 lost false false []) (readWait 0 0x1C0000) = .next t :=
  ⟨_, ((h.2.1 7 lost false false [] (readWait 0 0x1C0000) _ (by decide)).2 _ _ _ _ rfl rfl rfl (by decide) rfl rfl).2.1
      rfl rfl⟩

theorem witness_Return_encrypted (h : Obligations.MemoryRowsAct) :
    ∃ t, exec (.memoryReadReturn 7 [] false false []) (readWait 1 0x100000) = .next t :=
  let ⟨_, e, _⟩ := ((h.2.1 7 [] false false [] (readWait 1 0x100000) _ rfl).2 _ _ _ _ rfl rfl rfl (by decide) rfl
      rfl).2.2.1 ⟨5, 5⟩ (by decide)
    rfl (by decide) (by decide)
  ⟨_, e⟩

theorem witness_Return_none (h : Obligations.MemoryRowsAct) :
    ∃ t, exec (.memoryReadReturn 8 [] false false []) (readWait 0 0x1C0000) = .next t :=
  ⟨_, (h.2.1 8 [] false false [] (readWait 0 0x1C0000) (readWait 0 0x1C0000) rfl).1 rfl⟩

/-- Slice 1 holds the keys of identifier 2, and a line of it is read whose level-0 node is cached. -/
def freshLine : State :=
  { readWait 2 0x180000 with
    mem := { (readWait 2 0x180000).mem with
      keys := [(1, ⟨2, ⟨5, 0⟩, ⟨5, 0⟩⟩)], ccache := [⟨2, 0, 0, [0, 0, 0, 0, 0, 0, 0, 0], false⟩] } }

/-- A line whose counter is 0 reads as zeros. -/
theorem readLine_fresh (k : MemKey) (lines : List DramLine) (i n a : Nat) (s : State) (ctrs : List Nat)
    (h1 : s.mem.poisonNodes.contains (i, 0, n / 8) = false) (h2 : cachedNode s i 0 (n / 8) = some ⟨i, 0, n / 8, ctrs,
      false⟩)
    (h3 : ¬ onChipFrom s i ≤ 0) (h4 : ctrs.getD (n % 8) 0 = 0) :
    readLine k lines i n a s = (.ok, List.replicate 64 0, true, s.putNode i 0 (n / 8) ctrs false) := by
  have e : heldNode s i 0 (n / 8) = some ctrs := by simp [heldNode, h3, h2]
  have q : heldNode (s.putNode i 0 (n / 8) ctrs false) i 0 (n / 8) = some ctrs := by
    rw [show s.putNode i 0 (n / 8) ctrs false = _ from if_neg h3]
    exact (if_neg h3).trans (by simp [cachedNode])
  have w : walkNode k lines i (treeH s i + 1) 0 (n / 8) s = (.ok, s.putNode i 0 (n / 8) ctrs false) := by
    rw [walkNode, h1, e]; simp [h3, h2]
  rw [readLine, w]
  simp only [lineCounter, q, Option.getD_some, h4, if_true]

theorem witness_Return_protected (h : Obligations.MemoryRowsAct) :
    ∃ t, exec (.memoryReadReturn 7 [] false false []) freshLine = .next t :=
  let ⟨_, e, _⟩ := ((h.2.1 7 [] false false [] freshLine _ rfl).2 _ _ _ _ rfl rfl rfl (by decide) rfl rfl).2.2.2 ⟨5, 5⟩
      _ _ _ _
    (by decide) rfl (by decide) (by decide) (readLine_fresh _ _ _ _ _ _ (List.replicate 8 0) rfl rfl (by decide) rfl)
    (by decide) rfl
  ⟨_, e⟩

theorem witness_Drain_none (h : Obligations.MemoryRowsAct) :
    ∃ t, exec (.writeMergeDrain 0 [] unit1) mapped = .next t :=
  ⟨_, (h.2.2.1 0 [] unit1 mapped _ rfl rfl).1 rfl⟩

theorem witness_Drain (h : Obligations.MemoryRowsAct) :
    ∃ t, exec (.writeMergeDrain 1000 [] unit1) whole = .next t :=
  let ⟨_, e, _⟩ := (h.2.2.1 1000 [] unit1 whole _ rfl rfl).2 line7 ⟨5, 5⟩ _ rfl rfl (by decide) (by decide) rfl (by
      decide) rfl
  ⟨_, e⟩

theorem witness_Writeback_none (h : Obligations.MemoryRowsAct) :
    ∃ t, exec (.nodeWriteback 2 0 5 [] unit1) mapped = .next t :=
  ⟨_, (h.2.2.2 2 0 5 [] unit1 mapped _ rfl rfl).1 rfl⟩

/-- A node in the counter cache, at the level below the lowest held on chip. -/
def cached (level : Nat) (dirty : Bool) : State :=
  { mapped with mem := { mapped.mem with ccache := [⟨2, level, 5, [1, 0, 0, 0, 0, 0, 0, 0], dirty⟩] } }

theorem witness_Writeback_clean (h : Obligations.MemoryRowsAct) :
    ∃ t, exec (.nodeWriteback 2 0 5 [] unit1) (cached 0 false) = .next t :=
  ⟨_, ((h.2.2.2 2 0 5 [] unit1 (cached 0 false) _ rfl rfl).2 rfl (by decide)).1 _ rfl rfl⟩

theorem witness_Writeback (h : Obligations.MemoryRowsAct) :
    ∃ t, exec (.nodeWriteback 2 2 5 [] unit1) (cached 2 true) = .next t :=
  let ⟨_, e, _⟩ := ((h.2.2.2 2 2 5 [] unit1 (cached 2 true) _ rfl rfl).2 rfl (by decide)).2 _ ⟨5, 5⟩ _ _ rfl rfl rfl (by
      decide)
    (by decide) rfl (by decide) rfl
  ⟨_, e⟩

/-! ### The key store, entropy, startup and rest -/

theorem witness_Sweep (h : Obligations.EntropyAndStoreRowsAct) :
    ∃ t, exec .sweepSlot { keyed with keyCtl := { keyed.keyCtl with sweepOn := true, sweepPos := 0 } } = .next t :=
  let ⟨_, e, _⟩ := h.1 { keyed with keyCtl := { keyed.keyCtl with sweepOn := true, sweepPos := 0 } } 0 _ rfl rfl rfl rfl
  ⟨_, e⟩

/-- The refresh pass at slot 0 and at an Empty slot. -/
def refreshing (p : Nat) : State := { keyed with keyCtl := { KeyCtl.reset with seeded := true, maskPos := p } }

theorem witness_Sweep_off (h : Obligations.EntropyAndStoreRowsAct) :
    ∃ t, exec .sweepSlot keyed = .next t :=
  ⟨_, h.2.1 keyed (Or.inl rfl)⟩

theorem witness_Refresh (h : Obligations.EntropyAndStoreRowsAct) :
    ∃ t, exec (.maskingRefresh false) (refreshing 0) = .next t :=
  let ⟨_, e, _⟩ := (h.2.2.1 false (refreshing 0) 0 _ rfl rfl (by decide)).1 (by decide) rfl rfl
  ⟨_, e⟩

theorem witness_Refresh_bad (h : Obligations.EntropyAndStoreRowsAct) :
    ∃ t, exec (.maskingRefresh true) (refreshing 0) = .next t :=
  let ⟨_, _, e⟩ := (h.2.2.1 true (refreshing 0) 0 _ rfl rfl (by decide)).2.1 (by decide) rfl rfl
  ⟨_, e⟩

theorem witness_Refresh_empty (h : Obligations.EntropyAndStoreRowsAct) :
    ∃ t, exec (.maskingRefresh false) (refreshing 1) = .next t :=
  ⟨_, (h.2.2.1 false (refreshing 1) 1 _ rfl rfl (by decide)).2.2 (Or.inl (by decide))⟩

theorem witness_Refresh_off (h : Obligations.EntropyAndStoreRowsAct) :
    ∃ t, exec (.maskingRefresh false) keyed = .next t :=
  ⟨_, h.2.2.2.1 false keyed (by decide)⟩

theorem witness_Reseed (h : Obligations.EntropyAndStoreRowsAct) :
    ∃ t, exec (.localGeneratorReseed 2) { armedStore with keyCtl := { armedStore.keyCtl with genOut := [(2, 65536)] } }
      = .next t :=
  let ⟨_, e, _⟩ := h.2.2.2.2.1 2 { armedStore with keyCtl := { armedStore.keyCtl with genOut := [(2, 65536)] } } rfl (by
      decide) rfl
    (by decide)
  ⟨_, e⟩

theorem witness_HealthFailure (h : Obligations.EntropyAndStoreRowsAct) :
    ∃ t, exec (.entropyHealthFailure 5) armedStore = .next t :=
  let ⟨_, e, _⟩ := h.2.2.2.2.2.1 5 armedStore rfl
  ⟨_, e⟩

/-- Entropy that has failed, with ready back. -/
def failed : State := { armedStore with ent := { Entropy.reset with fail := true, ready := true } }

theorem witness_Degraded (h : Obligations.EntropyAndStoreRowsAct) :
    ∃ t, exec (.maskingDegraded 10000000000) failed = .next t :=
  ⟨_, h.2.2.2.2.2.2.1 10000000000 failed rfl rfl (by decide)⟩

theorem witness_Recovered (h : Obligations.EntropyAndStoreRowsAct) :
    ∃ t, exec .entropyRecovered failed = .next t :=
  let ⟨_, e, _⟩ := h.2.2.2.2.2.2.2.1 failed rfl rfl (Or.inl (by decide))
  ⟨_, e⟩

/-- Assay waiting in step 4 for entropy, and in step 7 for the store. -/
def assaying (step : Nat) : State :=
  { State.reset with mode := .assay, assay := { State.reset.assay with step := step, retry := step == 7 } }

/-- In step 4 with entropy that has failed, ready back, in a lifecycle. -/
def starved (l : BitVec 8) : State :=
  { assaying 4 with ent := failed.ent, fuses := { State.reset.fuses with lifecycle := l } }

theorem witness_Recovered_assay (h : Obligations.EntropyAndStoreRowsAct) :
    ∃ t, exec .entropyRecovered (starved 1) = .next t :=
  let ⟨_, e, _⟩ := (h.2.2.2.2.2.2.2.2.1 (starved 1) rfl rfl rfl rfl).1 (by decide)
  ⟨_, e⟩

theorem witness_Recovered_ends (h : Obligations.EntropyAndStoreRowsAct) :
    ∃ t, exec .entropyRecovered (starved 3) = .next t :=
  let ⟨_, e, _⟩ := (h.2.2.2.2.2.2.2.2.1 (starved 3) rfl rfl rfl rfl).2 (by decide)
  ⟨_, e⟩

theorem witness_ReadyLoss (h : Obligations.EntropyAndStoreRowsAct) :
    ∃ t, exec .entropyReadyLoss failed = .next t :=
  let ⟨_, e, _⟩ := h.2.2.2.2.2.2.2.2.2.1 failed
  ⟨_, e⟩

theorem witness_Ready (h : Obligations.EntropyAndStoreRowsAct) :
    ∃ t, exec (.entropyReady 5 true 9) svc = .next t :=
  let ⟨_, e, _⟩ := h.2.2.2.2.2.2.2.2.2.2.1 5 true 9 svc (Or.inl (by decide)) (Or.inl rfl)
  ⟨_, e⟩

/-- The local generators wait for a word. -/
def unseeded : State := { svc with ent := { svc.ent with reseedWait := true } }

theorem witness_Ready_reseeds (h : Obligations.EntropyAndStoreRowsAct) :
    ∃ t, exec (.entropyReady 5 true 9) unseeded = .next t :=
  let ⟨_, e, _⟩ := h.2.2.2.2.2.2.2.2.2.2.2.1 5 true 9 unseeded (Or.inl (by decide)) rfl rfl
  ⟨_, e⟩

/-- The same with nothing failed, and one step 4 in each lifecycle. -/
def unready (l : BitVec 8) : State := { starved l with ent := Entropy.reset }

theorem witness_Ready_ends (h : Obligations.EntropyAndStoreRowsAct) :
    ∃ t, exec (.entropyReady 5 true 9) (unready 3) = .next t :=
  let ⟨_, e, _⟩ := (h.2.2.2.2.2.2.2.2.2.2.2.2.1 5 true 9 (unready 3) rfl rfl rfl).1 (by decide)
  ⟨_, e⟩

theorem witness_Ready_runs (h : Obligations.EntropyAndStoreRowsAct) :
    ∃ t, exec (.entropyReady 5 true 9) (unready 1) = .next t :=
  let ⟨_, e, _⟩ := (h.2.2.2.2.2.2.2.2.2.2.2.2.1 5 true 9 (unready 1) rfl rfl rfl).2.1 (by decide) rfl (by decide)
  ⟨_, e⟩

theorem witness_Ready_retries (h : Obligations.EntropyAndStoreRowsAct) :
    ∃ t, exec (.entropyReady 5 false 9) (unready 1) = .next t :=
  let ⟨_, e, _⟩ := (h.2.2.2.2.2.2.2.2.2.2.2.2.1 5 false 9 (unready 1) rfl rfl rfl).2.2 (by decide) (Or.inl rfl)
  ⟨_, e⟩

theorem witness_WaitTimeout (h : Obligations.EntropyAndStoreRowsAct) :
    ∃ t, exec (.entropyWaitTimeout 500000000) (assaying 4) = .next t :=
  ⟨_, h.2.2.2.2.2.2.2.2.2.2.2.2.2 500000000 (assaying 4) rfl rfl rfl (by decide)⟩

theorem witness_ColdReset (h : Obligations.StartupRowsAct) :
    ∃ t, exec (.coldReset 5) svc = .next t :=
  let ⟨_, _, e, _⟩ := h.1 5 svc
  ⟨_, e⟩

theorem witness_EngineReset (h : Obligations.StartupRowsAct) : ∃ t, exec (.engineReset 5) svc = .next t :=
  let ⟨_, _, _, e, _⟩ := h.1 5 svc
  ⟨_, e⟩

/-- What Assay finds: fuses, self-tests, the store's answer. -/
def find0 : AssayIn := ⟨0, 5, 1, 0, 0, 0, false, true, false, true, 1, none⟩

/-- Reset released, entropy usable. -/
def released : State := { State.reset with ent := { State.reset.ent with ready := true } }

theorem witness_Assay_tamper (h : Obligations.StartupRowsAct) :
    ∃ t, exec (.assay { find0 with tamper := 4 } 5) released = .next t :=
  let ⟨_, e, _⟩ := (h.2.1 { find0 with tamper := 4 } 5 released rfl rfl).1 2 (by decide) (by decide) (by decide)
  ⟨_, e⟩

theorem witness_Assay_kat (h : Obligations.StartupRowsAct) :
    ∃ t, exec (.assay { find0 with katPass := false } 5) released = .next t :=
  let ⟨_, e, _⟩ := (h.2.1 { find0 with katPass := false } 5 released rfl rfl).2.1 rfl rfl
  ⟨_, e⟩

theorem witness_Assay_waits (h : Obligations.StartupRowsAct) :
    ∃ t, exec (.assay find0 5) State.reset = .next t :=
  let ⟨_, e, _⟩ := (h.2.1 find0 5 State.reset rfl rfl).2.2.1 rfl rfl (by decide)
  ⟨_, e⟩

theorem witness_Assay_unhealthy (h : Obligations.StartupRowsAct) :
    ∃ t, exec (.assay { find0 with healthFails := true } 5) released = .next t :=
  let ⟨_, e, _⟩ := (h.2.1 { find0 with healthFails := true } 5 released rfl rfl).2.2.2.1 rfl rfl rfl (by decide)
  ⟨_, e⟩

theorem witness_Assay_lifecycle (h : Obligations.StartupRowsAct) :
    ∃ t, exec (.assay { find0 with lifecycle := 3 } 5) released = .next t :=
  let ⟨_, e, _⟩ := (h.2.1 { find0 with lifecycle := 3 } 5 released rfl rfl).2.2.2.2.1 rfl rfl rfl (by decide) (by decide)
  ⟨_, e⟩

theorem witness_Assay_tamper8 (h : Obligations.StartupRowsAct) :
    ∃ t, exec (.assay { find0 with tamper8 := some 2 } 5) released = .next t :=
  let ⟨_, e, _⟩ := ((h.2.1 { find0 with tamper8 := some 2 } 5 released rfl rfl).2.2.2.2.2 rfl rfl rfl (by decide) (by
      decide)).1 2 rfl rfl
    (by decide)
  ⟨_, e⟩

theorem witness_Assay (h : Obligations.StartupRowsAct) :
    ∃ t, exec (.assay find0 5) released = .next t :=
  let ⟨_, e, _⟩ := ((h.2.1 find0 5 released rfl rfl).2.2.2.2.2 rfl rfl rfl (by decide) (by decide)).2.1 rfl rfl (by
      decide)
  ⟨_, e⟩

theorem witness_Assay_retries (h : Obligations.StartupRowsAct) :
    ∃ t, exec (.assay { find0 with counterOk := false } 5) released = .next t :=
  let ⟨_, e, _⟩ := ((h.2.1 { find0 with counterOk := false } 5 released rfl rfl).2.2.2.2.2 rfl rfl rfl (by decide) (by
      decide)).2.2 (Or.inl rfl)
  ⟨_, e⟩

theorem witness_Retry (h : Obligations.StartupRowsAct) :
    ∃ t, exec (.counterAdvanceRetry 10000000 true 9) (assaying 7) = .next t :=
  let ⟨_, e, _⟩ := (h.2.2 10000000 true 9 (assaying 7) rfl rfl (Or.inr (by decide))).1 rfl (by decide)
  ⟨_, e⟩

theorem witness_Retry_again (h : Obligations.StartupRowsAct) :
    ∃ t, exec (.counterAdvanceRetry 10000000 false 9) (assaying 7) = .next t :=
  let ⟨_, e, _⟩ := (h.2.2 10000000 false 9 (assaying 7) rfl rfl (Or.inr (by decide))).2 (Or.inl rfl)
  ⟨_, e⟩

theorem witness_Restart_off (h : Obligations.RestartAndDormantRowsAct) :
    ∃ t, exec (.retentionRestartRequest 5) State.reset = .next t :=
  ⟨_, h.1 5 State.reset (Or.inl rfl) rfl⟩

theorem witness_Restart (h : Obligations.RestartAndDormantRowsAct) :
    ∃ t, exec (.retentionRestartRequest 5) wired = .next t :=
  let ⟨_, e, _⟩ := (h.2.1 5 wired _ (by decide) (by decide) rfl rfl).2.2.2.2.2.1 (by decide) (by decide)
  ⟨_, e⟩

theorem witness_Restart_waits (h : Obligations.RestartAndDormantRowsAct) :
    ∃ t, exec (.retentionRestartRequest 5) (readWait 1 0x100000) = .next t :=
  ⟨_, (h.2.1 5 (readWait 1 0x100000) _ (by decide) (by decide) rfl rfl).2.2.2.2.1 (by decide)⟩

/-- A restart that is held, acknowledged; and one pressed for, with nothing under way. -/
def held : State := { wired with retention := some ⟨.service, true⟩ }
def pressed : State := { wired with retention := some ⟨.service, false⟩ }

theorem witness_Restart_again (h : Obligations.RestartAndDormantRowsAct) :
    ∃ t, exec (.retentionRestartRequest 5) held = .next t :=
  ⟨_, (h.2.2.1 5 held _ rfl).1 (Or.inl rfl)⟩

theorem witness_Restart_acknowledged (h : Obligations.RestartAndDormantRowsAct) :
    ∃ t, exec (.retentionRestartRequest 5) pressed = .next t :=
  let ⟨_, e, _⟩ := (h.2.2.1 5 pressed ⟨.service, false⟩ rfl).2 rfl (by decide) (by decide)
  ⟨_, e⟩

theorem witness_Release_none (h : Obligations.RestartAndDormantRowsAct) :
    ∃ t, exec (.retentionRestartRelease true) wired = .next t :=
  ⟨_, h.2.2.2.1 true wired (by decide)⟩

theorem witness_Release_asked (h : Obligations.RestartAndDormantRowsAct) :
    exec (.retentionRestartRelease true) pressed = exec (.retentionRestartRelease true) (pressed.holdRestart ⟨.service,
      false⟩) :=
  h.2.2.2.2.1 true pressed ⟨.service, false⟩ rfl rfl (by decide)

theorem witness_Release (h : Obligations.RestartAndDormantRowsAct) :
    ∃ t, exec (.retentionRestartRelease true) held = .next t :=
  let ⟨_, e, _⟩ := (h.2.2.2.2.2.1 held _ rfl rfl (by decide)).2
  ⟨_, e⟩

theorem witness_Release_failed (h : Obligations.RestartAndDormantRowsAct) :
    ∃ t, exec (.retentionRestartRelease false) held = .next t :=
  let ⟨_, e, _⟩ := (h.2.2.2.2.2.1 held _ rfl rfl (by decide)).1
  ⟨_, e⟩

theorem witness_PowerDown (h : Obligations.RestartAndDormantRowsAct) :
    ∃ t, exec .dormantPowerDown { wired with mode := .dormant } = .next t :=
  let ⟨_, e, _⟩ := (h.2.2.2.2.2.2.2.1 { wired with mode := .dormant } rfl rfl rfl (by decide) rfl rfl).2 (by decide)
  ⟨_, e⟩

theorem witness_PowerDown_waits (h : Obligations.RestartAndDormantRowsAct) :
    ∃ t, exec .dormantPowerDown { readWait 0 0x1C0000 with mode := .dormant } = .next t :=
  ⟨_, h.2.2.2.2.2.2.1 { readWait 0 0x1C0000 with mode := .dormant } (Or.inr (Or.inr (Or.inr (Or.inr (Or.inl (by
      decide))))))⟩

/-- Dormant being left. -/
def exiting : State :=
      { wired with mode := .dormant, power := { wired.power with exiting := true, dormantReached := true } }

theorem witness_Exit_none (h : Obligations.RestartAndDormantRowsAct) :
    ∃ t, exec (.dormantExit true) wired = .next t :=
  ⟨_, h.2.2.2.2.2.2.2.2.1 true wired (Or.inl (by decide))⟩

theorem witness_Exit (h : Obligations.RestartAndDormantRowsAct) :
    ∃ t, exec (.dormantExit true) exiting = .next t :=
  let ⟨_, e, _⟩ := (h.2.2.2.2.2.2.2.2.2 exiting (by decide) rfl rfl).1
  ⟨_, e⟩

theorem witness_Exit_failed (h : Obligations.RestartAndDormantRowsAct) :
    ∃ t, exec (.dormantExit false) exiting = .next t :=
  let ⟨_, e, _⟩ := (h.2.2.2.2.2.2.2.2.2 exiting (by decide) rfl rfl).2
  ⟨_, e⟩

/-! ### Events and the register window -/

/-- Rings of Eyebright at 0x200000, gate 16 open to the management class there. -/
def recording : State :=
  let ring : EyeRingState := { base := 0x200000, ctrl := 0, on := true, head := 0, release := 0, lost := 0 }
  { wired with
    gates := [(16, { Gate.zero with rules := [(0, (at_ 12 0x200 ||| at_ 7 1, at_ 24 0xFF, at_ 42 63))], online := true })]
    eye := { wired.eye with snap := ring, evlog := ring, trace := ring } }

/-- A snapshot, a closed record and a traced frame that wait to be written. -/
def snapping : State := { recording with eye := { recording.eye with snaps := [List.replicate 256 0] } }
def logRec : LogRec := ⟨7, false, 1, 0, true⟩
def logging : State := { recording with eye := { recording.eye with buffer := [logRec] } }
def tracing : State := { recording with eye := { recording.eye with traces := [⟨4, true, 0, 0, 0, true, 0⟩] } }

theorem witness_EyeSnapshot (h : Obligations.EyebrightRowsAct) :
    ∃ t, exec .snapshotWrite snapping = .next t :=
  let ⟨_, e, _⟩ := h.1 snapping _ [] 0x200000 rfl (by decide) (by decide) (by decide) (by decide) (by decide) (by decide)
  ⟨_, e⟩

theorem witness_LogClose (h : Obligations.EyebrightRowsAct) :
    ∃ t, exec .eventLogRecordClose logging = .next t :=
  let ⟨_, e, _⟩ := h.2.1 logging
  ⟨_, e⟩

theorem witness_LogWrite (h : Obligations.EyebrightRowsAct) :
    ∃ t, exec .eventLogWrite logging = .next t :=
  let ⟨_, e, _⟩ := h.2.2.1 logging logRec 0x200000 rfl (by decide) (by decide) (by decide) (by decide) (by decide)
  ⟨_, e⟩

theorem witness_TraceWrite (h : Obligations.EyebrightRowsAct) :
    ∃ t, exec (.traceRecordWrite 4 (List.replicate 8 0) 0) tracing = .next t :=
  let ⟨_, e, _⟩ := h.2.2.2.1 4 (List.replicate 8 0) 0 tracing _ 0x200000 (by decide) rfl (by decide) (by decide) (by
      decide) (by decide)
    (by decide)
  ⟨_, e⟩

/-- Message 3 due. -/
def due : State := { wired with eye := { wired.eye with ringLatch := 8, armed := 8 } }

theorem witness_Interrupt (h : Obligations.EyebrightRowsAct) :
    ∃ t, exec (.interruptSend 3) due = .next t :=
  let ⟨_, e, _⟩ := (h.2.2.2.2.1 3 due).1 (by decide)
  ⟨_, e⟩

theorem witness_Interrupt_none (h : Obligations.EyebrightRowsAct) :
    ∃ t, exec (.interruptSend 4) due = .next t :=
  ⟨_, (h.2.2.2.2.1 4 due).2 (by decide)⟩

theorem witness_Eoi (h : Obligations.EyebrightRowsAct) :
    ∃ t, exec (.intEoi 16 35) wired = .next t :=
  let ⟨_, e, _⟩ := (h.2.2.2.2.2 16 35 wired rfl (by decide)).1 (by decide)
  ⟨_, e⟩

theorem witness_Eoi_none (h : Obligations.EyebrightRowsAct) :
    ∃ t, exec (.intEoi 16 3) wired = .next t :=
  ⟨_, (h.2.2.2.2.2 16 3 wired rfl (by decide)).2 (by decide)⟩

theorem witness_StatusClear (h : Obligations.RegisterWindowActs) :
    ∃ t, exec (.evStatusClear 16 0 7 [3]) wired = .next t :=
  let ⟨_, e, _⟩ := h.1 16 0 7 [3] wired rfl (by decide) (by decide)
  ⟨_, e⟩

theorem witness_CounterWrite (h : Obligations.RegisterWindowActs) :
    ∃ t, exec (.counterWrite 16 5 9 1) wired = .next t :=
  let ⟨_, e, _⟩ := h.2.1 16 5 9 1 wired rfl (by decide) (by decide)
  ⟨_, e⟩

theorem witness_CounterLow (h : Obligations.RegisterWindowActs) :
    ∃ t, exec (.chainedCounterLowRead 16 2) wired = .next t :=
  let ⟨_, e, _⟩ := h.2.2.1 16 2 wired rfl (by decide)
  ⟨_, e⟩

theorem witness_RcRead (h : Obligations.RegisterWindowActs) :
    ∃ t, exec (.rcFieldRead 16 0x63208 8 3) wired = .next t :=
  let ⟨_, e, _⟩ := (h.2.2.2.1 16 0x63208 3 wired rfl (by decide) (by decide)).1 (by decide)
  ⟨_, e⟩

theorem witness_Read (h : Obligations.RegisterWindowActs) :
    ∃ t, exec (.rcFieldRead 16 0x80000 8 0) wired = .next t :=
  ⟨_, (h.2.2.2.1 16 0x80000 0 wired rfl (by decide) (by decide)).2.1 (by decide) (by decide) (by decide)⟩

theorem witness_Read_faultLog (h : Obligations.RegisterWindowActs) :
    ∃ t, exec (.rcFieldRead 16 0x93020 8 0) wired = .next t :=
  ⟨_, (h.2.2.2.1 16 0x93020 0 wired rfl (by decide) (by decide)).2.2 (by decide) (by decide)⟩

theorem witness_GlogClear (h : Obligations.RegisterWindowActs) :
    ∃ t, exec (.glogClear 16 3 1 false) wired = .next t :=
  ⟨_, (h.2.2.2.2.1 16 3 1 false wired rfl (by decide)).1 (by decide) (Or.inl rfl)⟩

theorem witness_GlogClear_none (h : Obligations.RegisterWindowActs) :
    ∃ t, exec (.glogClear 16 3 0 false) wired = .next t :=
  ⟨_, (h.2.2.2.2.1 16 3 0 false wired rfl (by decide)).2 (by decide)⟩

/-- An event log ring whose head stands at 5. -/
def written : State := { wired with eye := { wired.eye with evlog := { wired.eye.evlog with head := 5 } } }

theorem witness_EyeRelease (h : Obligations.RegisterWindowActs) :
    ∃ t, exec (.eyebrightReleaseWrite 16 .evlog 5) written = .next t :=
  ⟨_, (h.2.2.2.2.2.1 16 .evlog 5 written _ rfl rfl (by decide)).1 (by decide)⟩

theorem witness_EyeRelease_beyond (h : Obligations.RegisterWindowActs) :
    ∃ t, exec (.eyebrightReleaseWrite 16 .evlog 6) written = .next t :=
  ⟨_, (h.2.2.2.2.2.1 16 .evlog 6 written _ rfl rfl (by decide)).2.1 (by decide)⟩

theorem witness_EyeControl (h : Obligations.RegisterWindowActs) :
    ∃ t, exec (.eyebrightRingControl 16 .evlog 5) written = .next t :=
  ⟨_, (h.2.2.2.2.2.1 16 .evlog 5 written _ rfl rfl (by decide)).2.2⟩

theorem witness_Write (h : Obligations.RegisterWindowActs) :
    ∃ t, exec (.registerWrite 16 0x81000 8 1) wired = .next t :=
  ⟨_, (h.2.2.2.2.2.2 16 0x81000 1 wired rfl (by decide) (by decide)).1⟩

theorem witness_Write_readOnly (h : Obligations.RegisterWindowActs) :
    ∃ t, exec (.registerWrite 16 0x80000 8 1) wired = .next t :=
  ⟨_, (h.2.2.2.2.2.2 16 0x80000 1 wired rfl (by decide) (by decide)).2.1 (by decide)⟩

theorem witness_Write_doorbell (h : Obligations.RegisterWindowActs) :
    ∃ t, exec (.registerWrite 3 0x20000 8 0x10000000000) wired = .next t :=
  ⟨_, (h.2.2.2.2.2.2 3 0x20000 0x10000000000 wired rfl (by decide) (by decide)).2.2 0 (by decide) (by decide) (by decide)⟩

/-! ### Echo, records and images -/

/-- A frame sealed under key 5 with PN 1, its echo to come. -/
def echoing (wire : List Byte) : TxFrame :=
  { frame0 with
    bytes := List.replicate 14 0, plain := List.replicate 14 0, wire := wire, ended := true, stage := .echoWait, key :=
      ⟨5, 0⟩
    count := some 1 }

/-- What the slice made of it. -/
def wire0 : List Byte :=
  sealMacsec 5 (echoing []).ctx (echoing []).ctx.cur (sciOf sending (echoing []).ctx) 1 (List.replicate 14 0)

theorem wire0_opens : echoPasses 5 (sciOf sending (echoing []).ctx) (echoing wire0) wire0 = true := by decide +kernel

theorem nothing_opens : echoPasses 5 (sciOf sending (echoing []).ctx) (echoing []) [] = false := by decide +kernel

theorem echo_key_good : (offered (echoing wire0)).fetchFrame 3 (echoing wire0).ctx (echoing wire0).ctx.cur useSeal false =
    (.ok ⟨5, 0⟩, ((offered (echoing wire0)).fetchFrame 3 (echoing wire0).ctx (echoing wire0).ctx.cur useSeal false).2) :=
  Prod.ext (by decide) rfl

theorem echo_key_bad : (offered (echoing [])).fetchFrame 3 (echoing []).ctx (echoing []).ctx.cur useSeal false =
    (.ok ⟨5, 0⟩, ((offered (echoing [])).fetchFrame 3 (echoing []).ctx (echoing []).ctx.cur useSeal false).2) :=
  Prod.ext (by decide) rfl

theorem witness_SealEcho (h : Obligations.SealedFramesLeaveTheSlice) :
    ∃ t, exec (.sealEcho 0 0 [] false) (offered (echoing wire0)) = .next t :=
  ⟨_, ((h.2.2 0 0 [] false (offered (echoing wire0)) _ (echoing wire0) _ rfl rfl (by decide) echo_key_good (by
      decide)).1 ⟨5, 0⟩
    wire0 _ rfl rfl rfl).1 wire0_opens⟩

theorem witness_SealEcho_fails (h : Obligations.SealedFramesLeaveTheSlice) :
    ∃ t, exec (.sealEcho 0 0 [] false) (offered (echoing [])) = .next t :=
  ⟨_, ((h.2.2 0 0 [] false (offered (echoing [])) _ (echoing []) _ rfl rfl (by decide) echo_key_bad (by decide)).1 ⟨5, 0⟩
    [] _ rfl rfl rfl).2 nothing_opens⟩

/-- A Seal record that has begun: one chunk of two, and the last chunk. -/
def begun (total : Nat) : RecordJob :=
  { job0 with started := true, total := total, iv := List.replicate 12 0, header := List.replicate 32 0 }
def chunking (j : RecordJob) : State := { sending with jobs := [j] }

theorem chunk_long (b : Byte) : 4096 ≤ (List.replicate 4096 b).length :=
  Nat.le_of_eq List.length_replicate.symm

theorem witness_RecordChunk (h : Obligations.RecordChunkSealed) :
    ∃ t, exec (.recordChunk 0 [] (List.replicate 4096 0) true 0 false 1) (chunking (begun 5000)) = .next t :=
  let ⟨_, e, _⟩ := ((h 0 [] (List.replicate 4096 0) 0 false 1 (chunking (begun 5000)) (begun 5000) _ (by decide) (by
      decide) (by decide)
    (by decide) rfl).1 ⟨5, 0⟩ 4096 _ _ (by decide) (by decide) (by decide) (by decide) (by decide) (chunk_long 0)
    (by decide) rfl rfl (by decide) (by decide)).2.1 (by decide)
  ⟨_, e⟩

theorem witness_RecordChunk_last (h : Obligations.RecordChunkSealed) :
    ∃ t, exec (.recordChunk 0 [] (List.replicate 64 0) true 0 false 0) (chunking (begun 64)) = .next t :=
  let ⟨_, e, _⟩ := ((h 0 [] (List.replicate 64 0) 0 false 0 (chunking (begun 64)) (begun 64) _ (by decide) (by decide)
      (by decide)
    (by decide) rfl).1 ⟨5, 0⟩ 64 _ _ (by decide) (by decide) (by decide) (by decide) (by decide) (by decide) (by decide)
      rfl
    rfl (by decide) (by decide)).2.2 (by decide) (by decide) (by decide)
  ⟨_, e⟩

/-- A Seal record that has not begun. -/
def waiting0 : RecordJob := { job0 with started := true, descr := [0, 0x110000, 0x120000, 64] }

theorem witness_RecordChunk_first (h : Obligations.RecordChunkSealed) :
    ∃ t, exec (.recordChunk 0 [] (List.replicate 64 0) true 0 false 0) (chunking waiting0) = .next t :=
  ⟨_, ((h 0 [] (List.replicate 64 0) 0 false 0 (chunking waiting0) waiting0 _ (by decide) (by decide) (by decide) (by
      decide)
    rfl).2.1 64 (by decide) (by decide) (by decide) (Or.inl rfl) (by decide)).1 (by decide)⟩

theorem witness_RecordChunk_unread (h : Obligations.RecordChunkSealed) :
    ∃ t, exec (.recordChunk 0 [] [] true 0 false 0) (chunking waiting0) = .next t :=
  ⟨_, ((h 0 [] [] 0 false 0 (chunking waiting0) waiting0 _ (by decide) (by decide) (by decide) (by decide) rfl).2.1 64
      (by decide)
    (by decide) (by decide) (Or.inl rfl) (by decide)).2 (by decide)⟩

/-- An Unseal record of 64 bytes, and its header under the current generation. -/
def opening0 : RecordJob := { waiting0 with opening := true }
def header0 : List Byte := [1, 3, 0, 0, 0, 1] ++ List.replicate 24 0 ++ [0, 64]

theorem witness_RecordChunk_open (h : Obligations.RecordChunkSealed) :
    ∃ t, exec (.recordChunk 0 header0 (List.replicate 80 0) true 0 false 0) (chunking opening0) = .next t :=
  ⟨_, ((h 0 header0 (List.replicate 80 0) 0 false 0 (chunking opening0) opening0 _ (by decide) (by decide) (by decide)
      (by decide)
    rfl).2.2 _ _ 64 (by decide) rfl rfl (fun _ => ⟨by decide, by decide, Or.inl rfl⟩) (Or.inl rfl) (by decide)).1 (by
      decide)⟩

theorem witness_RecordChunk_openUnread (h : Obligations.RecordChunkSealed) :
    ∃ t, exec (.recordChunk 0 header0 (List.replicate 64 0) true 0 false 0) (chunking opening0) = .next t :=
  ⟨_, ((h 0 header0 (List.replicate 64 0) 0 false 0 (chunking opening0) opening0 _ (by decide) (by decide) (by decide)
      (by decide)
    rfl).2.2 _ _ 64 (by decide) rfl rfl (fun _ => ⟨by decide, by decide, Or.inl rfl⟩) (Or.inl rfl) (by decide)).2 (by
      decide)⟩

/-- An image with the records that R425 asks for and no other, its public key and signature all zeros. -/
def records0 : List Byte :=
  [0, 1, 0, 16, 1, 0, 0, 10, 0, 0, 0, 0, 0, 0, 0, 0] ++
  [0, 2, 0, 32, 0, 0, 0, 0, 0, 0, 1, 60, 20, 75, 0, 0, 0, 0, 0x12, 0xC0] ++ List.replicate 12 0 ++
  [0, 3, 0, 200, 0, 0, 0, 0] ++ (List.replicate 16 [0, 0, 0, 0, 0, 0, 0, 0, 0x05, 0xF2, 0, 0]).flatten ++
  [0, 7, 0, 68] ++ List.replicate 64 255 ++ [0, 8, 0, 68] ++ List.replicate 64 255

def image0 : List Byte :=
  [0x4B, 0x59, 0x4E, 0x4B, 1, 0, 0, 0x40, 0, 0, 0, 0, 0, 0, 1, 0x80, 0, 5, 1, 0xB1] ++ List.replicate 44 0 ++ records0 ++
    List.replicate 7219 0

/-- The configuration that it holds. -/
def img0 : ImgCfg :=
  match verifyRecords 5 records0 with
  | .good i => i
  | _ => .none

/-- The block in Service with that image in slot A and its owner's key digest in the fuses. -/
def stored : State :=
  { svc with
    fuses := { svc.fuses with ownerDigest := BitVec.ofNat 384 (bytesToNat (sha384 (imgKey image0))) }
    nv := { svc.nv with slotA := ⟨image0, true, 0⟩ } }

theorem image0_length : image0.length = 7667 := by
  rw [image0, List.length_append, List.length_replicate]; decide

theorem image0_complete : imgComplete image0 = true := by
  have h : imgLen image0 = 7667 := by decide
  simp [imgComplete, image0_length, h]

theorem image0_header : imgContainerOk image0 = true ∧ imgTargetOk image0 = true ∧ (imgVersion image0).toNat = 0 := by
  decide

theorem image0_records : verifyRecords (beAt 16 2 image0) (slice 64 (imgBodyLen image0) image0) = .good img0 := by decide

theorem image0_owner : stored.fuses.ownerDigest ≠ 0 := by decide +kernel

/-- The image is good wherever ML-DSA-87, whose verdict is a free value (log 5), accepts its signature. -/
theorem image0_good (hv : Config.mlDsaVerify (imgKey image0) (imgSigned image0) (imgSig image0) = true) :
    verifyImage stored.fuses image0 = .good img0 := by
  obtain ⟨h1, h2, h3⟩ := image0_header
  have h4 : BitVec.ofNat 384 (bytesToNat (sha384 (imgKey image0))) = stored.fuses.ownerDigest := rfl
  have h5 : stored.fuses.rollbackFloor.toNat = 0 := rfl
  simp only [verifyImage, image0_complete, h1, h2, h3, h4, h5, hv, image0_owner, image0_records, Bool.not_true,
    Bool.false_eq_true, if_false, decide_false, bne_self_eq_false, Bool.or_false, Nat.not_lt_zero]

theorem witness_ImageActivate (h : Obligations.PlanTickCommandsStage)
    (hv : Config.mlDsaVerify (imgKey image0) (imgSigned image0) (imgSig image0) = true) :
    ∃ t, exec .imageActivate (withCmd stored (cmd 0x51 16 0 true [0, 0])) = .next t :=
  ⟨_, (h _ _).2.2.2.2.2 img0 (front_of _ rfl (by decide) rfl (by decide)) (by decide) (image0_good hv) (by decide)
    ⟨by decide, by decide, Or.inl (by decide)⟩⟩

theorem witness_ImageActivationCommit (h : Obligations.OtherCommitsTakeEffect)
    (hv : Config.mlDsaVerify (imgKey image0) (imgSigned image0) (imgSig image0) = true) :
    ∃ t, exec (.imageActivationCommit []) (planned stored .image (.activate false)) = .next t :=
  let ⟨_, e, _⟩ := ((h.2.2.1 [] (planned stored .image (.activate false))).1 _ false rfl rfl rfl).1 img0 (image0_good hv)
  ⟨_, e⟩
/-! ### Commands that cannot be formed -/

/-- One field of a command is not what the spec gives it: three containers of descriptor; 33 bytes with E_BYTES 32. -/
theorem test_illFormed_headerBeat :
    Instr.wf (.egressHeaderBeat { headBeat with desc := [0, 0, 0] }) = false ∧
    Instr.wf (.egressHeaderBeat { headBeat with bytes := 17 }) = false ∧
    exec (.egressHeaderBeat { headBeat with desc := [0, 0, 0] }) sending = .refused .illFormed := ⟨by decide, by decide,
      rfl⟩

theorem test_illFormed_dataBeat :
    Instr.wf (.egressDataBeat ⟨0, 2, false, 3, false, [0], []⟩) = false ∧
    Instr.wf (.egressDataBeat ⟨0, 1, false, 3, false, [0], [0]⟩) = false ∧
    exec (.egressDataBeat ⟨0, 2, false, 3, false, [0], []⟩) sending = .refused .illFormed := ⟨by decide, by decide, rfl⟩

theorem test_illFormed_planBoundary :
    Instr.wf (.planBoundary 0 9 ledger0 []) = false ∧ Instr.wf (.planBoundary 0 0 [] []) = false ∧
    exec (.planBoundary 0 9 ledger0 []) svc = .refused .illFormed := ⟨by decide, by decide, rfl⟩

theorem test_illFormed_memoryAccess :
    Instr.wf (.memoryAccess { access 0 false with len := 0 } 0 unit1) = false ∧
    Instr.wf (.memoryAccess { access 0 false with len := 65 } 0 unit1) = false ∧
    exec (.memoryAccess { access 0 true with data := [] } 0 unit1) mapped = .refused .illFormed := ⟨by decide, by
      decide, rfl⟩

/-- Lines that are short, unaligned or outside the address space. -/
theorem test_illFormed_lines :
    wfLines [⟨0, [], .clean⟩] = false ∧ wfLines [⟨32, List.replicate 64 0, .clean⟩] = false ∧
    wfLines [⟨2 ^ 48, List.replicate 64 0, .clean⟩] = false := by decide

theorem test_illFormed_memoryReadReturn :
    exec (.memoryReadReturn 7 [⟨0, [], .clean⟩] false false []) mapped = .refused .illFormed := rfl

theorem test_illFormed_writeMergeDrain :
    exec (.writeMergeDrain 0 [⟨0, [], .clean⟩] unit1) mapped = .refused .illFormed := rfl

theorem test_illFormed_nodeWriteback :
    exec (.nodeWriteback 2 0 0 [⟨0, [], .clean⟩] unit1) mapped = .refused .illFormed := rfl

theorem test_illFormed_traceRecordWrite :
    Instr.wf (.traceRecordWrite 0 [2 ^ 27, 0, 0, 0, 0, 0, 0, 0] 0) = false ∧
    exec (.traceRecordWrite 0 [] 0) svc = .refused .illFormed := ⟨by decide, rfl⟩

theorem test_illFormed_descriptorFetch :
    Instr.wf (.descriptorFetch 0 [0] [] true) = false ∧
    exec (.descriptorFetch 0 [0] [] true) posting = .refused .illFormed := ⟨by decide, rfl⟩

theorem test_illFormed_digestSealResult :
    Instr.wf (.digestSealResult 0 { digest0 true with tag := [] }) = false ∧
    exec (.digestSealResult 0 { digest0 true with tag := [] }) sending = .refused .illFormed := ⟨by decide, rfl⟩

theorem test_illFormed_digestOpenResult :
    Instr.wf (.digestOpenResult 0 { digest0 true with tag := [] } 0) = false ∧
    exec (.digestOpenResult 0 { digest0 true with tag := [] } 0) sending = .refused .illFormed := ⟨by decide, rfl⟩
/-! ### The spec's worked examples -/

/-- The example under R6. -/
theorem test_container_bytes : wordsBytes [0x0123456789AB] = [0xAB, 0x89, 0x67, 0x45, 0x23, 0x01, 0x00, 0x00] := by decide

/-- The example under Table 0.3. -/
theorem test_generation_wraps : genLater 2 0xFFFE = true ∧ genLater 0xFFFE 2 = false := by decide

/-- The example under R45. -/
theorem test_boundary_instants :
    [1, 2, 3].map (tickInstant 14400) = [69444, 138888, 208333] ∧
    [6, 7, 13, 14, 20].map (tickInstant 96000) = [62500, 72916, 135416, 145833, 208333] ∧
    [62500, 72916, 135416, 145833, 208333].map (ticksAt 14400) = [0, 1, 1, 2, 3] := by decide

/-- The stream of Table 3.9, but for the state, which CREATE takes as zero. -/
def table39 : Context :=
  { Context.zero with
    w0 := 0x40D480000A05, w1 := 0x000300008190, w2 := 0x010CCD04002A, w3 := 0x88BA402A8000, w4 := 0x0F0020021800
    w6 := 0x310800000000, w9 := 0x648001280000 }

theorem test_context_words :
    [table39.type, table39.cls, table39.domain, table39.tickDomain, table39.st, table39.handle] = [4, 0, 3, 1, 2, 2565] ∧
    [table39.echo, table39.bindweed, table39.twinValid, table39.addrValid, table39.replayProtect] =
      [false, true, false, true, true] ∧
    [table39.portMask, table39.vlanMode, table39.vid, table39.etherType, table39.matchId] = [3, 2, 100, 0x88BA, 0x402A] ∧
    [table39.payload, table39.steady, table39.burstPeak, table39.hashLen, table39.suite, table39.confOffset,
      table39.grace,
      table39.replayWindow] = [120, 1, 0, 134, 3, 0, 2, 0] ∧
    [table39.ringEntries, table39.message, table39.chain] = [4096, 9, 37] := by decide

/-- An echoed GOOSE publisher of 200 bytes with Q + Qb = 3 (Table 2.9). -/
def goose29 : Context :=
  { Context.zero with
    w0 := at_ 44 3 ||| at_ 32 1 ||| at_ 31 1, w4 := at_ 37 200 ||| at_ 29 3 ||| at_ 10 214, w6 := at_ 44 3 }

/-- What one of each asks for (Table 2.9). -/
theorem test_slot_demand :
    (demandOf table39).opening = 11 ∧ (demandOf table39).keccak = 1 ∧ (demandOf goose29).sealing = 48 ∧
    (demandOf goose29).echo = 45 ∧ (demandOf goose29).keccak = 6 := by decide

/-- The plan of Table 2.9. -/
def plan29 : State :=
  { svc with
    tcfg := { svc.tcfg with enable := 7, freq := [14400, 4800, 1000, 0] }
    img := { svc.img with
      quads := [2, 0, 0, 0]
      ports := List.replicate 4 { PortCfg.default with enable := true } ++ List.replicate 12 .default } }

theorem test_plan_capacity :
    planSlots plan29 = 260154 ∧ lineReservation plan29 = 24802 ∧ planPerms plan29 = 43358 := by decide

/-- Table 4.6. -/
theorem test_initialisation_vectors :
    macsecIv 1 0x02CAE40001070001 0 0 0x1A2B = natToBytes 12 0x02CAE4000107000100001A2B ∧
    macsecIv 2 0 2 0x5A17C3E09B427D1E6F08A4C5 0x100000005 = natToBytes 12 0x5A17C3E29B427D1F6F08A4C0 ∧
    gsvIv 0x3A07 0x4B2F1 = natToBytes 12 0x00003A07000000000004B2F1 := by decide

/-- Gate 3 of Table 12.7, identifier 3 on its region. -/
def gate3 : State :=
  { wired with
    mem := { wired.mem with
      ids := [0, 0, at_ 1 1 ||| at_ 3 1 ||| at_ 4 3], regions := [(at_ 12 0x200000 ||| at_ 8 3 ||| at_ 7 1, at_ 24
      0x3FFF)] }
    gates := [(3, { Gate.zero with
      online := true
      rules := [(0, (0x000200000380, 0x00000F000000, 0xF00000000000)), (1, (0x000200010380, 0, 0)),
        (2, (0x000200000380, 0x003FFF000000, 0xF00000000000)), (3, (0x000204000080, 0x0000FF000000, 0x800000000000))]
      })] }

/-- The accesses under Table 12.7: rule 2 passes, NO_MATCH, STRADDLE at the guard page, DENIED by rule 3. -/
theorem test_gate_example :
    portRefusal gate3 ⟨0, 3, 0x3000201234000, 8, false, []⟩ = none ∧
    (portRefusal gate3 ⟨0, 3, 0x0000200000040, 8, false, []⟩).map (fun f => (f.cause, f.imprecise)) = some (1, false) ∧
    (deputyRefusal gate3 3 0 0x20000F800 4096 false).map (fun f => (f.addr, f.cause, f.rule)) =
      some (0x200010000, 3, some 1) ∧
    (portRefusal gate3 ⟨0, 3, 0x0000204000100, 8, true, []⟩).map (fun f => (f.cause, f.rule, f.imprecise)) =
      some (2, some 3, true) := by decide

/-- Header of step 1 and attribute word of step 3 of Table 13.21. -/
theorem test_import_example :
    attrWord 1 true (some 3) 32 2 2 65555 = 0x59A048010013 ∧
    (Cmd.mk 0 3 0x313001000002 [] 0 [] .waiting).opcode = 0x31 ∧
    (Cmd.mk 0 3 0x313001000002 [] 0 [] .waiting).domain = 3 ∧
    (Cmd.mk 0 3 0x313001000002 [] 0 [] .waiting).len = 2 := by decide

/-- The Ticks record of Table 14.11. -/
def ticks29 : List Byte :=
  [0x00, 0x02, 0x00, 0x20, 0x00, 0x00, 0x6A, 0x3F, 0x2C, 0x00, 0x07, 0x32, 0x0A, 0x50, 0, 0] ++
    [0, 0, 0x38, 0x40, 0, 0, 0x12, 0xC0, 0, 0, 0x03, 0xE8, 0, 0, 0, 0]

/-- The Engine and Ticks records of Table 14.11. -/
theorem test_image_example :
    engineOk [0x00, 0x01, 0x00, 0x10, 0x02, 0x05, 0x00, 0x0A, 0, 0, 0, 0, 0, 0, 0, 0] = true ∧ ticksOk ticks29 = true ∧
    parseTicks ticks29 = ⟨1782524928, 7, 50, 10, 80, 0, [14400, 4800, 1000, 0]⟩ := by decide

/-! ### Published vectors of the standards that the spec names (log 6) -/

/-- FIPS 197, appendix C.3. -/
theorem test_aes256 :
    aesBytes 0x000102030405060708090a0b0c0d0e0f101112131415161718191a1b1c1d1e1f
      (natToBytes 16 0x00112233445566778899aabbccddeeff) = natToBytes 16 0x8ea2b7ca516745bfeafc49904b496089 := by
  decide +kernel

/-- FIPS 202: SHA3-256 of the empty message. -/
theorem test_sha3 :
    sha3 [] = natToBytes 32 0xa7ffc6f8bf1ed76651c14756a061d662f580ff4de43b49fa82d80a4b80f8434a := by decide +kernel

/-- FIPS 180-4: SHA-384 of the bytes of abc. -/
theorem test_sha384 :
    sha384 [0x61, 0x62, 0x63] = natToBytes 48
      0xcb00753f45a35e8bb5a03d699ac65007272c32ab0eded1631a8b605a43ff5bed8086072ba1e7cc2358baeca134c825a7 := by
  decide +kernel
end Sys2Proof.Tests
end

/-!
PROOFS. The statements on the reset state, the egress interface and the register window (O2, O42, O60).
-/

namespace Sys2Proof.Machine

/-! ### The reset state (Table 14.12) -/

/-- A context with every word zero is Free. -/
theorem Context.zero_free : Context.zero.free = true := by decide

/-- Settles O2: every field of the reset state is a literal, and every table is empty, so a lookup gives its default. -/
theorem resetState : Obligations.ResetState := by
  unfold Obligations.ResetState
  refine ⟨rfl, rfl, rfl, rfl, rfl, fun _ => rfl, fun _ => Context.zero_free, fun _ => rfl, rfl, rfl, rfl,
    fun _ => rfl, fun _ => rfl, rfl, rfl, rfl, fun _ => rfl, rfl, rfl, rfl, rfl⟩

/-! ### The egress interface (R318 to R321) -/

theorem State.endShort_of_not_open {s : State} {h : Nat} (shut : openTx s h = none) : s.endShort h = s := by
  simp [State.endShort, shut]

/-- Container i of a header beat's descriptor; nothing of a descriptor with a bad container is used (R5). -/
def beatWord (b : EgressBeat) (i : Nat) : Word :=
  if b.desc.any badContainer then 0 else toWord (b.desc.getD i 0)

/-- A domain offers the beat, and the stream is its own. -/
def beatOwned (b : EgressBeat) (s : State) : Bool :=
  !b.mgmt && (s.stream b.handle.toNat).domain == b.domain.toNat

/-- The frame that a header beat's descriptor describes. -/
def beatFrame (b : EgressBeat) (s : State) : TxFrame :=
  newTx s b.handle.toNat (beatWord b 0) (beatWord b 2) true none

/-- That frame with the beat's bytes, as it opens. -/
def beatOpened (b : EgressBeat) (s : State) : TxFrame :=
  { beatFrame b s with bytes := b.data, ended := b.last }

section HeaderBeat

variable {b : EgressBeat} {s : State} (formed : wfHeaderBeat b = true)
include formed

/-- While the interface is not ready a header beat waits (R318). -/
theorem headerBeat_waits_notReady (busy : s.eReady = false) : exec (.egressHeaderBeat b) s = .next s := by
  simp [exec, execEgressHeaderBeat, formed, busy]

variable (ready : s.eReady = true) (shut : openTx s b.handle.toNat = none)
include ready shut

/-- A header beat of more than 32 data bytes is discarded (R320). -/
theorem headerBeat_overlong (long : 32 < b.bytes.toNat) {u v : State}
    (eu : u = if b.last then s.unskipHandle b.handle.toNat else s.skipHandle b.handle.toNat)
    (ev : v = if b.mgmt then u else u.post (315 + 4 * b.domain.toNat)) :
    exec (.egressHeaderBeat b) s = .next (if !(s.stream b.handle.toNat).free && beatOwned b s then
      v.refuseOffer (beatFrame b v) stMalformed else v) := by
  subst eu ev
  simp only [exec, execEgressHeaderBeat, formed, ready, long, State.endShort_of_not_open shut, Bool.not_true,
    Bool.false_eq_true, if_false, if_true]
  rfl

variable (short : b.bytes.toNat ≤ 32)
include short

/-- A beat of whose descriptor a container is bad is malformed before any other ground (R5). -/
theorem headerBeat_badContainer (bad : b.desc.any badContainer = true) : exec (.egressHeaderBeat b) s =
    .next ((s.unskipHandle b.handle.toNat).refuseOffer (beatFrame b s) stMalformed) := by
  simp only [exec, execEgressHeaderBeat, beatFrame, beatWord, formed, ready, Nat.not_lt.mpr short,
    State.endShort_of_not_open shut, bad, Bool.not_true, Bool.true_or, Bool.false_eq_true, if_false, if_true]

variable (sound : b.desc.any badContainer = false)
include sound

/-- A beat that fails R96 completes with the status of the first condition it fails. -/
theorem headerBeat_refused {st : Nat} (ground : r96 (s.stream b.handle.toNat) (beatOwned b s) = some st) :
    exec (.egressHeaderBeat b) s = .next (((s.unskipHandle b.handle.toNat).refuseOffer (beatFrame b s) st).offerRefused
      (if b.mgmt then 16 else b.domain.toNat)) := by
  rw [beatOwned] at ground
  simp only [exec, execEgressHeaderBeat, beatFrame, beatWord, formed, ready, Nat.not_lt.mpr short,
    State.endShort_of_not_open shut, sound, ground, Bool.not_true, Bool.false_eq_true, if_false]

variable (admitted : r96 (s.stream b.handle.toNat) (beatOwned b s) = none)
include admitted

/-- A beat whose descriptor breaks Table 11.6 completes MALFORMED. -/
theorem headerBeat_malformed (wrong : transmitOk (s.stream b.handle.toNat) b.handle.toNat (beatWord b 0) = false) :
    exec (.egressHeaderBeat b) s =
      .next ((s.unskipHandle b.handle.toNat).refuseOffer (beatFrame b s) stMalformed) := by
  simp only [beatOwned, beatWord, sound, Bool.false_eq_true, if_false] at admitted wrong
  simp only [exec, execEgressHeaderBeat, beatFrame, beatWord, formed, ready, Nat.not_lt.mpr short,
    State.endShort_of_not_open shut, sound, admitted, wrong, Bool.not_true, Bool.not_false, Bool.or_true,
    Bool.false_eq_true, if_false, if_true]

/-- A beat that meets every condition opens its frame where a frame may open and its buffers can hold it, and waits
otherwise (R318, R321). -/
theorem headerBeat_opens_or_waits
    (keeps : transmitOk (s.stream b.handle.toNat) b.handle.toNat (beatWord b 0) = true)
    (plain : (s.stream b.handle.toNat).isSealRec = false)
    (bypass : dBypass (beatWord b 0) = true → (s.stream b.handle.toNat).isClear = true ∧
      bit (s.stream b.handle.toNat).w1 (32 + dPort (beatWord b 0)) = true) :
    exec (.egressHeaderBeat b) s = .next (
      if decide (32 ≤ (s.tx.filter (fun z => z.iface && !z.ended)).length) || !egressFits s (beatOpened b s) then s
      else (State.classifyTx { s.unskipHandle b.handle.toNat with
          tx := s.tx ++ [beatOpened b s], nextFrame := s.nextFrame + 1 } (beatOpened b s)).judgeTx
        (beatOpened b s).id) := by
  have allowed : (dBypass (beatWord b 0) && (!(s.stream b.handle.toNat).isClear ||
      !bit (s.stream b.handle.toNat).w1 (32 + dPort (beatWord b 0)))) = false := by
    cases byp : dBypass (beatWord b 0) with
    | false => rfl
    | true => simp [bypass byp]
  simp only [beatOwned, beatWord, sound, Bool.false_eq_true, if_false] at admitted keeps allowed
  simp only [exec, execEgressHeaderBeat, beatOpened, beatFrame, beatWord, formed, ready,
    Nat.not_lt.mpr short, State.endShort_of_not_open shut, sound, admitted, keeps, allowed, plain, shut,
    apply_ite Host.Outcome.next, Option.isNone_none, Bool.true_and, Bool.not_true, Bool.or_false, Bool.false_eq_true,
    if_false]

end HeaderBeat

section DataBeat

variable {b : EgressBeat} {s : State} {h : Nat} (formed : wfDataBeat b = true) (eh : h = b.handle.toNat)
include formed

/-- While the interface is not ready a data beat waits (R318). -/
theorem dataBeat_waits_notReady (busy : s.eReady = false) : exec (.egressDataBeat b) s = .next s := by
  simp [exec, execEgressDataBeat, formed, busy]

variable (ready : s.eReady = true)
include eh ready

/-- What follows a discarded header beat or a bad data beat is skipped up to the last beat (R320). -/
theorem dataBeat_skipped (skip : s.egSkip.contains h = true) :
    exec (.egressDataBeat b) s = .next (if b.last then s.unskipHandle h else s) := by
  subst eh
  simp only [exec, execEgressDataBeat, formed, ready, skip, Bool.not_true, Bool.false_eq_true, if_false, if_true]

variable (heard : s.egSkip.contains h = false)
include heard

/-- A data beat without an open frame is discarded (R320). -/
theorem dataBeat_orphan (shut : openTx s h = none) :
    exec (.egressDataBeat b) s = .next (if b.mgmt then s else s.post (315 + 4 * b.domain.toNat)) := by
  subst eh
  simp only [exec, execEgressDataBeat, formed, ready, heard, shut, Bool.not_true, Bool.false_eq_true, if_false]

variable {x : TxFrame} (opened : openTx s h = some x)
include opened

/-- A data beat of a byte count out of range ends the open frame short (R320). -/
theorem dataBeat_badCount (count : b.bytes.toNat = 0 ∨ 64 < b.bytes.toNat) :
    exec (.egressDataBeat b) s = .next (if b.last then s.endShort h else (s.endShort h).skipHandle h) := by
  subst eh
  have bad : (b.bytes = 0 || decide (64 < b.bytes.toNat)) = true := by
    simpa [BitVec.toNat_eq] using count
  simp only [exec, execEgressDataBeat, formed, ready, heard, opened, bad, Bool.not_true, Bool.false_eq_true, if_false,
    if_true]

/-- A data beat in range adds its bytes where the egress buffers can hold them, and waits otherwise (R319, R321). -/
theorem dataBeat_adds_or_waits {y : TxFrame} (ey : y = { x with bytes := x.bytes ++ b.data })
    (least : 1 ≤ b.bytes.toNat) (most : b.bytes.toNat ≤ 64) :
    exec (.egressDataBeat b) s = .next (
      if egressFits s y then (if b.last then ((s.setTx y).judgeTx x.id).endOpen h else (s.setTx y).judgeTx x.id)
      else s) := by
  subst eh ey
  have good : (b.bytes = 0 || decide (64 < b.bytes.toNat)) = false := by
    simp [BitVec.toNat_eq]
    omega
  simp only [exec, execEgressDataBeat, formed, ready, heard, opened, good, Bool.not_true, Bool.false_eq_true, if_false]
  cases egressFits s { x with bytes := x.bytes ++ b.data } <;> rfl

end DataBeat

/-- Settles O42: a header beat and a data beat taken through the branches of their meanings, one lemma for each. -/
theorem egressBeatsAct : Obligations.EgressBeatsAct := by
  unfold Obligations.EgressBeatsAct
  refine ⟨?header, ?data⟩
  case header =>
    intro b s h c own bad d0 x y formed eh ec eown ebad ed ex ey
    subst eh ec ebad
    obtain rfl : own = beatOwned b s := eown
    obtain rfl : d0 = beatWord b 0 := ed
    obtain rfl : x = beatFrame b s := ex
    obtain rfl : y = beatOpened b s := ey
    refine ⟨fun ready shut short =>
        ⟨?opens, fun _ sound => headerBeat_refused formed ready shut short sound, ?malformed⟩,
      fun u v ready shut long => headerBeat_overlong formed ready shut long, headerBeat_waits_notReady formed⟩
    case opens =>
      intro sound admitted keeps plain bypass
      rw [headerBeat_opens_or_waits formed ready shut short sound admitted keeps plain bypass]
      exact ⟨fun few fits => by rw [if_neg (by simp [few, fits])], fun full => by rw [if_pos (by simpa using full)]⟩
    case malformed =>
      rintro (bad | ⟨admitted, wrong⟩)
      · exact headerBeat_badContainer formed ready shut short bad
      · cases bad : b.desc.any badContainer with
        | true => exact headerBeat_badContainer formed ready shut short bad
        | false => exact headerBeat_malformed formed ready shut short bad admitted wrong
  case data =>
    intro b s h formed eh
    refine ⟨dataBeat_waits_notReady formed, dataBeat_skipped formed eh, fun ready heard => ⟨?_,
      fun x opened => dataBeat_badCount formed eh ready heard opened, dataBeat_orphan formed eh ready heard⟩⟩
    intro x y opened ey least most
    rw [dataBeat_adds_or_waits formed eh ready heard opened ey least most]
    exact ⟨fun fits => by rw [if_pos fits], fun full => by simp [full]⟩

/-! ### Bits of masks -/

theorem bit_or {n : Nat} (v w : BitVec n) (i : Nat) : bit (v ||| w) i = (bit v i || bit w i) := BitVec.getLsbD_or

theorem bit_evBit (n i : Nat) : bit (evBit n) i = decide (i < 528 ∧ i = n) := by
  have pow : (1 <<< n).testBit i = decide (i = n) := by
    rw [Nat.shiftLeft_eq, Nat.one_mul, Nat.testBit_two_pow]
    exact decide_eq_decide.mpr eq_comm
  rw [bit, evBit, BitVec.getLsbD_ofNat, pow, Bool.decide_and]

theorem bit_foldl_evBit (base : Nat) (p : Nat → Bool) (l : List Nat) (m : BitVec 528) (i : Nat) :
    bit (l.foldl (fun m b => if p b then m ||| evBit (base + b) else m) m) i =
      (bit m i || l.any (fun b => p b && bit (evBit (base + b)) i)) := by
  induction l generalizing m with
  | nil => simp
  | cons b l ih =>
    rw [List.foldl_cons, ih, List.any_cons]
    cases p b <;> simp [bit_or, Bool.or_assoc]

/-- The sources that a write of a status register names are those of its 48 whose bit is written with 1 (R456). -/
theorem bit_clearMask (k : Nat) (w : Word) {i : Nat} (hi : i < 528) :
    bit (clearMask k w) i = (i / 48 == k && bit w (i % 48)) := by
  rw [clearMask, bit_foldl_evBit, Bool.eq_iff_iff]
  simp only [bit_evBit, hi, true_and]
  have blank : bit (0 : BitVec 528) i = false := by simp [bit]
  simp only [blank, Bool.false_or, List.any_eq_true, List.mem_range, Bool.and_eq_true, decide_eq_true_eq, beq_iff_eq]
  constructor
  · rintro ⟨b, hb, set, rfl⟩
    rw [show (48 * k + b) % 48 = b by omega]
    exact ⟨by omega, set⟩
  · rintro ⟨rfl, set⟩
    exact ⟨i % 48, Nat.mod_lt _ (by decide), set, by omega⟩

/-! ### What a posting may set -/

/-- Between two event blocks no status bit has fallen, and none below 478, the first overflow event, has risen
(R465). -/
structure Eye.OverflowsOnly (e e' : Eye) : Prop where
  keeps : ∀ i, bit e.status i = true → bit e'.status i = true
  below : ∀ i, i < 478 → bit e'.status i = bit e.status i

namespace Eye

theorem OverflowsOnly.of_status {e e' : Eye} (same : e'.status = e.status) : OverflowsOnly e e' :=
  ⟨fun i b => same ▸ b, fun i _ => by rw [same]⟩

theorem OverflowsOnly.trans {e e1 e2 : Eye} (h : OverflowsOnly e e1) (k : OverflowsOnly e1 e2) : OverflowsOnly e e2 :=
  ⟨fun i b => k.keeps i (h.keeps i b), fun i low => (k.below i low).trans (h.below i low)⟩

/-- A source from 478 on joins the status bits. -/
theorem OverflowsOnly.set (e : Eye) {n : Nat} (high : 478 ≤ n) :
    OverflowsOnly e { e with status := e.status ||| evBit n } where
  keeps i b := by simp [bit_or, b]
  below i low := by simp [bit_or, bit_evBit, show i ≠ n by omega]

@[simp] theorem logIf_status (n : Nat) (lvl : Bool) (t : Tick) (e : Eye) : (logIf n lvl t e).status = e.status := by
  unfold logIf logRecord
  dsimp only
  repeat' split
  all_goals rfl

section Counting

variable {post : Nat → Eye → Eye} (wraps : ∀ n e, 478 ≤ n → OverflowsOnly e (post n e))
include wraps

/-- Counting posts only overflow events, which are the sources 478 to 485 (R465). -/
theorem addCtr_overflowsOnly (n k : Nat) (e : Eye) : OverflowsOnly e (addCtr post n k e) := by
  have raw (m j : Nat) (x : Eye) : OverflowsOnly x (x.addRaw m j).1 := .of_status rfl
  unfold addCtr
  dsimp only
  split
  · exact raw ..
  · split
    · split
      · exact raw ..
      · split
        · exact ((raw ..).trans (raw ..)).trans (wraps _ _ (Nat.le_add_right ..))
        · exact (raw ..).trans (raw ..)
    · exact (raw ..).trans (wraps _ _ (Nat.le_add_right ..))

theorem countEach_overflowsOnly (hit : Nat → Word → Nat) (e : Eye) : OverflowsOnly e (countEach post hit e) := by
  unfold countEach
  refine List.foldlRecOn (motive := OverflowsOnly e) e.sel _ (.of_status rfl) fun x grown p _ => ?_
  split
  · exact grown.trans (addCtr_overflowsOnly wraps ..)
  · exact grown

/-- A posting sets its source, and beside it overflow events only. -/
theorem postWith_overflowsOnly (lvl : Bool) (t : Tick) (n : Nat) (e : Eye) :
    OverflowsOnly { e with status := e.status ||| evBit n } (postWith post lvl t n e) := by
  unfold postWith countBy
  exact (OverflowsOnly.of_status (logIf_status ..)).trans (countEach_overflowsOnly wraps ..)

end Counting

theorem postN_wraps (fuel : Nat) (t : Tick) : ∀ n e, 478 ≤ n → OverflowsOnly e (postN fuel t n e) := by
  induction fuel with
  | zero => exact fun _ _ _ => .of_status rfl
  | succ fuel ih => exact fun n e high => (OverflowsOnly.set e high).trans (postWith_overflowsOnly ih false t n e)

theorem postN_overflowsOnly (fuel : Nat) (t : Tick) (n : Nat) (e : Eye) :
    OverflowsOnly { e with status := e.status ||| evBit n } (postN (fuel + 1) t n e) :=
  postWith_overflowsOnly (postN_wraps fuel t) false t n e

/-- A posted source stands set after its posting. -/
theorem bit_postN_self (fuel : Nat) (t : Tick) {n : Nat} (hn : n < 528) (e : Eye) :
    bit (postN (fuel + 1) t n e).status n = true :=
  (postN_overflowsOnly fuel t n e).keeps n (by simp [bit_or, bit_evBit, hn])

/-- A posting lets no status bit fall. -/
theorem bit_postN_of_bit (fuel : Nat) (t : Tick) (n : Nat) {e : Eye} {i : Nat} (set : bit e.status i = true) :
    bit (postN (fuel + 1) t n e).status i = true :=
  (postN_overflowsOnly fuel t n e).keeps i (by simp [bit_or, set])

/-- A posting leaves every other source below the overflow events as it is. -/
theorem bit_postN_other (fuel : Nat) (t : Tick) {n i : Nat} (apart : i ≠ n) (low : i < 478) (e : Eye) :
    bit (postN (fuel + 1) t n e).status i = bit e.status i :=
  ((postN_overflowsOnly fuel t n e).below i low).trans (by simp [bit_or, bit_evBit, apart])

/-- Several postings let no status bit fall. -/
theorem bit_postNs_of_bit (fuel : Nat) (t : Tick) (ps : List Nat) {e : Eye} {i : Nat} (set : bit e.status i = true) :
    bit (ps.foldl (fun x n => postN (fuel + 1) t n x) e).status i = true := by
  induction ps generalizing e with
  | nil => exact set
  | cons n ps ih => exact ih (bit_postN_of_bit fuel t n set)

/-- Of sources that post in turn each stands set after the last of them. -/
theorem bit_postNs_mem (fuel : Nat) (t : Tick) {ps : List Nat} (sources : ∀ n ∈ ps, n < 528) (e : Eye) {i : Nat}
    (mem : i ∈ ps) : bit (ps.foldl (fun x n => postN (fuel + 1) t n x) e).status i = true := by
  induction ps generalizing e with
  | nil => cases mem
  | cons n ps ih =>
    rcases List.mem_cons.mp mem with rfl | mem
    · exact bit_postNs_of_bit fuel t ps (bit_postN_self fuel t (sources i List.mem_cons_self) e)
    · exact ih (fun n hn => sources n (List.mem_cons_of_mem _ hn)) _ mem

theorem bit_postNs_not_mem (fuel : Nat) (t : Tick) {ps : List Nat} (e : Eye) {i : Nat} (apart : i ∉ ps)
    (low : i < 478) : bit (ps.foldl (fun x n => postN (fuel + 1) t n x) e).status i = bit e.status i := by
  induction ps generalizing e with
  | nil => rfl
  | cons n ps ih =>
    rw [List.mem_cons, not_or] at apart
    exact (ih _ apart.2).trans (bit_postN_other fuel t apart.1 low e)

end Eye

/-! ### What the window admits -/

theorem regWrite_admitted {s : State} {cls : Cls} {off : Nat} (f : State → State) (free : windowHeld s = false)
    (admitted : windowRefusal s cls (off / 4096) true = none) : s.regWrite cls off f = f s := by
  simp [State.regWrite, free, admitted]

theorem regRead_admitted {s : State} {cls : Cls} {off : Nat} (f : State → State) (free : windowHeld s = false)
    (admitted : windowRefusal s cls (off / 4096) false = none) : s.regRead cls off f = f s := by
  simp [State.regRead, free, admitted]

/-! ### Status registers (R456, R13) -/

/-- A source reads, after a write of its status register, as set where it was and was not written with 1. -/
theorem bit_status_cleared (e : Eye) (k : Nat) (w : Word) {i : Nat} (hi : i < 528) :
    bit (e.status &&& ~~~clearMask k w) i = (bit e.status i && !(i / 48 == k && bit w (i % 48))) := by
  rw [← bit_clearMask k w hi]
  simp [bit, hi]

theorem clearStatus_status (s : State) (k : Nat) (w : Word) (ps : List Nat) : (s.clearStatus k w ps).eye.status =
    (ps.foldl (fun x n => Eye.postN 65 s.plan n x) { s.eye with status := s.eye.status &&& ~~~clearMask k w }).status :=
  rfl

theorem exec_evStatusClear_admitted {cls : Cls} {k : Fin 11} {v : Container} {ps : List Nat} {s : State}
    (free : windowHeld s = false) (admitted : windowRefusal s cls 0x81 true = none) (sources : ∀ n ∈ ps, n < 502) :
    exec (.evStatusClear cls k v ps) s = .next (s.clearStatus k.val (toWord v) ps) := by
  have page : offEvStatus k.val / 4096 = 0x81 := by unfold offEvStatus; omega
  have all : ps.filter (fun n => decide (n < 502)) = ps := by simpa using sources
  simp [exec, execEvStatusClear, free, page, admitted, all]

/-- A status register clears what is written with 1, and what posts in the same cycle stands set (R13, R456). -/
theorem evStatusClear_acts (cls : Cls) (k : Fin 11) (v : Container) (posting : List Nat) (s : State)
    (free : windowHeld s = false) (admitted : windowRefusal s cls 0x81 true = none)
    (sources : ∀ n ∈ posting, n < 502) :
    ∃ t, exec (.evStatusClear cls k v posting) s = .next t ∧ (∀ n ∈ posting, bit t.eye.status n = true) ∧
      (∀ n, n < 528 → n ∉ posting → (posting = [] ∨ n < 478) → bit t.eye.status n =
        (bit s.eye.status n && !(n / 48 == k.val && bit (toWord v) (n % 48)))) ∧ t = { s with eye := t.eye } := by
  refine ⟨_, exec_evStatusClear_admitted free admitted sources, fun n mem => ?_, fun n hn apart still => ?_, rfl⟩
  · rw [clearStatus_status]
    exact Eye.bit_postNs_mem 64 s.plan (fun n mem => Nat.lt_trans (sources n mem) (by decide)) _ mem
  · rw [clearStatus_status, ← bit_status_cleared s.eye k.val (toWord v) hn]
    rcases still with rfl | low
    · rfl
    · exact Eye.bit_postNs_not_mem 64 s.plan _ apart low

/-! ### Counters (R461, R464, R466) -/

/-- An addition that does not wrap goes to its counter alone (R461). -/
theorem Eye.addCtr_of_lt (post : Nat → Eye → Eye) {n k : Nat} {e : Eye}
    (fits : (Table.get 0 n e.ctr).toNat + k < 2 ^ 48) : Eye.addCtr post n k e =
      { e with ctr := Table.put 0 n (BitVec.ofNat 48 ((Table.get 0 n e.ctr).toNat + k)) e.ctr } := by
  have no : decide (2 ^ 48 ≤ (Table.get 0 n e.ctr).toNat + k) = false := by simpa using fits
  simp only [Eye.addCtr, Eye.addRaw, no, Bool.not_false, if_true]

/-- A counter written takes the value, and the cycle's increment with it where it counts, if that does not wrap. -/
theorem writeCounter_of_lt {s : State} {n : Nat} {w : Word} {inc : Nat} (fits : w.toNat + inc < 2 ^ 48) :
    (s.writeCounter n w inc).eye.ctr = (if s.eye.counting n then
        Table.put 0 n (BitVec.ofNat 48 (w.toNat + inc)) (Table.put 0 n w s.eye.ctr)
      else Table.put 0 n w s.eye.ctr) ∧
    (s.writeCounter n w inc).eye.sel = s.eye.sel := by
  have same (c i : Table _) : ({ s.eye with ctr := c, since := i } : Eye).counting n = s.eye.counting n := rfl
  unfold State.writeCounter State.bumpCounter State.onEye Eye.refresh
  dsimp only
  rw [same]
  cases s.eye.counting n with
  | false => exact ⟨rfl, rfl⟩
  | true =>
    rw [if_pos rfl, Eye.addCtr_of_lt _ (by simpa using fits)]
    simp

theorem counterWrite_acts (cls : Cls) (n : Fin 64) (v : Container) (inc : Nat) (s : State)
    (free : windowHeld s = false) (admitted : windowRefusal s cls 0x82 true = none)
    (fits : (toWord v).toNat + inc < 2 ^ 48) :
    ∃ t, exec (.counterWrite cls n v inc) s = .next t ∧
      Table.get 0 n.val t.eye.ctr = BitVec.ofNat 48 ((toWord v).toNat + if s.eye.counting n.val then inc else 0) ∧
      (∀ k, k ≠ n.val → Table.get 0 k t.eye.ctr = Table.get 0 k s.eye.ctr) ∧ t.eye.sel = s.eye.sel ∧
      t = { s with eye := t.eye } := by
  have page : offCtr n.val / 4096 = 0x82 := by unfold offCtr; omega
  have run : exec (.counterWrite cls n v inc) s = .next (s.writeCounter n.val (toWord v) inc) := by
    simp [exec, execCounterWrite, free, page, admitted]
  obtain ⟨ctr, sel⟩ := writeCounter_of_lt (s := s) (n := n.val) fits
  refine ⟨_, run, ?_, fun k apart => ?_, sel, rfl⟩
  · rw [ctr]
    cases s.eye.counting n.val <;> simp
  · rw [ctr]
    cases s.eye.counting n.val <;> simp [apart]

theorem chainedCounterLowRead_acts (cls : Cls) (j : Fin 32) (s : State) (free : windowHeld s = false)
    (admitted : windowRefusal s cls 0x82 false = none) :
    ∃ t, exec (.chainedCounterLowRead cls j) s = .next t ∧ t.bus = ⟨Table.get 0 (2 * j.val) s.eye.ctr, false⟩ ∧
      (s.eye.paired (2 * j.val + 1) = true →
        Table.get 0 (2 * j.val + 1) t.eye.latch = (Table.get 0 (2 * j.val + 1) s.eye.ctr).toNat + 1) ∧
      (s.eye.paired (2 * j.val + 1) = false → t.eye.latch = s.eye.latch) ∧
      t = { s with bus := t.bus, eye := { s.eye with latch := t.eye.latch } } := by
  have page : offCtr (2 * j.val) / 4096 = 0x82 := by unfold offCtr; omega
  have run : exec (.chainedCounterLowRead cls j) s = .next (s.readCounter (2 * j.val)) :=
    congrArg _ (regRead_admitted _ free (page ▸ admitted))
  have low : 2 * j.val % 2 = 0 := by omega
  refine ⟨_, run, ?_, fun pair => ?_, fun single => ?_, ?_⟩ <;> simp only [State.readCounter, if_pos low]
  · simp [pair]
  · simp [single]

/-! ### RC fields (R13, R478) -/

/-- The RC fields: the loss counts of a gate, of a ring of Eyebright, and of the memory fault log. -/
theorem isRc_cases {off : Nat} (rc : isRc off = true) :
    (∃ g < 17, off = 0x60208 + 0x1000 * g) ∨ (∃ r, off = offEyeRing r + 0x20) ∨ off = 0x93408 := by
  simp only [isRc, Bool.or_eq_true, Bool.and_eq_true, decide_eq_true_eq, beq_iff_eq] at rc
  rcases rc with (⟨⟨low, high⟩, reg⟩ | (rfl | rfl) | rfl) | rfl
  · exact .inl ⟨(off - 0x60208) / 0x1000, by omega, by omega⟩
  · exact .inr (.inl ⟨.snap, rfl⟩)
  · exact .inr (.inl ⟨.trace, rfl⟩)
  · exact .inr (.inl ⟨.evlog, rfl⟩)
  · exact .inr (.inr rfl)

@[simp] theorem Eye.ringOf_setRing (e : Eye) (r : EyeRing) (q : EyeRingState) : (e.setRing r q).ringOf r = q := by
  cases r <;> rfl

theorem regValue_glogLost (s : State) {g : Nat} (hg : g < 17) :
    regValue s (0x60208 + 0x1000 * g) = (s.gate g).lost := by
  have page : (0x60208 + 0x1000 * g) / 4096 = 0x60 + g := by omega
  have reg : (0x60208 + 0x1000 * g) % 4096 = 0x208 := by omega
  unfold regValue
  simp only [page, reg]
  rw [if_neg (by omega), if_neg (by omega), if_neg (by omega), if_neg (by omega), if_pos (by omega),
    Nat.add_sub_cancel_left]
  rfl

theorem regValue_eyeLost (s : State) (r : EyeRing) : regValue s (offEyeRing r + 0x20) = (s.eye.ringOf r).lost := by
  cases r <;> rfl

theorem regValue_mflogLost (s : State) : regValue s 0x93408 = s.mem.lost := rfl

theorem putRc_glogLost (s : State) {g : Nat} (hg : g < 17) (w : Word) :
    s.putRc (0x60208 + 0x1000 * g) w = s.setGate g { s.gate g with lost := w } := by
  unfold State.putRc
  rw [if_neg (by omega), if_neg (by omega), show (0x60208 + 0x1000 * g - 0x60000) / 4096 = g by omega]

theorem putRc_eyeLost (s : State) (r : EyeRing) (w : Word) : s.putRc (offEyeRing r + 0x20) w =
    { s with eye := s.eye.setRing r { s.eye.ringOf r with lost := w } } := by
  cases r <;> rfl

theorem putRc_mflogLost (s : State) (w : Word) : s.putRc 0x93408 w = { s with mem := { s.mem with lost := w } } := rfl

/-- An RC field reads as the value it has taken. -/
theorem regValue_putRc (s : State) {off : Nat} (rc : isRc off = true) (w : Word) :
    regValue (s.putRc off w) off = w := by
  rcases isRc_cases rc with ⟨g, hg, rfl⟩ | ⟨r, rfl⟩ | rfl
  · rw [putRc_glogLost s hg, regValue_glogLost _ hg, State.gate_setGate]
  · rw [putRc_eyeLost, regValue_eyeLost, Eye.ringOf_setRing]
  · rw [putRc_mflogLost, regValue_mflogLost]

/-- An RC field lies in the gates, the event block or the memory plane. -/
theorem putRc_frame (s : State) (off : Nat) (w : Word) : s.putRc off w =
    { s with gates := (s.putRc off w).gates, eye := (s.putRc off w).eye, mem := (s.putRc off w).mem } := by
  unfold State.putRc
  repeat' split
  all_goals rfl

/-! ### Reads of the window (R464, R476, R478, R490) -/

theorem exec_rcFieldRead_admitted {cls : Cls} {off : BitVec 20} {update : Nat} {s : State}
    (free : windowHeld s = false) (aligned : off.toNat % 8 = 0)
    (admitted : windowRefusal s cls (off.toNat / 4096) false = none) :
    exec (.rcFieldRead cls off 8 update) s = .next (s.regAccess cls off.toNat update) := by
  simp [exec, execRcFieldRead, accessRefusal, free, aligned, admitted]

/-- A read of an RC field answers with its value and leaves the field as R13 and R478 have it. -/
theorem regAccess_rc (s : State) (cls : Cls) {off : Nat} (update : Nat) (rc : isRc off = true) :
    s.regAccess cls off update = State.putRc { s with bus := ⟨regValue s off, false⟩ } off
      (rcAfter (cls.toNat == 17) (regValue s off) update) := by
  have outside : ¬ (0x82000 ≤ off ∧ off < 0x82200) ∧ ¬ (0x93000 ≤ off ∧ off < 0x93400) := by
    rcases isRc_cases rc with ⟨g, hg, rfl⟩ | ⟨r, rfl⟩ | rfl
    · omega
    · cases r <;> decide
    · decide
  simp only [State.regAccess, if_neg outside.1, if_neg outside.2, rc, if_true]

/-- A read of a word of the memory fault log marks its entry read (R490). -/
theorem regAccess_faultLog (s : State) (cls : Cls) {off : Nat} (update : Nat) (low : 0x93000 ≤ off)
    (high : off < 0x93400) : s.regAccess cls off update = { s with
      bus := ⟨regValue s off, false⟩
      mem := { s.mem with unread := setBit s.mem.unread ((off - 0x93000) / 32) false } } := by
  have plain : isRc off = false := by
    simp [isRc]
    omega
  simp [State.regAccess, plain, low, high, show ¬ off < 0x82200 by omega]

/-- A read of any other register but a counter answers with its value and changes nothing else. -/
theorem regAccess_plain (s : State) (cls : Cls) {off : Nat} (update : Nat) (plain : isRc off = false)
    (noCounter : ¬ (0x82000 ≤ off ∧ off < 0x82200)) (noLog : ¬ (0x93000 ≤ off ∧ off < 0x93400)) :
    s.regAccess cls off update = { s with bus := ⟨regValue s off, false⟩ } := by
  simp only [State.regAccess, if_neg noCounter, if_neg noLog, plain, Bool.false_eq_true, if_false]

theorem rcFieldRead_acts (cls : Cls) (off : BitVec 20) (update : Nat) (s : State) (free : windowHeld s = false)
    (aligned : off.toNat % 8 = 0) (admitted : windowRefusal s cls (off.toNat / 4096) false = none)
    (rc : isRc off.toNat = true) :
    ∃ t, exec (.rcFieldRead cls off 8 update) s = .next t ∧ t.bus = ⟨regValue s off.toNat, false⟩ ∧
      regValue t off.toNat = satAdd (if cls.toNat = 17 then regValue s off.toNat else 0) update ∧
      t = { s with bus := t.bus, gates := t.gates, eye := t.eye, mem := t.mem } := by
  have run := exec_rcFieldRead_admitted (update := update) free aligned admitted
  rw [regAccess_rc s cls update rc] at run
  refine ⟨_, run, ?_, ?_, ?_⟩
  · rw [putRc_frame]
  · rw [regValue_putRc _ rc]
    simp [rcAfter]
  · rw [putRc_frame]

/-! ### Writes of the window (R8, R476, Table 17.4) -/

theorem exec_registerWrite_admitted {cls : Cls} {off : BitVec 20} {v : Container} {s : State}
    (free : windowHeld s = false) (aligned : off.toNat % 8 = 0)
    (admitted : windowRefusal s cls (off.toNat / 4096) true = none) :
    exec (.registerWrite cls off 8 v) s = .next (s.regStore off.toNat (toWord v)) := by
  simp [exec, execRegisterWrite, accessRefusal, free, aligned, admitted]

/-- A page of read-only registers alone keeps what it holds (R8). -/
theorem regStore_readOnly (s : State) {off : Nat} (w : Word)
    (page : off / 4096 ∈ [0x80, 0x84, 0x90, 0x91, 0x92, 0x93, 0x94]) : s.regStore off w = s := by
  simp only [List.mem_cons, List.not_mem_nil, or_false] at page
  unfold State.regStore
  dsimp only
  rw [if_neg (by omega), if_neg (by omega), if_neg (by omega), if_neg (by omega), if_neg (by omega),
    if_neg (by omega)]

theorem regStore_doorbell (s : State) {h : Nat} (hh : h < 2 ^ 15) (w : Word) :
    s.regStore (doorbellOff h) w = s.doorbellWrite h w := by
  have page : doorbellOff h / 4096 = 0x20 + h / 512 := by unfold doorbellOff; omega
  have handle : 512 * (doorbellOff h / 4096 - 0x20) + doorbellOff h % 4096 / 8 = h := by unfold doorbellOff; omega
  unfold State.regStore
  dsimp only
  rw [if_neg (by omega), if_pos (by omega), handle]

theorem doorbellWrite_post (s : State) (h : Nat) {w : Word} (op : fld w 40 8 = 1) :
    s.doorbellWrite h w = s.doorbellPost h (fld w 32 8) (fld w 0 32) := if_pos op

/-- GLOG_CLEAR empties the log unless an entry comes in the same cycle (R484). -/
theorem Gate.clearLog_empties (x : Gate) {same : Bool} (alone : same = false ∨ x.present = false) :
    x.clearLog same = { x with log := [], newest := 0, present := false } := by
  rcases alone with h | h <;> simp [Gate.clearLog, h]

theorem exec_glogClear_admitted {cls : Cls} {g : Fin 17} (v : Container) (same : Bool) {s : State}
    (free : windowHeld s = false) (admitted : windowRefusal s cls (0x60 + g.val) true = none) :
    exec (.glogClear cls g v same) s = .next (s.glogClearWrite g.val (toWord v) same) := by
  have page : offGlogClear g.val / 4096 = 0x60 + g.val := by unfold offGlogClear; omega
  exact congrArg _ (regWrite_admitted _ free (page ▸ admitted))

theorem offEyeRing_page (r : EyeRing) {o : Nat} (ho : o < 0x40) : (offEyeRing r + o) / 4096 = 0x83 := by
  cases r <;> simp only [offEyeRing, eyeRingIndex] <;> omega

theorem exec_eyebrightReleaseWrite_admitted {cls : Cls} (r : EyeRing) (v : Container) {s : State}
    (free : windowHeld s = false) (admitted : windowRefusal s cls 0x83 true = none) :
    exec (.eyebrightReleaseWrite cls r v) s = .next (s.writeEyeRelease r (toWord v)) :=
  congrArg _ (regWrite_admitted _ free (offEyeRing_page r (o := 0x18) (by decide) ▸ admitted))

theorem exec_eyebrightRingControl_admitted {cls : Cls} (r : EyeRing) (v : Container) {s : State}
    (free : windowHeld s = false) (admitted : windowRefusal s cls 0x83 true = none) :
    exec (.eyebrightRingControl cls r v) s = .next (s.writeEyeCtrl r (toWord v)) :=
  congrArg _ (regWrite_admitted _ free (offEyeRing_page r (o := 0x08) (by decide) ▸ admitted))

/-- Settles O60: each row of the window by the lemma about it. -/
theorem registerWindowActs : Obligations.RegisterWindowActs := by
  unfold Obligations.RegisterWindowActs
  refine ⟨evStatusClear_acts, counterWrite_acts, chainedCounterLowRead_acts, ?reads, ?logs, ?rings, ?writes⟩
  case reads =>
    intro cls off update s free aligned admitted
    have run := exec_rcFieldRead_admitted (update := update) free aligned admitted
    exact ⟨rcFieldRead_acts cls off update s free aligned admitted,
      fun plain noCounter noLog => run.trans (congrArg _ (regAccess_plain s cls update plain noCounter noLog)),
      fun low high => run.trans (congrArg _ (regAccess_faultLog s cls update low high))⟩
  case logs =>
    intro cls g v same s free admitted
    rw [exec_glogClear_admitted v same free admitted]
    refine ⟨fun clear alone => ?_, fun keep => ?_⟩
    · rw [State.glogClearWrite, if_pos clear, Gate.clearLog_empties _ alone]
    · rw [State.glogClearWrite, keep, if_neg Bool.false_ne_true]
  case rings =>
    intro cls r v s q hq free admitted
    subst hq
    rw [exec_eyebrightReleaseWrite_admitted r v free admitted, exec_eyebrightRingControl_admitted r v free admitted]
    exact ⟨fun within => congrArg _ (if_pos within), fun beyond => congrArg _ (if_neg (Nat.not_le.mpr beyond)), rfl⟩
  case writes =>
    intro cls off v s free aligned admitted
    rw [exec_registerWrite_admitted free aligned admitted]
    refine ⟨rfl, fun page => congrArg _ (regStore_readOnly s _ page), fun h at_h hh op => ?_⟩
    rw [at_h, regStore_doorbell s hh, doorbellWrite_post s h op]

end Sys2Proof.Machine

/-!
PROOFS. The statements of Speedwell, its plan boundary and the work that it times (O16, O20, O30, O31, O37, O39, O45,
O49).
-/

namespace Sys2Proof.Machine

/-! ### Ticks and admission (R44, R45, R49, R61 to R63, R71) -/

/-- A value put under each key of a list reads back under those keys, and every other key keeps its own. -/
theorem Table.get_foldl_put {α : Type} [DecidableEq α] (d : α) (f : Nat → α) (l : List Nat) (m : Table α) (k : Nat) :
    Table.get d k (l.foldl (fun t j => Table.put d j (f j) t) m) = if k ∈ l then f k else Table.get d k m := by
  induction l generalizing m with
  | nil => rfl
  | cons j l ih =>
    rw [List.foldl_cons, ih]
    by_cases same : k = j
    · subst same
      simp
    · simp [same]

/-- The boundary events come after the ticks are set, and move none. -/
theorem State.postTicks_ticks (k : Nat) (l : List (Nat × Tick × Tick)) (s : State) :
    (State.postTicks k l s).ticks = s.ticks :=
  ((State.postTicks_touch k l s (by decide)).mpr (Touch.refl [.eye] s)).ticks (by decide)

/-- At the boundary that begins plan tick n the plan index is n. -/
theorem State.advanceTicks_plan (s : State) (n : Tick) : (s.advanceTicks n).plan = n :=
  congrArg TickState.plan (State.postTicks_ticks ..)

/-- The boundary sets the index of every enabled domain, and no other (R45). -/
theorem tickNow_advanceTicks (s : State) (n : Tick) {k : Nat} (hk : k ≠ 4) :
    tickNow (s.advanceTicks n) k = if k ∈ enabledDoms s then idxAt s n k else tickNow s k := by
  rw [tickNow, if_neg hk, tickNow, if_neg hk, State.advanceTicks, State.postTicks_ticks]
  exact Table.get_foldl_put ..

/-- Settles O31: the plan index is set, and each domain's index read back from the fold over the enabled domains. -/
theorem ticksAdvance : Obligations.TicksAdvance := by
  unfold Obligations.TicksAdvance
  intro n s
  refine ⟨State.advanceTicks_plan s n, fun k on hk => ?_, fun k off hk => ?_, fun k hk => ?_⟩
  · rw [tickNow_advanceTicks s n hk, if_pos on, idxAt]
  · rw [tickNow_advanceTicks s n hk, if_neg off]
  · rw [tickNow_advanceTicks s n hk, idxAt]
    split
    · exact Nat.le_max_left _ _
    · exact Nat.le_refl _

/-- No check of Table 2.6 fails exactly if every sum is within its share. -/
theorem admissionFails_none_iff (s : State) : admissionFails s = none ↔
    sumOf s (·.sealing) ≤ s.tcfg.protShare * planSlots s / 100 ∧
    sumOf s (·.opening) + sumOf s (·.echo) ≤ s.tcfg.protShare * planSlots s / 100 ∧
    (sumOf s (·.echo) : Int) ≤ (if sumOf s (·.echo) = 0 then 0
      else ((95 * planSlots s / 100 : Nat) - (lineReservation s : Int) : Int)) ∧
    sumOf s (·.ctrlSeal) ≤ s.tcfg.ctrlShare * planSlots s / 100 ∧
    sumOf s (·.ctrlOpen) ≤ s.tcfg.ctrlShare * planSlots s / 100 ∧
    sumOf s (·.keccak) + chainPerms s ≤ s.tcfg.keccakShare * planPerms s / 100 ∧
    sumOf s (·.digest) ≤ s.tcfg.lease := by
  simp only [admissionFails, Option.map_eq_none_iff, List.find?_eq_none, List.mem_cons, List.not_mem_nil, or_false,
    forall_eq_or_imp, forall_eq, decide_eq_true_eq, Int.not_lt]
  norm_cast

/-- Admission succeeds exactly if there is no plan overload and no check fails with the demand included (R61, R71). -/
theorem admitFail_none_iff (s : State) (h : Nat) (d : Demand) :
    admitFail s h d = none ↔ s.ovr.overload = false ∧ admissionFails (s.setDemand h d) = none := by
  unfold admitFail overloadFail
  cases s.ovr.overload <;> simp

/-- Settles O37: admission without a failing check is the conjunction of the checks; the echo room alone is compared as
an integer, since the line reservation may pass it. -/
theorem admissionKeepsEveryShare : Obligations.AdmissionKeepsEveryShare := by
  unfold Obligations.AdmissionKeepsEveryShare
  rintro s u h d rfl admitted
  obtain ⟨calm, within⟩ := (admitFail_none_iff s h d).mp admitted
  obtain ⟨sealing, opening, echo, ctrlSeal, ctrlOpen, keccak, digest⟩ := (admissionFails_none_iff _).mp within
  refine ⟨calm, sealing, opening, ?_, ctrlSeal, ctrlOpen, keccak, digest⟩
  by_cases empty : sumOf (s.setDemand h d) (·.echo) = 0
  · exact .inl empty
  · rw [if_neg empty] at echo
    have room : (sumOf (s.setDemand h d) (·.echo) : Int) ≤
      (95 * planSlots s / 100 : Nat) - (lineReservation s : Int) := echo
    exact .inr (by omega)

/-! ### Fields of words -/

theorem testBit_fld {n : Nat} (w : BitVec n) (lo len i : Nat) :
    (fld w lo len).testBit i = (decide (i < len) && bit w (lo + i)) := by
  rw [fld, Nat.testBit_mod_two_pow, Nat.testBit_shiftRight]
  rfl

/-- A field written holds the value written, and every bit outside it stays. -/
theorem bit_setFld {n : Nat} (w : BitVec n) (lo len v : Nat) {i : Nat} (hi : i < n) :
    bit (setFld w lo len v) i = if lo ≤ i ∧ i < lo + len then v.testBit (i - lo) else bit w i := by
  simp only [bit, setFld, maskOf, BitVec.getLsbD_or, BitVec.getLsbD_and, BitVec.getLsbD_not, BitVec.getLsbD_ofNat,
    Nat.testBit_shiftLeft, Nat.testBit_two_pow_sub_one, Nat.testBit_mod_two_pow, hi, decide_true, Bool.true_and]
  by_cases low : lo ≤ i
  · by_cases high : i < lo + len
    · simp [low, high, show i - lo < len by omega]
    · simp [low, high, show ¬ i - lo < len by omega]
  · simp [low]

theorem fld_setFld_same {n : Nat} (w : BitVec n) {lo len : Nat} (v : Nat) (fits : lo + len ≤ n) :
    fld (setFld w lo len v) lo len = v % 2 ^ len := by
  refine Nat.eq_of_testBit_eq fun i => ?_
  rw [testBit_fld, Nat.testBit_mod_two_pow]
  by_cases hi : i < len
  · rw [bit_setFld w lo len v (show lo + i < n by omega), if_pos (by omega), Nat.add_sub_cancel_left]
  · simp [hi]

theorem fld_setFld_apart {n : Nat} (w : BitVec n) {lo len lo' len' : Nat} (v : Nat) (fits : lo' + len' ≤ n)
    (apart : lo' + len' ≤ lo ∨ lo + len ≤ lo') : fld (setFld w lo len v) lo' len' = fld w lo' len' := by
  refine Nat.eq_of_testBit_eq fun i => ?_
  rw [testBit_fld, testBit_fld]
  by_cases hi : i < len'
  · rw [bit_setFld w lo len v (show lo' + i < n by omega), if_neg (by omega)]
  · simp [hi]

theorem fld_lt {n : Nat} (w : BitVec n) (lo len : Nat) : fld w lo len < 2 ^ len :=
  Nat.mod_lt _ (Nat.two_pow_pos len)

/-! ### The frame sequence of a context (R95) -/

theorem Context.seqNext_setSeqNext (c : Context) (v : Nat) : (c.setSeqNext v).seqNext = v % 2 ^ 20 :=
  fld_setFld_same _ _ (by decide)

theorem Context.seqNext_setWindowLeft (c : Context) (op : Bool) (v : Nat) :
    (c.setWindowLeft op v).seqNext = c.seqNext := by
  cases op
  · rfl
  · exact fld_setFld_apart _ _ (by decide) (by decide)

theorem Context.seqNext_setWindowOpen (c : Context) (op v : Bool) : (c.setWindowOpen op v).seqNext = c.seqNext := by
  cases op
  · rfl
  · exact fld_setFld_apart _ _ (by decide) (by decide)

theorem Context.seqNext_setPeriodCount (c : Context) (op : Bool) (v : Nat) :
    (c.setPeriodCount op v).seqNext = c.seqNext := by
  cases op <;> rfl

theorem Context.seqNext_setBurstLeft (c : Context) (op : Bool) (v : Nat) :
    (c.setBurstLeft op v).seqNext = c.seqNext := by
  cases op <;> rfl

/-- Policing counts a frame, and leaves the frame sequence. -/
theorem seqNext_policeP (w : Nat) (a c : Context) (op : Bool) : (policeP w a c op).2.seqNext = c.seqNext := by
  unfold policeP
  dsimp only
  split
  · exact Context.seqNext_setPeriodCount ..
  · split <;> split <;>
      simp only [Context.seqNext_setBurstLeft, Context.seqNext_setWindowLeft, Context.seqNext_setWindowOpen,
        Context.seqNext_setPeriodCount]

/-- A replay drop counts in w29, up to its largest value (R83). -/
theorem Context.replayDrops_bumpReplay (c : Context) :
    fld c.bumpReplay.w29 0 16 = min 0xFFFF (fld c.w29 0 16 + 1) :=
  (fld_setFld_same _ _ (by decide)).trans (Nat.mod_eq_of_lt (by omega))

/-! ### Frames received -/

/-- A frame dropped is in the block no more. -/
theorem State.rxFrame_dropRx (s : State) (f : Nat) : (s.dropRx f).rxFrame f = none := by
  simp [State.rxFrame, State.dropRx]

theorem State.rxFrame_id {s : State} {f : Nat} {x : RxFrame} (found : s.rxFrame f = some x) : x.id = f := by
  simpa using List.find?_some found

/-- A frame of the block that is written reads back. -/
theorem State.rxFrame_setRx {s : State} {f : Nat} {x y : RxFrame} (found : s.rxFrame f = some x) (same : y.id = x.id) :
    (s.setRx y).rxFrame f = some y := by
  have id := State.rxFrame_id found
  have hit : ∀ l : List RxFrame, l.find? (fun z => z.id == f) = some x →
      (l.map (fun z => if z.id == y.id then y else z)).find? (fun z => z.id == f) = some y := by
    intro l
    induction l with
    | nil => simp
    | cons z l ih =>
      by_cases hz : z.id = f
      · simp [hz, same, id]
      · simpa [hz, same, id] using ih
  exact hit s.rx found

/-! ### Counters of a port under notices -/

/-- Whether counter i of every port reads the same in two states. -/
def SameCounter (i : Nat) (s t : State) : Prop :=
  ∀ p, Table.get 0 i (t.port p).ctr = Table.get 0 i (s.port p).ctr

theorem SameCounter.trans {i : Nat} {s t u : State} (h : SameCounter i s t) (k : SameCounter i t u) :
    SameCounter i s u := fun p => (k p).trans (h p)

theorem sameCounter_of_ports {i : Nat} {s t : State} (same : t.ports = s.ports) : SameCounter i s t :=
  fun p => by rw [State.port, same]; rfl

theorem sameCounter_setPort (i : Nat) (s : State) {q : Nat} {v : PortState} (same : v.ctr = (s.port q).ctr) :
    SameCounter i s (s.setPort q v) := by
  intro p
  by_cases hp : p = q
  · subst hp
    rw [State.port_setPort, same]
  · rw [State.port_setPort_other _ hp]

theorem sameCounter_bumpPort {i j : Nat} (apart : i ≠ j) (s : State) (q k : Nat) :
    SameCounter i s (s.bumpPort q j k) := by
  intro p
  unfold State.bumpPort
  by_cases hp : p = q
  · subst hp
    rw [State.port_setPort, Table.get_put_other _ _ apart]
  · rw [State.port_setPort_other _ hp]

theorem State.bumpPort_counter (s : State) (p i k : Nat) :
    Table.get 0 i ((s.bumpPort p i k).port p).ctr = Table.get 0 i (s.port p).ctr + BitVec.ofNat 48 k := by
  rw [State.bumpPort, State.port_setPort, Table.get_put_same]

theorem sameCounter_postOnce (i : Nat) (s : State) (p off : Nat) : SameCounter i s (s.postOnce p off) := by
  unfold State.postOnce
  split
  · exact sameCounter_of_ports rfl
  · exact (sameCounter_setPort i s (v := { s.port p with seen := off :: (s.port p).seen }) rfl).trans
      (sameCounter_of_ports rfl)

/-- A notice that goes out is one frame more, and one count in counter 35. -/
theorem State.emitNotice_cases (s : State) (n : NoticeWait) : s.emitNotice n = s ∨ ∃ x, s.emitNotice n =
    ({ s with tx := s.tx ++ [x], nextFrame := s.nextFrame + 1 }).bumpPort n.entry.port 35 1 := by
  unfold State.emitNotice
  dsimp only
  split
  · exact .inl rfl
  · split
    · split
      · exact .inl rfl
      · exact .inr ⟨_, rfl⟩
    · split
      · exact .inl rfl
      · exact .inr ⟨_, rfl⟩

section Notices

variable {i : Nat} (other : i ∉ [35, 36, 37])
include other

theorem sameCounter_emitNotice (s : State) (n : NoticeWait) : SameCounter i s (s.emitNotice n) := by
  have apart : i ≠ 35 := fun h => other (by simp [h])
  rcases s.emitNotice_cases n with unsent | ⟨x, sent⟩
  · rw [unsent]
    exact sameCounter_of_ports rfl
  · rw [sent]
    exact SameCounter.trans (sameCounter_of_ports rfl) (sameCounter_bumpPort apart _ _ _)

theorem sameCounter_sendNotice (s : State) (n : NoticeWait) : SameCounter i s (s.sendNotice n) := by
  unfold State.sendNotice
  dsimp only
  split
  · exact sameCounter_of_ports rfl
  · split
    · refine SameCounter.trans (sameCounter_setPort i s ?_) (sameCounter_emitNotice other _ _)
      rfl
    · refine SameCounter.trans (sameCounter_setPort i s ?_) (sameCounter_bumpPort (fun h => other (by simp [h])) _ _ _)
      rfl

/-- A violation moves the counters of notices only (Table 10.4). -/
theorem sameCounter_noteViolation (s : State) (v : Violation) : SameCounter i s (s.noteViolation v) := by
  have apart : i ≠ 36 := fun h => other (by simp [h])
  unfold State.noteViolation
  dsimp only
  split
  · exact sameCounter_setPort i s rfl
  · split
    · exact sameCounter_setPort i s rfl
    · refine SameCounter.trans ?evicts (SameCounter.trans (sameCounter_setPort i _ ?same)
        (sameCounter_sendNotice other _ _))
      case same => rfl
      case evicts =>
        split
        · exact sameCounter_bumpPort apart _ _ _
        · exact sameCounter_of_ports rfl

theorem sameCounter_report (s : State) (x : RxFrame) (v : Violation) : SameCounter i s (s.report x v) := by
  unfold State.report State.violation
  dsimp only
  split
  · exact sameCounter_of_ports rfl
  · split
    · exact (sameCounter_postOnce i s _ _).trans (sameCounter_noteViolation other _ _)
    · exact sameCounter_postOnce i s _ _

end Notices

/-! ### V0: a frame that fails (R94, R121, R142) -/

/-- A frame dropped at V0 leaves the list of frames, and touches key store, rings, queue and host memory in nothing. -/
theorem State.dropV0_rest (s : State) (x : RxFrame) (v : V0Result) :
    Touch [.tx, .nextFrame, .streams, .shots, .grace, .ports, .pairs, .eye] (s.dropRx x.id) (s.dropV0 x v) := by
  unfold State.dropV0
  cases v <;> simp (disch := decide) only [State.report_touch, State.bumpPort_touch, State.count_touch,
    State.setStream_touch, State.onShots_touch, State.bumpPair_touch, State.freeGrace_touch, State.endTrace_touch,
    Touch.refl]

/-- The stream of a frame that leaves the block is as it was. -/
theorem State.stream_left (s : State) (x : RxFrame) (h : Nat) :
    (((s.dropRx x.id).endTrace x 0 0 0).freeGrace x.handle).stream h = s.stream h := by
  have left : Touch [.eye, .grace] (s.dropRx x.id) (((s.dropRx x.id).endTrace x 0 0 0).freeGrace x.handle) := by
    simp (disch := decide) only [State.freeGrace_touch, State.endTrace_touch, Touch.refl]
  rw [State.stream, left.streams (by decide)]
  rfl

theorem State.dropV0_replay_stream (s : State) (x : RxFrame) (below : Bool) (pn h : Nat) :
    (s.dropV0 x (.replay below pn)).stream h =
      if h = x.handle then (s.stream x.handle).bumpReplay else s.stream h := by
  have after : Touch [.tx, .nextFrame, .ports, .eye]
      (((((s.dropRx x.id).endTrace x 0 0 0).freeGrace x.handle).onShots x.handle x.id (·.bumpReplay)).setStream x.handle
        ((((s.dropRx x.id).endTrace x 0 0 0).freeGrace x.handle).stream x.handle).bumpReplay)
      (s.dropV0 x (.replay below pn)) := by
    unfold State.dropV0
    simp (disch := decide) only [State.report_touch, State.count_touch, Touch.refl]
  rw [State.stream, after.streams (by decide), ← State.stream]
  by_cases own : h = x.handle
  · rw [if_pos own, own, State.stream_setStream, State.stream_left]
  · rw [if_neg own, State.stream_setStream_other _ own, State.onShots_stream, State.stream_left]

theorem State.dropV0_stream_other (s : State) (x : RxFrame) (v : V0Result) {h : Nat} (other : h ≠ x.handle) :
    (s.dropV0 x v).stream h = s.stream h := by
  by_cases replay : ∃ below pn, v = .replay below pn
  · obtain ⟨below, pn, rfl⟩ := replay
    rw [State.dropV0_replay_stream, if_neg other]
  · have after : Touch [.tx, .nextFrame, .ports, .pairs, .eye]
        (((s.dropRx x.id).endTrace x 0 0 0).freeGrace x.handle) (s.dropV0 x v) := by
      unfold State.dropV0
      cases v with
      | replay below pn => exact absurd ⟨below, pn, rfl⟩ replay
      | _ => simp (disch := decide) only [State.report_touch, State.bumpPort_touch, State.count_touch,
          State.bumpPair_touch, Touch.refl]
    rw [State.stream, after.streams (by decide), ← State.stream, State.stream_left]

/-- A malformed frame counts in counter 10 of its port (Table 10.4). -/
theorem State.dropV0_malformed_counter (s : State) (x : RxFrame) :
    Table.get 0 10 ((s.dropV0 x .malformed).port x.rx.port.val).ctr =
      Table.get 0 10 (s.port x.rx.port.val).ctr + 1 := by
  have left : Touch [.rx, .eye, .grace] s (((s.dropRx x.id).endTrace x 0 0 0).freeGrace x.handle) := by
    simp (disch := decide) only [State.freeGrace_touch, State.endTrace_touch, State.dropRx_touch, Touch.refl]
  have reported := sameCounter_report (i := 10) (by decide)
  unfold State.dropV0
  dsimp only
  rw [reported, State.bumpPort_counter, sameCounter_of_ports (left.ports (by decide))]
  rfl

/-! ### V0: a frame that passes (R29, R67, R95, R121, R245) -/

/-- The state once the frame's policing is done. -/
def State.policedV0 (s : State) (x : RxFrame) : Bool × State :=
  if x.ctx.classP then (s.onShots x.handle x.id (passedV0 (burstPeriods s) x.ctx)).police x.handle x.ctx
    x.ctx.isDuplex false
  else (false, s.onShots x.handle x.id (passedV0 (burstPeriods s) x.ctx))

/-- The frame's entry, and the state once it has its frame sequence and its entry. -/
def State.enteredV0 (s : State) (x : RxFrame) : Option Nat × Bool × State :=
  (((s.policedV0 x).2.nextSeq x.handle).2.count 0x301 x.handle x.ctx.domain 1).receiveEntry x.handle

/-- The frame with what its V0 has given it, before its key. -/
def v0Frame (s : State) (x : RxFrame) (g : Gen) (pn sl : Nat) : RxFrame :=
  { x with
    demoted := (s.policedV0 x).1, v0 := true, seq := ((s.policedV0 x).2.nextSeq x.handle).1, gen := g.num, genWords := g
    pn := BitVec.ofNat 64 pn, entry := (s.enteredV0 x).1, buffered := (s.enteredV0 x).2.1
    bufHeld := bufferWaits (s.enteredV0 x).2.2 x.handle (s.enteredV0 x).1, slice := sl, v0Tick := s.plan }

/-- The open slice takes the frame. -/
def State.openSlice (s : State) (x : RxFrame) (sl : Nat) : State :=
  if takesSlots x.ctx then (s.useSlots x.handle true (rxSlots x)).busyPulse (194 + 4 * (3 + sl))
  else s.useSlots x.handle true (rxSlots x)

theorem State.passV0_of_key {s v : State} {x : RxFrame} {g : Gen} {pn sl : Nat} {cellBad : Bool} {key : Shares}
    (fetched : (s.enteredV0 x).2.2.fetchFrame (3 + sl) x.ctx g useOpen cellBad = (.ok key, v))
    (mode : v.mode ≠ .lockdown) : s.passV0 x g pn sl cellBad = (v.openSlice x sl).placeV0
      (openedRx (v.useSlots x.handle true (rxSlots x)) (v0Frame s x g pn sl) g pn key) := by
  have unfolded : s.passV0 x g pn sl cellBad =
      (let p := (s.enteredV0 x).2.2.fetchFrame (3 + sl) x.ctx g useOpen cellBad
       if p.2.mode == .lockdown then p.2
       else match p.1 with
         | .ok key => (p.2.openSlice x sl).placeV0
             (openedRx (p.2.useSlots x.handle true (rxSlots x)) (v0Frame s x g pn sl) g pn key)
         | bad => ((p.2.onShots x.handle x.id (fetchMarked g.slot)).fetchFailed x.handle g bad).placeV0
             { v0Frame s x g pn sl with keyRefused := true }) := rfl
  rw [unfolded, fetched]
  simp [mode]

/-- A demotion leaves the frame sequence of its stream, and every other stream. -/
theorem State.demotion_stream (s : State) (h k : Nat) :
    (s.demotion h).stream k = if k = h then (s.stream h).bumpDemotions else s.stream k := by
  have after : Touch [.eye] (s.setStream h (s.stream h).bumpDemotions) (s.demotion h) := by
    unfold State.demotion
    simp (disch := decide) only [State.count_touch, State.post_touch, Touch.refl]
  rw [State.stream, after.streams (by decide), ← State.stream]
  by_cases own : k = h
  · rw [if_pos own, own, State.stream_setStream]
  · rw [if_neg own, State.stream_setStream_other _ own]

/-- Policing leaves every other stream, and the frame sequence of its own. -/
theorem State.police_stream_other (s : State) {h k : Nat} (other : k ≠ h) (a : Context) (op above : Bool) :
    (s.police h a op above).2.stream k = s.stream k := by
  unfold State.police
  dsimp only
  split
  · rw [State.demotion_stream, if_neg other, State.stream_setStream_other _ other]
  · exact State.stream_setStream_other _ other _

theorem State.police_seqNext (s : State) (h : Nat) (a : Context) (op above : Bool) :
    ((s.police h a op above).2.stream h).seqNext = (s.stream h).seqNext := by
  unfold State.police
  dsimp only
  split
  · rw [State.demotion_stream, if_pos rfl, State.stream_setStream]
    exact seqNext_policeP ..
  · rw [State.stream_setStream]
    exact seqNext_policeP ..

theorem State.policedV0_stream_other (s : State) (x : RxFrame) {k : Nat} (other : k ≠ x.handle) :
    (s.policedV0 x).2.stream k = s.stream k := by
  unfold State.policedV0
  split
  · exact State.police_stream_other _ other ..
  · rfl

theorem State.policedV0_seqNext (s : State) (x : RxFrame) :
    ((s.policedV0 x).2.stream x.handle).seqNext = (s.stream x.handle).seqNext := by
  unfold State.policedV0
  split
  · exact State.police_seqNext ..
  · rfl

theorem State.policedV0_rest (s : State) (x : RxFrame) : Touch [.streams, .shots, .eye] s (s.policedV0 x).2 := by
  unfold State.policedV0
  split <;> simp (disch := decide) only [State.police_touch, State.onShots_touch, Touch.refl]

theorem v0Frame_seq (s : State) (x : RxFrame) (g : Gen) (pn sl : Nat) :
    (v0Frame s x g pn sl).seq = BitVec.ofNat 20 (s.stream x.handle).seqNext :=
  congrArg (BitVec.ofNat 20) (s.policedV0_seqNext x)

theorem State.allot_ring_other (s : State) {h k : Nat} (other : k ≠ h) : (s.allot h).2.ring k = s.ring k := by
  unfold State.allot
  dsimp only
  split
  · exact State.ring_setRing_other _ other _
  · rfl

/-- A completion takes its entry in the stream's own ring. -/
theorem State.receiveEntry_ring_other (s : State) {h k : Nat} (other : k ≠ h) :
    (s.receiveEntry h).2.2.ring k = s.ring k := by
  have allotted := s.allot_ring_other other
  unfold State.receiveEntry
  generalize s.allot h = entry at allotted ⊢
  obtain ⟨_ | e, s1⟩ := entry
  · exact State.ring_setRing_other _ other _
  · dsimp only at allotted ⊢
    split
    · exact allotted
    · split
      · exact allotted
      · exact allotted

theorem State.enteredV0_rest (s : State) (x : RxFrame) :
    Touch [.streams, .shots, .rings, .gates, .eye] s (s.enteredV0 x).2.2 := by
  have policed : Touch [.streams, .shots, .rings, .gates, .eye] s (s.policedV0 x).2 :=
    (s.policedV0_rest x).mono (by decide)
  unfold State.enteredV0
  simp (disch := decide) only [State.receiveEntry_touch, State.count_touch, State.nextSeq_touch, policed]

/-- The entry leaves the streams as the frame sequence has left them. -/
theorem State.enteredV0_stream (s : State) (x : RxFrame) (k : Nat) :
    (s.enteredV0 x).2.2.stream k = ((s.policedV0 x).2.nextSeq x.handle).2.stream k := by
  have entry : Touch [.rings, .gates, .eye] ((s.policedV0 x).2.nextSeq x.handle).2 (s.enteredV0 x).2.2 := by
    unfold State.enteredV0
    simp (disch := decide) only [State.receiveEntry_touch, State.count_touch, Touch.refl]
  rw [State.stream, entry.streams (by decide)]
  rfl

theorem State.enteredV0_stream_other (s : State) (x : RxFrame) {k : Nat} (other : k ≠ x.handle) :
    (s.enteredV0 x).2.2.stream k = s.stream k := by
  rw [State.enteredV0_stream, State.nextSeq, State.stream_setStream_other _ other,
    State.policedV0_stream_other s x other]

/-- The frame sequence advances modulo 2^20 (R95). -/
theorem State.enteredV0_seqNext (s : State) (x : RxFrame) :
    ((s.enteredV0 x).2.2.stream x.handle).seqNext = ((s.stream x.handle).seqNext + 1) % 2 ^ 20 := by
  rw [State.enteredV0_stream, State.nextSeq, State.stream_setStream, Context.seqNext_setSeqNext,
    State.policedV0_seqNext]

theorem State.enteredV0_ring_other (s : State) (x : RxFrame) {k : Nat} (other : k ≠ x.handle) :
    (s.enteredV0 x).2.2.ring k = s.ring k := by
  have before : Touch [.streams, .shots, .eye] s
      (((s.policedV0 x).2.nextSeq x.handle).2.count 0x301 x.handle x.ctx.domain 1) := by
    simp (disch := decide) only [State.count_touch, State.nextSeq_touch, s.policedV0_rest x]
  rw [State.enteredV0, State.receiveEntry_ring_other _ other, State.ring, before.rings (by decide)]
  rfl

/-- Opening a frame gives it bytes, tag and lengths, and nothing else. -/
theorem openRx_frame (x : RxFrame) (g : Gen) (pn sci : Nat) (key : Key) : openRx x g pn sci key = { x with
    tagOk := (openRx x g pn sci key).tagOk, plain := (openRx x g pn sci key).plain
    trailer := (openRx x g pn sci key).trailer, lengthBad := (openRx x g pn sci key).lengthBad } := by
  unfold openRx
  dsimp only
  split <;> rfl

theorem openedRx_frame (s : State) (y : RxFrame) (g : Gen) (pn : Nat) (key : Shares) :
    ∃ ok plain trailer bad fate, openedRx s y g pn key =
      { y with tagOk := ok, plain := plain, trailer := trailer, lengthBad := bad, fate := fate, keyVal := key } := by
  have opened := openRx_frame y g pn (matchSci y.ctx) key.whole
  unfold openedRx
  dsimp only
  split
  · exact ⟨_, _, _, _, bwFate s y.ctx.chain (openRx y g pn (matchSci y.ctx) key.whole).trailer, by rw [opened]⟩
  · exact ⟨_, _, _, _, y.fate, by rw [opened]⟩

/-- A fetch that succeeds counts one use of its slot. -/
theorem State.fetch_ok {s : State} {k use : Nat} {bad : Bool} {key : Shares} (u : Nat)
    (judged : fetchJudge (s.slot k) use (bad && (s.slot k).digestRef.isNone) = .ok key) :
    s.fetch u k use bad = (.ok key, s.countUse k) := by
  simp only [State.fetch, judged]
  rfl

/-- The fetch for a frame: counted at once, or under suite 0x5 granted beside the uses still to be issued (R245). -/
theorem State.fetchFrame_ok {s : State} {c : Context} {g : Gen} {use : Nat} {bad : Bool} {key : Shares} (u : Nat)
    (judged : (if c.suite = 5 then fetchJudge (s.slot g.slot) useHmac false
      else fetchJudge (s.slot g.slot) use (bad && (s.slot g.slot).digestRef.isNone)) = .ok key)
    (room : c.suite = 5 → (s.slot g.slot).limited = true →
      (s.slot g.slot).u0.toNat + pendingUses s g.slot < (s.slot g.slot).u1.toNat) :
    s.fetchFrame u c g use bad = (.ok key, if c.suite = 5 then s else s.countUse g.slot) := by
  unfold State.fetchFrame
  by_cases digest : c.suite = 5
  · have spare : ((s.slot g.slot).limited && decide ((s.slot g.slot).u1.toNat ≤
        (s.slot g.slot).u0.toNat + pendingUses s g.slot)) = false := by
      cases limited : (s.slot g.slot).limited with
      | false => rfl
      | true => simpa using room digest limited
    rw [if_pos digest] at judged
    simp only [if_pos digest, judged, spare, Bool.false_eq_true, if_false]
  · rw [if_neg digest] at judged
    simp only [if_neg digest]
    exact State.fetch_ok u judged

theorem State.openSlice_rest (s : State) (x : RxFrame) (sl : Nat) :
    Touch [.aux, .power, .eye] s (s.openSlice x sl) := by
  unfold State.openSlice
  split <;> simp (disch := decide) only [State.busyPulse_touch, State.useSlots_touch, Touch.refl]

theorem State.placeV0_of_room {s : State} (x : RxFrame) (room : s.ingress.length < 2048) : s.placeV0 x =
    (s.place (verdictBeat (v0Word x.handle x.seq.toNat))).setRx { x with v0Placed := true } := by
  rw [State.placeV0, State.ingressRoom, decide_eq_true room, if_pos rfl]

/-- The key of a frame that passes V0 has been fetched from slot k. -/
def State.fetchedV0 (s : State) (x : RxFrame) (k : Nat) : State :=
  if x.ctx.suite = 5 then (s.enteredV0 x).2.2 else (s.enteredV0 x).2.2.countUse k

theorem State.fetchedV0_rest (s : State) (x : RxFrame) (k : Nat) :
    Touch [.streams, .shots, .rings, .gates, .slots, .eye] s (s.fetchedV0 x k) := by
  have entered := (s.enteredV0_rest x).mono (L := [.streams, .shots, .rings, .gates, .slots, .eye]) (by decide)
  unfold State.fetchedV0
  split
  · exact entered
  · simp (disch := decide) only [State.countUse_touch, entered]

theorem State.fetchedV0_entered (s : State) (x : RxFrame) (k : Nat) :
    Touch [.slots] (s.enteredV0 x).2.2 (s.fetchedV0 x k) := by
  unfold State.fetchedV0
  split <;> simp (disch := decide) only [State.countUse_touch, Touch.refl]

theorem State.slot_enteredV0 (s : State) (x : RxFrame) (k : Nat) : (s.enteredV0 x).2.2.slot k = s.slot k := by
  rw [State.slot, (s.enteredV0_rest x).slots (by decide)]
  rfl

theorem State.slot_fetchedV0_other (s : State) (x : RxFrame) {j k : Nat} (other : j ≠ k) :
    (s.fetchedV0 x k).slot j = s.slot j := by
  unfold State.fetchedV0
  split
  · exact s.slot_enteredV0 x j
  · rw [State.countUse, State.slot_setSlot_other _ other, State.slot_enteredV0]

theorem State.slot_fetchedV0_same (s : State) (x : RxFrame) (k : Nat) : (s.fetchedV0 x k).slot k =
    if x.ctx.suite = 5 then s.slot k else { s.slot k with u0 := satAdd (s.slot k).u0 1 } := by
  unfold State.fetchedV0
  split
  · exact s.slot_enteredV0 x k
  · rw [State.countUse, State.slot_setSlot, State.slot_enteredV0]

/-- The state in which the V0 word of a frame that passes is placed: its slice has taken it. -/
def State.readyV0 (s : State) (x : RxFrame) (k sl : Nat) : State := (s.fetchedV0 x k).openSlice x sl

theorem State.readyV0_rest (s : State) (x : RxFrame) (k sl : Nat) :
    Touch [.aux, .power, .streams, .shots, .rings, .gates, .slots, .eye] s (s.readyV0 x k sl) :=
  ((s.fetchedV0_rest x k).mono (by decide)).step (((s.fetchedV0 x k).openSlice_rest x sl).mono (by decide))

/-- After its entry the fetch and the slice touch neither streams nor rings. -/
theorem State.readyV0_entered (s : State) (x : RxFrame) (k sl : Nat) :
    Touch [.aux, .power, .slots, .eye] (s.enteredV0 x).2.2 (s.readyV0 x k sl) :=
  ((s.fetchedV0_entered x k).mono (by decide)).step (((s.fetchedV0 x k).openSlice_rest x sl).mono (by decide))

theorem State.readyV0_stream (s : State) (x : RxFrame) (k sl h : Nat) :
    (s.readyV0 x k sl).stream h = (s.enteredV0 x).2.2.stream h := by
  rw [State.stream, (s.readyV0_entered x k sl).streams (by decide)]
  rfl

theorem State.readyV0_ring (s : State) (x : RxFrame) (k sl h : Nat) :
    (s.readyV0 x k sl).ring h = (s.enteredV0 x).2.2.ring h := by
  rw [State.ring, (s.readyV0_entered x k sl).rings (by decide)]
  rfl

theorem State.readyV0_slot (s : State) (x : RxFrame) (k sl j : Nat) :
    (s.readyV0 x k sl).slot j = (s.fetchedV0 x k).slot j := by
  rw [State.slot, State.readyV0, ((s.fetchedV0 x k).openSlice_rest x sl).slots (by decide)]
  rfl

/-! A beat placed goes to the ingress queue. -/

@[simp] theorem State.place_ingress (s : State) (b : Beat) : (s.place b).ingress = s.ingress ++ [b] := rfl
@[simp] theorem State.place_rx (s : State) (b : Beat) : (s.place b).rx = s.rx := rfl
@[simp] theorem State.place_mode (s : State) (b : Beat) : (s.place b).mode = s.mode := rfl
@[simp] theorem State.place_hostMem (s : State) (b : Beat) : (s.place b).hostMem = s.hostMem := rfl
@[simp] theorem State.place_stream (s : State) (b : Beat) (h : Nat) : (s.place b).stream h = s.stream h := rfl
@[simp] theorem State.place_slot (s : State) (b : Beat) (k : Nat) : (s.place b).slot k = s.slot k := rfl
@[simp] theorem State.place_ring (s : State) (b : Beat) (h : Nat) : (s.place b).ring h = s.ring h := rfl

/-- What a frame that passes V0 carries once it is admitted. -/
structure PassedV0 (s : State) (x : RxFrame) (g : Gen) (pn : Nat) (key : Shares) (y : RxFrame) : Prop where
  id : y.id = x.id
  v0 : y.v0 = true
  v0Placed : y.v0Placed = true
  seq : y.seq = BitVec.ofNat 20 (s.stream x.handle).seqNext
  gen : y.gen = g.num
  pn : y.pn = BitVec.ofNat 64 pn
  handle : y.handle = x.handle
  body : y.body = x.body
  keyVal : y.keyVal = key

/-- A frame that passes V0 and has its key: its slice takes it, and its word is the next beat. -/
theorem State.passV0_accepted {s : State} {x : RxFrame} {g : Gen} (pn sl : Nat) {cellBad : Bool} {key : Shares}
    (room : s.ingress.length < 2048) (mode : s.mode ≠ .lockdown)
    (judged : (if x.ctx.suite = 5 then fetchJudge (s.slot g.slot) useHmac false
      else fetchJudge (s.slot g.slot) useOpen (cellBad && (s.slot g.slot).digestRef.isNone)) = .ok key)
    (spare : x.ctx.suite = 5 → (s.slot g.slot).limited = true →
      (s.slot g.slot).u0.toNat + pendingUses s g.slot < (s.slot g.slot).u1.toNat) :
    ∃ y, PassedV0 s x g pn key y ∧ s.passV0 x g pn sl cellBad =
      ((s.readyV0 x g.slot sl).place (verdictBeat (v0Word x.handle y.seq.toNat))).setRx y := by
  have entered := s.enteredV0_rest x
  have pending : pendingUses (s.enteredV0 x).2.2 g.slot = pendingUses s g.slot := by
    rw [pendingUses, entered.tx (by decide), entered.rx (by decide)]
    rfl
  have fetched : (s.enteredV0 x).2.2.fetchFrame (3 + sl) x.ctx g useOpen cellBad =
      (.ok key, s.fetchedV0 x g.slot) :=
    State.fetchFrame_ok (3 + sl) (by rwa [State.slot_enteredV0]) (by rwa [State.slot_enteredV0, pending])
  have alive : (s.fetchedV0 x g.slot).mode ≠ .lockdown := by rwa [(s.fetchedV0_rest x g.slot).mode (by decide)]
  have space : (s.readyV0 x g.slot sl).ingress.length < 2048 := by
    rwa [(s.readyV0_rest x g.slot sl).ingress (by decide)]
  have passed : PassedV0 s x g pn key { openedRx ((s.fetchedV0 x g.slot).useSlots x.handle true (rxSlots x))
      (v0Frame s x g pn sl) g pn key with v0Placed := true } := by
    obtain ⟨ok, plain, trailer, bad, fate, opened⟩ := openedRx_frame
      ((s.fetchedV0 x g.slot).useSlots x.handle true (rxSlots x)) (v0Frame s x g pn sl) g pn key
    rw [opened]
    exact { id := rfl, v0 := rfl, v0Placed := rfl, seq := v0Frame_seq s x g pn sl, gen := rfl, pn := rfl, handle := rfl,
            body := rfl, keyVal := rfl }
  refine ⟨_, passed, (State.passV0_of_key fetched alive).trans ((State.placeV0_of_room _ space).trans ?_)⟩
  exact congrArg (fun h => ((s.readyV0 x g.slot sl).place (verdictBeat (v0Word h _))).setRx _) passed.handle

/-- A frame that still comes in, or ended whole and good, is not dropped unseen. -/
theorem notDroppedUnseen {ended : Bool} {x : RxFrame}
    (sound : ended = true → x.aborted = false ∧ x.rx.fcsGood = true) :
    (ended && (x.aborted || !x.rx.fcsGood)) = false := by
  cases ended with
  | false => rfl
  | true => simp [sound rfl]

section V0Check

variable {f : Nat} (sl : Fin 3) (cellBad : Bool) {ended : Bool} (now : Nat) {s : State} {x : RxFrame}
  (found : s.rxFrame f = some x) (kind : x.kind = .protected_) (fresh : x.v0 = false)
include found kind fresh

/-- A frame that has ended in an error is dropped unseen (R303, R304). -/
theorem v0Check_unseen (past : ended = true) (bad : x.aborted = true ∨ x.rx.fcsGood = false) :
    exec (.v0Check f sl cellBad ended now) s =
      .next ((((s.atTime now).dropRx f).endTrace x 0 0 0).freeGrace x.handle) := by
  have unseen : (ended && (x.aborted || !x.rx.fcsGood)) = true := by simpa [past] using bad
  have here : (s.atTime now).rxFrame f = some x := found
  simp only [exec, execV0Check, here, kind, fresh, unseen, bne_self_eq_false, Bool.or_self, Bool.false_eq_true,
    if_false, if_true]

variable (sound : ended = true → x.aborted = false ∧ x.rx.fcsGood = true)
include sound

theorem v0Check_passes {g : Gen} {pn : Nat} (pass : v0Checks (s.atTime now) x = .pass g pn) :
    exec (.v0Check f sl cellBad ended now) s = .next (if openTurn (s.atTime now) x
      then (s.atTime now).passV0 x g pn sl.val cellBad else s.atTime now) := by
  have seen := notDroppedUnseen sound
  have here : (s.atTime now).rxFrame f = some x := found
  simp only [exec, execV0Check, here, kind, fresh, seen, pass, bne_self_eq_false, Bool.or_self, Bool.false_eq_true,
    if_false]

theorem v0Check_fails (fail : ∀ g pn, v0Checks (s.atTime now) x ≠ .pass g pn) :
    exec (.v0Check f sl cellBad ended now) s = .next ((s.atTime now).dropV0 x (v0Checks (s.atTime now) x)) := by
  have seen := notDroppedUnseen sound
  have here : (s.atTime now).rxFrame f = some x := found
  simp only [exec, execV0Check, here, kind, fresh, seen, bne_self_eq_false, Bool.or_self, Bool.false_eq_true,
    if_false]

end V0Check

/-- Settles O49: the frame dropped unseen, accepted, waiting for its turn, and dropped at a failed check. -/
theorem v0Decides : Obligations.V0Decides := by
  unfold Obligations.V0Decides
  intro f sl cellBad ended now s u x found kind fresh eu
  subst eu
  refine ⟨fun past bad => v0Check_unseen sl cellBad now found kind fresh past bad,
    fun sound => ⟨?accepted, ?waits, ?dropped⟩⟩
  case accepted =>
    intro g pn key pass turn judged spare mode room
    obtain ⟨y, passed, run⟩ := State.passV0_accepted (s := s.atTime now) pn sl.val room mode judged spare
    have rest := (s.atTime now).readyV0_rest x g.slot sl.val
    have taken := v0Check_passes sl cellBad now found kind fresh sound pass
    rw [if_pos turn, run] at taken
    refine ⟨_, y, taken, ?_, passed.v0, passed.v0Placed, passed.seq, passed.gen, passed.pn, passed.handle, passed.body,
      passed.keyVal, ?_, ?_, ?_, fun k other => ?_, fun k other => ⟨?_, ?_⟩, ?_, ?_⟩
    · refine State.rxFrame_setRx (x := x) ?_ passed.id
      rw [State.rxFrame, State.place_rx, rest.rx (by decide)]
      exact found
    · rw [State.setRx_ingress, State.place_ingress, rest.ingress (by decide)]
      rfl
    · rw [State.setRx_stream, State.place_stream, State.readyV0_stream]
      exact State.enteredV0_seqNext ..
    · rw [State.setRx_slot, State.place_slot, State.readyV0_slot]
      exact State.slot_fetchedV0_same ..
    · rw [State.setRx_slot, State.place_slot, State.readyV0_slot]
      exact State.slot_fetchedV0_other _ _ other
    · rw [State.setRx_stream, State.place_stream, State.readyV0_stream]
      exact State.enteredV0_stream_other _ _ other
    · rw [State.setRx_ring, State.place_ring, State.readyV0_ring]
      exact State.enteredV0_ring_other _ _ other
    · rw [State.setRx_hostMem, State.place_hostMem, rest.hostMem (by decide), State.atTime_hostMem]
    · rw [State.setRx_mode, State.place_mode, rest.mode (by decide), State.atTime_mode]
  case waits =>
    intro g pn pass early
    rw [v0Check_passes sl cellBad now found kind fresh sound pass, early, if_neg Bool.false_ne_true]
  case dropped =>
    intro fail
    have rest := (s.atTime now).dropV0_rest x (v0Checks (s.atTime now) x)
    refine ⟨_, v0Check_fails sl cellBad now found kind fresh sound fail, ?_, rest.ingress (by decide),
      rest.slots (by decide), rest.hostMem (by decide), rest.mode (by decide), rest.rings (by decide),
      fun k other => State.dropV0_stream_other _ x _ other, fun bad => ?_, fun below pn bad => ?_⟩
    · rw [State.rxFrame, rest.rx (by decide), State.rxFrame_id found]
      exact State.rxFrame_dropRx _ f
    · rw [bad]
      exact State.dropV0_malformed_counter _ x
    · rw [bad, State.dropV0_replay_stream, if_pos rfl]
      exact Context.replayDrops_bumpReplay _

/-! ### Commands that act or stage where their checks pass (R374, R387, R390, R404, R406) -/

/-- The oldest waiting command, past its checks, whose own function ends it, is answered OK. -/
theorem front_done {s : State} {c : Cmd} {op : Nat} {f : State → Cmd → Res} {t : Tick} {ws : List Word} {v : State}
    (front : Front s c op) (ends : f s c = .done t ws v) :
    execPyfer op f s = .next (v.answer c.id (okWords t ws)) := by
  rw [front_exec front, ends, State.finish, answer_okWords]

theorem realignRes_ok {s : State} (c : Cmd) (idle : anyArmed s Context.classP = false)
    (time : s.ticks.valid = true ∨ s.ticks.hold = true) : realignRes s c = .done 0 [] s.align := by
  have known : (s.ticks.valid || s.ticks.hold) = true := by simpa using time
  exact checked_ok (by simp [idle, known]) _

theorem gateWriteRes_ok {s : State} {c : Cmd} {g : Nat} (eg : g = fld (c.q 1) 0 5) (clean : fld (c.q 1) 10 38 = 0)
    (exists_ : g ≤ 16) (offline : (s.gate g).online = false) :
    gateWriteRes s c = .done 0 [] (s.setGate g { s.gate g with
      rules := Table.put (0, 0, 0) (fld (c.q 1) 5 5) (c.q 2, c.q 3, c.q 4) (s.gate g).rules, changed := true }) := by
  subst eg
  refine checked_ok ?_ _
  simp [gateChecks, gateArg, clean, offline, Nat.not_lt.mpr exists_]

theorem imageWriteRes_ok {s : State} {c : Cmd} {n : Nat} {b start : Bool} {old : ImgSlot} {data : List Byte}
    (eb : b = bit (c.q 1) 47) (estart : start = bit (c.q 1) 46) (en : n = fld (c.q 1) 32 9) (eold : old = s.nv.slotOf b)
    (edata : data = ((c.words.drop 2).flatMap (fun w => natToBytes 6 w.toNat)).take n)
    (clean : fld (c.q 1) 41 5 = 0) (least : 1 ≤ n) (most : n ≤ 360)
    (next : fld (c.q 1) 0 32 = (if start then 0 else old.bytes.length)) (fits : fld (c.q 1) 0 32 + n ≤ 65536)
    (idle : slotActive s b = false) : imageWriteRes s c =
      .done 0 [] { s with nv := s.nv.setSlot b (imgWrite s.fuses old start data) } := by
  subst eb estart en eold edata
  refine checked_ok ?_ _
  simp [clean, idle]
  omega

/-- Settles O16: each of the three commands by its own function, whose checks all pass. -/
theorem realignGateWriteImageWrite : Obligations.RealignGateWriteImageWrite := by
  unfold Obligations.RealignGateWriteImageWrite
  exact fun c s => ⟨fun front idle time => front_done front (realignRes_ok c idle time),
    fun g eg front clean exists_ offline => front_done front (gateWriteRes_ok eg clean exists_ offline),
    fun b start n old data eb estart en eold edata front clean least most next fits idle =>
      front_done front (imageWriteRes_ok eb estart en eold edata clean least most next fits idle)⟩

/-- A change that Table 2.6 admits goes on with its demand. -/
theorem admission_ok {s : State} {h : Nat} {x : Staged} {dm : Demand} (charge : dm = chargeOf (s.stage x) h)
    (admitted : admitFail s h dm = none) (r : Demand → Res) : admission s h x r = r dm := by
  subst charge
  simp only [admission, admitted]

section Arm

variable {s : State} {c : Cmd} {x : Context} {h d : Nat} {t : Tick} {h0 h1 h2 : Container}

/-- What STREAM_ARM asks of the command, the stream and its ring (R330, R357, R390). -/
structure ArmMay (s : State) (c : Cmd) (x : Context) (h d : Nat) (t : Tick) (h0 h1 h2 : Container) : Prop where
  handle : h = fld (c.q 1) 0 15
  stream : x = futureStream s h
  tickDomain : d = x.tickDomain
  tick : t = effTick s c [.stream h] d
  timely : Timely s c [.stream h] d
  clean : fld (c.q 1) 15 33 = 0
  owned : x.domain = c.domain
  created : x.created = true
  ring : ringRefusal s h x = none
  lease : x.classP = true → x.suite = 5 → s.tcfg.lease ≠ 0
  key : x.cur.valid = true ∨ x.isClear = true
  header : ringHeaderBad h0 h1 h2 = false
  space : 1 ≤ freeStaged s

/-- A STREAM_ARM whose checks pass comes to admission, where its stream is P class, or to its staging. -/
theorem armRes_ok (may : ArmMay s c x h d t h0 h1 h2) : armRes h0 h1 h2 s c =
    (if x.classP then admission s h ⟨.stream h, d, t, .arm (toWord h0) (toWord h1) (toWord h2)⟩ (fun dm =>
        .done t [waitWord (s.setDemand h dm) x]
          (((s.stage ⟨.stream h, d, t, .arm (toWord h0) (toWord h1) (toWord h2)⟩).setDemand h dm).wakeAs
            (((s.stage ⟨.stream h, d, t, .arm (toWord h0) (toWord h1) (toWord h2)⟩).setDemand h dm).setStream h
              (x.setSt 2))))
      else .done t [0] ((s.stage ⟨.stream h, d, t, .arm (toWord h0) (toWord h1) (toWord h2)⟩).wakeAs
        ((s.stage ⟨.stream h, d, t, .arm (toWord h0) (toWord h1) (toWord h2)⟩).setStream h (x.setSt 2)))) := by
  obtain ⟨rfl, ex, rfl, rfl, timely, clean, owned, created, ring, lease, key, header, space⟩ := may
  have staged := stage_ok timely
  obtain ⟨near, order, -⟩ := timely
  have owner := owner_ok (s := s) (h := fld (c.q 1) 0 15) (not_free_of_created created) owned
  have leased : (x.classP && x.suite == 5 && s.tcfg.lease == 0) = false := by
    simpa [and_imp] using lease
  have keyed : (x.cur.valid || x.isClear) = true := by simpa using key
  have first : failOf [(fld (c.q 1) 15 33 != 0, eMalformed, 0), (tickFar c x.tickDomain, eRange, 0),
      (notOwner s c (fld (c.q 1) 0 15) x, eDomain, 0)] = none := failOf_nil (by simp [clean, near, owner])
  unfold armRes handleArg
  dsimp only
  rw [← ex, first]
  dsimp only
  rw [if_pos created, ring]
  refine (checked_ok ?_ _).trans ?_
  · simp [leased, created, keyed, order, header, noRoom]
    omega
  · simp only [staged]

end Arm

/-- Settles O20: past its checks the command stages its change, a P-class stream's once it is admitted. -/
theorem streamArmStages : Obligations.StreamArmStages := by
  unfold Obligations.StreamArmStages
  intro c s x h d t h0 h1 h2 z front eh ex ed et timely clean owned created ring lease key header space ez
  subst ez
  have may : ArmMay s c x h d t h0 h1 h2 :=
    ⟨eh, ex, ed, et, timely, clean, owned, created, ring, lease, key, header, space⟩
  refine ⟨fun plain => front_done front ?_, fun dm strict charge admitted => front_done front ?_⟩
  · rw [armRes_ok may, plain, if_neg Bool.false_ne_true]
  · rw [armRes_ok may, if_pos strict, admission_ok charge admitted]

/-! ### The plan boundary (R20, R45, R74) -/

theorem exec_planBoundary {cycles : Nat} {ledger : List (List Nat)} (sums : wfLedger cycles ledger = true) (now : Nat)
    (pcs : List PcsCount) (s : State) : exec (.planBoundary now cycles ledger pcs) s = .next
      ((nextPlan (s.atTime now)).elim (s.atTime now) (fun n => (s.atTime now).boundary n cycles ledger pcs)) := by
  simp only [exec, execPlanBoundary, sums, Bool.not_true, Bool.false_eq_true, if_false]
  cases nextPlan (s.atTime now) <;> rfl

/-- The phase of a command whose snapshot falls due, of a stream that is not Free. -/
theorem snapPhase_due {s : State} {n t h : Nat} {c : Cmd} (phase : c.phase = .snapshot h t) (due : t ≤ n)
    (taken : (s.stream h).free = false) : snapPhase s n c = if inBlock s h s.nextFrame then .settling
      else .answered (answerWords 0 0 t (runningWords (s.stream h))) := by
  simp only [snapPhase, phase, if_neg (Nat.not_lt.mpr due), taken, Bool.false_eq_true, if_false]

theorem mem_streamSnapshots_cmds {s : State} (n : Tick) {c : Cmd} (mem : c ∈ s.cmds) :
    { c with phase := snapPhase s n c } ∈ (s.streamSnapshots n).cmds := List.mem_map_of_mem mem

/-- A stream with frames in the block keeps the words of its snapshot for their effects (R20). -/
theorem mem_streamSnapshots_shots {s : State} {n t h : Nat} {c : Cmd} (mem : c ∈ s.cmds)
    (phase : c.phase = .snapshot h t) (settles : snapPhase s n c = .settling) :
    (⟨c.id, h, t, s.nextFrame, s.stream h⟩ : Shot) ∈ (s.streamSnapshots n).shots :=
  List.mem_append_right _ (List.mem_filterMap.mpr ⟨c, mem, by simp only [snapShot, phase, settles, if_true]⟩)

/-- Settles O30: the boundary is the composition of its steps, and each due snapshot by the phase it takes. -/
theorem boundaryOrder : Obligations.BoundaryOrder := by
  unfold Obligations.BoundaryOrder
  refine ⟨fun now cycles ledger pcs s sums => ⟨?begins, ?idle⟩, fun n t c h s mem phase due taken => ⟨?done, ?kept⟩⟩
  case begins =>
    rintro n a b c next rfl rfl rfl
    rw [exec_planBoundary sums, next]
    rfl
  case idle =>
    intro early
    rw [exec_planBoundary sums, early]
    rfl
  case done =>
    intro clear
    have phased := mem_streamSnapshots_cmds n mem
    rw [snapPhase_due phase due taken, clear, if_neg Bool.false_ne_true] at phased
    exact phased
  case kept =>
    intro flying
    have settles : snapPhase s n c = .settling := by rw [snapPhase_due phase due taken, if_pos flying]
    exact ⟨settles ▸ mem_streamSnapshots_cmds n mem, mem_streamSnapshots_shots mem phase settles⟩

/-! ### Time and overruns (R48 to R51, R70, R71) -/

/-- A sample of the time bus changes the tick state as it says, and the event block. -/
theorem State.sampleBus_eq (s : State) (seconds : BitVec 48) (nanos : BitVec 32) (valid hold : Bool) :
    s.sampleBus seconds nanos valid hold = { s with
      ticks := { s.ticks with seconds := seconds, nanos := nanos, busAt := s.now, valid := valid, hold := hold }
      eye := (s.sampleBus seconds nanos valid hold).eye } := by
  rw [State.sampleBus, State.setLevel_eq]

@[simp] theorem State.sampleBus_ticks (s : State) (seconds : BitVec 48) (nanos : BitVec 32) (valid hold : Bool) :
    (s.sampleBus seconds nanos valid hold).ticks =
      { s.ticks with seconds := seconds, nanos := nanos, busAt := s.now, valid := valid, hold := hold } := by
  rw [State.sampleBus_eq]

/-- The keeper runs, aligned, and stands at a value. -/
def State.keepTime (s : State) (keeper : Int) : State :=
  { s with ticks := { s.ticks with keeper := keeper, running := true, aligned := true, jump := true } }

/-- The keeper set by an alignment, and the quality with it. -/
def State.keeperSet (s : State) (keeper : Int) (quality : Nat) : State :=
  { s.keepTime keeper with ticks := { (s.keepTime keeper).ticks with quality := quality } }

/-- Alignment sets the keeper to the time bus, and posts (R50). -/
theorem State.align_eq_posts (s : State) : ∃ q ns, s.align = (s.keeperSet (busTime s - s.now) q).posts ns :=
  ⟨_, _, rfl⟩

theorem State.align_eq (s : State) :
    ∃ q e, s.align = { s.keeperSet (busTime s - s.now) q with eye := e } := by
  obtain ⟨q, ns, aligned⟩ := s.align_eq_posts
  exact ⟨q, _, aligned.trans (State.posts_eq ns _)⟩

/-- What a state whose keeper has been set, and its event block changed, still holds. -/
theorem State.keeperSet_frame (s : State) (keeper : Int) (q : Nat) (e : Eye) {t : State}
    (et : t = { s.keeperSet keeper q with eye := e }) : keeperTime t = keeper + s.now ∧ busTime t = busTime s ∧
      t.ticks.seconds = s.ticks.seconds ∧ t.ticks.nanos = s.ticks.nanos ∧ t.ticks.aligned = true ∧
      t.ticks.jump = true ∧ t.ticks.plan = s.ticks.plan ∧ t.ticks.idx = s.ticks.idx ∧
      t = { s with ticks := t.ticks, eye := t.eye } := by
  subst et
  exact ⟨rfl, rfl, rfl, rfl, rfl, rfl, rfl, rfl, rfl⟩

theorem State.setQuality_eq (s : State) (q : Nat) :
    s.setQuality q = { s with ticks := { s.ticks with quality := q }, eye := (s.setQuality q).eye } := by
  unfold State.setQuality
  split
  case isTrue same => rw [← same]
  case isFalse => rw [State.posts_eq]

section TimeBus

variable (seconds : BitVec 48) (nanos : BitVec 32) (valid hold : Bool) (s : State)

/-- TIME_ALIGN aligns a keeper that runs and has not been aligned, once there is time. -/
theorem exec_timeAlign : exec (.timeAlign seconds nanos valid hold) s =
    .next (if (valid || hold) && s.ticks.running && !s.ticks.aligned then (s.sampleBus seconds nanos valid hold).align
      else s.sampleBus seconds nanos valid hold) := by
  simp only [exec, execTimeAlign, State.sampleBus_ticks, apply_ite Host.Outcome.next]

variable {valid hold s}

theorem timeAlign_aligns (running : s.ticks.running = true) (apart : s.ticks.aligned = false)
    (time : valid = true ∨ hold = true) :
    ∃ t, exec (.timeAlign seconds nanos valid hold) s = .next t ∧ keeperTime t = busTime t ∧
      t.ticks.seconds = seconds ∧ t.ticks.nanos = nanos ∧ t.ticks.aligned = true ∧ t.ticks.jump = true ∧
      t.ticks.plan = s.ticks.plan ∧ t.ticks.idx = s.ticks.idx ∧ t = { s with ticks := t.ticks, eye := t.eye } := by
  have known : (valid || hold) = true := by simpa using time
  obtain ⟨q, e, aligned⟩ := (s.sampleBus seconds nanos valid hold).align_eq
  obtain ⟨keeper, bus, sec, nan, isAligned, jump, plan, idx, frame⟩ := State.keeperSet_frame _ _ q e aligned
  refine ⟨(s.sampleBus seconds nanos valid hold).align, ?_, ?_, ?_, ?_, isAligned, jump, ?_, ?_, ?_⟩
  · rw [exec_timeAlign, known, running, apart]
    rfl
  · rw [keeper, bus, Int.sub_add_cancel]
  · rw [sec, State.sampleBus_ticks]
  · rw [nan, State.sampleBus_ticks]
  · rw [plan, State.sampleBus_ticks]
  · rw [idx, State.sampleBus_ticks]
  · refine frame.trans ?_
    rw [State.sampleBus_eq]

theorem timeAlign_samples (unmet : s.ticks.running = false ∨ s.ticks.aligned = true ∨ (valid = false ∧ hold = false)) :
    exec (.timeAlign seconds nanos valid hold) s = .next (s.sampleBus seconds nanos valid hold) := by
  have still : ((valid || hold) && s.ticks.running && !s.ticks.aligned) = false := by
    rcases unmet with stopped | aligned | ⟨invalid, unheld⟩
    · simp [stopped]
    · simp [aligned]
    · simp [invalid, unheld]
  rw [exec_timeAlign, still]
  rfl

variable (valid hold s)

/-- QUALITY_CHANGE gives the quality of the sample (Table 2.2), and leaves the keeper and every index (R51). -/
theorem qualityChange_acts : ∃ t, exec (.qualityChange seconds nanos valid hold) s = .next t ∧
    t.ticks.quality = qualityOf (s.sampleBus seconds nanos valid hold) ∧ t.ticks.keeper = s.ticks.keeper ∧
    t.ticks.valid = valid ∧ t.ticks.hold = hold ∧ t.ticks.plan = s.ticks.plan ∧ t.ticks.idx = s.ticks.idx ∧
    t = { s with ticks := t.ticks, eye := t.eye } := by
  refine ⟨_, rfl, ?_⟩
  rw [State.setQuality_eq]
  refine ⟨rfl, ?_⟩
  rw [State.sampleBus_eq]
  exact ⟨rfl, rfl, rfl, rfl, rfl, rfl⟩

end TimeBus

/-- An overrun is flagged in its direction, counted there, and withholds work behind every frame in the block (R70). -/
theorem overrun_acts (d : Dir) (s : State) : ∃ o : OverrunState,
    exec (.overrun d) s = .next (State.post { s with ovr := o } (414 + 6 * planDom s)) ∧
    d ∈ o.flagged ∧ (d, s.nextFrame) ∈ o.withheld ∧
    o.cntE = (if d = .egress then s.ovr.cntE + 1 else s.ovr.cntE) ∧
    o.cntI = (if d = .ingress then s.ovr.cntI + 1 else s.ovr.cntI) ∧
    o.cntK = (if d = .keccak then s.ovr.cntK + 1 else s.ovr.cntK) ∧
    o = { s.ovr with
      flagged := o.flagged, withheld := o.withheld, cntE := o.cntE, cntI := o.cntI, cntK := o.cntK } := by
  refine ⟨_, rfl, ?_, List.mem_cons_self, rfl, rfl, rfl, rfl⟩
  by_cases before : s.ovr.flagged.contains d = true
  · rw [if_pos before]
    exact List.contains_iff_mem.mp before
  · rw [if_neg before]
    exact List.mem_cons_self

/-- PLAN_OVERLOAD_SET sets the condition once eight periods have overrun, and PLAN_OVERLOAD_CLEAR clears it after 96
without one (R71). -/
theorem exec_planOverloadSet (s : State) : exec .planOverloadSet s =
    .next (if 8 ≤ s.ovr.run ∧ s.ovr.overload = false
      then State.post { s with ovr := { s.ovr with overload := true } } (414 + 6 * planDom s) else s) := by
  simp only [exec, execPlanOverloadSet, Bool.and_eq_true, decide_eq_true_eq, Bool.not_eq_true',
    apply_ite Host.Outcome.next]

theorem exec_planOverloadClear (s : State) : exec .planOverloadClear s =
    .next (if 96 ≤ s.ovr.calm ∧ s.ovr.overload = true
      then { s with ovr := { s.ovr with overload := false } } else s) := by
  simp only [exec, execPlanOverloadClear, Bool.and_eq_true, decide_eq_true_eq, apply_ite Host.Outcome.next]

/-- Settles O39: each row by the lemma about it. -/
theorem timeAndOverrunRowsAct : Obligations.TimeAndOverrunRowsAct := by
  unfold Obligations.TimeAndOverrunRowsAct
  refine ⟨fun seconds nanos valid hold s => ⟨timeAlign_aligns seconds nanos, timeAlign_samples seconds nanos,
    qualityChange_acts seconds nanos valid hold s, rfl⟩, overrun_acts, fun s => ?overload⟩
  case overload =>
    rw [exec_planOverloadSet, exec_planOverloadClear]
    refine ⟨fun long calm => ?_, fun unmet => ?_, fun long set => ?_, fun unmet => ?_⟩
    · rw [if_pos ⟨long, calm⟩]
    · rw [if_neg fun ⟨long, calm⟩ => unmet.elim (Nat.not_lt.mpr long) (by simp [calm])]
    · rw [if_pos ⟨long, set⟩]
    · rw [if_neg fun ⟨long, set⟩ => unmet.elim (Nat.not_lt.mpr long) (by simp [set])]

/-! ### Supply check, digest result and echo (R37, R115, R116, R118, R119) -/

section Supply

variable {f : Nat} {s : State} {x : TxFrame} (found : s.txFrame f = some x)
  (stage : x.stage = .sealed ∨ x.stage = .onWire) (ended : x.ended = true) (bare : x.wire = [])
  (notClear : x.kind ≠ .clear) (notPtp : x.kind ≠ .ptp)
include stage ended bare notClear notPtp

/-- The end of supply of a frame that its slice seals: it has not been judged, and its kind is one that is sealed. -/
theorem supply_judged : (!(x.stage == .sealed || x.stage == .onWire) || !x.ended || !x.wire.isEmpty ||
    x.kind == .clear || x.kind == .ptp) = false := by
  have sealed : (x.stage == .sealed || x.stage == .onWire) = true := by simpa using stage
  simp [sealed, ended, bare, notClear, notPtp]

include found

/-- A short supply: its blocks are discarded, and it completes, or goes on the wire with an inverted FCS. -/
theorem supplyCheck_short (short : x.bytes.length < x.declared ∨ x.short = true) {v : State} {whole : List Byte}
    (ev : v = if x.ctx.suite = 5 then s else s.discardBlocks x.slice (txCategory x) (txSlots x))
    (ew : whole = sealedWire s x (x.bytes.take x.declared ++ List.replicate (x.declared - x.bytes.length) 0)) :
    exec (.sealSupplyCheck f) s = .next (if x.ctx.echo = true ∨ x.ctx.suite = 5 then v.completeTx x stShort false
      else v.setTx { x with
        wire := whole.take (whole.length - (x.declared - x.bytes.length) - icvLen x.ctx), short := true, badFcs := true
        fail := some stShort }) := by
  subst ev ew
  have lacking : x.supplyShort = true := by simpa [TxFrame.supplyShort, or_comm] using short
  simp only [exec, execSealSupplyCheck, found, supply_judged stage ended bare notClear notPtp, lacking, takesSlots,
    Bool.false_eq_true, if_false, if_true, bne_iff_ne, ne_eq, ite_not, Bool.or_eq_true, beq_iff_eq,
    apply_ite Host.Outcome.next]

/-- A whole supply is sealed, an over-long one cut and counted, and goes to the digest engine, the echo or the MAC. -/
theorem supplyCheck_whole (enough : x.declared ≤ x.bytes.length) (whole : x.short = false) {y : TxFrame} {v u : State}
    (ey : y = { x with
      trunc := decide (x.declared < x.bytes.length), plain := x.bytes.take x.declared,
      wire := sealedWire s x (x.bytes.take x.declared) })
    (ev : v = if x.declared < x.bytes.length then s.bumpPort (lowPort x.ctx.portMask) 28 1 else s)
    (eu : u = if x.trailer = [] then v else v.coreWorks 10) :
    exec (.sealSupplyCheck f) s = .next (
      if x.ctx.suite = 5 then State.post (State.setTx (State.countUse { u with
        out := { u.out with digestReq := some (gsvDigestInput y.ctx y.ctx.cur (y.count.getD 0) y.trailer
          (y.mac.map Shares.whole) (x.bytes.take x.declared)) } } x.ctx.cur.slot) { y with stage := .digestWait }) 489
      else if x.ctx.echo then u.setTx { y with stage := .echoWait } else u.setTx y) := by
  subst ey ev eu
  have full : x.supplyShort = false := by simpa [TxFrame.supplyShort, whole] using enough
  simp only [exec, execSealSupplyCheck, found, supply_judged stage ended bare notClear notPtp, full,
    Bool.false_eq_true, if_false, beq_iff_eq, decide_eq_true_eq, List.isEmpty_iff, apply_ite Host.Outcome.next]

end Supply

section Digest

variable {f : Nat} {r : DigestResult} {s : State} {x : TxFrame} (formed : r.tag.length = 32)
  (found : s.txFrame f = some x) (stage : x.stage = .digestWait)
include formed found stage

theorem digestSealResult_passes (flag : r.flag = true) (flagN : r.flagN = false) (kept : r.truncated = false) :
    exec (.digestSealResult f r) s = .next (if x.ctx.echo
      then s.setTx { x with stage := .echoWait, wire := x.wire ++ r.tag }
      else s.readyTx { x with stage := .ready, wire := x.wire ++ r.tag }) := by
  have tag : wfDigest r = true := by simp [wfDigest, formed]
  have passes : digestPasses r = true := by simp [digestPasses, digestPairOk, flag, flagN, kept]
  have quiet : s.digestEvents r = s := by simp [State.digestEvents, State.postIf, digestPairOk, flag, flagN, kept]
  simp only [exec, execDigestSealResult, tag, found, stage, passes, quiet, bne_self_eq_false, Bool.not_true,
    Bool.false_eq_true, if_false]

theorem digestSealResult_fails (bad : r.flag = false ∨ r.flagN = true ∨ r.truncated = true) :
    exec (.digestSealResult f r) s = .next ((s.digestEvents r).completeTx x stDigest false) := by
  have tag : wfDigest r = true := by simp [wfDigest, formed]
  have fails : digestPasses r = false := by
    rcases bad with flag | flagN | cut
    · simp [digestPasses, flag]
    · simp [digestPasses, digestPairOk, flagN]
    · simp [digestPasses, cut]
  simp only [exec, execDigestSealResult, tag, found, stage, fails, bne_self_eq_false, Bool.not_true, Bool.not_false,
    Bool.false_eq_true, if_false, if_true]

end Digest

section Echo

variable {f : Nat} {sl : Fin 3} (upset : List (Nat × Byte)) {cellBad : Bool} {s v : State} {x : TxFrame} {r : Fetch}
  (found : s.txFrame f = some x) (stage : x.stage = .echoWait)
  (turn : mayEnter s .ingress (serviceRank x.cls (s.aux_ x.handle).usedOpen x.ctx.cRate) x.id = true)
  (fetched : s.fetchFrame (3 + sl.val) x.ctx x.ctx.cur useSeal cellBad = (r, v)) (alive : v.mode ≠ .lockdown)
include found stage turn fetched alive

/-- With its key the echo opens the sealed bytes, and the frame goes on only if they pass. -/
theorem sealEcho_opened {key : Shares} {bs : List Byte} {u : State} (er : r = .ok key)
    (eb : bs = upsetBytes upset x.wire)
    (eu : u = (v.busyPulse (194 + 4 * (3 + sl.val))).useSlots x.handle true (echoSlots x)) :
    exec (.sealEcho f sl upset cellBad) s = .next (if echoPasses key.whole (sciOf u x.ctx) x bs
      then u.readyTx { x with stage := .ready, wire := bs }
      else (((u.discardBlocks x.slice (txCategory x) (txSlots x)).discardBlocks (3 + sl.val) (txCategory x)
        (echoSlots x)).posts [193 + 4 * x.slice, 193 + 4 * (3 + sl.val)]).completeTx x stEcho false) := by
  subst er eb eu
  have going : (v.mode == .lockdown) = false := by simpa using alive
  simp only [exec, execSealEcho, found, stage, turn, fetched, going, bne_self_eq_false, Bool.not_true, Bool.or_self,
    Bool.false_eq_true, if_false, apply_ite Host.Outcome.next]

/-- Without a key the frame fails as at the echo, and its fetch as any other. -/
theorem sealEcho_unfetched (failed : r.isOk = false) : exec (.sealEcho f sl upset cellBad) s =
    .next ((((State.onShots (v.discardBlocks x.slice (txCategory x) (txSlots x)) x.handle x.id
      (fetchMarked x.ctx.cur.slot)).fetchFailed x.handle x.ctx.cur r).post (193 + 4 * x.slice)).completeTx x stEcho
        false) := by
  have going : (v.mode == .lockdown) = false := by simpa using alive
  simp only [exec, execSealEcho, found, stage, turn, fetched, going, bne_self_eq_false, Bool.not_true, Bool.or_self,
    Bool.false_eq_true, if_false]
  cases r with
  | ok key => cases failed
  | atLimit => rfl
  | refused => rfl

end Echo

/-- Settles O45: the supply check short or whole, the digest result passed or failed, the echo opened or without its
key. -/
theorem sealedFramesLeaveTheSlice : Obligations.SealedFramesLeaveTheSlice := by
  unfold Obligations.SealedFramesLeaveTheSlice
  refine ⟨?supply, ?digest, ?echo⟩
  case supply =>
    intro f s x found stage ended bare notClear notPtp
    refine ⟨fun v whole short ev ew => ?_, fun y v u enough whole ey ev eu => ?_⟩
    · rw [supplyCheck_short found stage ended bare notClear notPtp short ev ew]
      exact ⟨fun held => by rw [if_pos held], fun plain other => by rw [if_neg (by simp [plain, other])]⟩
    · rw [supplyCheck_whole found stage ended bare notClear notPtp enough whole ey ev eu]
      exact ⟨fun digest => by rw [if_pos digest], fun other echo => by rw [if_neg other, if_pos echo],
        fun other plain => by rw [if_neg other, plain, if_neg Bool.false_ne_true]⟩
  case digest =>
    intro f r s x formed found stage
    refine ⟨fun flag flagN kept => ?_, digestSealResult_fails formed found stage⟩
    rw [digestSealResult_passes formed found stage flag flagN kept]
    exact ⟨fun plain => by rw [plain, if_neg Bool.false_ne_true], fun echo => by rw [if_pos echo]⟩
  case echo =>
    intro f sl upset cellBad s v x r found stage turn fetched alive
    refine ⟨fun key bs u er eb eu => ?_, sealEcho_unfetched upset found stage turn fetched alive⟩
    rw [sealEcho_opened upset found stage turn fetched alive er eb eu]
    exact ⟨fun passes => by rw [if_pos passes], fun fails => by rw [fails, if_neg Bool.false_ne_true]⟩

end Sys2Proof.Machine

/-!
PROOFS. The statements of generations at their boundary, and of disclosures, holds and V2 records (O34, O53).
-/

namespace Sys2Proof.Machine

/-! ### What agreement outside some fields gives for one stream, and for a whole state -/

theorem Touch.stream {L : List Fld} {s t : State} (h : Touch L s t) (w : L.contains .streams = false) (k : Nat) :
    t.stream k = s.stream k := by
  rw [State.stream, h.streams w]
  rfl

theorem Touch.slot {L : List Fld} {s t : State} (h : Touch L s t) (w : L.contains .slots = false) (k : Nat) :
    t.slot k = s.slot k := by
  rw [State.slot, h.slots w]
  rfl

/-- A state is given by its fields. -/
theorem State.eq_of_same {s t : State} (h : ∀ f, s.same t f) : t = s := by
  cases s
  cases t
  rw [State.mk.injEq]
  exact ⟨h .pending, h .now, h .draws, h .mode, h .cause, h .fatal, h .assay, h .fuses, h .nv, h .active, h .img,
    h .bmr, h .ladder, h .tamperLatch, h .tamperLevel, h .retention, h .power, h .tcfg, h .ticks, h .ovr, h .mail,
    h .rotation, h .cmds, h .nextCmd, h .staged, h .streams, h .shots, h .aux, h .adm, h .grace, h .slots, h .keyCtl,
    h .ent, h .imports, h .rings, h .hostMem, h .jobs, h .tx, h .rx, h .nextFrame, h .egSkip, h .eReady,
    h .classifying, h .ingress, h .ports, h .pairs, h .noticeLog, h .gates, h .pubs, h .vers, h .v2, h .bw, h .pebbles,
    h .mem, h .dram, h .eye, h .bus, h .out⟩

/-- What a change of a stream's generations may alter (R212, R213). -/
theorem Touch.generation_frame {s t : State}
    (h : Touch [.streams, .aux, .slots, .keyCtl, .grace, .staged, .eye] s t) :
    t = { s with
      streams := t.streams, aux := t.aux, slots := t.slots, keyCtl := t.keyCtl, grace := t.grace,
      staged := t.staged, eye := t.eye } := by
  refine State.eq_of_same fun f => ?_
  have kept := h f
  cases f
  case streams | aux | slots | keyCtl | grace | staged | eye => rfl
  all_goals exact kept rfl

/-! ### Bits of w27 and the transmit count (R84, Table 3.6) -/

theorem bit_setBit {n : Nat} (w : BitVec n) (i : Nat) (b : Bool) {j : Nat} (hj : j < n) :
    bit (setBit w i b) j = if j = i then b else bit w j := by
  rw [setBit, bit_setFld w i 1 (boolNat b) hj]
  by_cases same : j = i
  · subst same
    cases b <;> simp [boolNat]
  · rw [if_neg (by omega), if_neg same]

theorem Context.txCount_setTxCount (c : Context) {v : Nat} (fits : v < 2 ^ 64) : (c.setTxCount v).txCount = v := by
  have high : fld (setFld c.w25 32 16 (v >>> 48)) 32 16 = v >>> 48 % 2 ^ 16 := fld_setFld_same _ _ (by decide)
  have low : (BitVec.ofNat 48 v).toNat = v % 2 ^ 48 := BitVec.toNat_ofNat ..
  rw [Nat.shiftRight_eq_div_pow] at high
  show fld (setFld c.w25 32 16 (v >>> 48)) 32 16 * 2 ^ 48 + (BitVec.ofNat 48 v).toNat = v
  rw [Nat.shiftRight_eq_div_pow, high, low]
  omega

/-! ### A context after a roll and after an install (R84, R210, R213) -/

/-- Context r is context c after a roll at tick t, with `first` the first count of the generation that becomes
current. -/
structure Rolled (c : Context) (t : Tick) (first : Nat) (r : Context) : Prop where
  cur : r.cur = c.nxt
  prv : r.prv = c.cur
  nxt : r.nxt = .zero
  closes : r.w11 = BitVec.ofNat 48 (t + c.grace)
  cleared : c.isSealRec = false → r.rollRequested = false ∧ r.txExhausted = false ∧ r.keyRefused = false
  counts : c.isRecord = false → first < 2 ^ 64 → r.txCount = first
  w0 : r.w0 = c.w0
  w7 : r.w7 = c.w7

theorem clearFlags_clears (c : Context) :
    (clearFlags c).rollRequested = false ∧ (clearFlags c).txExhausted = false ∧
      (clearFlags c).keyRefused = false := by
  simp [clearFlags, Context.setRollRequested, Context.setTxExhausted, Context.setKeyRefused, Context.rollRequested,
    Context.txExhausted, Context.keyRefused, bit_setBit]

theorem rollCtx_rolled (c : Context) (t : Tick) (first : Nat) : Rolled c t first (rollCtx c t first) := by
  unfold rollCtx
  dsimp only
  split
  case isTrue sealing =>
    refine ⟨rfl, rfl, rfl, rfl, fun other => ?_, fun other => ?_, rfl, rfl⟩
    · exact absurd (sealing.symm.trans other) (by decide)
    · have records : c.isRecord = true := by
        simp only [Context.isRecord, Bool.or_eq_true]
        exact .inl sealing
      exact absurd (records.symm.trans other) (by decide)
  case isFalse =>
    split
    case isTrue records =>
      exact ⟨rfl, rfl, rfl, rfl, fun _ => clearFlags_clears _,
        fun other => absurd (records.symm.trans other) (by decide), rfl, rfl⟩
    case isFalse =>
      exact ⟨rfl, rfl, rfl, rfl, fun _ => clearFlags_clears _, fun _ fits => Context.txCount_setTxCount _ fits, rfl,
        rfl⟩

/-- The replay state that the exchange brings changes nothing that a roll is to give. -/
theorem Rolled.setReplay {c r : Context} {t : Tick} {first : Nat} (h : Rolled c t first r) (highest : Nat)
    (map : Word) : Rolled c t first { r.setHighest highest with w28 := map } where
  cur := h.cur
  prv := h.prv
  nxt := h.nxt
  closes := h.closes
  cleared plain := by
    have flag (i : Nat) (low : i < 32) : bit (setFld r.w27 32 16 (highest >>> 48)) i = bit r.w27 i := by
      rw [bit_setFld _ _ _ _ (by omega), if_neg (by omega)]
    obtain ⟨roll, count, key⟩ := h.cleared plain
    exact ⟨(flag 15 (by decide)).trans roll, (flag 14 (by decide)).trans count, (flag 13 (by decide)).trans key⟩
  counts := h.counts
  w0 := h.w0
  w7 := h.w7

theorem installCtx_first {c : Context} (i : Install) (lacks : c.cur.valid = false) :
    (installCtx c i).cur = i.gen ∧ (installCtx c i).nxt = c.nxt ∧ (installCtx c i).prv = c.prv ∧
      (c.isRecord = false → i.first < 2 ^ 64 → (installCtx c i).txCount = i.first) := by
  unfold installCtx
  rw [if_neg (by simp [lacks])]
  split
  case isTrue records => exact ⟨rfl, rfl, rfl, fun other => absurd (records.symm.trans other) (by decide)⟩
  case isFalse => exact ⟨rfl, rfl, rfl, fun _ fits => Context.txCount_setTxCount _ fits⟩

/-! ### Use limits of slots (R145) -/

/-- Every slot has the same use limit in two states. -/
def SameLimits (s t : State) : Prop := ∀ k, (t.slot k).u1 = (s.slot k).u1

theorem SameLimits.trans {s t u : State} (h : SameLimits s t) (k : SameLimits t u) : SameLimits s u :=
  fun j => (k j).trans (h j)

theorem sameLimits_of_touch {L : List Fld} {s t : State} (h : Touch L s t) (w : L.contains .slots = false) :
    SameLimits s t := fun k => congrArg KeySlot.u1 (h.slot w k)

/-- Orphaning sets a bit of the attribute word of some slots, and leaves the rest of every slot (R232). -/
theorem get_orphanBelow (k j : Nat) (m : Table KeySlot) :
    Table.get .empty j (orphanBelow k m) = Table.get .empty j m ∨ Table.get .empty j (orphanBelow k m) =
      { Table.get .empty j m with attr := setBit (Table.get .empty j m).attr 45 true } := by
  unfold orphanBelow
  dsimp only
  generalize descendants m 6 [k] = ds
  induction m with
  | nil => exact .inl rfl
  | cons e m ih =>
    by_cases here : e.1 = j
    · subst here
      by_cases below : e.1 ∈ ds <;> simp [Table.get, below]
    · by_cases below : e.1 ∈ ds <;> simpa [Table.get, here, below] using ih

/-- A slot that is invalidated becomes Scrubbing (R233). -/
def KeySlot.toScrub (v : KeySlot) : KeySlot := { v with attr := setFld v.attr 46 2 2 }

theorem State.invalidate_slot {s : State} {k : Nat} (valid : (s.slot k).valid = true) (j : Nat) :
    (s.invalidate k).slot j = Table.get .empty j (orphanBelow k (s.setSlot k (s.slot k).toScrub).slots) := by
  rw [State.invalidate, if_pos valid, State.post_slot, State.invalidateQuiet, if_pos valid]
  rfl

theorem sameLimits_invalidate (s : State) (k : Nat) : SameLimits s (s.invalidate k) := by
  intro j
  cases valid : (s.slot k).valid with
  | false => rw [State.invalidate, if_neg (by rw [valid]; exact Bool.false_ne_true)]
  | true =>
    have marked : ((s.setSlot k (s.slot k).toScrub).slot j).u1 = (s.slot j).u1 := by
      by_cases same : j = k
      · rw [same, State.slot_setSlot]
        rfl
      · rw [State.slot_setSlot_other _ same]
    rw [State.invalidate_slot valid]
    rcases get_orphanBelow k j (s.setSlot k (s.slot k).toScrub).slots with apart | below
    · exact (congrArg KeySlot.u1 apart).trans marked
    · exact (congrArg KeySlot.u1 below).trans marked

theorem sameLimits_releaseSlot (s : State) (h k : Nat) : SameLimits s (s.releaseSlot h k) := by
  unfold State.releaseSlot
  split
  · exact fun _ => rfl
  · exact sameLimits_invalidate s k

theorem State.freeGrace_rest (s : State) (h : Nat) : Touch [.grace] s (s.freeGrace h) :=
  (State.freeGrace_touch s h (by decide)).mpr (Touch.refl _ _)

theorem sameLimits_closePrev (s : State) (h : Nat) : SameLimits s (s.closePrev h) := by
  unfold State.closePrev
  dsimp only
  split
  · exact SameLimits.trans (sameLimits_releaseSlot (s.setAux h _) h _)
      (sameLimits_of_touch (State.freeGrace_rest _ _) (by decide))
  · exact fun _ => rfl

/-! ### The close of the previous generation (R216) -/

theorem State.closePrev_rest (s : State) (h : Nat) : Touch [.aux, .grace, .slots, .keyCtl, .eye] s (s.closePrev h) :=
  (State.closePrev_touch s h (by decide)).mpr (Touch.refl _ _)

theorem State.closePrev_firstCount (s : State) (h : Nat) :
    ((s.closePrev h).aux_ h).firstCount = (s.aux_ h).firstCount := by
  unfold State.closePrev
  dsimp only
  split
  · have rest (u : State) (k : Nat) : Touch [.grace, .slots, .keyCtl, .eye] u ((u.releaseSlot h k).freeGrace h) := by
      simp (disch := decide) only [State.freeGrace_touch, State.releaseSlot_touch, Touch.refl]
    rw [State.aux_, (rest _ _).aux (by decide)]
    exact (congrArg StreamAux.firstCount (State.aux__setAux _ _ _)).trans rfl
  · rfl

section ClosedIf

variable (p : Prop) [Decidable p] (s : State) (h : Nat)

theorem State.closedIf_rest : Touch [.aux, .grace, .slots, .keyCtl, .eye] s (if p then s.closePrev h else s) := by
  split
  · exact s.closePrev_rest h
  · exact Touch.refl _ _

theorem State.closedIf_stream (k : Nat) : (if p then s.closePrev h else s).stream k = s.stream k :=
  (State.closedIf_rest p s h).stream (by decide) k

theorem State.closedIf_firstCount :
    ((if p then s.closePrev h else s).aux_ h).firstCount = (s.aux_ h).firstCount := by
  split
  · exact s.closePrev_firstCount h
  · rfl

theorem sameLimits_closedIf : SameLimits s (if p then s.closePrev h else s) := by
  split
  · exact sameLimits_closePrev s h
  · exact fun _ => rfl

end ClosedIf

/-! ### A roll at its boundary (R213, R217) -/

section Roll

variable (s : State) (h : Nat) (t : Tick) (first : Nat)

theorem State.commitRoll_rolled (valid : (s.stream h).nxt.valid = true) :
    Rolled (s.stream h) t first ((s.commitRoll h t first).stream h) := by
  have rolled := rollCtx_rolled (s.stream h) t first
  unfold State.commitRoll
  dsimp only
  rw [if_neg (by simp [valid]), State.closedIf_stream, State.setAux_stream, State.stream_setStream]
  split
  · exact rolled.setReplay _ _
  · exact rolled

theorem State.commitRoll_stream_other {k : Nat} (other : k ≠ h) : (s.commitRoll h t first).stream k = s.stream k := by
  unfold State.commitRoll
  dsimp only
  split
  · rfl
  · rw [State.closedIf_stream, State.setAux_stream, State.stream_setStream_other _ other]
    rfl

theorem sameLimits_commitRoll : SameLimits s (s.commitRoll h t first) := by
  unfold State.commitRoll
  dsimp only
  split
  · exact fun _ => rfl
  · exact SameLimits.trans (fun _ => rfl) (sameLimits_closedIf _ _ h)

theorem State.commitRoll_rest : Touch [.streams, .aux, .grace, .slots, .keyCtl, .eye] s (s.commitRoll h t first) :=
  (State.commitRoll_touch s h t first (by decide)).mpr (Touch.refl _ _)

end Roll

/-! ### An install at its boundary (R145, R210, R212) -/

/-- A next generation that another one replaces gives up its early window and its slot (R212). -/
def State.replaceNext (s : State) (h : Nat) (old : Gen) (guarded : Bool) : State :=
  if old.valid then (if guarded then s.dropNext h old.num else s).releaseSlot h old.slot else s

theorem State.replaceNext_rest (s : State) (h : Nat) (old : Gen) (guarded : Bool) :
    Touch [.grace, .slots, .keyCtl, .eye] s (s.replaceNext h old guarded) := by
  unfold State.replaceNext
  split
  · rw [State.releaseSlot_touch _ _ _ (by decide)]
    split
    · exact (State.dropNext_touch _ _ _ (by decide)).mpr (Touch.refl _ _)
    · exact Touch.refl _ _
  · exact Touch.refl _ _

theorem sameLimits_replaceNext (s : State) (h : Nat) (old : Gen) (guarded : Bool) :
    SameLimits s (s.replaceNext h old guarded) := by
  unfold State.replaceNext
  split
  · refine SameLimits.trans ?_ (sameLimits_releaseSlot _ h _)
    split
    · exact sameLimits_of_touch ((State.dropNext_touch (Lt := [.grace]) _ _ _ (by decide)).mpr (Touch.refl _ _))
        (by decide)
    · exact fun _ => rfl
  · exact fun _ => rfl

/-- The slot of an install has its use limit, and the stream the context c. -/
def State.limitedWith (s : State) (h : Nat) (i : Install) (c : Context) : State :=
  (s.limitSlot i.gen.slot i.limit).setStream h c

theorem State.limitedWith_limit (s : State) (h : Nat) (i : Install) (c : Context) :
    ((s.limitedWith h i c).slot i.gen.slot).u1 = if i.limit = 0 then BitVec.allOnes 48 else i.limit := by
  rw [State.limitedWith, State.setStream_slot, State.limitSlot, State.slot_setSlot]
  rfl

section Install

variable (s : State) (h : Nat) (t : Tick) (i : Install)

/-- A stream without a current generation takes the installed one as its current one. -/
theorem State.commitInstall_first (lacks : (s.stream h).cur.valid = false) : ∃ p a, s.commitInstall h t i =
    ((s.limitedWith h i (installCtx (s.stream h) i)).dropGrace h p).setAux h a := by
  unfold State.commitInstall
  dsimp only
  rw [if_pos (by simp [lacks])]
  exact ⟨_, _, rfl⟩

/-- A stream with a current generation takes the installed one as its next one, and then may roll to it. -/
theorem State.commitInstall_next (current : (s.stream h).cur.valid = true) :
    ∃ (a : StreamAux) (u : State) (early : Bool),
    u = ((s.limitedWith h i { s.stream h with nxt := i.gen }).replaceNext h (s.stream h).nxt
      (s.aux_ h).follow).setAux h a ∧
    s.commitInstall h t i = if i.roll then u.commitRoll h t i.first else if early then u.openEarly h else u := by
  unfold State.commitInstall
  dsimp only
  rw [if_neg (by simp [current])]
  exact ⟨_, _, _, rfl, rfl⟩

variable {s h i}

/-- The state that an install leaves to a stream with a current generation before it may roll. -/
theorem State.replaced_stream {u : State} {a : StreamAux} {old : Gen} {guarded : Bool} {c : Context}
    (eu : u = ((s.limitedWith h i c).replaceNext h old guarded).setAux h a) :
    u.stream h = c ∧ (∀ k, k ≠ h → u.stream k = s.stream k) ∧
      (u.slot i.gen.slot).u1 = if i.limit = 0 then BitVec.allOnes 48 else i.limit := by
  have rest := (s.limitedWith h i c).replaceNext_rest h old guarded
  subst eu
  refine ⟨?_, fun k other => ?_, ?_⟩
  · rw [State.setAux_stream, rest.stream (by decide)]
    exact State.stream_setStream ..
  · rw [State.setAux_stream, rest.stream (by decide)]
    exact State.stream_setStream_other _ other _
  · rw [State.setAux_slot, sameLimits_replaceNext]
    exact State.limitedWith_limit ..

theorem State.openEarly_rest (u : State) (h : Nat) : Touch [.grace] u (u.openEarly h) :=
  (State.openEarly_touch u h (by decide)).mpr (Touch.refl _ _)

theorem State.commitInstall_stream_first (lacks : (s.stream h).cur.valid = false) :
    (s.commitInstall h t i).stream h = installCtx (s.stream h) i := by
  obtain ⟨p, a, installed⟩ := s.commitInstall_first h t i lacks
  rw [installed, State.setAux_stream,
    ((State.dropGrace_touch (Lt := [.grace]) _ h p (by decide)).mpr (Touch.refl _ _)).stream (by decide)]
  exact State.stream_setStream ..

theorem State.commitInstall_stream_next (current : (s.stream h).cur.valid = true) (stays : i.roll = false) :
    (s.commitInstall h t i).stream h = { s.stream h with nxt := i.gen } := by
  obtain ⟨a, u, early, eu, installed⟩ := s.commitInstall_next h t i current
  obtain ⟨next, -, -⟩ := State.replaced_stream eu
  rw [installed, stays, if_neg Bool.false_ne_true]
  split
  · exact ((u.openEarly_rest h).stream (by decide) h).trans next
  · exact next

/-- An install that carries its roll. -/
theorem State.commitInstall_rolled (current : (s.stream h).cur.valid = true) (rolls : i.roll = true)
    (valid : i.gen.valid = true) :
    Rolled { s.stream h with nxt := i.gen } t i.first ((s.commitInstall h t i).stream h) := by
  obtain ⟨a, u, early, eu, installed⟩ := s.commitInstall_next h t i current
  obtain ⟨next, -, -⟩ := State.replaced_stream eu
  rw [installed, if_pos rolls, ← next]
  exact u.commitRoll_rolled h t i.first (by rwa [next])

variable (s h i)

theorem State.commitInstall_stream_other {k : Nat} (other : k ≠ h) :
    (s.commitInstall h t i).stream k = s.stream k := by
  cases current : (s.stream h).cur.valid with
  | false =>
    obtain ⟨p, a, installed⟩ := s.commitInstall_first h t i current
    rw [installed, State.setAux_stream,
      ((State.dropGrace_touch (Lt := [.grace]) _ h p (by decide)).mpr (Touch.refl _ _)).stream (by decide)]
    exact State.stream_setStream_other _ other _
  | true =>
    obtain ⟨a, u, early, eu, installed⟩ := s.commitInstall_next h t i current
    obtain ⟨-, others, -⟩ := State.replaced_stream eu
    rw [installed]
    split
    · exact (u.commitRoll_stream_other h t i.first other).trans (others k other)
    · split
      · exact ((u.openEarly_rest h).stream (by decide) k).trans (others k other)
      · exact others k other

theorem State.commitInstall_limit : ((s.commitInstall h t i).slot i.gen.slot).u1 =
    if i.limit = 0 then BitVec.allOnes 48 else i.limit := by
  cases current : (s.stream h).cur.valid with
  | false =>
    obtain ⟨p, a, installed⟩ := s.commitInstall_first h t i current
    rw [installed, State.setAux_slot]
    exact State.limitedWith_limit s h i (installCtx (s.stream h) i)
  | true =>
    obtain ⟨a, u, early, eu, installed⟩ := s.commitInstall_next h t i current
    obtain ⟨-, -, limit⟩ := State.replaced_stream eu
    rw [installed]
    split
    · exact (sameLimits_commitRoll u h t i.first _).trans limit
    · split
      · exact (sameLimits_of_touch (u.openEarly_rest h) (by decide) _).trans limit
      · exact limit

theorem State.commitInstall_rest : Touch [.streams, .aux, .grace, .slots, .keyCtl, .eye] s (s.commitInstall h t i) :=
  (State.commitInstall_touch s h t i (by decide)).mpr (Touch.refl _ _)

end Install

/-! ### The due change of a stream (R21, R74) -/

theorem State.commitOne_none {s : State} {o : Obj} {ok : Change → Bool} (idle : dueChange s o ok = none) :
    s.commitOne o ok = s := by
  rw [State.commitOne, idle]

theorem dueChange_obj {s : State} {o : Obj} {ok : Change → Bool} {x : Staged} (due : dueChange s o ok = some x) :
    x.obj = o := by
  have found := List.find?_some due
  simp only [Bool.and_eq_true, beq_iff_eq] at found
  exact found.1.1

/-- The due change of a stream leaves the staging area, a previous generation past its close tick closes, and the change
takes effect. -/
theorem State.commitOne_stream {s : State} {h : Nat} {ok : Change → Bool} {x : Staged}
    (due : dueChange s (.stream h) ok = some x) : ∃ u, s.commitOne (.stream h) ok = u.commitStream h x.tick x.chg ∧
      (∀ k, u.stream k = s.stream k) ∧ (u.aux_ h).firstCount = (s.aux_ h).firstCount ∧
      u.staged = s.staged.erase x ∧ Touch [.aux, .slots, .keyCtl, .grace, .staged, .eye] s u := by
  have obj := dueChange_obj due
  rw [State.commitOne, due]
  dsimp only
  rw [State.commitChange, obj]
  refine ⟨_, rfl, State.closedIf_stream _ (s.unstage x) h, State.closedIf_firstCount _ (s.unstage x) h,
    (State.closedIf_rest _ (s.unstage x) h).staged (by decide), ?_⟩
  exact ((State.unstage_touch s x (by decide)).mpr (Touch.refl _ _)).step
    ((State.closedIf_rest _ (s.unstage x) h).mono (by decide))

/-- Settles O34: the due change of the stream by `State.commitOne_stream`, and then the install or the roll. -/
theorem installAndRollTakeEffect : Obligations.InstallAndRollTakeEffect := by
  unfold Obligations.InstallAndRollTakeEffect
  refine ⟨fun h s => ⟨fun idle => congrArg _ (State.commitOne_none idle),
    fun idle => congrArg _ (State.commitOne_none idle)⟩, ?install, ?roll⟩
  case install =>
    rintro h s x i c rfl due chg
    obtain ⟨u, ran, streams, -, staged, before⟩ := State.commitOne_stream due
    rw [chg] at ran
    rw [← streams h.toNat]
    have rest := u.commitInstall_rest h.toNat x.tick i
    refine ⟨_, congrArg Host.Outcome.next ran, fun lacks => ?_, fun current stays =>
      State.commitInstall_stream_next _ current stays, fun current rolls valid => ?_, u.commitInstall_limit _ _ i,
      fun k other => (u.commitInstall_stream_other _ _ i other).trans (streams k),
      (rest.staged (by decide)).trans staged, Touch.generation_frame ((before.mono (by decide)).step
        (rest.mono (by decide)))⟩
    · have first := State.commitInstall_stream_first x.tick (i := i) lacks
      rw [show u.commitStream h.toNat x.tick (.install i) = u.commitInstall h.toNat x.tick i from rfl, first]
      exact installCtx_first i lacks
    · obtain ⟨cur, prv, nxt⟩ := State.commitInstall_rolled x.tick current rolls valid
      exact ⟨cur, prv, nxt⟩
  case roll =>
    rintro h s x g c rfl due chg valid
    obtain ⟨u, ran, streams, first, staged, before⟩ := State.commitOne_stream due
    rw [chg] at ran
    rw [← streams h.toNat] at valid ⊢
    rw [← first]
    have rest := u.commitRoll_rest h.toNat x.tick (u.aux_ h.toNat).firstCount
    have rolled := u.commitRoll_rolled h.toNat x.tick (u.aux_ h.toNat).firstCount valid
    exact ⟨_, congrArg Host.Outcome.next ran, rolled.cur, rolled.prv, rolled.nxt, rolled.closes, rolled.cleared,
      rolled.counts, rolled.w0, rolled.w7,
      fun k other => (u.commitRoll_stream_other _ _ _ other).trans (streams k),
      (rest.staged (by decide)).trans staged, Touch.generation_frame ((before.mono (by decide)).step
        (rest.mono (by decide)))⟩

/-! ### Standalone disclosures (R156) -/

section Standalone

variable {f : Nat} {s : State} {x : RxFrame} (found : s.rxFrame f = some x) (kind : x.kind = .standalone)
include found kind

theorem standaloneReceive_bad (bad : standaloneBad x.body = true) : exec (.standaloneDisclosureReceive f) s =
    .next (((s.dropRx f).bumpPort x.rx.port.val 11 1).report x (standaloneViolation x 0)) := by
  simp only [exec, execStandaloneDisclosureReceive, found, kind, bad, bne_self_eq_false, Bool.false_eq_true, if_false,
    if_true]

variable (good : standaloneBad x.body = false)
include good

theorem standaloneReceive_stray (stray : standaloneMatch s x.rx.port.val x.body = none) :
    exec (.standaloneDisclosureReceive f) s = .next ((s.dropRx f).bumpPort x.rx.port.val 12 1) := by
  have nowhere : standaloneMatch (s.dropRx f) x.rx.port.val x.body = none := stray
  simp only [exec, execStandaloneDisclosureReceive, found, kind, good, nowhere, bne_self_eq_false, Bool.false_eq_true,
    if_false]

theorem standaloneReceive_disclosed {h : Nat} {c : Context} {t : List Byte}
    (taken : standaloneMatch s x.rx.port.val x.body = some (h, c)) (et : t = x.body.drop (16 + tagLen x.body))
    (bare : trFlags t / 32 % 2 = 0) : exec (.standaloneDisclosureReceive f) s =
      .next ((s.dropRx f).disclose ⟨c.chain, trInterval t - trDelay t, trKey t, 0, x, false⟩) := by
  have stream : standaloneMatch (s.dropRx f) x.rx.port.val x.body = some (h, c) := taken
  subst et
  have keyed : (trFlags (x.body.drop (16 + tagLen x.body)) / 32 % 2 == 1) = false := by simp [bare]
  simp only [exec, execStandaloneDisclosureReceive, found, kind, good, stream, keyed, bne_self_eq_false,
    Bool.false_eq_true, if_false]

end Standalone

/-! ### The check of a disclosed key (R196, R202) -/

theorem State.disclose_waits {s : State} {w : KeyWalk} (busy : s.bw.walks.any (fun y => y.chain == w.chain) = true) :
    s.disclose w = { s with bw := { s.bw with walks := s.bw.walks ++ [w] } } := by
  rw [State.disclose, if_pos busy]

theorem State.disclose_runs {s : State} {w : KeyWalk} (idle : s.bw.walks.any (fun y => y.chain == w.chain) = false) :
    s.disclose w = State.runWalks w.chain 1 { s with bw := { s.bw with walks := s.bw.walks ++ [w] } } := by
  rw [State.disclose, idle, if_neg Bool.false_ne_true]

theorem State.withBw_rest (s : State) (b : BwState) : Touch [.bw] s { s with bw := b } := by
  intro f other
  cases f
  case bw => exact absurd other (by decide)
  all_goals rfl

/-- A key whose steps are few enough is judged at once; what its steps cost leaves the keys and holds as they are. -/
theorem State.runWalks_judges {s : State} {n : Nat} {w : KeyWalk} {v : Ver}
    (next : s.bw.walks.find? (fun y => y.chain == n) = some w) (fresh : w.run = 0) (chain : s.ver n = some v)
    (reach : keyGap v w.interval ≤ 1 ∨
      keyGap v w.interval ≤ min (stepLimit - Table.get 0 n s.bw.steps) (reserveLeft s)) :
    ∃ u, State.runWalks n 1 s = u.judgeKey w ∧ Touch [.power, .bw, .eye] s u ∧
      u.bw.resolve = s.bw.resolve ∧ u.bw.refused = s.bw.refused := by
  have within : keyGap v w.interval ≤ 0 + if keyGap v w.interval ≤ 1 then 1
      else min (stepLimit - Table.get 0 n s.bw.steps) (reserveLeft s) := by
    rw [Nat.zero_add]
    split
    case isTrue short => exact short
    case isFalse long => exact reach.resolve_left long
  have worked (p : Prop) [Decidable p] (a : State) : Touch [.power, .eye] a (if p then a.coreWorks 10 else a) := by
    split
    · exact (State.coreWorks_touch _ _ (by decide)).mpr (Touch.refl _ _)
    · exact Touch.refl _ _
  have posted (p : Bool) : Touch [.eye] s (s.postIf p 477) :=
    (State.postIf_touch _ _ _ (by decide)).mpr (Touch.refl _ _)
  simp only [State.runWalks, next, fresh, chain, Option.map_some, Option.getD_some]
  rw [if_pos within]
  refine ⟨_, rfl, ?rest, ?resolve, ?refused⟩
  case rest =>
    exact (((posted _).mono (by decide)).step ((State.withBw_rest _ _).mono (by decide))).step
      ((worked _ _).mono (by decide))
  case resolve =>
    rw [(worked _ _).bw (by decide)]
    show (s.postIf _ 477).bw.resolve = _
    rw [(posted _).bw (by decide)]
  case refused =>
    rw [(worked _ _).bw (by decide)]
    show (s.postIf _ 477).bw.refused = _
    rw [(posted _).bw (by decide)]

/-- The key of an interval in the segment of the newest verified key, and later than it, is checked against that key. -/
theorem keyCheck_newest {v : Ver} {j : Nat} (settled : v.inValid = false) (installed : v.installed = true)
    (later : v.v < j) (segment : j / 65536 = v.seg) : keyCheck v j = .newest := by
  have unknown : ¬ j ≤ v.v := Nat.not_le.mpr later
  simp [keyCheck, settled, installed, segment, unknown]

theorem keyGap_newest {v : Ver} {j : Nat} (newest : keyCheck v j = .newest) : keyGap v j = j - v.v := by
  rw [keyGap, newest]

theorem State.judgeKey_newest {s : State} {w : KeyWalk} {v : Ver} (chain : s.ver w.chain = some v)
    (newest : keyCheck v w.interval = .newest) : s.judgeKey w =
      if leadsTo v.publisher.toNat w.interval w.key v.v v.key then s.keyPasses w.chain v w.interval w.key
      else s.refuseKey w := by
  simp only [State.judgeKey, chain, newest]

section Judged

variable (s : State)

theorem State.storeVer_rest (n : Nat) (v : Ver) : Touch [.vers, .mem, .eye] s (s.storeVer n v) :=
  (State.storeVer_touch _ _ _ (by decide)).mpr (Touch.refl _ _)

theorem State.ver_storeVer (n : Nat) (v : Ver) : (s.storeVer n v).ver n = some v := by
  rw [State.storeVer, State.ver_setVer]

theorem State.keyPasses_ver (n : Nat) (v : Ver) (j : Nat) (k : List Byte) :
    (s.keyPasses n v j k).ver n = some { v with v := j, key := k, keyed := true } := by
  have read (a : State) (b : BwState) : ({ a with bw := b }).ver n = a.ver n := rfl
  rw [State.keyPasses, read, State.ver_storeVer]

theorem State.keyPasses_resolve (n : Nat) (v : Ver) (j : Nat) (k : List Byte) :
    (s.keyPasses n v j k).bw.resolve = s.bw.resolve ++ [(n, j, k)] :=
  congrArg (fun b : BwState => b.resolve ++ [(n, j, k)])
    ((s.storeVer_rest n { v with v := j, key := k, keyed := true }).bw (by decide))

theorem State.keyPasses_rest (n : Nat) (v : Ver) (j : Nat) (k : List Byte) :
    Touch [.vers, .bw, .mem, .eye] s (s.keyPasses n v j k) :=
  (State.keyPasses_touch _ _ _ _ _ (by decide)).mpr (Touch.refl _ _)

variable {w : KeyWalk} (spares : w.decides = false)
include spares

/-- A refused key of a standalone frame is counted and reported; it decides no record. -/
theorem State.refuseKey_rest : Touch [.tx, .nextFrame, .ports, .bw, .eye] s (s.refuseKey w) := by
  rw [State.refuseKey, spares, if_neg Bool.false_ne_true, State.report_touch _ _ _ (by decide),
    State.post_touch _ _ (by decide)]
  exact (State.withBw_rest _ _).mono (by decide)

theorem State.refuseKey_refused : (s.refuseKey w).bw.refused = s.bw.refused + 1 := by
  have reported (a : State) (v : Violation) : Touch [.tx, .nextFrame, .ports, .eye] a (a.report w.frame v) :=
    (State.report_touch _ _ _ (by decide)).mpr (Touch.refl _ _)
  rw [State.refuseKey, spares, if_neg Bool.false_ne_true, (reported _ _).bw (by decide)]
  rfl

end Judged

theorem Touch.ver {L : List Fld} {s t : State} (h : Touch L s t) (w : L.contains .vers = false) (n : Nat) :
    t.ver n = s.ver n := by
  rw [State.ver, h.vers w]
  rfl

/-- The first key of a chain that waits, among those of other chains and itself, is the one that has just come. -/
theorem find?_walks_append {l : List KeyWalk} {w : KeyWalk} (idle : l.any (fun y => y.chain == w.chain) = false) :
    (l ++ [w]).find? (fun y => y.chain == w.chain) = some w := by
  have before : l.find? (fun y => y.chain == w.chain) = none := by simpa using idle
  simp [before]

/-- A key that comes while no other of its chain is being checked, and whose steps are few enough, is judged at once
against the newest verified key (R196). -/
theorem State.disclose_judges {s : State} {w : KeyWalk} {v : Ver}
    (idle : s.bw.walks.any (fun y => y.chain == w.chain) = false) (fresh : w.run = 0)
    (chain : s.ver w.chain = some v) (newest : keyCheck v w.interval = .newest)
    (reach : w.interval - v.v ≤ 1 ∨
      w.interval - v.v ≤ min (stepLimit - Table.get 0 w.chain s.bw.steps) (reserveLeft s)) :
    ∃ u, s.disclose w = (if leadsTo v.publisher.toNat w.interval w.key v.v v.key
        then u.keyPasses w.chain v w.interval w.key else u.refuseKey w) ∧
      Touch [.power, .bw, .eye] s u ∧ u.bw.resolve = s.bw.resolve ∧ u.bw.refused = s.bw.refused := by
  rw [← keyGap_newest newest] at reach
  obtain ⟨u, ran, rest, resolve, refused⟩ := State.runWalks_judges
    (s := { s with bw := { s.bw with walks := s.bw.walks ++ [w] } }) (find?_walks_append idle) fresh chain reach
  rw [State.judgeKey_newest ((rest.ver (by decide) _).trans chain) newest] at ran
  exact ⟨u, (State.disclose_runs idle).trans ran, ((State.withBw_rest _ _).mono (by decide)).step rest, resolve,
    refused⟩

theorem Touch.rxFrame_dropped {L : List Fld} {s t : State} {f : Nat} (h : Touch L (s.dropRx f) t)
    (w : L.contains .rx = false) : t.rxFrame f = none := by
  rw [State.rxFrame, h.rx w]
  exact State.rxFrame_dropRx s f

/-- What the judgement of a key of a standalone frame leaves as it was. -/
theorem Touch.keyJudged {s u : State} {w : KeyWalk} (h : Touch [.power, .bw, .eye] s u) (spares : w.decides = false)
    (v : Ver) : Touch [.power, .bw, .eye, .vers, .mem, .tx, .nextFrame, .ports] s
      (if leadsTo v.publisher.toNat w.interval w.key v.v v.key then u.keyPasses w.chain v w.interval w.key
        else u.refuseKey w) := by
  refine Touch.step (h.mono (by decide)) ?_
  split
  · exact (u.keyPasses_rest _ _ _ _).mono (by decide)
  · exact (u.refuseKey_rest spares).mono (by decide)

/-! ### Holds decided (R134, R197, R198) -/

/-- The open holds that satisfy the test get the code at the plan tick in force, and nothing else of the table
changes. -/
theorem State.decideHolds_v2 (s : State) {p : V2Rec → Bool} (code : BitVec 5) (ev : Bool) (P : V2Rec → Prop)
    [DecidablePred P] (same : ∀ x, x.openHold = true ∧ p x = true ↔ P x) : (s.decideHolds p code ev).v2 =
      s.v2.map (fun x => if P x then { x with code := some code, decidedAt := s.plan } else x) := by
  rw [State.decideHolds, State.posts_v2]
  refine List.map_congr_left fun x _ => ite_congr (propext ?_) (fun _ => rfl) fun _ => rfl
  rw [← same x]
  simp only [V2Rec.openHold, Bool.and_eq_true]
  rw [and_left_comm, and_assoc]

theorem State.decideHolds_frame (s : State) (p : V2Rec → Bool) (code : BitVec 5) (ev : Bool) :
    s.decideHolds p code ev =
      { s with v2 := (s.decideHolds p code ev).v2, eye := (s.decideHolds p code ev).eye } := by
  rw [State.decideHolds, State.posts_eq]
  rfl

theorem holdCloseMissing_acts (chain : BitVec 13) {s : State} {v : Ver} (found : s.ver chain.toNat = some v) :
    exec (.holdCloseMissing chain) s = .next (s.decideHolds (fun x => x.chain == chain.toNat &&
      decide (x.interval + v.delay + v.late < verInterval s v)) 0x12 true) := by
  simp only [exec, execHoldCloseMissing, found]

/-! ### V2 records written (R133, R201, R337, R341) -/

theorem State.outputOrWait_rest (s : State) (h : Nat) (o : List Word) : Touch [.rings] s (s.outputOrWait h o) :=
  (State.outputOrWait_touch _ _ _ (by decide)).mpr (Touch.refl _ _)

theorem State.outputOrWait_allots {s : State} {h : Nat} (o : List Word) (room : (s.ring h).room = true)
    (first : (s.ring h).waiting = []) : ((s.outputOrWait h o).ring h).outs =
      (s.ring h).outs ++ [⟨(s.ring h).era * 2 ^ 32 + (s.ring h).reserve, o, 0, []⟩] := by
  generalize entry : (s.ring h).era * 2 ^ 32 + (s.ring h).reserve = e
  rw [State.outputOrWait, first, List.isEmpty_nil, if_pos rfl, s.allot_eq h e entry.symm, if_pos room]
  simp only [State.output, State.ring_setRing]

theorem State.outputOrWait_waits {s : State} {h : Nat} (o : List Word)
    (behind : (s.ring h).room = false ∨ (s.ring h).waiting ≠ []) :
    s.outputOrWait h o = s.setRing h { s.ring h with waiting := (s.ring h).waiting ++ [o] } := by
  rw [State.outputOrWait]
  rcases behind with full | others
  · have unallotted : s.allot h = (none, s) := by
      generalize entry : (s.ring h).era * 2 ^ 32 + (s.ring h).reserve = e
      rw [s.allot_eq h e entry.symm, full, if_neg Bool.false_ne_true]
    rw [unallotted, ite_self]
  · rw [if_neg (by simpa using others)]

theorem State.outputOrWait_ring_other (s : State) {h k : Nat} (other : k ≠ h) (o : List Word) :
    (s.outputOrWait h o).ring k = s.ring k := by
  have entered : (if (s.ring h).waiting.isEmpty then s.allot h else (none, s)).2.ring k = s.ring k := by
    split
    · exact s.allot_ring_other other
    · rfl
  unfold State.outputOrWait
  generalize (if (s.ring h).waiting.isEmpty then s.allot h else (none, s)) = entry at entered ⊢
  obtain ⟨_ | e, s1⟩ := entry
  · exact State.ring_setRing_other _ other _
  · exact (State.ring_setRing_other _ other _).trans entered

/-- A V2 record leaves the table. -/
def State.withoutV2 (s : State) (x : V2Rec) : State := { s with v2 := s.v2.erase x }

theorem State.withoutV2_rest (s : State) (x : V2Rec) : Touch [.v2] s (s.withoutV2 x) := by
  intro f other
  cases f
  case v2 => exact absurd other (by decide)
  all_goals rfl

/-- What the writing of a V2 record may alter. -/
theorem Touch.v2Write_frame {s t : State} (h : Touch [.v2, .rings] s t) :
    t = { s with v2 := t.v2, rings := t.rings } := by
  refine State.eq_of_same fun f => ?_
  have kept := h f
  cases f
  case v2 | rings => rfl
  all_goals exact kept rfl

section V2Write

variable {h : Handle} {s : State}

theorem v2RecordWrite_waits
    (held : frozen s = true ∨ ∀ x, s.v2.find? (fun y => y.handle == h.toNat) = some x → x.code = none) :
    exec (.v2RecordWrite h) s = .next s := by
  have undecided (x : V2Rec)
      (oldest : (if frozen s then none else s.v2.find? (fun y => y.handle == h.toNat)) = some x) : x.code = none := by
    split at oldest
    case isTrue => cases oldest
    case isFalse thawed => exact held.resolve_left thawed x oldest
  simp only [exec, execV2RecordWrite]
  split
  case h_1 => rfl
  case h_2 x oldest => rw [undecided x oldest]

theorem v2RecordWrite_writes {x : V2Rec} {code : BitVec 5} (thawed : frozen s = false)
    (oldest : s.v2.find? (fun y => y.handle == h.toNat) = some x) (decided : x.code = some code) :
    exec (.v2RecordWrite h) s = .next ((s.withoutV2 x).outputOrWait h.toNat
      (v2Output h.toNat x.chain (v2Word code.toNat h.toNat x.seq.toNat) x.interval x.decidedAt)) := by
  simp only [exec, execV2RecordWrite, State.withoutV2, thawed, oldest, decided, Bool.false_eq_true, if_false]

end V2Write

/-! ### The MAC key of an interval in its pool slot (R197, R229 to R231) -/

theorem bit_at (lo v : Nat) {i : Nat} (hi : i < 48) : bit (at_ lo v) i = (decide (lo ≤ i) && v.testBit (i - lo)) := by
  simp only [bit, at_, BitVec.getLsbD_ofNat, Nat.testBit_shiftLeft, hi, decide_true, Bool.true_and]

/-- The fields of an attribute word below its state bits do not reach into them (Table 8.2). -/
theorem bit_attrWord_state {state d uses origin depth parent : Nat} (expire : Bool) (dom : d < 2 ^ 4)
    (use : uses < 2 ^ 7) (org : origin < 2 ^ 3) (deep : depth < 2 ^ 4) (par : parent < 2 ^ 17) {i : Nat}
    (high : 45 ≤ i) (hi : i < 48) : bit (attrWord state expire (some d) uses origin depth parent) i =
      (decide (46 ≤ i) && state.testBit (i - 46)) := by
  have clear (lo : Nat) {v n : Nat} (small : v < 2 ^ n) (below : lo + n ≤ i) : v.testBit (i - lo) = false :=
    Nat.testBit_lt_two_pow (Nat.lt_of_lt_of_le small (Nat.pow_le_pow_right (by decide) (by omega)))
  have flag (b : Bool) : boolNat b < 2 ^ 1 := by cases b <;> decide
  simp only [attrWord, bit_or, bit_at _ _ hi, Option.isSome_some, Option.getD_some,
    clear 44 (flag expire) (by omega), clear 43 (flag true) (by omega), clear 39 dom (by omega),
    clear 32 use (by omega), clear 29 org (by omega), clear 26 deep (by omega), clear 0 par (by omega),
    Bool.and_false, Bool.or_false]

/-- A child's attribute word says Valid, and not orphaned (R231, R232). -/
theorem bit_childAttr_state (s : State) {parent d uses origin : Nat} (expire : Bool) (par : parent < 2 ^ 17)
    (dom : d < 2 ^ 4) (use : uses < 2 ^ 7) (org : origin < 2 ^ 3) {i : Nat} (high : 45 ≤ i) (hi : i < 48) :
    bit (childAttr s parent (some d) expire uses origin) i = decide (i = 46) := by
  have deep : (s.slot parent).depth + 1 < 2 ^ 4 := by
    have := fld_lt (s.slot parent).attr 26 3
    rw [KeySlot.depth]
    omega
  have only : (decide (46 ≤ i) && Nat.testBit 1 (i - 46)) = decide (i = 46) := by
    rcases (by omega : i = 45 ∨ i = 46 ∨ i = 47) with rfl | rfl | rfl <;> rfl
  rw [← only, childAttr]
  split
  · exact bit_attrWord_state _ (fld_lt _ 39 4) use org deep par high hi
  · exact bit_attrWord_state _ dom use org deep par high hi

theorem bit_childAttr_use (s : State) {parent d uses origin : Nat} (expire : Bool) {i : Nat} (hi : i < 16)
    (use : uses.testBit i = true) : bit (childAttr s parent (some d) expire uses origin) (32 + i) = true := by
  have low : 32 + i < 48 := by omega
  simp [childAttr, attrWord, bit_or, bit_at _ _ low, use]

theorem State.slot_writeSlot (s : State) (k : Nat) (key : Key) (attr limit : Word) :
    (s.writeSlot k key attr limit).slot k = ⟨key ^^^ s.drawn, s.drawn, attr, 0, limit, none⟩ := by
  rw [State.writeSlot, State.post_slot, State.slot_setSlot]

/-- A slot whose attribute word has bit 46 alone of its state bits, and not bit 45, is live. -/
theorem KeySlot.live_of_bits {v : KeySlot} (state : ∀ i, 45 ≤ i → i < 48 → bit v.attr i = decide (i = 46)) :
    v.live = true := by
  have one : v.st = 1 := by
    refine Nat.eq_of_testBit_eq fun i => ?_
    rw [KeySlot.st, testBit_fld]
    by_cases low : i < 2
    · rw [state (46 + i) (by omega) (by omega)]
      rcases (by omega : i = 0 ∨ i = 1) with rfl | rfl <;> rfl
    · rw [Nat.testBit_lt_two_pow (Nat.lt_of_lt_of_le (by decide : 1 < 2 ^ 2) (Nat.pow_le_pow_right (by decide)
        (Nat.le_of_not_lt low)))]
      simp [low]
  have kept : v.orphaned = false := state 45 (by decide) (by decide)
  simp [KeySlot.live, KeySlot.valid, one, kept]

/-- A live slot without a use limit gives its shares for a use that it has (R229). -/
theorem fetchJudge_ok {v : KeySlot} {use : Nat} (live : v.live = true) (allowed : bit v.attr use = true)
    (free : v.u1 = unlimited) : fetchJudge v use false = .ok v.shares := by
  have unbounded : v.limited = false := by rw [KeySlot.limited, free, unlimited, bne_self_eq_false]
  simp only [fetchJudge, live, allowed, unbounded, Bool.not_true, Bool.or_self, Bool.false_and, Bool.false_eq_true,
    if_false]

/-- An interval's MAC key is written into a pool slot below the chain's domain key. -/
def State.poolKey (s : State) (core p : Nat) (v : Ver) (mk : Key) : State :=
  (s.coreWorks core).writeSlot p mk (childAttr s (slotDomain v.domain) (some v.domain) true 2 5) unlimited

section PoolKey

variable (s : State) (core p : Nat) {v : Ver} (mk : Key) (dom : v.domain < 16)

theorem State.poolKey_rest : Touch [.draws, .slots, .keyCtl, .power, .eye] s (s.poolKey core p v mk) := by
  rw [State.poolKey, State.writeSlot_touch _ _ _ _ _ (by decide), State.coreWorks_touch _ _ (by decide)]
  exact Touch.refl _ _

include dom

theorem State.poolKey_live : ((s.poolKey core p v mk).slot p).live = true := by
  refine KeySlot.live_of_bits fun i high hi => ?_
  rw [State.poolKey, State.slot_writeSlot]
  exact bit_childAttr_state s true (by rw [slotDomain]; omega) dom (by decide) (by decide) high hi

/-- The fetch for the tag checks passes its checks and gives the MAC key (R229). -/
theorem State.poolKey_fetch : ∃ key : Shares, key.whole = mk ∧
    fetchJudge ((s.poolKey core p v mk).slot p) useBwmac false = .ok key := by
  have live := s.poolKey_live core p mk dom
  have use : bit (childAttr s (slotDomain v.domain) (some v.domain) true 2 5) useBwmac = true :=
    bit_childAttr_use s true (i := 1) (by decide) (by decide)
  rw [State.poolKey, State.slot_writeSlot] at live ⊢
  refine ⟨⟨mk ^^^ (s.coreWorks core).drawn, (s.coreWorks core).drawn⟩, ?_, ?_⟩
  · rw [Shares.whole, BitVec.xor_assoc, BitVec.xor_self, BitVec.xor_zero]
  · exact fetchJudge_ok live use rfl

end PoolKey

/-! ### The holds of one interval (R197, R199) -/

/-- The code that a hold gets under a MAC key (R197 step 3). -/
def holdCode (mk : Key) (x : V2Rec) : BitVec 5 := if bwTag mk x.digest = x.tag then 0 else 0x10

/-- What tells the V2 records of a table apart. -/
def V2Rec.key (x : V2Rec) : Nat × BitVec 20 := (x.handle, x.seq)

/-- Some record of the table is that of frame x, decided with the code of x under the MAC key. -/
def DecidedIn (mk : Key) (x : V2Rec) (s : State) : Prop :=
  ∃ y ∈ s.v2, y.handle = x.handle ∧ y.seq = x.seq ∧ y.code = some (holdCode mk x)

theorem State.holdAccess_v2 (s : State) (k : Nat) (write : Bool) : (s.holdAccess k write).v2 = s.v2 :=
  ((State.holdAccess_touch (Lt := [.mem, .eye]) _ _ _ (by decide)).mpr (Touch.refl _ _)).v2 (by decide)

theorem State.holdAccess_plan (s : State) (k : Nat) (write : Bool) : (s.holdAccess k write).plan = s.plan :=
  congrArg TickState.plan
    (((State.holdAccess_touch (Lt := [.mem, .eye]) _ _ _ (by decide)).mpr (Touch.refl _ _)).ticks (by decide))

theorem State.takeAnchor_nil (s : State) (n i : Nat) : s.takeAnchor n i [] = s := by
  unfold State.takeAnchor
  split <;> rfl

section CheckHold

variable {s : State} {x : V2Rec} (mk : Key) (bare : x.anchor = [])
include bare

/-- The check of a hold without an anchor decides the open records of its frame, and no other. -/
theorem State.checkHold_v2 : (s.checkHold mk x).v2 =
    if s.v2.any (fun v => v.openHold && v.handle == x.handle && v.seq == x.seq) then
      s.v2.map (fun v => if v.code.isNone && (v.handle == x.handle && v.seq == x.seq) then
        { v with code := some (holdCode mk x), decidedAt := s.plan } else v)
    else s.v2 := by
  unfold State.checkHold
  dsimp only
  cases s.v2.any (fun v => v.openHold && v.handle == x.handle && v.seq == x.seq) with
  | false => rfl
  | true =>
    rw [bare, State.takeAnchor_nil, ite_self, if_neg (by decide), if_pos rfl, State.closeHolds]
    dsimp only
    rw [State.holdAccess_v2, State.holdAccess_plan, holdCode]
    simp only [beq_iff_eq]

theorem State.length_checkHold : (s.checkHold mk x).v2.length = s.v2.length := by
  rw [State.checkHold_v2 mk bare]
  split
  · exact List.length_map _
  · rfl

theorem State.mem_checkHold_other {y : V2Rec} (mem : y ∈ s.v2) (other : y.code.isNone = false ∨ y.key ≠ x.key) :
    y ∈ (s.checkHold mk x).v2 := by
  have untouched : (y.code.isNone && (y.handle == x.handle && y.seq == x.seq)) = false := by
    rcases other with decided | apart
    · rw [decided, Bool.false_and]
    · have : ¬ (y.handle = x.handle ∧ y.seq = x.seq) := fun ⟨h, q⟩ => apart (by rw [V2Rec.key, h, q, V2Rec.key])
      simpa using fun _ h q => this ⟨h, q⟩
  rw [State.checkHold_v2 mk bare]
  split
  · exact List.mem_map.mpr ⟨y, mem, by rw [untouched, if_neg Bool.false_ne_true]⟩
  · exact mem

theorem State.checkHold_decides (mem : x ∈ s.v2) (waits : x.openHold = true) : DecidedIn mk x (s.checkHold mk x) := by
  have fresh : x.code.isNone = true := by
    rw [V2Rec.openHold, Bool.and_eq_true] at waits
    exact waits.2
  have here : s.v2.any (fun v => v.openHold && v.handle == x.handle && v.seq == x.seq) = true :=
    List.any_eq_true.mpr ⟨x, mem, by simp [waits]⟩
  rw [DecidedIn, State.checkHold_v2 mk bare, if_pos here]
  refine ⟨_, List.mem_map.mpr ⟨x, mem, rfl⟩, ?_⟩
  simp [fresh]

/-- What is decided stays decided. -/
theorem DecidedIn.checkHold {y : V2Rec} (h : DecidedIn mk y s) : DecidedIn mk y (s.checkHold mk x) := by
  obtain ⟨z, mem, handle, seq, code⟩ := h
  exact ⟨z, State.mem_checkHold_other mk bare mem (.inl (by rw [code]; rfl)), handle, seq, code⟩

end CheckHold

/-- Every hold of a list, of frames that are told apart, is decided when the list has been checked. -/
theorem checkHolds_decides (mk : Key) : ∀ (l : List V2Rec) (s : State), (l.map V2Rec.key).Nodup →
    (∀ x ∈ l, x ∈ s.v2 ∧ x.openHold = true ∧ x.anchor = []) →
    (∀ x ∈ l, DecidedIn mk x (l.foldl (fun t x => t.checkHold mk x) s)) ∧
      (l.foldl (fun t x => t.checkHold mk x) s).v2.length = s.v2.length := by
  intro l
  induction l with
  | nil => exact fun _ _ _ => ⟨fun _ h => absurd h List.not_mem_nil, rfl⟩
  | cons x l ih =>
    intro s apart holds
    obtain ⟨mem, waits, bare⟩ := holds x List.mem_cons_self
    rw [List.map_cons, List.nodup_cons] at apart
    obtain ⟨others, length⟩ := ih (s.checkHold mk x) apart.2 fun y hy => by
      obtain ⟨memY, waitsY, bareY⟩ := holds y (List.mem_cons_of_mem _ hy)
      exact ⟨State.mem_checkHold_other mk bare memY (.inr fun same => apart.1 (same ▸ List.mem_map_of_mem hy)),
        waitsY, bareY⟩
    refine ⟨fun y hy => ?_, length.trans (State.length_checkHold mk bare)⟩
    rcases List.mem_cons.mp hy with rfl | hy
    · refine List.foldlRecOn (motive := DecidedIn mk y) l _ (State.checkHold_decides mk bare mem waits)
        fun t done z hz => DecidedIn.checkHold mk (holds z (List.mem_cons_of_mem _ hz)).2.2 done
    · exact others y hy

theorem State.checkHolds_rest (mk : Key) (l : List V2Rec) (s : State) :
    Touch [.vers, .v2, .mem, .eye] s (l.foldl (fun t x => t.checkHold mk x) s) :=
  Touch.foldl (fun _ _ => (State.checkHold_touch _ _ _ (by decide)).mpr (Touch.refl _ _)) l s

theorem State.invalidate_scrubbing {s : State} {k : Nat} (valid : (s.slot k).valid = true) :
    ((s.invalidate k).slot k).scrubbing = true := by
  have marked : Table.get .empty k (s.setSlot k (s.slot k).toScrub).slots = (s.slot k).toScrub := State.slot_setSlot ..
  have orphan (w : Word) : fld (setBit w 45 true) 46 2 = fld w 46 2 := fld_setFld_apart _ _ (by decide) (by decide)
  have state : fld (s.slot k).toScrub.attr 46 2 = 2 := fld_setFld_same _ _ (by decide)
  rw [State.invalidate_slot valid]
  rcases get_orphanBelow k k (s.setSlot k (s.slot k).toScrub).slots with apart | below
  · rw [apart, marked, KeySlot.scrubbing, KeySlot.st, state]
    rfl
  · rw [below, marked, KeySlot.scrubbing, KeySlot.st, orphan, state]
    rfl

/-! ### Hold resolution (R197, R235, Table 6.9) -/

/-- An open slice has fetched an interval's MAC key from its pool slot, for the tags of the holds. -/
def State.poolFetched (s : State) (u core p : Nat) (v : Ver) (mk : Key) : State :=
  ((s.poolKey core p v mk).countUse p).busyPulse (busyEvent u)

section PoolFetched

variable (s : State) (u core p : Nat) {v : Ver} (mk : Key)

theorem State.poolFetched_rest : Touch [.draws, .slots, .keyCtl, .power, .eye] s (s.poolFetched u core p v mk) := by
  rw [State.poolFetched, State.busyPulse_touch _ _ (by decide), State.countUse_touch _ _ (by decide)]
  exact s.poolKey_rest core p mk

theorem State.poolFetched_valid (dom : v.domain < 16) : ((s.poolFetched u core p v mk).slot p).valid = true := by
  have live := s.poolKey_live core p mk dom
  rw [KeySlot.live, Bool.and_eq_true] at live
  have pulsed (a : State) : Touch [.power, .eye] a (a.busyPulse (busyEvent u)) :=
    (State.busyPulse_touch _ _ (by decide)).mpr (Touch.refl _ _)
  rw [State.poolFetched, (pulsed _).slot (by decide), State.countUse, State.slot_setSlot]
  exact live.1

end PoolFetched

/-- The open holds of chain n for interval i. -/
def holdsOf (s : State) (n i : Nat) : List V2Rec := s.v2.filter (fun x => x.openHold && x.chain == n && x.interval == i)

/-- The tags of the holds of interval i have been checked under its MAC key, and the key's pool slot given back. -/
def State.checkedInterval (s : State) (u core p n i : Nat) (v : Ver) (mk : Key) : State :=
  ((holdsOf s n i).foldl (fun t x => t.checkHold mk x) (s.poolFetched u core p v mk)).invalidate p

section CheckedInterval

variable {s : State} {v : Ver} (live : (s.slot (slotDomain v.domain)).live = true) (dom : v.domain < 16)
  (u core p n i : Nat) (mk : Key)

include live dom in
/-- Under a live domain key, and with a share check that passes, the step is done. -/
theorem State.resolveInterval_done (j : Nat) (k : List Byte)
    (em : mk = macKeyOf (walkDown v.publisher.toNat (j - i) j k)) : s.resolveInterval u core false n v j k i p =
      (true, s.checkedInterval u core p n i v mk) := by
  obtain ⟨key, whole, judged⟩ := s.poolKey_fetch core p mk dom
  have fetched : (s.poolKey core p v mk).fetch u p useBwmac false = (.ok key, (s.poolKey core p v mk).countUse p) :=
    State.fetch_ok u judged
  have table : (s.poolFetched u core p v mk).v2 = s.v2 := (s.poolFetched_rest u core p mk).v2 (by decide)
  unfold State.resolveInterval
  rw [if_neg (by simp [live])]
  dsimp only
  rw [← em]
  rw [State.poolKey] at fetched
  rw [fetched]
  dsimp only
  rw [whole, State.checkedInterval, holdsOf, ← table]
  rfl

theorem State.checkedInterval_rest : Touch [.draws, .slots, .keyCtl, .power, .vers, .v2, .mem, .eye] s
    (s.checkedInterval u core p n i v mk) := by
  rw [State.checkedInterval, State.invalidate_touch _ _ (by decide)]
  exact ((s.poolFetched_rest u core p mk).mono (by decide)).step ((State.checkHolds_rest mk _ _).mono (by decide))

include dom in
theorem State.checkedInterval_scrubbing : ((s.checkedInterval u core p n i v mk).slot p).scrubbing = true := by
  refine State.invalidate_scrubbing ?_
  rw [(State.checkHolds_rest mk _ _).slot (by decide)]
  exact s.poolFetched_valid u core p mk dom

/-- Every hold of the interval is decided, and the table has as many records as before. -/
theorem State.checkedInterval_decides (apart : (s.v2.map V2Rec.key).Nodup)
    (bare : ∀ x ∈ s.v2, x.openHold = true → x.anchor = []) :
    (∀ x ∈ holdsOf s n i, DecidedIn mk x (s.checkedInterval u core p n i v mk)) ∧
      (s.checkedInterval u core p n i v mk).v2.length = s.v2.length := by
  have table : (s.poolFetched u core p v mk).v2 = s.v2 := (s.poolFetched_rest u core p mk).v2 (by decide)
  have given (a : State) : (a.invalidate p).v2 = a.v2 :=
    ((State.invalidate_touch (Lt := [.slots, .keyCtl, .eye]) a p (by decide)).mpr (Touch.refl _ _)).v2 (by decide)
  obtain ⟨decided, length⟩ := checkHolds_decides mk (holdsOf s n i) (s.poolFetched u core p v mk)
    (apart.sublist (List.filter_sublist.map _)) fun x hx => by
      obtain ⟨mem, test⟩ := List.mem_filter.mp hx
      simp only [Bool.and_eq_true] at test
      exact ⟨table ▸ mem, test.1.1, bare x mem test.1.1⟩
  rw [State.checkedInterval]
  simp only [DecidedIn, given]
  exact ⟨decided, length.trans (congrArg _ table)⟩

end CheckedInterval

section HoldResolution

variable {chain : BitVec 13} (slice : Fin 3) (core : Fin 2) (bad : Bool) {s : State} {j : Nat} {k : List Byte}
  (running : halted s = false)
  (next : s.bw.resolve.find? (fun x => x.1 == chain.toNat) = some (chain.toNat, j, k))
include running next

/-- A key that has nothing left to resolve leaves the list. -/
theorem holdResolution_spent (spent : s.ver chain.toNat = none ∨ resolvable s chain.toNat j = []) :
    exec (.holdResolution chain slice core bad) s = .next (s.resolved (chain.toNat, j, k)) := by
  simp only [exec, execHoldResolution, running, next, Bool.false_eq_true, if_false]
  rcases spent with absent | nothing
  · rw [absent]
  · rw [nothing]
    cases s.ver chain.toNat <;> rfl

variable {v : Ver} (found : s.ver chain.toNat = some v)
include found

/-- Without a free slot of the pool the step waits. -/
theorem holdResolution_waits (left : resolvable s chain.toNat j ≠ []) (full : freePool s = none) :
    exec (.holdResolution chain slice core bad) s = .next s := by
  obtain ⟨i, rest, split⟩ := List.exists_cons_of_ne_nil left
  simp only [exec, execHoldResolution, running, next, found, split, full, Bool.false_eq_true, if_false]

/-- The step for the last interval takes the key off the list. -/
theorem holdResolution_last {i p : Nat} (last : resolvable s chain.toNat j = [i]) (free : freePool s = some p) :
    exec (.holdResolution chain slice core bad) s =
      .next ((s.resolveInterval (3 + slice.val) (10 + core.val) bad chain.toNat v j k i p).2.resolved
        (chain.toNat, j, k)) := by
  simp only [exec, execHoldResolution, running, next, found, last, free, Bool.false_eq_true, if_false,
    List.isEmpty_nil, Bool.not_true, Bool.and_false]

end HoldResolution

/-- Settles O53: the disclosure by the judgement of its key, the resolution by the checks of its interval's holds, the
closing of holds and the written record by the lemma about each. -/
theorem holdsDecided : Obligations.HoldsDecided := by
  unfold Obligations.HoldsDecided
  refine ⟨?disclosure, ?resolution, ?missing, ?expired, ?written⟩
  case disclosure =>
    intro f s x t found kind et
    refine ⟨fun bad => ?bad, fun good stray => standaloneReceive_stray found kind good stray,
      fun h c j w good taken bare ej ew => ?taken⟩
    case bad =>
      have rest : Touch [.tx, .nextFrame, .ports, .eye] (s.dropRx f)
          (((s.dropRx f).bumpPort x.rx.port.val 11 1).report x (standaloneViolation x 0)) := by
        simp (disch := decide) only [State.report_touch, State.bumpPort_touch, Touch.refl]
      exact ⟨_, standaloneReceive_bad found kind bad, rest.rxFrame_dropped (by decide),
        (sameCounter_report (by decide) _ x _ _).trans (State.bumpPort_counter ..), rest.vers (by decide),
        rest.v2 (by decide), rest.slots (by decide)⟩
    case taken =>
      have ran := standaloneReceive_disclosed found kind good taken et bare
      rw [← ej, ← ew] at ran
      subst ew
      refine ⟨fun busy => ran.trans (congrArg _ (State.disclose_waits busy)), fun v idle chain settled installed later
        segment reach => ?_⟩
      obtain ⟨u, judged, before, resolve, refused⟩ := State.disclose_judges (s := s.dropRx f)
        (w := ⟨c.chain, j, trKey t, 0, x, false⟩) idle rfl chain
        (keyCheck_newest settled installed later segment) reach
      have rest := before.keyJudged (w := ⟨c.chain, j, trKey t, 0, x, false⟩) rfl v
      refine ⟨_, ran.trans (congrArg _ judged), rest.rxFrame_dropped (by decide), rest.v2 (by decide),
        rest.slots (by decide), rest.streams (by decide), rest.mode (by decide), fun leads => ?_, fun strays => ?_⟩
      · rw [if_pos leads]
        exact ⟨u.keyPasses_ver .., (u.keyPasses_resolve ..).trans (congrArg (· ++ _) resolve),
          ((u.keyPasses_rest _ _ _ _).ports (by decide)).trans (before.ports (by decide))⟩
      · rw [if_neg (by simp [strays])]
        exact ⟨((u.refuseKey_rest rfl).vers (by decide)).trans (before.vers (by decide)),
          (u.refuseKey_refused rfl).trans (congrArg (· + 1) refused)⟩
  case resolution =>
    intro chain slice core bad s j k running next
    refine ⟨holdResolution_spent slice core bad running next, fun v found left full =>
      holdResolution_waits slice core bad running next found left full, ?last⟩
    rintro v i p found last free live dom rfl apart bare
    have ran := holdResolution_last slice core false running next found last free
    rw [State.resolveInterval_done live dom _ _ _ _ i _ j k rfl] at ran
    have rest := s.checkedInterval_rest (v := v) (3 + slice.val) (10 + core.val) p chain.toNat i
      (macKeyOf (walkDown v.publisher.toNat (j - i) j k))
    obtain ⟨decided, length⟩ := s.checkedInterval_decides (v := v) (3 + slice.val) (10 + core.val) p chain.toNat i
      (macKeyOf (walkDown v.publisher.toNat (j - i) j k)) apart bare
    refine ⟨_, ran, congrArg (fun b : BwState => b.resolve.erase _) (rest.bw (by decide)),
      s.checkedInterval_scrubbing dom .., length, rest.streams (by decide), rest.hostMem (by decide),
      rest.mode (by decide), fun x mem waits ofChain ofInterval => decided x (List.mem_filter.mpr ⟨mem, ?_⟩)⟩
    simp [waits, ofChain, ofInterval]
  case missing =>
    refine fun chain s => ⟨fun absent => ?_, fun v found => ?_⟩
    · simp only [exec, execHoldCloseMissing, absent]
    · exact ⟨_, holdCloseMissing_acts chain found, State.decideHolds_v2 s _ _ _ (fun x => by simp),
        State.decideHolds_frame ..⟩
  case expired =>
    exact fun h s => ⟨_, rfl, State.decideHolds_v2 s _ _ _ (fun x => by simp), State.decideHolds_frame ..⟩
  case written =>
    refine fun h s => ⟨v2RecordWrite_waits, fun x code thawed oldest decided => ?_⟩
    have rest := (s.withoutV2 x).outputOrWait_rest h.toNat
      (v2Output h.toNat x.chain (v2Word code.toNat h.toNat x.seq.toNat) x.interval x.decidedAt)
    refine ⟨_, _, v2RecordWrite_writes thawed oldest decided, rest.v2 (by decide), rfl,
      State.outputOrWait_allots (s := s.withoutV2 x) _, fun behind => ?_,
      fun k other => State.outputOrWait_ring_other _ other _,
      Touch.v2Write_frame (((s.withoutV2_rest x).mono (by decide)).step (rest.mono (by decide)))⟩
    rw [State.outputOrWait_waits (s := s.withoutV2 x) _ behind, State.ring_setRing]
    rfl

end Sys2Proof.Machine

/-!
PROOFS. The statements of frames at the MAC and of the publisher chains (O46, O54).
-/

namespace Sys2Proof.Machine

/-! ### Frames of the egress block -/

theorem State.txFrame_dropTx (s : State) (f : Nat) : (s.dropTx f).txFrame f = none := by
  simp [State.txFrame, State.dropTx]

theorem State.txFrame_id {s : State} {f : Nat} {x : TxFrame} (found : s.txFrame f = some x) : x.id = f := by
  simpa using List.find?_some found

/-- A frame of the block that is written reads back. -/
theorem State.txFrame_setTx {s : State} {f : Nat} {x y : TxFrame} (found : s.txFrame f = some x) (same : y.id = x.id) :
    (s.setTx y).txFrame f = some y := by
  have id : y.id = f := same.trans (State.txFrame_id found)
  have keeps : (fun z : TxFrame => (if z.id == y.id then y else z).id == f) = fun z => z.id == f := by
    funext z
    by_cases hit : z.id = f <;> simp [hit, id]
  rw [State.txFrame] at found ⊢
  rw [State.setTx, List.find?_map, Function.comp_def, keeps, found, Option.map_some,
    if_pos (by rw [same, beq_self_eq_true])]

theorem Touch.txFrame {L : List Fld} {s t : State} (h : Touch L s t) (w : L.contains .tx = false) (f : Nat) :
    t.txFrame f = s.txFrame f := by
  rw [State.txFrame, h.tx w]
  rfl

theorem Touch.ite {L : List Fld} {s t u : State} {p : Prop} [Decidable p] (h : Touch L s t) (k : Touch L s u) :
    Touch L s (if p then t else u) := by
  split
  · exact h
  · exact k

/-- Once a frame that ends has left the block, its completion writes no frame there. -/
theorem State.completeTx_rest (s : State) (x : TxFrame) (status : Nat) (onePort : Bool) :
    Touch [.streams, .shots, .rings, .ports, .eye] (s.dropTx x.id) (s.completeTx x status onePort) := by
  unfold State.completeTx
  extract_lets h c s0 s1 s2 s3 s4 s5 w
  have shot : Touch [.streams, .shots, .rings, .ports, .eye] (s.dropTx x.id) s0 :=
    (State.onShots_touch _ _ _ _ (by decide)).mpr (Touch.refl _ _)
  have traced : Touch [.streams, .shots, .rings, .ports, .eye] (s.dropTx x.id) s1 :=
    Touch.ite ((State.traceEnd_touch _ _ _ _ _ (by decide)).mpr shot) shot
  have failed : Touch [.streams, .shots, .rings, .ports, .eye] (s.dropTx x.id) s2 :=
    Touch.ite ((State.setStream_touch _ _ _ (by decide)).mpr traced) traced
  have keyless : Touch [.streams, .shots, .rings, .ports, .eye] (s.dropTx x.id) s3 :=
    Touch.ite ((State.count_touch _ _ _ _ _ (by decide)).mpr failed) failed
  have echoed : Touch [.streams, .shots, .rings, .ports, .eye] (s.dropTx x.id) s4 :=
    (State.linkDownCount_touch _ _ _ (by decide)).mpr
      (Touch.ite ((State.count_touch _ _ _ _ _ (by decide)).mpr keyless) keyless)
  have bumped : Touch [.streams, .shots, .rings, .ports, .eye] (s.dropTx x.id)
      (s4.setStream h (s4.stream h).bumpFrames) := (State.setStream_touch _ _ _ (by decide)).mpr echoed
  have counted : Touch [.streams, .shots, .rings, .ports, .eye] (s.dropTx x.id) s5 :=
    Touch.ite ((State.count_touch _ _ _ _ _ (by decide)).mpr bumped) (Touch.ite bumped echoed)
  clear_value s5
  have allotted : Touch [.streams, .shots, .rings, .ports, .eye] (s.dropTx x.id) (s5.allot h).2 :=
    (State.allot_touch _ _ (by decide)).mpr counted
  split
  · exact counted
  split
  · exact (State.output_touch _ _ _ _ _ _ (by decide)).mpr counted
  split
  · exact counted
  rcases given : s5.allot h with ⟨_ | e, s6⟩
  · exact (State.loseReport_touch _ _ (by decide)).mpr counted
  · exact (State.output_touch _ _ _ _ _ _ (by decide)).mpr (Touch.of_pair given allotted)

theorem State.completeTx_gone (s : State) (x : TxFrame) (status : Nat) (onePort : Bool) :
    (s.completeTx x status onePort).txFrame x.id = none :=
  ((s.completeTx_rest x status onePort).txFrame (by decide) _).trans (s.txFrame_dropTx x.id)

/-! ### The start of a frame (R302, R305) -/

/-- The frame is on the wire on port p, and waits for that port no more. -/
def TxFrame.startedOn (x : TxFrame) (p : Nat) : TxFrame := { x with
  stage := .onWire, onPorts := x.onPorts ||| BitVec.ofNat 16 (2 ^ p), ports := x.ports &&& ~~~BitVec.ofNat 16 (2 ^ p) }

/-- A frame that starts for the first time keeps all but its ports and its sequence number. -/
theorem State.firstStart_frame (s : State) (p : Nat) (x : TxFrame) : (s.firstStart p x).1 = { x with
    ports := BitVec.ofNat 16 (upPorts s x.ports.toNat), seqNo := (s.firstStart p x).1.seqNo } := by
  unfold State.firstStart
  dsimp only
  split <;> rfl

theorem frameStart_starts {p : Fin 16} {s : State} {x : TxFrame} (up : (s.port p.val).up = true)
    (idle : portBusy s p.val = false) (flows : trafficMode s = true) (stays : s.retention = none)
    (first : nextFrameOn s p.val = some x) : exec (.frameStart p) s = .next (
      if x.stage = .onWire then s.setTx (x.startedOn p.val)
      else (s.firstStart p.val x).2.setTx ((s.firstStart p.val x).1.startedOn p.val)) := by
  simp only [exec, execFrameStart, up, idle, flows, stays, first, Option.isSome_none, Bool.not_true, Bool.or_self,
    Bool.false_eq_true, if_false, beq_iff_eq]
  split <;> rfl

/-! ### The end of a copy (R302) -/

/-- A frame with copies on ports or still to start stays. -/
theorem State.endIfDone_stays {s : State} {x : TxFrame} (left : x.onPorts ≠ 0 ∨ x.ports ≠ 0) :
    s.endIfDone x = s.setTx x := by
  have going : (decide (x.onPorts = 0) && decide (x.ports = 0)) = false := by
    rcases left with sending | waiting
    · rw [decide_eq_false sending, Bool.false_and]
    · rw [decide_eq_false waiting, Bool.and_false]
  simp only [State.endIfDone, going, Bool.false_eq_true, if_false]

theorem State.endIfDone_gone {s : State} {x : TxFrame} (off : x.onPorts = 0) (started : x.ports = 0) :
    (s.endIfDone x).txFrame x.id = none := by
  simp only [State.endIfDone, off, started, decide_true, Bool.and_self, if_true]
  exact s.completeTx_gone ..

/-- A copy that has left is shown. -/
def State.showCopy (s : State) (c : Nat × List Byte × Bool) : State := { s with out := { s.out with frames := [c] } }

theorem State.showCopy_rest (s : State) (c : Nat × List Byte × Bool) : Touch [.out] s (s.showCopy c) := by
  intro f other
  cases f
  case out => cases other
  all_goals rfl

theorem transmitComplete_ends {f : Nat} {p : Fin 16} (seconds : BitVec 48) (nanos : BitVec 32) {s v u : State}
    {x y : TxFrame} {event : Bool} (found : s.txFrame f = some x) (stage : x.stage = .onWire)
    (here : bit x.onPorts p.val = true) (sent : x.wire ≠ [])
    (ev : v = (if event then s.bumpPort p.val 40 1 else s).countSent (copyOn s x p.val))
    (ee : event = (x.kind == .ptp && ptpEvent x.wire))
    (ey : y = { x with
      onPorts := x.onPorts &&& ~~~BitVec.ofNat 16 (2 ^ p.val), sent := x.sent ||| BitVec.ofNat 16 (2 ^ p.val)
      stamp := if event then (seconds, nanos) else x.stamp })
    (eu : u = if x.badFcs then v else v.noteSent x) : exec (.transmitComplete f p seconds nanos) s =
      .next ((u.showCopy (copyOn s x p.val)).endIfDone y) := by
  subst eu ey ee ev
  have filled : x.wire.isEmpty = false := by simpa using sent
  simp only [exec, execTransmitComplete, found, stage, here, filled, bne_self_eq_false, Bool.not_true, Bool.or_self,
    Bool.false_eq_true, if_false]
  rfl

/-- What the transmission of a copy may alter. -/
theorem Touch.transmit_frame {s t : State}
    (h : Touch [.streams, .shots, .aux, .rings, .tx, .ports, .pubs, .bw, .eye, .out] s t) : t = { s with
      streams := t.streams, shots := t.shots, aux := t.aux, rings := t.rings, tx := t.tx, ports := t.ports,
      pubs := t.pubs, bw := t.bw, eye := t.eye, out := t.out } := by
  refine State.eq_of_same fun f => ?_
  have kept := h f
  cases f
  case streams | shots | aux | rings | tx | ports | pubs | bw | eye | out => rfl
  all_goals exact kept rfl

/-- Settles O46: the start by the frame that is next, the end of a copy by what its completion leaves of the block. -/
theorem framesLeaveThePort : Obligations.FramesLeaveThePort := by
  unfold Obligations.FramesLeaveThePort
  refine ⟨fun p s x up idle flows stays first => ?start, ?ended⟩
  case start =>
    rw [frameStart_starts up idle flows stays first]
    refine ⟨fun again => ?_, fun fresh => ?_⟩
    · rw [if_pos again]
      rfl
    · rw [if_neg fresh, TxFrame.startedOn, s.firstStart_frame]
  case ended =>
    intro f p seconds nanos event s v u x y found stage here sent ev ee ey eu
    have id : y.id = x.id := by rw [ey]
    have counted : Touch [.ports] s v := by
      rw [ev, State.countSent_touch _ _ (by decide)]
      split <;> simp (disch := decide) only [State.bumpPort_touch, Touch.refl]
    have noted : Touch [.aux, .ports, .pubs, .bw] s u := by
      rw [eu]
      split
      · exact counted.mono (by decide)
      · exact (State.noteSent_touch _ _ (by decide)).mpr (counted.mono (by decide))
    have shown : Touch [.aux, .ports, .pubs, .bw, .out] s (u.showCopy (copyOn s x p.val)) :=
      (noted.mono (by decide)).step ((u.showCopy_rest _).mono (by decide))
    have whole := (State.endIfDone_touch (Lt := [.streams, .shots, .aux, .rings, .tx, .ports, .pubs, .bw, .eye, .out])
      _ y (by decide)).mpr (shown.mono (by decide))
    have ends := (State.endIfDone_touch (Lt := [.streams, .shots, .rings, .tx, .ports, .eye])
      (u.showCopy (copyOn s x p.val)) y (by decide)).mpr (Touch.refl _ _)
    refine ⟨_, transmitComplete_ends seconds nanos found stage here sent ev ee ey eu, rfl, fun off started => ?_,
      fun left => ?_, congrArg Outputs.frames (ends.out (by decide)), whole.transmit_frame⟩
    · rw [← State.txFrame_id found, ← id]
      exact State.endIfDone_gone off started
    · rw [State.endIfDone_stays left]
      exact State.txFrame_setTx ((shown.txFrame (by decide) f).trans found) id

/-! ### Tables written entry by entry -/

section Entries

variable {α β : Type} [DecidableEq β] {d : β} (f : α → Nat) (g : α → β)

theorem Table.get_foldl_putAt_other {k : Nat} : ∀ {l : List α} (m : Table β), k ∉ l.map f →
    Table.get d k (l.foldl (fun m e => Table.put d (f e) (g e) m) m) = Table.get d k m
  | [], _, _ => rfl
  | x :: l, m, other => by
    rw [List.map_cons, List.mem_cons, not_or] at other
    rw [List.foldl_cons, Table.get_foldl_putAt_other _ other.2, Table.get_put_other d _ other.1]

/-- Entries at places that are told apart all read back. -/
theorem Table.get_foldl_putAt {e : α} : ∀ {l : List α} (m : Table β), (l.map f).Nodup → e ∈ l →
    Table.get d (f e) (l.foldl (fun m e => Table.put d (f e) (g e) m) m) = g e
  | x :: l, m, apart, mem => by
    rw [List.map_cons, List.nodup_cons] at apart
    rw [List.foldl_cons]
    rcases List.mem_cons.mp mem with rfl | later
    · rw [Table.get_foldl_putAt_other f g _ apart.1, Table.get_put_same]
    · exact Table.get_foldl_putAt _ apart.2 later

end Entries

/-! ### Fetches by a Keccak core, and what an access of Quecy's own DMA depends on (R229, R266, R267) -/

/-- A fetch by a core that succeeds counts one use of its slot and posts nothing. -/
theorem State.coreFetch_ok {s : State} {k use : Nat} {bad : Bool} {key : Shares} (u : Nat)
    (judged : fetchJudge (s.slot k) use (bad && (s.slot k).digestRef.isNone) = .ok key) :
    s.coreFetch u k use bad = (.ok key, s.countUse k) := by
  simp only [State.coreFetch, State.fetch_ok u judged, reduceCtorEq, decide_false, State.postIf, Bool.false_eq_true,
    if_false]

/-- The use counter of a slot does not bear on whether it is live. -/
theorem State.live_countUse (s : State) (k j : Nat) : ((s.countUse k).slot j).live = (s.slot j).live := by
  rw [State.countUse]
  by_cases same : j = k
  · subst same
    rw [State.slot_setSlot]
    rfl
  · rw [State.slot_setSlot_other _ same]

/-- The check of an access depends on the memory plane, the mode, a restart asked for, and which slots are live. -/
theorem memFaultAt_of_same {s t : State} (mem : t.mem = s.mem) (mode : t.mode = s.mode)
    (retention : t.retention = s.retention) (live : ∀ k, (t.slot k).live = (s.slot k).live)
    (i phys len port : Nat) (write engine : Bool) :
    memFaultAt t i phys len port write engine = memFaultAt s i phys len port write engine := by
  have word : idWord t i = idWord s i := by rw [idWord, idWord, mem]
  have area : inProtectedArea t phys len = inProtectedArea s phys len := by rw [inProtectedArea, inProtectedArea, mem]
  have region (n : Nat) : regionOf t i phys n = regionOf s i phys n := by rw [regionOf, regionOf, mem]
  have line : lineNumber t i phys = lineNumber s i phys := by rw [lineNumber, lineNumber, region]
  have poison (n : Nat) : poisonedLine t i n = poisonedLine s i n := by
    rw [poisonedLine, poisonedLine, spacePoisoned, spacePoisoned, mem]
  rw [memFaultAt, memFaultAt, isProtected, isProtected, word, area, region, line, poison, mode, retention, live, live]

section OwnAccess

variable {s : State} {phys : Nat} {write : Bool}

theorem State.ownAccess_fst (s : State) (phys : Nat) (write : Bool) :
    (s.ownAccess phys write).1 = (memFaultAt s s.img.bwId phys 64 0 write true).isNone := by
  unfold State.ownAccess
  split <;> simp [*]

theorem State.ownAccess_passes (free : memFaultAt s s.img.bwId phys 64 0 write true = none) :
    s.ownAccess phys write = (true, (s.ownAccess phys write).2) :=
  Prod.ext ((s.ownAccess_fst phys write).trans (by rw [free]; rfl)) rfl

theorem State.ownAccess_refused (fault : memFaultAt s s.img.bwId phys 64 0 write true ≠ none) :
    s.ownAccess phys write = (false, (s.ownAccess phys write).2) :=
  Prod.ext ((s.ownAccess_fst phys write).trans (by simpa [Option.isSome_iff_ne_none] using fault)) rfl

/-- An access that passes leaves nothing but the event of its counter walk. -/
theorem State.ownAccess_rest (free : memFaultAt s s.img.bwId phys 64 0 write true = none) :
    Touch [.eye] s (s.ownAccess phys write).2 := by
  rw [State.ownAccess, free]
  dsimp only
  split <;> simp (disch := decide) only [State.countWalk_touch, Touch.refl]

end OwnAccess

/-! ### A pebble record is read (R182, R183) -/

/-- Why an access that reads record k of a bank of chain c is refused. -/
def pebbleFault (s : State) (c : Nat) (b : Bank) (k : Nat) : Option MemFault :=
  memFaultAt s s.img.bwId (pebbleAddr s c (bankBase b.block b.half + k)) 64 0 false true

/-- The words that a read of the record gives. -/
def pebbleRead (s : State) (c : Nat) (b : Bank) (k : Nat) (r : RecordRead) : Option (List Word) :=
  readWords (Table.get [] (256 * c + (bankBase b.block b.half + k)) s.pebbles) r

/-- The access for the record has been made. -/
def State.pebbleSeen (s : State) (c : Nat) (b : Bank) (k : Nat) : State :=
  (s.ownAccess (pebbleAddr s c (bankBase b.block b.half + k)) false).2

section Pebble

variable {s : State} {c k : Nat} (v : Pub) {b : Bank} {r : RecordRead}

theorem State.pebbleSeen_rest (free : pebbleFault s c b k = none) : Touch [.eye] s (s.pebbleSeen c b k) :=
  State.ownAccess_rest free

theorem State.readPebble_right {w : List Word} (free : pebbleFault s c b k = none)
    (read : pebbleRead s c b k r = some w) (fits : pebbleFits c b k w = true) :
    s.readPebble c v b k r = (some (keyOfWords (w.drop 2)), s.pebbleSeen c b k) := by
  unfold State.readPebble
  dsimp only
  rw [State.ownAccess_passes free]
  dsimp only
  rw [(State.ownAccess_rest free).pebbles (by decide), ← pebbleRead, read]
  dsimp only
  rw [if_pos fits, State.pebbleSeen]

/-- A refused access, a poisoned record and a wrong one mark the bank alike. -/
theorem State.readPebble_wrong
    (wrong : pebbleFault s c b k ≠ none ∨ ∀ w, pebbleRead s c b k r = some w → pebbleFits c b k w = false) :
    s.readPebble c v b k r = (none, (s.pebbleSeen c b k).faultBank c v b) := by
  unfold State.readPebble
  dsimp only
  by_cases free : pebbleFault s c b k = none
  · rw [State.ownAccess_passes free]
    dsimp only
    rw [(State.ownAccess_rest free).pebbles (by decide), ← pebbleRead]
    cases read : pebbleRead s c b k r with
    | none => rfl
    | some w =>
      dsimp only
      rw [wrong.resolve_left (fun fault => fault free) w read, if_neg Bool.false_ne_true, State.pebbleSeen]
  · rw [State.ownAccess_refused free, State.pebbleSeen]

end Pebble

/-! ### A pebble bank is written (R180, R182) -/

/-- The records of a bank are those from the top one down. -/
theorem bankKeys_records (pub stride : Nat) : ∀ (n i : Nat) (k : List Byte),
    (bankKeys pub stride n i k).map (·.1) = (List.range n).reverse
  | 0, _, _ => rfl
  | n + 1, i, k => by
    rw [bankKeys, List.map_cons, bankKeys_records, List.range_succ, List.reverse_append]
    rfl

theorem bankKeys_apart (pub stride n i : Nat) (k : List Byte) : ((bankKeys pub stride n i k).map (·.1)).Nodup := by
  rw [bankKeys_records]
  exact List.pairwise_reverse.mpr (List.nodup_range.imp Ne.symm)

/-- Records that are told apart stand at places that are. -/
theorem places_apart {α : Type} {l : List (Nat × α)} (apart : (l.map (·.1)).Nodup) (base : Nat) :
    (l.map (fun e => base + e.1)).Nodup := by
  have shifted : ((l.map (·.1)).map (base + ·)).Nodup :=
    List.Pairwise.map _ (fun _ _ other same => other (Nat.add_left_cancel same)) apart
  rw [List.map_map] at shifted
  exact shifted

/-- Why an access that writes a bank of chain n is refused. -/
def bankFault (s : State) (n : Nat) (block half : Bool) : Option MemFault :=
  memFaultAt s s.img.bwId (pebbleAddr s n (bankBase block half)) 64 0 true true

theorem bankFault_of_same {s t : State} (mem : t.mem = s.mem) (img : t.img = s.img) (mode : t.mode = s.mode)
    (retention : t.retention = s.retention) (live : ∀ k, (t.slot k).live = (s.slot k).live) (n : Nat)
    (block half : Bool) : bankFault t n block half = bankFault s n block half := by
  rw [bankFault, memFaultAt_of_same mem mode retention live, pebbleAddr, img]
  rfl

/-- In t bank b of chain n stands with its records, and no slot but that of its seed has changed since s. -/
def BankFilled (n : Nat) (v : Pub) (b : Bank) (keys : List (Nat × Nat × List Byte)) (s t : State) : Prop :=
  t.pub n = some { v with banks := v.banks.filter (fun x => !(x.block == b.block && x.half == b.half)) ++ [b] } ∧
  (∀ e ∈ keys, Table.get [] (256 * n + bankBase b.block b.half + e.1) t.pebbles =
    pebbleWords n b.block b.half e.2.1 e.2.2) ∧
  (∀ j, j ≠ b.seed → t.slot j = s.slot j) ∧ t.streams = s.streams ∧ t.hostMem = s.hostMem ∧ t.mode = s.mode

theorem State.writeBank_passes {s : State} {n : Nat} (v : Pub) {b : Bank} (keys : List (Nat × Nat × List Byte))
    (free : bankFault s n b.block b.half = none) :
    s.writeBank n v b keys = State.setPub { (s.ownAccess (pebbleAddr s n (bankBase b.block b.half)) true).2 with
      pebbles := keys.foldl (fun m e => Table.put [] (256 * n + bankBase b.block b.half + e.1)
        (pebbleWords n b.block b.half e.2.1 e.2.2) m) s.pebbles } n { v with
      banks := v.banks.filter (fun x => !(x.block == b.block && x.half == b.half)) ++ [b] } := by
  unfold State.writeBank
  rw [State.ownAccess_passes free]
  dsimp only
  rw [(State.ownAccess_rest free).pebbles (by decide)]

/-- A core that has read what a bank is filled from, counting at most one use of the bank's seed, fills it. -/
theorem bankFilled_of_writes {s a : State} {n : Nat} (v : Pub) {b : Bank} {keys : List (Nat × Nat × List Byte)}
    (u : Nat) (before : Touch [.slots, .eye] s a) (others : ∀ j, j ≠ b.seed → a.slot j = s.slot j)
    (live : ∀ j, (a.slot j).live = (s.slot j).live) (apart : (keys.map (·.1)).Nodup)
    (free : bankFault s n b.block b.half = none) :
    BankFilled n v b keys s ((a.coreWorks u).writeBank n v b keys) := by
  have worked : Touch [.power, .eye] a (a.coreWorks u) := (State.coreWorks_touch _ _ (by decide)).mpr (Touch.refl _ _)
  have reads : Touch [.slots, .power, .eye] s (a.coreWorks u) :=
    (before.mono (by decide)).step (worked.mono (by decide))
  have slots (j : Nat) : (a.coreWorks u).slot j = a.slot j := worked.slot (by decide) j
  have writes : Touch [.pubs, .pebbles, .mem, .eye] (a.coreWorks u) ((a.coreWorks u).writeBank n v b keys) :=
    (State.writeBank_touch _ _ _ _ _ (by decide)).mpr (Touch.refl _ _)
  have rest : Touch [.slots, .power, .pubs, .pebbles, .mem, .eye] s ((a.coreWorks u).writeBank n v b keys) :=
    (reads.mono (by decide)).step (writes.mono (by decide))
  have passes : bankFault (a.coreWorks u) n b.block b.half = none := by
    rw [bankFault_of_same (reads.mem (by decide)) (reads.img (by decide)) (reads.mode (by decide))
      (reads.retention (by decide)) fun j => by rw [slots, live]]
    exact free
  refine ⟨?_, fun e mem => ?_, fun j other => ?_, rest.streams (by decide), rest.hostMem (by decide),
    rest.mode (by decide)⟩
  · rw [State.writeBank_passes v keys passes, State.pub_setPub]
  · rw [State.writeBank_passes v keys passes, State.setPub_pebbles]
    exact Table.get_foldl_putAt (d := []) (fun e : Nat × Nat × List Byte => 256 * n + bankBase b.block b.half + e.1)
      (fun e => pebbleWords n b.block b.half e.2.1 e.2.2) (a.coreWorks u).pebbles (places_apart apart _) mem
  · rw [writes.slot (by decide), slots, others j other]

/-! ### The fill of a bank (R180, R183) -/

section Fill

variable {s : State} {v : Pub} {want : Nat × Nat} {half : Bool} (u n : Nat) (bad : Bool)

/-- A segment bank is filled from its seed, with its anchor. -/
theorem State.fillSegment_fills {seed : Shares}
    (judged : fetchJudge (s.slot want.1) useKdf (bad && (s.slot want.1).digestRef.isNone) = .ok seed)
    (free : bankFault s n false half = none) :
    BankFilled n v ⟨false, half, want.1, want.2, chainAnchor seed.whole v.publisher.toNat (want.2 / 65536), false⟩
      (bankKeys v.publisher.toNat 1024 64 (want.2 + 65535) (bwStep v.publisher.toNat (want.2 + 65535)
        (segSeed seed.whole (want.2 / 65536)))) s (s.fillSegment u n bad v want half) := by
  unfold State.fillSegment
  rw [State.coreFetch_ok u judged]
  exact bankFilled_of_writes v u ((State.countUse_touch _ _ (by decide)).mpr (Touch.refl _ _))
    (fun j other => State.slot_setSlot_other _ other _) (s.live_countUse _) (bankKeys_apart ..) free

variable (top : RecordRead) (free : bankFault s n true half = none)
include free

/-- A block bank that is missing is filled from the segment bank's record at its top. -/
theorem State.fillBlock_fills {g : Bank} {w : List Word} (missing : v.bank true want = none)
    (segment : v.bank false (want.1, want.2 / 65536 * 65536) = some g) (sound : g.faulty = false)
    (reads : pebbleFault s n g (want.2 % 65536 / 1024) = none)
    (read : pebbleRead s n g (want.2 % 65536 / 1024) top = some w)
    (fits : pebbleFits n g (want.2 % 65536 / 1024) w = true) :
    BankFilled n v ⟨true, half, want.1, want.2, [], false⟩
      (bankKeys v.publisher.toNat 16 64 (want.2 + 1023) (keyOfWords (w.drop 2))) s
      (s.fillBlock u n bad top v want half) := by
  have rest := State.pebbleSeen_rest reads
  unfold State.fillBlock
  dsimp only
  rw [missing, Option.isSome_none, if_neg Bool.false_ne_true, segment, Option.filter_some, if_pos (by rw [sound]; rfl)]
  dsimp only
  rw [State.readPebble_right v reads read fits]
  exact bankFilled_of_writes v u (rest.mono (by decide)) (fun j _ => rest.slot (by decide) j)
    (fun j => by rw [rest.slot (by decide)]) (bankKeys_apart ..) free

/-- A block bank that is rebuilt is filled from the seed. -/
theorem State.fillBlock_rebuilds {seed : Shares} (spoiled : v.bank true want ≠ none)
    (judged : fetchJudge (s.slot want.1) useKdf (bad && (s.slot want.1).digestRef.isNone) = .ok seed) :
    BankFilled n v ⟨true, half, want.1, want.2, [], false⟩
      (bankKeys v.publisher.toNat 16 64 (want.2 + 1023) (chainKey seed.whole v.publisher.toNat (want.2 + 1023))) s
      (s.fillBlock u n bad top v want half) := by
  unfold State.fillBlock
  dsimp only
  rw [if_pos (Option.isSome_iff_ne_none.mpr spoiled), State.coreFetch_ok u judged]
  exact bankFilled_of_writes v u ((State.countUse_touch _ _ (by decide)).mpr (Touch.refl _ _))
    (fun j other => State.slot_setSlot_other _ other _) (s.live_countUse _) (bankKeys_apart ..) free

end Fill

/-! ### An interval's MAC key is written (R180, R230, Table 8.2) -/

theorem State.slot_writeSlot_other (s : State) {j k : Nat} (other : j ≠ k) (key : Key) (attr limit : Word) :
    (s.writeSlot k key attr limit).slot j = s.slot j := by
  rw [State.writeSlot, State.post_slot, State.slot_setSlot_other _ other]
  rfl

/-- The scrub of a slot leaves every other as it is. -/
theorem State.slot_scrub_other (s : State) {j k : Nat} (other : j ≠ k) : (s.scrub k).slot j = s.slot j := by
  unfold State.scrub
  split <;> exact State.slot_setSlot_other _ other _

section WriteMac

variable (s : State) (k : Nat) {seed dom : Nat} (key : Key)

theorem State.slot_writeMac_other (seed dom : Nat) {j : Nat} (other : j ≠ k) :
    (s.writeMac k seed dom key).slot j = s.slot j := by
  rw [State.writeMac, State.slot_writeSlot_other _ other]
  split
  · exact s.slot_scrub_other other
  · rfl

theorem State.key_writeMac (seed dom : Nat) : ((s.writeMac k seed dom key).slot k).key = key := by
  rw [State.writeMac, State.slot_writeSlot, KeySlot.key, BitVec.xor_assoc, BitVec.xor_self, BitVec.xor_zero]

theorem State.valid_writeMac (seedLt : seed < 2 ^ 17) (domLt : dom < 16) :
    ((s.writeMac k seed dom key).slot k).valid = true := by
  have live : ((s.writeMac k seed dom key).slot k).live = true := by
    refine KeySlot.live_of_bits fun i high hi => ?_
    rw [State.writeMac, State.slot_writeSlot]
    exact bit_childAttr_state _ false seedLt domLt (by decide) (by decide) high hi
  rw [KeySlot.live, Bool.and_eq_true] at live
  exact live.1

end WriteMac

/-! ### The keys of an interval are made ready (R180, R184 to R186) -/

/-- Nothing is disclosed before N + d, and within one seed and segment it is the key d steps below. -/
theorem State.disclosedFor_near {s : State} {v : Pub} {i : Nat} {k : List Byte} {d : Option (List Byte)} (u c : Nat)
    (seg : RecordRead) (bad : Bool)
    (near : i < v.start + v.delay ∧ d = none ∨
      v.start + v.delay ≤ i ∧ v.seedOf (i - v.delay) = v.seedOf i ∧ (i - v.delay) / 65536 = i / 65536 ∧
        d = some (walkDown v.publisher.toNat v.delay i k)) :
    s.disclosedFor u c v i k seg bad = (d, s) := by
  rw [State.disclosedFor]
  rcases near with ⟨early, rfl⟩ | ⟨due, same, segment, rfl⟩
  · rw [if_pos early]
  · rw [if_neg (Nat.not_lt.mpr due), if_pos (by simp [same, segment])]

theorem State.makeReady_of_pub {s : State} {c : Nat} {v : Pub} (found : s.pub c = some v) (seed i : Nat) (late : Bool)
    (k : List Byte) (d : Option (List Byte)) : s.makeReady c seed i late k d =
      State.setPub (if late then s else s.writeMac (slotMac c (i % 2 == 1)) seed v.domain (macKeyOf k)) c
        { v with ready := ⟨i, !late, d⟩ :: (v.ready.filter (fun r => r.interval != i)).take 7 } := by
  rw [State.makeReady, found]

section MakeReady

variable {s : State} {c : Nat} {v : Pub} (found : s.pub c = some v) {seed : Nat} (i : Nat) (k : List Byte)
  (d : Option (List Byte))
include found

theorem State.pub_makeReady {late : Bool} : (s.makeReady c seed i late k d).pub c = some { v with
    ready := ⟨i, !late, d⟩ :: (v.ready.filter (fun r => r.interval != i)).take 7 } := by
  rw [State.makeReady_of_pub found, State.pub_setPub]

/-- Once the interval has begun no slot is written. -/
theorem State.slots_makeReady_late : (s.makeReady c seed i true k d).slots = s.slots := by
  rw [State.makeReady_of_pub found]
  rfl

/-- Before it begins its MAC slot takes its key. -/
theorem State.slot_makeReady_early (seedLt : seed < 2 ^ 17) (domLt : v.domain < 16) :
    ((s.makeReady c seed i false k d).slot (slotMac c (i % 2 == 1))).key = macKeyOf k ∧
      ((s.makeReady c seed i false k d).slot (slotMac c (i % 2 == 1))).valid = true ∧
      ∀ j, j ≠ slotMac c (i % 2 == 1) → (s.makeReady c seed i false k d).slot j = s.slot j := by
  rw [State.makeReady_of_pub found, if_neg Bool.false_ne_true]
  simp only [State.setPub_slot]
  exact ⟨s.key_writeMac .., s.valid_writeMac _ _ seedLt domLt, fun j other => s.slot_writeMac_other _ _ _ _ other⟩

end MakeReady

section Prepare

variable {chain : BitVec 10} {s : State} {v : Pub} {b : Bank} {i : Nat} (core : Fin 2) (rb rs : RecordRead) (bad : Bool)
  (found : s.pub chain.toNat = some v)

include found in
theorem intervalKeyPrepare_waits
    (waits : halted s = true ∨ pubTarget s v < v.start ∨ pubReady v (pubTarget s v) ≠ none) :
    exec (.intervalKeyPrepare chain core rb rs bad) s = .next s := by
  simp only [exec, execIntervalKeyPrepare]
  cases stop : halted s with
  | true => rfl
  | false =>
    have idle : (decide (pubTarget s v < v.start) || (pubReady v (pubTarget s v)).isSome) = true := by
      simpa [stop, Option.isSome_iff_ne_none] using waits
    simp only [found, idle, Bool.false_eq_true, if_false, if_true]

variable (begun : v.start ≤ i) (unready : pubReady v i = none) (bank : v.bank true (wantedBank v true i) = some b)
  (sound : b.faulty = false)

include begun unready bank sound in
/-- The interval's bank serves. -/
theorem prepare_bank : (if (decide (i < v.start) || (pubReady v i).isSome) = true then none
    else (v.bank true (wantedBank v true i)).filter (fun b => !b.faulty)) = some b := by
  rw [unready, Option.isSome_none, Bool.or_false, decide_eq_false (Nat.not_lt.mpr begun), if_neg Bool.false_ne_true,
    bank, Option.filter_some, if_pos (by rw [sound]; rfl)]

variable (live : (s.slot (wantedBank v true i).1).live = true)
  (writable : i ≤ pubInterval s v ∨ macWritable s (slotMac chain.toNat (i % 2 == 1)) = true)

include live writable in
/-- The seed is live, and the MAC slot writable where it is to be written. -/
theorem prepare_slots : (!(s.slot (wantedBank v true i).1).live ||
    !decide (i ≤ pubInterval s v) && !macWritable s (slotMac chain.toNat (i % 2 == 1))) = false := by
  rw [live]
  rcases writable with late | free
  · simp [late]
  · simp [free]

variable (running : halted s = false) (target : pubTarget s v = i)
include found begun unready bank sound live writable running target

/-- A right record gives the interval's key, and what it discloses. -/
theorem intervalKeyPrepare_right {w : List Word} {k : List Byte} {d : Option (List Byte)}
    (free : pebbleFault s chain.toNat b (i % 1024 / 16) = none)
    (read : pebbleRead s chain.toNat b (i % 1024 / 16) rb = some w)
    (fits : pebbleFits chain.toNat b (i % 1024 / 16) w = true)
    (ek : k = walkDown v.publisher.toNat (pebbleInterval b (i % 1024 / 16) - i) (pebbleInterval b (i % 1024 / 16))
      (keyOfWords (w.drop 2)))
    (near : i < v.start + v.delay ∧ d = none ∨
      v.start + v.delay ≤ i ∧ v.seedOf (i - v.delay) = v.seedOf i ∧ (i - v.delay) / 65536 = i / 65536 ∧
        d = some (walkDown v.publisher.toNat v.delay i k)) :
    exec (.intervalKeyPrepare chain core rb rs bad) s =
      .next (((s.pebbleSeen chain.toNat b (i % 1024 / 16)).makeReady chain.toNat (wantedBank v true i).1 i
        (decide (i ≤ pubInterval s v)) k d).coreWorks (10 + core.val)) := by
  subst ek
  have kept : ((s.pebbleSeen chain.toNat b (i % 1024 / 16)).slot (wantedBank v true i).1).live = true := by
    rw [(State.pebbleSeen_rest free).slot (by decide), live]
  simp only [exec, execIntervalKeyPrepare, running, found, target, prepare_bank begun unready bank sound,
    prepare_slots live writable, State.readPebble_right v free read fits, State.disclosedFor_near _ _ _ _ near, kept,
    Bool.false_eq_true, if_false, if_true]

/-- A wrong record marks the bank. -/
theorem intervalKeyPrepare_wrong
    (wrong : pebbleFault s chain.toNat b (i % 1024 / 16) ≠ none ∨
      ∀ w, pebbleRead s chain.toNat b (i % 1024 / 16) rb = some w →
        pebbleFits chain.toNat b (i % 1024 / 16) w = false) :
    exec (.intervalKeyPrepare chain core rb rs bad) s =
      .next ((s.pebbleSeen chain.toNat b (i % 1024 / 16)).faultBank chain.toNat v b) := by
  simp only [exec, execIntervalKeyPrepare, running, found, target, prepare_bank begun unready bank sound,
    prepare_slots live writable, State.readPebble_wrong v wrong, Bool.false_eq_true, if_false]

end Prepare

theorem Touch.pub {L : List Fld} {s t : State} (h : Touch L s t) (w : L.contains .pubs = false) (n : Nat) :
    t.pub n = s.pub n := by
  rw [State.pub, h.pubs w]
  rfl

/-! ### The other rows of a chain (R180, R183, R185, R190, R206) -/

section Rows

variable {chain : BitVec 10} {s : State} {v : Pub} (found : s.pub chain.toNat = some v)
include found

theorem publisherKeyLate_posts (begun : v.start ≤ pubInterval s v)
    (late : (pubReady v (pubInterval s v)).map (·.mac) ≠ some true)
    (unposted : v.latePosted ≠ some (pubInterval s v)) :
    exec (.publisherKeyLate chain) s = .next (State.post
      { s.setPub chain.toNat { v with latePosted := some (pubInterval s v) } with
        bw := { s.bw with keyLate := s.bw.keyLate + 1 } } 470) := by
  have due : (decide (pubInterval s v < v.start) || (pubReady v (pubInterval s v)).map (·.mac) == some true ||
      v.latePosted == some (pubInterval s v)) = false := by
    simp only [Bool.or_eq_false_iff, decide_eq_false_iff_not, Nat.not_lt, beq_eq_false_iff_ne]
    exact ⟨⟨begun, late⟩, unposted⟩
  simp only [exec, execPublisherKeyLate, found, due, Bool.false_eq_true, if_false]
  rfl

theorem pebbleBankFill_fills {segment : Bool} {want : Nat × Nat} {half : Bool} (core : Fin 2) (top : RecordRead)
    (bad : Bool) (running : halted s = false)
    (lacks : (lacking s v (!segment)).find? (fun w => !segment || mayFillSegment s v w) = some want)
    (room : freeHalf s v (!segment) want = some half) : exec (.pebbleBankFill chain segment core top bad) s = .next
      (if segment then s.fillSegment (10 + core.val) chain.toNat bad v want half
        else s.fillBlock (10 + core.val) chain.toNat bad top v want half) := by
  simp only [exec, execPebbleBankFill, running, found, lacks, room, Bool.false_eq_true, if_false]

theorem anchorStarved_posts (begun : v.start ≤ pubInterval s v) (carry : 64512 ≤ pubInterval s v % 65536)
    {g : Nat × Nat} (eg : g = ((v.seedOf (pubInterval s v)).getD 0, pubInterval s v / 65536 + 1))
    (uncarried : v.carried ≠ some g) (unposted : v.starved ≠ some g) :
    exec (.anchorStarved chain) s = .next ((s.setPub chain.toNat { v with starved := some g }).post 471) := by
  subst eg
  have starved : (decide (v.start ≤ pubInterval s v) && decide (64512 ≤ pubInterval s v % 65536) &&
      v.carried != some ((v.seedOf (pubInterval s v)).getD 0, pubInterval s v / 65536 + 1) &&
      v.starved != some ((v.seedOf (pubInterval s v)).getD 0, pubInterval s v / 65536 + 1)) = true := by
    simp only [Bool.and_eq_true, decide_eq_true_eq, bne_iff_ne]
    exact ⟨⟨⟨begun, carry⟩, uncarried⟩, unposted⟩
  simp only [exec, execAnchorStarved, found, starved, if_true]

theorem publisherRenewalStart_posts {e : Nat × Nat × BitVec 16}
    (begins : v.seeds.find? (fun e => decide (v.inForce < e.2.1) && decide (e.2.1 ≤ pubInterval s v)) = some e) :
    exec (.publisherRenewalStart chain) s = .next ((s.setPub chain.toNat { v with inForce := e.2.1 }).post 476) := by
  simp only [exec, execPublisherRenewalStart, found, begins]

theorem publisherRenewalStart_retires {a b : Nat × Nat × BitVec 16} {rest : List (Nat × Nat × BitVec 16)}
    (settled : v.seeds.find? (fun e => decide (v.inForce < e.2.1) && decide (e.2.1 ≤ pubInterval s v)) = none)
    (seeds : v.seeds = a :: b :: rest) (passed : b.2.1 + v.delay ≤ pubInterval s v) :
    exec (.publisherRenewalStart chain) s = .next ((s.setPub chain.toNat { v with
      seeds := b :: rest, banks := v.banks.filter (fun y => y.seed != a.1) }).invalidate a.1) := by
  rw [exec, execPublisherRenewalStart]
  simp only [found, settled]
  simp only [seeds, if_pos passed]

end Rows

section Disclosure

variable {h : Handle} {s : State} {a : StreamAux} {c : Context} {v : Pub} {r : KeyReady} {k : List Byte}
  (owes : owedOf s h.toNat = some (a, c)) (found : s.pub c.chain = some v)
  (due : disclosureDue v a (pubInterval s v) = true) (ready : pubReady v (pubInterval s v) = some r)
  (key : r.disclosed = some k)
include owes found due ready key

theorem standaloneDisclosureSend_waits (closed : upPorts s c.portMask = 0 ∨ trafficMode s = false) :
    exec (.standaloneDisclosureSend h) s = .next s := by
  have shut : (decide (upPorts s c.portMask = 0) || !trafficMode s) = true := by simpa using closed
  simp only [exec, execStandaloneDisclosureSend, owes, found, due, ready, key, shut, Option.bind_some, if_true]

/-- The frame of a standalone disclosure (R155, Table 5.6). -/
def disclosureBytes (s : State) (v : Pub) (a : StreamAux) (c : Context) (x : Nat) (k : List Byte) : List Byte :=
  natToBytes 6 a.da.toNat ++ natToBytes 6 (stationOf s.img (lowPort c.portMask)).toNat ++ a.vlan ++ [0x88, 0xB5] ++
    natToBytes 2 c.matchId ++ bwTrailer 64 v.delay v.publisher.toNat x k []

theorem standaloneDisclosureSend_sends (opened : upPorts s c.portMask ≠ 0) (flows : trafficMode s = true) :
    exec (.standaloneDisclosureSend h) s = .next { s.setOwed h.toNat (stillOwed v a (pubInterval s v)) with
      tx := s.tx ++ [ownFrame s .standalone c.portMask (disclosureBytes s v a c (pubInterval s v) k)]
      nextFrame := s.nextFrame + 1 } := by
  have rest : Touch [.aux, .bw] s (s.setOwed h.toNat (stillOwed v a (pubInterval s v))) :=
    (State.setOwed_touch _ _ _ (by decide)).mpr (Touch.refl _ _)
  have clear : (decide (upPorts s c.portMask = 0) || !trafficMode s) = false := by simp [opened, flows]
  simp only [exec, execStandaloneDisclosureSend, owes, found, due, ready, key, clear, Option.bind_some, if_true,
    Bool.false_eq_true, if_false]
  rw [rest.tx (by decide), rest.nextFrame (by decide), disclosureBytes]

end Disclosure

/-- Settles O54: a pass for an interval's keys by what the read of its record gives, a fill by its source, the other
rows by the lemma about each. -/
theorem publisherRowsAct : Obligations.PublisherRowsAct := by
  unfold Obligations.PublisherRowsAct
  rintro chain _ s v rfl found
  refine ⟨?prepare, fun begun late unposted => ⟨_, rfl, publisherKeyLate_posts found begun late unposted⟩, ?fill,
    ?starved, fun e => publisherRenewalStart_posts found, fun a b rest => publisherRenewalStart_retires found,
    ?disclosure⟩
  case prepare =>
    rintro core rb rs bad i m r ei rfl rfl
    refine ⟨fun waits => intervalKeyPrepare_waits core rb rs bad found (ei ▸ waits), ?_⟩
    rintro b _ running begun unready rfl bank sound live writable
    refine ⟨?right, fun wrong => ⟨_, rfl, intervalKeyPrepare_wrong core rb rs bad found begun unready bank sound live
      writable running ei.symm wrong⟩⟩
    rintro w k d free read fits ek near
    have ran := intervalKeyPrepare_right core rb rs bad found begun unready bank sound live writable running ei.symm
      free read fits ek near
    have rest := State.pebbleSeen_rest free
    have known := (rest.pub (by decide) chain.toNat).trans found
    have worked (x : State) : Touch [.power, .eye] x (x.coreWorks (10 + core.val)) :=
      (State.coreWorks_touch _ _ (by decide)).mpr (Touch.refl _ _)
    have whole (late : Bool) : Touch [.draws, .slots, .keyCtl, .pubs, .power, .eye, .out] s
        ((State.makeReady _ chain.toNat (wantedBank v true i).1 i late k d).coreWorks (10 + core.val)) :=
      (State.coreWorks_touch _ _ (by decide)).mpr ((State.makeReady_touch _ _ _ _ _ _ _ (by decide)).mpr
        (rest.mono (by decide)))
    refine ⟨_, ran, ?_, fun begun => ?_, fun ahead seedLt domLt => ?_, (whole _).streams (by decide),
      (whole _).hostMem (by decide), (whole _).mode (by decide)⟩
    · rw [(worked _).pub (by decide), State.pub_makeReady known, ← decide_not]
      simp only [Nat.not_le]
    · rw [(worked _).slots (by decide), decide_eq_true begun, State.slots_makeReady_late known, rest.slots (by decide)]
    · obtain ⟨key, valid, others⟩ := State.slot_makeReady_early known i k d seedLt domLt
      rw [decide_eq_false (Nat.not_le.mpr ahead), (worked _).slot (by decide)]
      exact ⟨key, valid, fun j other => ((worked _).slot (by decide) j).trans
        ((others j other).trans (rest.slot (by decide) j))⟩
  case fill =>
    intro segment bad core top want half b keys running lacks room free source
    have ran := pebbleBankFill_fills found core top bad running lacks room
    rcases source with ⟨seed, rfl, judged, rfl, rfl⟩ |
      ⟨g, w, rfl, missing, held, sound, reads, read, fits, rfl, rfl⟩ | ⟨seed, rfl, spoiled, judged, rfl, rfl⟩
    · exact ⟨_, ran, State.fillSegment_fills _ _ bad judged free⟩
    · exact ⟨_, ran, State.fillBlock_fills _ _ bad top free missing held sound reads read fits⟩
    · exact ⟨_, ran, State.fillBlock_rebuilds _ _ bad top free spoiled judged⟩
  case starved =>
    rintro _ g rfl eg begun carry uncarried unposted
    exact anchorStarved_posts found begun carry eg uncarried unposted
  case disclosure =>
    rintro h a c _ k r owes ec rfl due ready key
    rw [← ec] at found
    refine ⟨standaloneDisclosureSend_waits owes found due ready key, fun opened flows => ⟨_, _, _,
      standaloneDisclosureSend_sends owes found due ready key opened flows, rfl, rfl, rfl, rfl, rfl, rfl⟩⟩

end Sys2Proof.Machine

/-!
PROOFS. The statement on the Bindweed chain commands (O25).
-/

namespace Sys2Proof.Machine

/-! ### Checks with an exemption (R377) -/

/-- A check from which a flag exempts passes where the flag is set or the check finds nothing. -/
theorem exemptCheck_passes {exempt bad : Bool} (passes : exempt = true ∨ bad = false) : (!exempt && bad) = false := by
  rcases passes with rfl | rfl
  · rfl
  · exact Bool.and_false _

/-! ### Commands that begin, and how they end (R235, R255) -/

/-- The oldest waiting command, past its checks, whose own function begins it, is under way. -/
theorem front_wait {s : State} {c : Cmd} {op : Nat} {f : State → Cmd → Res} {p : CmdPhase} {v : State}
    (front : Front s c op) (begins : f s c = .wait p v) : execPyfer op f s = .next (v.setPhase c.id p) := by
  rw [front_exec front, begins, State.finish]

/-- A CHAIN_CREATE that has begun ends by the word that it drew. -/
theorem chainCreate_begun {s : State} {c : Cmd} {w : Nat} (core : Fin 2) (bad : Bool) (begun : Begun s c 0x30 w) :
    exec (.chainCreate core bad) s = .next (s.finish c (chainCreateEnd (10 + core.val) bad w s c)) := by
  have ⟨_, _, drawn⟩ := begun
  rw [exec, execChainCreate, begun_exec begun ⟨_, rfl⟩, chainCreateRes, drawn]

theorem chainCreateEnd_unhealthy {s : State} (u : Nat) (bad : Bool) (w : Nat) (c : Cmd) (fail : s.ent.fail = true) :
    chainCreateEnd u bad w s c = .fail rEntropy 4 [] := by
  simp only [chainCreateEnd, fail, if_true]

theorem chainCreateEnd_parentGone {s : State} (u : Nat) (bad : Bool) (w : Nat) {c : Cmd} (healthy : s.ent.fail = false)
    (gone : (s.slot (slotDomain c.domain)).live = false) :
    chainCreateEnd u bad w s c = .fail eState (slotDetail s (chainArgs c).slot) [] := by
  simp only [chainCreateEnd, healthy, gone, Bool.not_false, Bool.false_eq_true, if_true, if_false]

/-- The seed is derived and fetched, and the statement is of that seed and the state that made it. -/
theorem chainCreateEnd_creates {s s1 s2 : State} {u w : Nat} {bad : Bool} {c : Cmd} {key seed : Shares}
    (healthy : s.ent.fail = false) (live : (s.slot (slotDomain c.domain)).live = true)
    (derived : s.deriveSeed u bad c.domain w (chainArgs c) = (.ok key, s1))
    (fetched : s1.coreFetch u (chainArgs c).slot useKdf false = (.ok seed, s2)) :
    chainCreateEnd u bad w s c = .done 0 (packWords 11 (anchorStatement s (chainArgs c) seed.whole))
      (((s2.coreWorks u).createChain c.domain (chainArgs c)).wakeAs
        ((s2.coreWorks u).createChain c.domain (chainArgs c))) := by
  simp only [chainCreateEnd, healthy, live, derived, fetched, Bool.not_true, Bool.false_eq_true, if_false]

/-- A failure of a command other than an entropy refusal posts no event. -/
theorem State.finish_fail {s : State} {c : Cmd} {st : Nat} (d : Nat) (other : st ≠ rEntropy) :
    s.finish c (.fail st d []) = s.answer c.id (answerWords st d 0 []) := by
  simp only [State.finish, beq_false_of_ne other, State.postIf, Bool.false_eq_true, if_false]
  rfl

/-! ### Chains and their domains (R172, R399) -/

/-- A chain of the command's own domain passes check 6. -/
theorem otherChain_own {s : State} {c : Cmd} {verified : Bool} {n : Nat}
    (own : chainDomain s verified n = some c.domain) : otherChain s c verified n = false := by
  simp only [otherChain, own, bne_self_eq_false]

theorem chainDomain_ver {s : State} {n : Nat} {v : Ver} (found : s.ver n = some v) :
    chainDomain s true n = some v.domain := by
  simp only [chainDomain, found, if_true, Option.map_some]

/-- A verified chain that does not exist is in no other domain. -/
theorem otherChain_noVer {s : State} {n : Nat} (c : Cmd) (missing : s.ver n = none) :
    otherChain s c true n = false := by
  simp only [otherChain, chainDomain, missing, if_true, Option.map_none]

/-! ### CHAIN_CREATE (R177, R178, R400) -/

/-- What CHAIN_CREATE asks of the command and the state before it draws its word (R178, R255, R377, R400). -/
structure ChainCreateMay (s : State) (c : Cmd) (a : ChainArgs) : Prop where
  args : a = chainArgs c
  clean : fld (c.q 1) 17 11 = 0
  enabled : bit s.tcfg.enable a.td = true
  slotLt : a.slot < 65536
  notZero : a.publisher ≠ 0
  notOnes : a.publisher ≠ BitVec.allOnes 32
  later : acceptInterval c a.td a.len + 2 ≤ a.start
  renews : renewBad s a = false
  owned : otherChain s c false a.index = false
  block : slotBlockDomain s a.slot = some c.domain
  regions : s.img.bwId ≠ 0
  new : a.renew = true ∨ s.pub a.index = none
  empty : (s.slot a.slot).empty_ = true
  parent : (s.slot (slotDomain c.domain)).live = true
  fits : a.renew = true ∨ recomputationShort s a.td a.len = 0
  entropy : entropyUsable s = true

theorem chainCreateRes_begins {s : State} {c : Cmd} {a : ChainArgs} (u : Nat) (bad : Bool)
    (waiting : begunWith c = none) (may : ChainCreateMay s c a) :
    chainCreateRes u bad s c = .wait (.begun s.draws) (s.draw.post 488) := by
  obtain ⟨rfl, clean, enabled, slotLt, notZero, notOnes, later, renews, owned, block, regions, new, empty, parent,
    fits, entropy⟩ := may
  have absent : (!(chainArgs c).renew && (s.pub (chainArgs c).index).isSome) = false :=
    exemptCheck_passes (new.imp_right fun missing => by rw [missing, Option.isSome_none])
  have admitted : (if (chainArgs c).renew then 0 else recomputationShort s (chainArgs c).td (chainArgs c).len) = 0 := by
    rcases fits with renew | short
    · rw [if_pos renew]
    · rw [short, ite_self]
  simp only [chainCreateRes, waiting]
  refine checked_ok ?_ _
  simpa [clean, enabled, Nat.not_le.mpr slotLt, Nat.not_lt.mpr later, renews, owned, block, noRegions, regions, absent,
    empty, parent, admitted, entropy] using And.intro notZero notOnes

/-! ### CHAIN_VERIFIER and CHAIN_INSTALL (R191, R204, R205) -/

theorem verifierRes_ok {s : State} {c : Cmd} {n : Nat} {t : State} (en : n = verArg c)
    (clean : fld (c.q 1) 0 11 = 0) (enabled : bit s.tcfg.enable (newVer c).td = true)
    (margin : (newVer c).margin ≤ 1000) (regions : s.img.bwId ≠ 0) (absent : s.ver n = none)
    (et : t = s.storeVer n (newVer c)) : verifierRes s c = .done 0 [] (t.wakeAs t) := by
  subst en et
  refine checked_ok ?_ _
  simp [clean, enabled, Nat.not_lt.mpr margin, noRegions, regions, absent, otherChain_noVer c absent]

theorem chainInstallRes_ok {s : State} {c : Cmd} {n : Nat} {v : Ver} (en : n = verArg c)
    (cleanHead : fld (c.q 1) 0 35 = 0) (cleanTail : fld (c.q 12) 0 16 = 0) (found : s.ver n = some v)
    (own : v.domain = c.domain) (fits : statementCause s v (statementOf c) = none) :
    chainInstallRes s c = .done 0 [] (s.storeVer n (installStatement v (statementOf c))) := by
  subst en
  have owned : otherChain s c true (verArg c) = false :=
    otherChain_own ((chainDomain_ver found).trans (congrArg some own))
  refine (checked_ok ?_ _).trans ?_
  · simp [cleanHead, cleanTail, owned]
  · simp only [found, fits]

/-- On a chain with nothing installed a statement takes effect at once. -/
theorem installStatement_first {v : Ver} (b : List Byte) (fresh : v.installed = false) : installStatement v b = { v with
    v := (beAt 20 6 b + (2 ^ 48 - 1)) % 2 ^ 48, key := slice 32 32 b, publisher := BitVec.ofNat 32 (beAt 4 4 b),
    count := BitVec.ofNat 16 (beAt 18 2 b), installed := true } := by
  rw [installStatement, fresh, if_neg Bool.false_ne_true]
  rfl

/-- On an installed chain a statement becomes the incoming one. -/
theorem installStatement_incoming {v : Ver} (b : List Byte) (held : v.installed = true) :
    installStatement v b = { v with
      inStart := beAt 20 6 b, inCount := BitVec.ofNat 16 (beAt 18 2 b), inKey := slice 32 32 b, inValid := true } := by
  rw [installStatement, if_pos held]
  rfl

/-! ### CHAIN_DELETE and CHAIN_READ (R399, R402) -/

section Named

variable {s : State} {c : Cmd} {ver : Bool} {n : Nat} (ever : ver = kindArg c) (en : n = indexArg c)
  (clean : fld (c.q 1) 0 34 = 0) (indexed : ver = true ∨ n ≤ 1023) (own : chainDomain s ver n = some c.domain)
include ever en clean indexed own

theorem deleteRes_ok (unstaged : deleteStaged s ver n = false) (unnamed : chainNamed s ver n = false)
    (disclosed : ver = true ∨ disclosuresLeft s n = false) (timely : Timely s c [.chain ver n] 4) :
    deleteRes s c = .done (effTick s c [.chain ver n] 4) []
      (s.stage ⟨.chain ver n, 4, effTick s c [.chain ver n] 4, .deleteChain⟩) := by
  have inRange := exemptCheck_passes (indexed.imp_right fun most => decide_eq_false (Nat.not_lt.mpr most))
  have owesNone := exemptCheck_passes disclosed
  have owned := otherChain_own own
  subst ever en
  exact plan_ok timely _ _ _ _ (failOf_nil (by simp [clean, inRange]))
    (failOf_nil (by simp [owned, own, unstaged, unnamed, owesNone]))

theorem chainReadRes_ok {ws : List Word} (words : chainWords s ver n = some ws) :
    chainReadRes s c = .done 0 ws s := by
  have inRange := exemptCheck_passes (indexed.imp_right fun most => decide_eq_false (Nat.not_lt.mpr most))
  have owned := otherChain_own own
  subst ever en
  refine (checked_ok ?_ _).trans ?_
  · simp [clean, inRange, owned]
  · simp only [words]

end Named

/-- Settles O25: CHAIN_CREATE by its two rows, every other command by its own function past its checks, and the
statement by whether one is installed. -/
theorem chainCommandsAct : Obligations.ChainCommandsAct := by
  unfold Obligations.ChainCommandsAct
  refine ⟨fun c s core bad => ⟨?begins, ?creates, fun w begun => ⟨?unhealthy, ?parentGone⟩,
      fun n t en front clean enabled margin regions absent et =>
        front_done front (verifierRes_ok en clean enabled margin regions absent et),
      fun n v en front cleanHead cleanTail found own fits =>
        front_done front (chainInstallRes_ok en cleanHead cleanTail found own fits),
      fun ver n ever en front clean indexed own unstaged unnamed disclosed timely =>
        front_done front (deleteRes_ok ever en clean indexed own unstaged unnamed disclosed timely),
      fun ver n ws ever en front clean indexed own words =>
        front_done front (chainReadRes_ok ever en clean indexed own words)⟩,
    fun v b => ⟨installStatement_first b, installStatement_incoming b⟩⟩
  case begins =>
    intro a args front clean enabled slotLt notZero notOnes later renews owned block regions new empty parent fits
      entropy
    have ⟨_, _, waiting, _⟩ := front
    exact front_wait front (chainCreateRes_begins _ bad waiting ⟨args, clean, enabled, slotLt, notZero, notOnes, later,
      renews, owned, block, regions, new, empty, parent, fits, entropy⟩)
  case creates =>
    rintro _ w key seed s1 s2 _ rfl begun healthy live derived fetched rfl
    rw [chainCreate_begun core bad begun, chainCreateEnd_creates healthy live derived fetched, State.finish,
      answer_okWords]
  case unhealthy =>
    intro fail
    rw [chainCreate_begun core bad begun, chainCreateEnd_unhealthy _ bad w c fail]
    rfl
  case parentGone =>
    intro healthy gone
    rw [chainCreate_begun core bad begun, chainCreateEnd_parentGone _ bad w healthy gone,
      State.finish_fail _ (by decide)]
    rfl

end Sys2Proof.Machine

/-!
PROOFS. The statements on the generation commands and on the windows of a generation (O22, O33).
-/

namespace Sys2Proof.Machine

/-! ### Commands that end after they have begun (R235, R255) -/

/-- A command that has begun, whose own function ends it, is answered OK. -/
theorem begun_done {s : State} {c : Cmd} {op w : Nat} {f : State → Cmd → Res} {t : Tick} {ws : List Word} {v : State}
    (begun : Begun s c op w) (known : ∃ i, opInfo op = some i) (ends : f s c = .done t ws v) :
    execPyfer op f s = .next (v.answer c.id (okWords t ws)) := by
  rw [begun_exec begun known, ends, State.finish, answer_okWords]

/-! ### Streams that a generation command changes (R73, R100, R508) -/

/-- What is in order for several objects is in order for each of them. -/
theorem orderBad_mem {s : State} {os : List Obj} {t : Tick} (order : orderBad s os t = false) {o : Obj} (mem : o ∈ os) :
    orderBad s [o] t = false := by
  simp only [orderBad, List.any_eq_false] at order ⊢
  intro p single
  rw [List.mem_singleton.mp single]
  exact order o mem

/-- A stream that a timely change of several is to change, Created or Armed after every change staged for it, is in
state and in order. -/
theorem Timely.stream_ready {s : State} {c : Cmd} {y : Context} {hs : List Nat} {d g : Nat}
    (timely : Timely s c (hs.map Obj.stream) d) (mem : g ∈ hs) (state : y.created = true ∨ y.armed = true) :
    (!(y.created || y.armed) || orderBad s [.stream g] (effTick s c (hs.map Obj.stream) d)) = false := by
  obtain ⟨-, order, -⟩ := timely
  rw [Bool.or_eq_true_iff.mpr state, orderBad_mem order (List.mem_map_of_mem mem)]
  rfl

/-! ### GEN_INSTALL (R210 to R212, R255, R391 to R393) -/

/-- An install is staged for each of the streams, with the grace entries that it takes. -/
def State.stageInstalls (s : State) (hs : List Nat) (d : Nat) (t : Tick) (i : Install) : State :=
  hs.foldl (fun z g => (if installNeeds (futureStream s g) i then z.takeGrace g i.gen.num else z).stage
    ⟨.stream g, d, t, .install i⟩) s

/-- What GEN_INSTALL asks of the command, its streams and its slot, entropy apart (R211, R214, R221, R377, R391 to
R393). -/
structure InstallMay (s : State) (c : Cmd) (x : Context) (h d : Nat) (t : Tick) (i : Install) (hs : List Nat) :
    Prop where
  handle : h = fld (c.q 1) 0 15
  stream : x = futureStream s h
  tickDomain : d = x.tickDomain
  targets : hs = twinTargets s h
  tick : t = effTick s c (hs.map Obj.stream) d
  timely : Timely s c (hs.map Obj.stream) d
  clean : fld (c.q 2) 0 10 = 0
  cleanFirst : fld (c.q 6) 0 32 = 0
  slotLt : i.gen.slot < slotCount
  oneWay : (i.follow && i.roll) = false
  held : x.free = false
  inRange : installBadRange x c i = false
  owned : x.domain = c.domain
  subtree : inSubtree s i.gen.slot x.domain = true
  fits : ∀ g ∈ hs, ((futureStream s g).created = true ∨ (futureStream s g).armed = true) ∧
    (i.roll = true → (futureStream s g).cur.valid = true ∧ prevOpen (futureStream s g) t = false) ∧
    genRefused (futureStream s g) t i.gen = false
  live : (s.slot i.gen.slot).live = true
  uses : ∀ u ∈ neededUses x (decide (1 < hs.length)), bit (s.slot i.gen.slot).attr u = true
  space : hs.length ≤ freeStaged s
  entries : (hs.filter (fun g => installNeeds (futureStream s g) i)).length ≤ 4096 - s.grace.length

section Install

variable {s : State} {c : Cmd} {x : Context} {h d salt w : Nat} {t : Tick} {i : Install} {hs : List Nat} {draws : Bool}

/-- No stream of the install fails its check of state. -/
theorem InstallMay.streams_pass (may : InstallMay s c x h d t i hs) {g : Nat} (mem : g ∈ hs) :
    (!((futureStream s g).created || (futureStream s g).armed) || orderBad s [.stream g] t ||
      (i.roll && (!(futureStream s g).cur.valid || prevOpen (futureStream s g) t))) = false := by
  obtain ⟨state, rolls, -⟩ := may.fits g mem
  have current : (i.roll && (!(futureStream s g).cur.valid || prevOpen (futureStream s g) t)) = false := by
    cases roll : i.roll with
    | false => rfl
    | true => simp [rolls roll]
  rw [may.tick] at current ⊢
  rw [may.timely.stream_ready mem state, current]
  rfl

/-- Past its checks GEN_INSTALL begins where it has a salt to draw and has drawn no word, and ends in its staging
otherwise; w numbers the word of the salt, drawn or to be drawn. -/
theorem installRes_ok (may : InstallMay s c x h d t i hs) (edraws : draws = bit (c.q 2) 11)
    (esalt : salt = (if draws then fld (Config.freeKey w) 0 96 else (c.q 3).toNat * 2 ^ 48 + (c.q 4).toNat))
    (ei : i = installOf c salt) (word : draws = true → (begunWith c).getD s.draws = w)
    (usable : draws = true → begunWith c = none → entropyUsable s = true)
    (healthy : begunWith c ≠ none → s.ent.fail = false) :
    installRes s c = (if draws && (begunWith c).isNone then .wait (.begun s.draws) (s.draw.post 488)
      else .done t (if draws then [i.gen.g2, i.gen.g3] else []) (s.stageInstalls hs d t i)) := by
  have pass {g : Nat} (mem : g ∈ hs) := may.streams_pass mem
  obtain ⟨rfl, ex, rfl, ehs, et, timely, clean, cleanFirst, slotLt, oneWay, held, inRange, owned, subtree, fits, live,
    uses, space, entries⟩ := may
  have staged := stage_ok timely
  obtain ⟨near, -, -⟩ := timely
  have owner := owner_ok (s := s) (h := fld (c.q 1) 0 15) held owned
  have salted : (if draws then fld (Config.freeKey ((begunWith c).getD s.draws)) 0 96
      else (c.q 3).toNat * 2 ^ 48 + (c.q 4).toNat) = salt := by
    rw [esalt]
    cases drawing : draws with
    | false => rfl
    | true => rw [word drawing]
  have entropy : (draws && (begunWith c).isNone && !entropyUsable s) = false := by
    cases drawing : draws with
    | false => rfl
    | true => cases begun : begunWith c with
      | none => simp [usable drawing begun]
      | some _ => rfl
  have health : ((begunWith c).isSome && s.ent.fail) = false := by
    cases begun : begunWith c with
    | none => rfl
    | some _ => exact healthy (by simp [begun])
  unfold installRes handleArg
  dsimp only
  rw [← edraws, salted, ← ei, ← ex, ← ehs, ← et]
  refine (checked_ok ?_ _).trans ?_
  · simp only [List.forall_mem_cons]
    refine ⟨?_, ?_, ?_, ?_, ?_, ?_, decide_eq_false (Nat.not_lt.mpr space), decide_eq_false (Nat.not_lt.mpr entries),
      entropy, health, by simp⟩
    · simp [clean, cleanFirst]
    · simp [near, oneWay, inRange, Nat.not_le.mpr slotLt]
    · simp [owner, subtree]
    · exact List.any_eq_false.mpr fun _ mem => ne_true_of_eq_false (pass mem)
    · simpa [live] using uses
    · exact List.any_eq_false.mpr fun g mem =>
        have ⟨_, _, later⟩ := fits g mem
        ne_true_of_eq_false later
  · rw [et, staged]
    rfl

end Install

/-! ### GEN_ROLL (R213, R214, R217, R221, R394) -/

/-- A roll is staged for each of the streams, with the grace entry that it takes or takes over. -/
def State.stageRolls (s : State) (hs : List Nat) (g d : Nat) (t : Tick) : State :=
  hs.foldl (fun z k => (z.takeRoll k g (futureStream s k).opens).stage ⟨.stream k, d, t, .roll g⟩) s

/-- What GEN_ROLL asks of the command and its streams (R214, R377, R394). -/
structure RollMay (s : State) (c : Cmd) (h g d : Nat) (t : Tick) (hs : List Nat) : Prop where
  handle : h = fld (c.q 1) 0 15
  generation : g = fld (c.q 1) 15 16
  tickDomain : d = (futureStream s h).tickDomain
  targets : hs = twinTargets s h
  tick : t = effTick s c (hs.map Obj.stream) d
  timely : Timely s c (hs.map Obj.stream) d
  clean : fld (c.q 1) 31 17 = 0
  held : (futureStream s h).free = false
  owned : (futureStream s h).domain = c.domain
  fits : ∀ k ∈ hs, ((futureStream s k).created = true ∨ (futureStream s k).armed = true) ∧
    rollRefused (futureStream s k) t g = false
  space : hs.length ≤ freeStaged s
  entries : (hs.filter (fun k => (futureStream s k).opens && !holdsNext s k g)).length ≤ 4096 - s.grace.length

section Roll

variable {s : State} {c : Cmd} {h g d : Nat} {t : Tick} {hs : List Nat}

/-- No stream of the roll fails its check of state. -/
theorem RollMay.streams_pass (may : RollMay s c h g d t hs) {k : Nat} (mem : k ∈ hs) :
    (!((futureStream s k).created || (futureStream s k).armed) || orderBad s [.stream k] t ||
      rollRefused (futureStream s k) t g) = false := by
  obtain ⟨state, allowed⟩ := may.fits k mem
  rw [may.tick] at allowed ⊢
  rw [may.timely.stream_ready mem state, allowed]
  rfl

theorem rollRes_ok (may : RollMay s c h g d t hs) : rollRes s c = .done t [] (s.stageRolls hs g d t) := by
  have pass {k : Nat} (mem : k ∈ hs) := may.streams_pass mem
  obtain ⟨eh, eg, ed, ehs, et, timely, clean, held, owned, -, space, entries⟩ := may
  have staged := stage_ok timely
  obtain ⟨near, -, -⟩ := timely
  have owner := owner_ok (s := s) (h := h) held owned
  unfold rollRes handleArg
  dsimp only
  rw [← eh, ← eg, ← ehs, ← ed, ← et]
  refine (checked_ok ?_ _).trans ?_
  · simp only [List.forall_mem_cons]
    refine ⟨?_, near, owner, ?_, decide_eq_false (Nat.not_lt.mpr space), decide_eq_false (Nat.not_lt.mpr entries),
      by simp⟩
    · simp [clean]
    · exact List.any_eq_false.mpr fun _ mem => ne_true_of_eq_false (pass mem)
  · rw [et, staged]
    rfl

end Roll

/-- Settles O22: an install without a draw and one that has drawn end in their staging, one that is to draw begins; a
roll ends in its staging. -/
theorem genInstallAndRollStage : Obligations.GenInstallAndRollStage := by
  unfold Obligations.GenInstallAndRollStage
  refine ⟨?install, ?roll⟩
  case install =>
    intro c s u x h d salt w t i hs draws eh ex ed ehs et edraws esalt ei timely clean cleanFirst slotLt oneWay held
      inRange owned subtree fits live uses space entries eu
    subst eu
    have result := installRes_ok (w := w) ⟨eh, ex, ed, ehs, et, timely, clean, cleanFirst, slotLt, oneWay, held,
      inRange, owned, subtree, fits, live, uses, space, entries⟩ edraws esalt ei
    refine ⟨fun given front => front_done front ?_, fun drawing front usable ew => front_wait front ?_,
      fun drawing begun healthy => begun_done begun ⟨_, rfl⟩ ?_⟩
    · have ⟨_, _, waiting, _⟩ := front
      rw [result (by simp [given]) (by simp [given]) (by simp [waiting]), given]
      rfl
    · have ⟨_, _, waiting, _⟩ := front
      rw [result (by simp [waiting, ew]) (fun _ _ => usable) (by simp [waiting]), drawing, waiting, ew]
      rfl
    · have ⟨_, _, drawn⟩ := begun
      rw [result (by simp [drawn]) (by simp [drawn]) (fun _ => healthy), drawing, drawn]
      rfl
  case roll =>
    intro c s h g d t hs front eh eg ed ehs et timely clean held owned fits space entries
    exact front_done front (rollRes_ok ⟨eh, eg, ed, ehs, et, timely, clean, held, owned, fits, space, entries⟩)

/-! ### The windows of a generation (R216, R218) -/

theorem State.earlyIfDue_opens {s : State} {h : Nat} {c : Context} (ec : c = s.stream h) (valid : c.nxt.valid = true)
    (due : ∃ x ∈ s.staged, x.obj = .stream h ∧ x.chg = .roll c.nxt.num ∧ x.tick ≤ tickNow s c.tickDomain + c.grace) :
    s.earlyIfDue h = s.openEarly h := by
  subst ec
  obtain ⟨x, mem, obj, chg, early⟩ := due
  refine if_pos (List.any_eq_true.mpr ⟨x, List.mem_filter.mpr ⟨mem, by simpa using obj⟩, ?_⟩)
  simp [chg, valid, early]

theorem State.closeIfDue_closes {s : State} {h : Nat} (valid : (s.stream h).prv.valid = true)
    (due : (s.stream h).closeTick ≤ tickNow s (s.stream h).tickDomain) : s.closeIfDue h = s.closePrev h :=
  if_pos (by simp [valid, due])

/-- The release of a slot and the freeing of entries leave the companion state. -/
theorem State.companion_freeGrace_releaseSlot (s : State) (h k j : Nat) :
    ((s.releaseSlot h k).freeGrace h).aux_ j = s.aux_ j := by
  have rest : Touch [.grace, .slots, .keyCtl, .eye] s ((s.releaseSlot h k).freeGrace h) := by
    simp (disch := decide) only [State.freeGrace_touch, State.releaseSlot_touch, Touch.refl]
  rw [State.aux_, rest.aux (by decide)]
  rfl

/-- Once the close is done the previous generation is among those that have closed. -/
theorem State.closePrev_closed {s : State} {h : Nat} (valid : (s.stream h).prv.valid = true) :
    (s.stream h).prv.num ∈ ((s.closePrev h).aux_ h).closed := by
  unfold State.closePrev
  dsimp only
  cases closed : prvClosed s h with
  | true => simpa [prvClosed] using closed
  | false =>
    rw [if_pos (by simp [valid]), State.companion_freeGrace_releaseSlot, State.aux__setAux]
    exact List.mem_cons_self

/-- What the close of a generation may alter (R216). -/
theorem Touch.close_frame {s t : State} (h : Touch [.aux, .grace, .slots, .keyCtl, .eye] s t) :
    t = { s with aux := t.aux, slots := t.slots, keyCtl := t.keyCtl, grace := t.grace, eye := t.eye } := by
  have frame := (h.mono (by decide)).generation_frame
  rwa [h.streams (by decide), h.staged (by decide)] at frame

/-! ### The retry of a follow roll (R221) -/

/-- A follow roll to the generation that stays the next one is staged, or waits while the staging area is full. -/
theorem State.stageFollow_eq {s : State} {h : Nat} (owed : (s.aux_ h).follow = true)
    (valid : (s.stream h).nxt.valid = true) (keeps : (futureStream s h).nxt.valid = true)
    (same : (futureStream s h).nxt.num = (s.stream h).nxt.num) (stays : (futureStream s h).retiring = false) :
    s.stageFollow h = if freeStaged s = 0 then
        (s.setAux h { s.aux_ h with followWait := true }).post (412 + 6 * (s.stream h).tickDomain)
      else (s.setAux h { s.aux_ h with follow := false, followWait := false }).stage
        ⟨.stream h, (s.stream h).tickDomain, followTick s h, .roll (s.stream h).nxt.num⟩ := by
  simp [State.stageFollow, owed, valid, keeps, same, stays]

theorem followRollRetry_waiting {h : Handle} {s : State} (waits : (s.aux_ h.toNat).followWait = true) :
    exec (.followRollRetry h) s = .next (s.stageFollow h.toNat) := by
  rw [exec, execFollowRollRetry, if_pos waits]

/-- Settles O33: each of the four rows by its one operation. -/
theorem generationWindowsMove : Obligations.GenerationWindowsMove := by
  unfold Obligations.GenerationWindowsMove
  rintro h s c rfl
  refine ⟨fun due valid => ?early, fun valid due => ?close, rfl, ?follow⟩
  case early =>
    rw [exec, execEarlyWindowOpen, State.earlyIfDue_opens rfl valid due, State.openEarly, if_pos valid]
  case close =>
    refine ⟨_, rfl, ?_⟩
    rw [State.closeIfDue_closes valid due]
    exact ⟨State.closePrev_closed valid, (s.closePrev_rest h.toNat).close_frame⟩
  case follow =>
    rintro a f rfl rfl waits owed valid keeps same stays
    rw [followRollRetry_waiting waits, State.stageFollow_eq owed valid keeps same stays]
    refine ⟨fun room => by rw [if_neg (Nat.pos_iff_ne_zero.mp room)], fun full => ?_⟩
    have unchanged : { s.aux_ h.toNat with followWait := true } = s.aux_ h.toNat := by rw [← waits]
    rw [if_pos full, unchanged]

end Sys2Proof.Machine

/-!
PROOFS. The statement on the exchange on the key bus (O23).
-/

namespace Sys2Proof.Machine

/-! ### The fields of an attribute word (Table 8.2) -/

theorem fld_or {n : Nat} (v w : BitVec n) (lo len : Nat) : fld (v ||| w) lo len = fld v lo len ||| fld w lo len := by
  simp only [fld, BitVec.toNat_or, Nat.shiftRight_or_distrib, Nat.or_mod_two_pow]

theorem fld_at_same {lo v len : Nat} (small : v < 2 ^ len) (fits : lo + len ≤ 48) : fld (at_ lo v) lo len = v := by
  refine Nat.eq_of_testBit_eq fun i => ?_
  rw [testBit_fld]
  by_cases low : i < len
  · simp [low, bit_at lo v (show lo + i < 48 by omega)]
  · rw [Nat.testBit_lt_two_pow (Nat.lt_of_lt_of_le small (Nat.pow_le_pow_right (by decide) (Nat.le_of_not_lt low)))]
    simp [low]

/-- A value placed below a field, and not so large that it reaches into it, leaves the field zero. -/
theorem fld_at_below {lo v lo' len : Nat} (small : v * 2 ^ lo < 2 ^ lo') : fld (at_ lo v) lo' len = 0 := by
  have le : (at_ lo v).toNat ≤ v * 2 ^ lo := by
    rw [at_, BitVec.toNat_ofNat, Nat.shiftLeft_eq]
    exact Nat.mod_le _ _
  rw [fld, Nat.shiftRight_eq_div_pow, Nat.div_eq_of_lt (Nat.lt_of_le_of_lt le small), Nat.zero_mod]

theorem fld_at_above {lo v lo' len : Nat} (above : lo' + len ≤ lo) : fld (at_ lo v) lo' len = 0 := by
  refine Nat.eq_of_testBit_eq fun i => ?_
  rw [testBit_fld, Nat.zero_testBit]
  by_cases low : i < len
  · by_cases inside : lo' + i < 48
    · simp [bit_at lo v inside, show ¬ lo ≤ lo' + i by omega]
    · simp [bit, BitVec.getLsbD_of_ge (at_ lo v) (lo' + i) (Nat.le_of_not_lt inside)]
  · simp [low]

section AttrWord

variable {state d uses origin depth parent : Nat} (expire : Bool) (dom : d < 16) (use : uses < 128) (org : origin < 8)
  (deep : depth < 8) (par : parent < 2 ^ 17)

include dom use org deep par

/-- An attribute word reads back as the fields that it is made of. -/
theorem attrWord_fields (valid : state < 4) : let w := attrWord state expire (some d) uses origin depth parent
    fld w 46 2 = state ∧ bit w 43 = true ∧ fld w 39 4 = d ∧ fld w 32 7 = uses ∧ fld w 29 3 = origin ∧
      fld w 26 3 = depth ∧ fld w 0 17 = parent := by
  have flag : boolNat expire < 2 := by cases expire <;> decide
  have read {lo len : Nat} : fld (attrWord state expire (some d) uses origin depth parent) lo len =
      fld (at_ 46 state) lo len ||| fld (at_ 44 (boolNat expire)) lo len ||| fld (at_ 43 1) lo len |||
        fld (at_ 39 d) lo len ||| fld (at_ 32 uses) lo len ||| fld (at_ 29 origin) lo len |||
        fld (at_ 26 depth) lo len ||| fld (at_ 0 parent) lo len := by
    simp only [attrWord, fld_or]
    rfl
  refine ⟨?_, ?_, ?_, ?_, ?_, ?_, ?_⟩
  case refine_2 => simp [attrWord, bit_or, bit_at, boolNat]
  all_goals
    rw [read]
    simp (disch := omega) only [fld_at_same, fld_at_below, fld_at_above, Nat.or_zero, Nat.zero_or]

end AttrWord

/-! ### KEY_IMPORT (R243, R245, R396) -/

/-- What KEY_IMPORT asks of the command and the state (R226, R230, R245, R377, R396). -/
structure ImportMay (s : State) (c : Cmd) : Prop where
  clean : fld (c.q 1) 0 23 = 0
  cleanHandle : fld (c.q 2) 0 16 = 0
  slotLt : targetArg c < 65536
  block : slotBlockDomain s (targetArg c) = some c.domain
  empty : (s.slot (targetArg c)).empty_ = true
  parent : (s.slot (slotDomain c.domain)).live = true
  digest : bit (c.q 1) 24 = true → fld (c.q 1) 24 7 = 1 ∧ s.mode ≠ .drill ∧ freeDigest s ≠ none
  masked : degradedRefuse s = false
  seeded : s.keyCtl.seeded = true

/-- Past its checks KEY_IMPORT is refused by a busy bus, and else sends its request and waits. -/
theorem importRes_ok {s : State} {c : Cmd} (busy : Bool) (may : ImportMay s c) : importRes busy s c =
    if busy then .refused rResource 3
      (s.sendBus (.request (BitVec.ofNat 32 (fld (c.q 2) 16 32)) c.domain (digestFor s c)))
    else .wait .keyBus (s.startImport c s.now) := by
  obtain ⟨clean, cleanHandle, slotLt, block, empty, parent, digest, masked, seeded⟩ := may
  have inStore : ¬ slotCount ≤ targetArg c := by rw [slotCount]; omega
  have bound : (bit (c.q 1) 24 && fld (c.q 1) 24 7 != 1) = false ∧ (bit (c.q 1) 24 && s.mode == .drill) = false ∧
      (bit (c.q 1) 24 && (freeDigest s).isNone) = false := by
    cases hmac : bit (c.q 1) 24 with
    | false => exact ⟨rfl, rfl, rfl⟩
    | true =>
      obtain ⟨alone, outside, free⟩ := digest hmac
      simp [alone, outside, Option.ne_none_iff_isSome.mp free]
  obtain ⟨uses, mode, digests⟩ := bound
  unfold importRes
  refine checked_ok ?_ _
  simp [writeChecks, splitCheck, clean, cleanHandle, inStore, uses, mode, digests, Nat.not_le.mpr slotLt, block, empty,
    parent, masked, seeded]

/-- The import that an accepted KEY_IMPORT records at an instant. -/
def importOf (s : State) (c : Cmd) (t : Nat) : Import :=
  ⟨c.id, BitVec.ofNat 32 (fld (c.q 2) 16 32), c.domain, targetArg c, BitVec.ofNat 7 (fld (c.q 1) 24 7), bit (c.q 1) 23,
    limitOf (c.q 3), t, digestFor s c, false⟩

theorem ImportMay.atTime {s : State} {c : Cmd} (may : ImportMay s c) (now : Nat) : ImportMay (s.atTime now) c :=
  { may with }

section Request

variable {s : State} {c : Cmd} (now : Nat) (front : Front s c 0x28) (may : ImportMay s c)
include front may

theorem keyImport_requests : exec (.keyImport false now) s =
    .next (((s.atTime now).startImport c (max s.now now)).setPhase c.id .keyBus) :=
  front_wait (s := s.atTime now) front (importRes_ok false (may.atTime now))

theorem keyImport_busy : exec (.keyImport true now) s = .next (((s.atTime now).sendBus (.request
    (BitVec.ofNat 32 (fld (c.q 2) 16 32)) c.domain (digestFor s c))).answer c.id (answerWords rResource 3 0 [])) := by
  rw [exec, execKeyImport, front_exec (s := s.atTime now) front, importRes_ok true (may.atTime now)]
  rfl

end Request

/-! ### Slots written below a parent are not Empty (R230, R231) -/

/-- A child's attribute word says Valid, whatever its other fields are: the slot that takes it is not Empty. -/
theorem childAttr_not_empty (s : State) (parent : Nat) (dom : Option Nat) (expire : Bool) (uses origin : Nat) :
    fld (childAttr s parent dom expire uses origin) 46 2 ≠ 0 := by
  have set : bit (childAttr s parent dom expire uses origin) 46 = true := by
    simp [childAttr, attrWord, bit_or, bit_at]
  intro zero
  have clear := testBit_fld (childAttr s parent dom expire uses origin) 46 2 0
  rw [zero, set] at clear
  exact absurd clear (by decide)

theorem KeySlot.not_empty_of_childAttr {v : KeySlot} {s : State} {parent uses origin : Nat} {dom : Option Nat}
    {expire : Bool} (attr : v.attr = childAttr s parent dom expire uses origin) : v.empty_ = false := by
  rw [KeySlot.empty_, KeySlot.st, attr]
  have stands := childAttr_not_empty s parent dom expire uses origin
  exact beq_eq_false_iff_ne.mpr stands

/-! ### Fetches that fail, and derivations by Yarrow (R229, R237) -/

/-- The count of refused fetches advances. -/
def State.countRefusal (s : State) : State :=
  { s with ladder := { s.ladder with fetchRefusals := satAdd s.ladder.fetchRefusals 1 } }

/-- What a failed fetch of a slot that passes its cell check alters: the count of refusals, and events. -/
def FetchCounted (s t : State) : Prop :=
  Touch [.ladder, .eye] s t ∧ t.ladder.formed = s.ladder.formed ∧ t.ladder.epoch = s.ladder.epoch

theorem FetchCounted.of_eye {s t : State} (same : Touch [.eye] s.countRefusal t) : FetchCounted s t := by
  have counted : Touch [.ladder, .eye] s s.countRefusal := by
    intro f other
    cases f
    case ladder => exact absurd other (by decide)
    all_goals rfl
  refine ⟨counted.step (same.mono (by decide)), ?_, ?_⟩ <;> rw [same.ladder (by decide)] <;> rfl

/-- A fetch by a core that fails, its slot's check good, counts the refusal and posts events: no slot changes (R229). -/
theorem State.coreFetch_fails {s : State} {k use : Nat} (u : Nat)
    (fails : (fetchJudge (s.slot k) use false).isOk = false) :
    (s.coreFetch u k use false).1.isOk = false ∧ FetchCounted s (s.coreFetch u k use false).2 := by
  cases judged : fetchJudge (s.slot k) use false with
  | ok key => rw [judged] at fails; cases fails
  | atLimit =>
    simp only [State.coreFetch, State.fetch, Bool.false_and, judged, State.limitMet]
    exact ⟨rfl, .of_eye (by
      rw [State.postIf_touch _ _ _ (by decide)]
      exact (State.post_touch s.countRefusal _ (by decide)).mpr (Touch.refl _ _))⟩
  | refused =>
    simp only [State.coreFetch, State.fetch, Bool.false_and, judged, Bool.false_eq_true, if_false]
    exact ⟨rfl, .of_eye (by
      rw [State.postIf_touch _ _ _ (by decide)]
      exact (State.post_touch (s.countRefusal.post _) _ (by decide)).mpr
        ((State.post_touch s.countRefusal _ (by decide)).mpr (Touch.refl _ _)))⟩

/-- A derivation by Yarrow whose parent gives its key writes the slot; one that the parent refuses changes no slot. -/
theorem State.deriveSlot_cases (s : State) (k parent : Nat) (dom : Option Nat) (label : String) (ctx : List Byte)
    (uses origin : Nat) (expire : Bool) (limit : Word) :
    let t := s.deriveSlot k parent dom label ctx uses origin expire limit
    (∃ key, t = ((s.countUse parent).coreWorks 10).writeSlot k key
      (childAttr (s.countUse parent) parent dom expire uses origin) limit) ∨ FetchCounted s t := by
  unfold State.deriveSlot State.deriveBy
  cases judged : fetchJudge (s.slot parent) useKdf false with
  | ok key =>
    left
    rw [State.coreFetch_ok 10 (by rwa [Bool.false_and])]
    exact ⟨_, rfl⟩
  | atLimit | refused =>
    right
    obtain ⟨failed, counted⟩ := s.coreFetch_fails 10 (k := parent) (use := useKdf) (by rw [judged]; rfl)
    split
    case h_1 key s1 ran => rw [ran] at failed; cases failed
    case h_2 f s1 _ ran => rwa [ran] at counted

/-! ### The write of an import (R231, R245, R246) -/

/-- An import is written, or, where the derivation that whitens it is refused its parent, no slot changes. -/
theorem State.writeImport_writes_or_leaves (s : State) (i : Import) (r : KeyBusReply) :
    ((s.writeImport i r).slot i.slot).empty_ = false ∨ (s.writeImport i r).slots = s.slots := by
  unfold State.writeImport
  dsimp only
  split
  case h_1 n digest =>
    left
    rw [State.post_slot, State.slot_setSlot]
    exact KeySlot.not_empty_of_childAttr rfl
  case h_2 =>
    split
    · rcases s.deriveSlot_cases i.slot (slotDomain i.domain) (some i.domain) "DRILLIMP"
        (keyBytes (r.share0 ^^^ r.share1)) (i.uses &&& r.uses).toNat 3 i.expire i.limit with ⟨key, wrote⟩ | ⟨rest, -⟩
      · left
        rw [wrote, State.slot_writeSlot]
        exact KeySlot.not_empty_of_childAttr rfl
      · exact Or.inr (rest.slots (by decide))
    · left
      rw [State.slot_writeSlot]
      exact KeySlot.not_empty_of_childAttr rfl

/-- The slot of an import outside Drill that binds no keyed-digest slot. -/
def importedSlot (s : State) (i : Import) (r : KeyBusReply) : KeySlot :=
  ⟨(r.share0 ^^^ r.share1) ^^^ s.drawn, s.drawn,
    childAttr s (slotDomain i.domain) (some i.domain) i.expire (i.uses &&& r.uses).toNat 2, 0, i.limit, none⟩

theorem State.writeImport_shares {s : State} {i : Import} (r : KeyBusReply) (mode : s.mode ≠ .drill)
    (shares : i.digestRef = none) : s.writeImport i r = s.writeSlot i.slot (r.share0 ^^^ r.share1)
    (childAttr s (slotDomain i.domain) (some i.domain) i.expire (i.uses &&& r.uses).toNat 2) i.limit := by
  simp only [State.writeImport, shares, beq_false_of_ne mode, Bool.false_eq_true, if_false]

/-- The attribute word of an import below its domain key (R231). -/
theorem importedSlot_fields (s : State) {i : Import} (r : KeyBusReply) (domLt : i.domain < 16)
    (valid : (s.slot (slotDomain i.domain)).domainValid = true)
    (deep : (s.slot (slotDomain i.domain)).depth ≤ 6) : let v := importedSlot s i r
    v.st = 1 ∧ v.domainValid = true ∧ v.domain = (s.slot (slotDomain i.domain)).domain ∧
      fld v.attr 32 7 = (i.uses &&& r.uses).toNat ∧ fld v.attr 29 3 = 2 ∧
      v.depth = (s.slot (slotDomain i.domain)).depth + 1 ∧ v.parent = slotDomain i.domain := by
  have word : (importedSlot s i r).attr = attrWord 1 (i.expire || (s.slot (slotDomain i.domain)).expire)
      (some (s.slot (slotDomain i.domain)).domain) (i.uses &&& r.uses).toNat 2
      ((s.slot (slotDomain i.domain)).depth + 1) (slotDomain i.domain) := by
    simp only [importedSlot, childAttr, valid, if_true]
  intro v
  rw [KeySlot.st, KeySlot.domainValid, KeySlot.domain, KeySlot.depth, KeySlot.parent, word]
  exact attrWord_fields _ (fld_lt _ 39 4) (i.uses &&& r.uses).isLt (by decide) (by omega) (by rw [slotDomain]; omega)
    (by decide)

/-! ### The answer of the key bus (R235, R244, Table 13.16) -/

section Response

variable {s : State} {i : Import} {rest : List Import} {r : KeyBusReply} (oldest : s.imports = i :: rest)
include oldest

theorem keyBusResponse_refused {cause : Nat} (found : importCause i r = some cause) :
    exec (.keyBusResponse r) s = .next (s.refuseImport i cause) := by
  simp only [exec, execKeyBusResponse, oldest, found]

variable (good : importCause i r = none)
include good

/-- The write is abandoned under a domain key that has gone, and none is made to a slot that is not Empty. -/
theorem keyBusResponse_abandons (gone : (s.slot (slotDomain i.domain)).live = false ∨ i.abandoned = true ∨
      (s.slot i.slot).empty_ = false) : ∃ m, exec (.keyBusResponse r) s = .next
        (((s.endImport i false).sendBus m).answer i.cmd (answerWords eState (slotDetail s i.slot) 0 [])) := by
  have stops : (!((s.slot (slotDomain i.domain)).live && !i.abandoned) || !(s.slot i.slot).empty_) = true := by
    rcases gone with gone | gone | gone <;> simp [gone]
  refine ⟨.refusal i.handle (if (s.slot (slotDomain i.domain)).live && !i.abandoned then 0 else 7), ?_⟩
  simp only [exec, execKeyBusResponse, oldest, good, stops, if_true]

theorem keyBusResponse_writes (live : (s.slot (slotDomain i.domain)).live = true) (kept : i.abandoned = false)
    (empty : (s.slot i.slot).empty_ = true) {t : State} (et : t = (s.endImport i true).writeImport i r) :
    exec (.keyBusResponse r) s = .next (if (t.slot i.slot).empty_
      then (t.sendBus (.refusal i.handle 7)).answer i.cmd (answerWords eState (slotDetail s i.slot) 0 [])
      else (t.sendBus (.ack i.handle i.slot)).answer i.cmd (answerWords 0 0 0 [(t.slot i.slot).attr])) := by
  subst et
  simp only [exec, execKeyBusResponse, oldest, good, live, kept, empty, Bool.not_false, Bool.and_self, Bool.not_true,
    Bool.or_self, Bool.false_eq_true, if_false]
  split <;> rfl

end Response

/-- After 10 µs the oldest import is refused with cause 6. -/
theorem importTimeout_refuses {s : State} {i : Import} {rest : List Import} {now : Nat} (oldest : s.imports = i :: rest)
    (late : i.since + 10000 ≤ max s.now now) :
    exec (.importTimeout now) s = .next ((s.atTime now).refuseImport i 6) := by
  simp only [exec, execImportTimeout, State.atTime_imports, State.atTime_now, oldest, late, if_true]

/-- Settles O23: the request past its checks; the answer by its first cause, as a write that has filled its slot or left
all of them, or as one abandoned; the slot written by the fields of its attribute word. -/
theorem keyImportExchange : Obligations.KeyImportExchange := by
  unfold Obligations.KeyImportExchange
  refine ⟨⟨?request, ?response, ?timeout⟩, ?written⟩
  case request =>
    rintro c now k s _ rfl front rfl clean cleanHandle slotLt block empty parent digest masked seeded
    have may : ImportMay s c := ⟨clean, cleanHandle, slotLt, block, empty, parent, digest, masked, seeded⟩
    exact ⟨⟨importOf s c (max s.now now), keyImport_requests now front may, rfl, rfl, rfl, rfl, rfl, rfl, rfl, rfl, rfl,
      rfl⟩,
      keyImport_busy now front may⟩
  case response =>
    intro i rest r s oldest
    refine ⟨fun cause found => keyBusResponse_refused oldest found, ?writes, ?abandons⟩
    case writes =>
      intro good live kept empty t et
      have ran := keyBusResponse_writes oldest good live kept empty et
      refine ⟨fun written => ?_, fun unwritten => ⟨_, ran, fun k => ?_⟩⟩
      · rw [ran, written, answer_okWords]
        rfl
      · have slots := ((s.endImport i true).writeImport_writes_or_leaves i r).resolve_left
          (by rw [← et, unwritten]; decide)
        rw [unwritten, if_pos rfl]
        subst et
        exact congrArg (Table.get .empty k) slots
    case abandons =>
      intro good gone
      obtain ⟨m, ran⟩ := keyBusResponse_abandons oldest good gone
      exact ⟨_, ran, fun _ => rfl⟩
  case timeout =>
    intro i rest now s oldest late
    exact ⟨_, importTimeout_refuses oldest late, rfl, fun _ => rfl, rfl⟩
  case written =>
    intro i r s mode shares valid domLt deep _
    obtain ⟨state, domainValid, domain, uses, origin, depth, parent⟩ :=
      importedSlot_fields (s.endImport i true) r domLt valid deep
    have written := State.writeImport_shares (s := s.endImport i true) r mode shares
    rw [written, State.slot_writeSlot]
    exact ⟨_, rfl, by rw [KeySlot.key, BitVec.xor_assoc, BitVec.xor_self, BitVec.xor_zero], state, rfl, rfl, uses,
      origin, parent, depth, domain, domainValid, fun k other => State.slot_writeSlot_other _ other _ _ _⟩

end Sys2Proof.Machine

/-!
PROOFS. The statement on the resets and on Assay (O57).
-/

namespace Sys2Proof.Machine

/-! ### Entry into Lockdown (R251, R432) -/

/-- What stands after the entry into Lockdown from any other mode. -/
theorem State.lockdown_enters {s : State} (runs : s.mode ≠ .lockdown) (cause : Nat) :
    (s.lockdown cause).mode = .lockdown ∧ (s.lockdown cause).cause = BitVec.ofNat 8 cause ∧
      (s.lockdown cause).fuses.root = 0 ∧ (s.lockdown cause).tamperLatch = s.tamperLatch := by
  rw [State.lockdown, if_neg runs]
  exact ⟨rfl, rfl, rfl, rfl⟩

/-! ### Keys that Yarrow writes and derives of itself (R229, R237, R248) -/

/-- What the writing and the derivation of keys alter, and what they leave of the ladder and of the key store. -/
def KeysMade (s t : State) : Prop :=
  Touch [.draws, .slots, .keyCtl, .ladder, .power, .eye] s t ∧ t.ladder.formed = s.ladder.formed ∧
    t.ladder.epoch = s.ladder.epoch ∧ t.keyCtl.seeded = s.keyCtl.seeded

theorem KeysMade.refl (s : State) : KeysMade s s := ⟨Touch.refl _ _, rfl, rfl, rfl⟩

theorem KeysMade.step {s t u : State} (h : KeysMade s t) (k : KeysMade t u) : KeysMade s u := by
  obtain ⟨rest, formed, epoch, seeded⟩ := h
  obtain ⟨rest', formed', epoch', seeded'⟩ := k
  exact ⟨rest.step rest', formed'.trans formed, epoch'.trans epoch, seeded'.trans seeded⟩

theorem KeysMade.foldl {α : Type} {f : State → α → State} (one : ∀ t x, KeysMade t (f t x)) (l : List α) :
    ∀ s, KeysMade s (l.foldl f s) := by
  induction l with
  | nil => exact KeysMade.refl
  | cons x l ih => exact fun s => (one s x).step (ih _)

theorem State.keysMade_writeSlot (s : State) (k : Nat) (key : Key) (attr limit : Word) :
    KeysMade s (s.writeSlot k key attr limit) :=
  ⟨(State.writeSlot_touch _ _ _ _ _ (by decide)).mpr (Touch.refl _ _), rfl, rfl, rfl⟩

theorem State.keysMade_deriveSlot (s : State) (k parent : Nat) (dom : Option Nat) (label : String) (ctx : List Byte)
    (uses origin : Nat) (expire : Bool) (limit : Word) :
    KeysMade s (s.deriveSlot k parent dom label ctx uses origin expire limit) := by
  rcases s.deriveSlot_cases k parent dom label ctx uses origin expire limit with ⟨key, wrote⟩ | ⟨rest, formed, epoch⟩
  · have fetched : Touch [.slots, .power, .eye] s ((s.countUse parent).coreWorks 10) := by
      simp (disch := decide) only [State.coreWorks_touch, State.countUse_touch, Touch.refl]
    have worked : KeysMade s ((s.countUse parent).coreWorks 10) := ⟨fetched.mono (by decide),
      by rw [fetched.ladder (by decide)], by rw [fetched.ladder (by decide)], by rw [fetched.keyCtl (by decide)]⟩
    rw [wrote]
    exact worked.step (State.keysMade_writeSlot ..)
  · exact ⟨rest.mono (by decide), formed, epoch, by rw [rest.keyCtl (by decide)]⟩

theorem State.keysMade_deriveTree (s : State) (ladderSlot sealSlot : Nat) (keys roots : List Nat) (ids : List Word) :
    KeysMade s (s.deriveTree ladderSlot sealSlot keys roots ids) :=
  ((KeysMade.foldl (fun t _ => t.keysMade_deriveSlot ..) keys s).step
    (KeysMade.foldl (fun t _ => t.keysMade_deriveSlot ..) roots _)).step
    (KeysMade.foldl (fun t _ => (t.keysMade_deriveSlot ..).step (State.keysMade_deriveSlot ..)) _ _)

/-- Step 8 has the device identifier. -/
def State.identified (s : State) : State := { s with ladder := { s.ladder with
  deviceId := BitVec.ofNat 128 (bytesToNat ((natToBytes 32 (kdf s.fuses.root "DEVID" []).toNat).take 16))
  ladderBmr := s.bmr, formed := true } }

/-- The fuse root is cleared. -/
def State.rootCleared (s : State) : State := { s with fuses := { s.fuses with root := 0 } }

theorem State.formLadder_eq (s : State) (ids : List Word) :
    ∃ t, KeysMade s.identified t ∧ s.formLadder ids = t.rootCleared.post 469 :=
  ⟨_, (((State.keysMade_writeSlot ..).step (State.keysMade_deriveSlot ..)).step (State.keysMade_deriveSlot ..)).step
    (State.keysMade_deriveTree ..), rfl⟩

/-- The ladder is formed from the fuse root, which is then cleared (R239). -/
theorem State.formLadder_forms (s : State) (ids : List Word) :
    Touch [.draws, .fuses, .slots, .keyCtl, .ladder, .power, .eye] s (s.formLadder ids) ∧
      (s.formLadder ids).ladder.formed = true ∧ (s.formLadder ids).ladder.epoch = s.ladder.epoch ∧
      (s.formLadder ids).keyCtl.seeded = s.keyCtl.seeded ∧ (s.formLadder ids).fuses.root = 0 := by
  obtain ⟨t, ⟨rest, formed, epoch, seeded⟩, made⟩ := s.formLadder_eq ids
  rw [made]
  refine ⟨fun f other => ?_, formed, epoch, seeded, rfl⟩
  have kept := rest f
  cases f
  case draws | fuses | slots | keyCtl | ladder | power | eye => exact absurd other (by decide)
  all_goals exact kept rfl

/-! ### The rest level (R449, R450) -/

/-- The power state is written. -/
theorem State.withPower_rest (s : State) (p : Power) : Touch [.power] s { s with power := p } := by
  intro f other
  cases f
  case power => exact absurd other (by decide)
  all_goals rfl

/-- The rest level and the rest of each block are in the power state; a change of level is an event (R449, R450). -/
theorem State.updateRest_rest (s : State) : Touch [.power, .eye] s s.updateRest := by
  unfold State.updateRest
  dsimp only
  have awake {f : State → Nat → State} (one : ∀ x u, Touch [.power] x (f x u)) :
      Touch [.power, .eye] s ((List.range 12).foldl f s) := (Touch.foldl one _ s).mono (by decide)
  split
  · exact awake fun x u => Touch.ite (x.withPower_rest _) (Touch.refl _ _)
  · rw [State.post_touch _ _ (by decide)]
    exact Touch.step (awake fun x u => Touch.ite (x.withPower_rest _) (Touch.refl _ _))
      ((State.withPower_rest _ _).mono (by decide))

/-! ### Steps 8 to 11 (R239, R416, Table 14.2, Table 14.5) -/

/-- The ticks start, aligned where there is time to align to (R50, R53). -/
def State.ticksStarted (s : State) : State :=
  if s.ticks.valid || s.ticks.hold then s.align
  else { s with ticks := { s.ticks with running := true, keeper := -(s.now : Int) } }

/-- The mode that Assay ends in (Table 14.2). -/
def startingMode (s : State) : Mode :=
  if s.active.isSome && s.img.startMode == 2 && lifecycleServes s then .service else .commission

theorem startingMode_cases (s : State) : startingMode s = .service ∨ startingMode s = .commission :=
  (Decidable.em _).imp (if_pos ·) (if_neg ·)

/-- Assay ends in a mode. -/
def State.assayEnded (s : State) (m : Mode) : State := { s with
  ticks := { s.ticks with lastAt := s.now }
  mode := m, assay := { s.assay with step := 15 }, eReady := true, classifying := true
  power := { s.power with pd1 := true, pd1Since := s.now, clkReq := true } }

theorem State.ticksStarted_rest (s : State) : Touch [.ticks, .eye] s s.ticksStarted := by
  refine Touch.ite ((State.align_touch _ (by decide)).mpr (Touch.refl _ _)) fun f other => ?_
  cases f
  case ticks => exact absurd other (by decide)
  all_goals rfl

theorem State.assayEnded_rest (s : State) (m : Mode) :
    Touch [.ticks, .mode, .assay, .eReady, .classifying, .power] s (s.assayEnded m) := by
  intro f other
  cases f
  case ticks | mode | assay | eReady | classifying | power => exact absurd other (by decide)
  all_goals rfl

/-- Assay ends in Commission or Service, with step 15 done. -/
theorem State.finishAssay_ends (s : State) :
    Touch [.mode, .assay, .power, .ticks, .eReady, .classifying, .ports, .eye] s s.finishAssay ∧
      (s.finishAssay.mode = .service ∨ s.finishAssay.mode = .commission) ∧ s.finishAssay.assay.step = 15 := by
  have eq : s.finishAssay = ((s.ticksStarted.assayEnded (startingMode s)).txRise.post 498).updateRest := rfl
  have last : Touch [.power, .ports, .eye] (s.ticksStarted.assayEnded (startingMode s)) s.finishAssay := by
    rw [eq]
    refine Touch.step ?_ ((State.updateRest_rest _).mono (by decide))
    rw [State.post_touch _ _ (by decide), State.txRise_touch _ (by decide)]
    exact Touch.refl _ _
  refine ⟨?_, ?_, by rw [last.assay (by decide)]; rfl⟩
  · exact ((s.ticksStarted_rest.mono (by decide)).step ((State.assayEnded_rest _ _).mono (by decide))).step
      (last.mono (by decide))
  · rw [last.mode (by decide)]
    exact startingMode_cases s

/-- The digest of the active image goes to the boot measurement register (R427). -/
def State.measured (s : State) : State :=
  match s.active with
  | some a => { s with bmr := Config.bmrExtend s.bmr a.digest, out := { s.out with extend := some a.digest } }
  | none => s

theorem State.measured_rest (s : State) : Touch [.bmr, .out] s s.measured := by
  unfold State.measured
  split
  · intro f other
    cases f
    case bmr | out => exact absurd other (by decide)
    all_goals rfl
  · exact Touch.refl _ _

/-- Assay has an image, or none, whose configuration is to be loaded. -/
def State.assayHas (s : State) (img : ImgCfg) : State := ({ s with img := img }).setStep 8

theorem State.assayLadder_eq (s : State) : ∃ img, s.assayLadder =
    ((((s.assayHas img).formLadder img.memIds).requestReseed true).measured.loadImage img).finishAssay := by
  unfold State.assayLadder
  extract_lets img s1 _ s2
  exact ⟨img, congrArg (fun x : State => (x.loadImage img).finishAssay) (show s2 = s1.measured from rfl)⟩

/-- Assay past its counter forms the ladder and ends. -/
theorem State.assayLadder_ends (s : State) : let t := s.assayLadder
    (t.mode = .service ∨ t.mode = .commission) ∧ t.assay.step = 15 ∧ t.ladder.formed = true ∧
      t.ladder.epoch = s.ladder.epoch ∧ t.nv = s.nv ∧ t.fuses.root = 0 ∧ t.keyCtl.seeded = s.keyCtl.seeded ∧
      t.hostMem = s.hostMem ∧ t.dram = s.dram := by
  obtain ⟨img, eq⟩ := s.assayLadder_eq
  have ⟨rest, formed, epoch, seeded, root⟩ := (s.assayHas img).formLadder_forms img.memIds
  rw [eq]
  generalize (s.assayHas img).formLadder img.memIds = u at rest formed epoch seeded root ⊢
  have ⟨last, mode, step⟩ := ((u.requestReseed true).measured.loadImage img).finishAssay_ends
  have after : Touch [.mode, .assay, .power, .ticks, .eReady, .classifying, .ports, .eye, .bmr, .out, .img, .tcfg,
      .gates, .pebbles, .mem] u ((u.requestReseed true).measured.loadImage img).finishAssay := by
    refine Touch.step ?_ (last.mono (by decide))
    rw [State.loadImage_touch _ _ (by decide)]
    exact Touch.step ((State.requestReseed_touch _ _ (by decide)).mpr (Touch.refl _ _))
      ((State.measured_rest _).mono (by decide))
  refine ⟨mode, step, ?_, ?_, ?_, ?_, ?_, ?_, ?_⟩
  · rw [after.ladder (by decide), formed]
  · rw [after.ladder (by decide), epoch]; rfl
  · rw [after.nv (by decide), rest.nv (by decide)]; rfl
  · rw [after.fuses (by decide), root]
  · rw [after.keyCtl (by decide), seeded]; rfl
  · rw [after.hostMem (by decide), rest.hostMem (by decide)]; rfl
  · rw [after.dram (by decide), rest.dram (by decide)]; rfl

/-- A tamper input rises in step 8, and stops the key operation that it is. -/
def State.tampered8 (s : State) (k : Fin 4) : State :=
  ((({ s with
    tamperLatch := s.tamperLatch ||| BitVec.ofNat 4 (2 ^ k.val)
    tamperLevel := s.tamperLevel ||| BitVec.ofNat 4 (2 ^ k.val) }).setStep 8).post (492 + k.val)).post 468

theorem State.assayTamper_eq (s : State) (k : Fin 4) : s.assayTamper k = (s.tampered8 k).lockdown (1 + k.val) := rfl

/-- A tamper input in step 8 is latched, and leads to Lockdown with its cause (R257, R431). -/
theorem State.assayTamper_locks {s : State} (runs : s.mode ≠ .lockdown) (k : Fin 4) :
    (s.assayTamper k).mode = .lockdown ∧ (s.assayTamper k).cause = BitVec.ofNat 8 (1 + k.val) ∧
      bit (s.assayTamper k).tamperLatch k.val = true := by
  have latch : bit (s.tamperLatch ||| BitVec.ofNat 4 (2 ^ k.val)) k.val = true := by
    have own : ∀ j : Fin 4, bit (BitVec.ofNat 4 (2 ^ j.val)) j.val = true := by decide
    rw [bit_or, own k, Bool.or_true]
  obtain ⟨mode, cause, -, kept⟩ := State.lockdown_enters (s := s.tampered8 k) runs (1 + k.val)
  exact ⟨mode, cause, by rw [s.assayTamper_eq, kept]; exact latch⟩

/-! ### Step 7 (R418) -/

/-- The store has advanced the counter, whose value is the new epoch. -/
def State.advanced (s : State) (value : Word) : State := { s with
  nv := { s.nv with counter := value }, ladder := { s.ladder with epoch := value }
  assay := { s.assay with retry := false } }

/-- The advance has failed, and is tried again. -/
def State.retrying (s : State) : State :=
  ({ s with assay := { s.assay with step := 7, retry := true, retryFrom := s.now } }).post 498

section Counter

variable {s : State} {ok : Bool} {value : Word}

section Advances

variable (good : ok = true) (larger : s.nv.counter.toNat < value.toNat)
include good larger

theorem State.assayCounter_advances : s.assayCounter ok value none = (s.advanced value).assayLadder := by
  rw [State.assayCounter, if_pos (by simp [counterGood, good, larger])]
  rfl

theorem State.assayCounter_tampered (k : Fin 4) :
    s.assayCounter ok value (some k) = (s.advanced value).assayTamper k := by
  rw [State.assayCounter, if_pos (by simp [counterGood, good, larger])]
  rfl

end Advances

theorem State.assayCounter_retries (refused : ok = false ∨ value.toNat ≤ s.nv.counter.toNat)
    (tamper : Option (Fin 4)) : s.assayCounter ok value tamper = s.retrying := by
  rw [State.assayCounter, if_neg]
  · rfl
  · rcases refused with rfl | small
    · simp [counterGood]
    · simp [counterGood, Nat.not_lt.mpr small]

end Counter

/-! ### Steps 5 and 6 (R253, R423, Table 14.4) -/

/-- Step 5 seeds the key store. -/
theorem State.assaySeed_seeds (s : State) : Touch [.draws, .keyCtl, .eye, .out] s s.assaySeed ∧
    s.assaySeed.keyCtl.seeded = true :=
  ⟨(State.assaySeed_touch _ (by decide)).mpr (Touch.refl _ _), rfl⟩

theorem State.assayChoose_decommissioned {s : State} (ended : 3 ≤ s.fuses.lifecycle.toNat) :
    s.assayChoose = (s.setStep 5).assaySeed.rootCleared.lockdown 9 := by
  obtain ⟨rest, -⟩ := (s.setStep 5).assaySeed_seeds
  have gone : decommissioned (s.setStep 5).assaySeed = true := by
    rw [decommissioned, rest.fuses (by decide)]
    exact decide_eq_true ended
  rw [State.assayChoose, if_pos gone]
  rfl

theorem State.assayChoose_goes_on {s : State} (serves : s.fuses.lifecycle.toNat < 3) :
    Touch [.draws, .keyCtl, .eye, .out, .assay, .active] s s.assayChoose ∧ s.assayChoose.keyCtl.seeded = true := by
  obtain ⟨rest, seeded⟩ := (s.setStep 5).assaySeed_seeds
  have lives : decommissioned (s.setStep 5).assaySeed = false := by
    rw [decommissioned, rest.fuses (by decide)]
    exact decide_eq_false (Nat.not_le.mpr serves)
  have chosen : s.assayChoose = (s.setStep 5).assaySeed.assayImage.setStep 7 := by
    rw [State.assayChoose, if_neg (ne_true_of_eq_false lives)]
  have after : Touch [.assay, .active, .eye] (s.setStep 5).assaySeed s.assayChoose := by
    rw [chosen, State.setStep_touch _ _ (by decide), State.assayImage_touch _ (by decide)]
    exact Touch.refl _ _
  refine ⟨?_, by rw [after.keyCtl (by decide), seeded]⟩
  refine Touch.step ?_ (after.mono (by decide))
  rw [State.assaySeed_touch _ (by decide), State.setStep_touch _ _ (by decide)]
  exact Touch.refl _ _

/-! ### Steps 4 to 7 (R38, R416) -/

/-- The health failure is flagged. -/
def State.unhealthy (s : State) : State := { s with ent := { s.ent with fail := true, failAt := s.now, buffered := 0 } }

theorem State.unhealthy_rest (s : State) : Touch [.ent, .eye] s s.unhealthy := by
  intro f other
  cases f
  case ent => exact absurd other (by decide)
  all_goals rfl

section Entropy

variable {s : State} (ok : Bool) (value : Word) (tamper : Option (Fin 4)) (usable : entropyUsable s = true)

theorem State.assayEntropy_waits (unusable : entropyUsable s = false) :
    s.assayEntropy ok value tamper = s.setStep 4 := by
  simp only [State.assayEntropy, unusable, Bool.not_false, if_true]

theorem State.assayHealth_waits (unusable : entropyUsable s = false) : s.assayHealth = s.setStep 4 := by
  simp only [State.assayHealth, unusable, Bool.not_false, if_true]

include usable

/-- A health failure in step 5 takes Assay back to step 4 (R38, R254). -/
theorem State.assayHealth_fails : Touch [.ent, .eye, .assay] s s.assayHealth ∧
    s.assayHealth.ent = { s.ent with fail := true, failAt := s.now, buffered := 0 } ∧
      s.assayHealth.assay = { s.assay with step := 4 } := by
  have eq : s.assayHealth = (s.unhealthy.setLevel 487 true).setStep 4 := by
    simp only [State.assayHealth, usable, Bool.not_true, Bool.false_eq_true, if_false]
    rfl
  have level : Touch [.eye] s.unhealthy (s.unhealthy.setLevel 487 true) :=
    (State.setLevel_touch _ _ _ (by decide)).mpr (Touch.refl _ _)
  rw [eq]
  refine ⟨(State.setStep_touch _ _ (by decide)).mpr ((s.unhealthy_rest.step (level.mono (by decide))).mono (by decide)),
    level.ent (by decide), ?_⟩
  rw [State.setStep, level.assay (by decide)]
  rfl

theorem State.assayEntropy_decommissioned (runs : s.mode ≠ .lockdown) (ended : 3 ≤ s.fuses.lifecycle.toNat) :
    s.assayEntropy ok value tamper = (s.setStep 5).assaySeed.rootCleared.lockdown 9 := by
  have chosen := State.assayChoose_decommissioned ended
  have locked : (s.assayChoose.mode == .lockdown) = true := by
    obtain ⟨mode, -⟩ := State.lockdown_enters (s := (s.setStep 5).assaySeed.rootCleared) runs 9
    rw [chosen, mode]
    rfl
  simp only [State.assayEntropy, usable, locked, Bool.not_true, Bool.false_eq_true, if_false, if_true]
  exact chosen

theorem State.assayEntropy_counts (runs : s.mode ≠ .lockdown) (serves : s.fuses.lifecycle.toNat < 3) :
    s.assayEntropy ok value tamper = s.assayChoose.assayCounter ok value tamper := by
  obtain ⟨rest, -⟩ := State.assayChoose_goes_on serves
  have goesOn : (s.assayChoose.mode == .lockdown) = false := by
    rw [rest.mode (by decide)]
    exact beq_eq_false_iff_ne.mpr runs
  simp only [State.assayEntropy, usable, goesOn, Bool.not_true, Bool.false_eq_true, if_false]

end Entropy

/-! ### From the release of a reset (R416, R431, Table 14.5) -/

/-- Step 1 has sampled the tamper inputs. -/
def State.sampled (s : State) (tamper : BitVec 4) : State :=
  ({ s with tamperLevel := tamper, power := { s.power with clkReq := true } }).setStep 1

/-- Step 3 has the fuses. -/
def State.fused (s : State) (i : AssayIn) : State :=
  ({ s.sampled i.tamper with
    fuses := ⟨i.root, i.lifecycle, i.ownerDigest, i.rollbackFloor, i.entropyWait, i.debugLock⟩ }).setStep 3

/-- Step 4 begins. -/
def State.tested (s : State) (i : AssayIn) : State :=
  { s.fused i with assay := { (s.fused i).assay with waitFrom := s.now } }

section Release

variable {s : State} {i : AssayIn} (now : Nat) (held : s.mode = .assay) (start : s.assay.step = 0)
include held start

theorem assay_begins : ((s.atTime now).mode != .assay || (s.atTime now).assay.step != 0) = false := by
  simp [State.atTime, held, start]

theorem assay_tampered {k : Nat} (inputs : k < 4) (high : bit i.tamper k = true)
    (lowest : ∀ j, j < k → bit i.tamper j = false) :
    exec (.assay i now) s = .next (((s.atTime now).sampled i.tamper).lockdown (1 + k)) := by
  have found : (List.range 4).find? (fun j => bit i.tamper j) = some k :=
    List.find?_range_eq_some.mpr ⟨high, List.mem_range.mpr inputs, fun j less => by simp [lowest j less]⟩
  unfold exec execAssay
  simp only [assay_begins now held start, found, Bool.false_eq_true, if_false]
  rfl

variable (quiet : i.tamper = 0)
include quiet

theorem assay_untampered : exec (.assay i now) s =
    if !i.katPass then .next (((s.atTime now).fused i).lockdown 6)
    else .next (if i.healthFails then ((s.atTime now).tested i).assayHealth
      else ((s.atTime now).tested i).assayEntropy i.counterOk i.counterValue i.tamper8) := by
  have low : (List.range 4).find? (fun j => bit i.tamper j) = none := by
    rw [quiet]
    rfl
  unfold exec execAssay
  simp only [assay_begins now held start, low, Bool.false_eq_true, if_false]
  rfl

variable (pass : i.katPass = true)
include pass

theorem assay_healthy (healthy : i.healthFails = false) : exec (.assay i now) s =
    .next (((s.atTime now).tested i).assayEntropy i.counterOk i.counterValue i.tamper8) := by
  simp only [assay_untampered now held start quiet, pass, healthy, Bool.not_true, Bool.false_eq_true, if_false]

theorem assay_unhealthy (fails : i.healthFails = true) : exec (.assay i now) s =
    .next ((s.atTime now).tested i).assayHealth := by
  simp only [assay_untampered now held start quiet, pass, fails, Bool.not_true, Bool.false_eq_true, if_false, if_true]

end Release

/-- The row that asks for the counter again runs step 7, at once the first time and then after 10 ms. -/
theorem counterAdvanceRetry_counts {s : State} {now : Nat} (ok : Bool) (value : Word) (held : s.mode = .assay)
    (waits : s.assay.step = 7) (due : s.assay.retry = false ∨ s.assay.retryFrom + 10000000 ≤ max s.now now) :
    exec (.counterAdvanceRetry now ok value) s = .next ((s.atTime now).assayCounter ok value none) := by
  have runs : ((s.atTime now).mode == .assay && (s.atTime now).assay.step == 7 && (!(s.atTime now).assay.retry ||
      decide ((s.atTime now).assay.retryFrom + 10000000 ≤ (s.atTime now).now))) = true := by
    rcases due with first | late
    · simp [State.atTime, held, waits, first]
    · simp [State.atTime, held, waits, late]
  rw [exec, execCounterAdvanceRetry]
  exact if_pos runs

/-- What Assay keeps while a step has still to come. -/
theorem State.retrying_waits (s : State) : s.retrying.mode = s.mode ∧ s.retrying.assay.step = 7 ∧
    s.retrying.assay.retry = true ∧ s.retrying.assay.retryFrom = s.now ∧ s.retrying.nv = s.nv ∧
    s.retrying.slots = s.slots ∧ s.retrying.hostMem = s.hostMem ∧ s.retrying.dram = s.dram :=
  ⟨rfl, rfl, rfl, rfl, rfl, rfl, rfl, rfl⟩

/-- Settles O57: each reset by the literal state that it leaves; Assay step by step, one lemma for each way in which a
step ends it, has it wait or lets it go on; the retry by step 7 alone. -/
theorem startupRowsAct : Obligations.StartupRowsAct := by
  unfold Obligations.StartupRowsAct
  refine ⟨?resets, ?assay, ?retry⟩
  case resets =>
    intro now s
    refine ⟨_, _, rfl, rfl, rfl, rfl, rfl, rfl, ?_⟩
    rintro t (rfl | rfl)
    · exact ⟨rfl, rfl, rfl, rfl, fun _ => rfl, fun _ => rfl, rfl, rfl, rfl, rfl, rfl, rfl, rfl, rfl⟩
    · exact ⟨rfl, rfl, rfl, rfl, fun _ => rfl, fun _ => rfl, rfl, rfl, rfl, rfl, rfl, rfl, rfl, rfl⟩
  case assay =>
    intro i now s held start
    have runs : s.mode ≠ .lockdown := by rw [held]; decide
    refine ⟨?tampered, ?kat, ?waits, ?unhealthy, ?ended, ?counter⟩
    case tampered =>
      intro k inputs high lowest
      obtain ⟨mode, cause, -⟩ := State.lockdown_enters (s := (s.atTime now).sampled i.tamper) runs (1 + k)
      exact ⟨_, assay_tampered now held start inputs high lowest, mode, cause⟩
    case kat =>
      intro quiet fails
      obtain ⟨mode, cause, root, -⟩ := State.lockdown_enters (s := (s.atTime now).fused i) runs 6
      exact ⟨_, by rw [assay_untampered now held start quiet, fails]; rfl, mode, cause, root⟩
    case waits =>
      intro quiet pass unusable
      have ran : exec (.assay i now) s = .next (((s.atTime now).tested i).setStep 4) := by
        cases fails : i.healthFails with
        | true => rw [assay_unhealthy now held start quiet pass fails,
            State.assayHealth_waits (s := (s.atTime now).tested i) unusable]
        | false => rw [assay_healthy now held start quiet pass fails,
            State.assayEntropy_waits (s := (s.atTime now).tested i) _ _ _ unusable]
      exact ⟨_, ran, held, rfl, rfl, rfl, rfl⟩
    case unhealthy =>
      intro quiet pass fails usable
      obtain ⟨rest, ent, assay⟩ := State.assayHealth_fails (s := (s.atTime now).tested i) usable
      exact ⟨_, assay_unhealthy now held start quiet pass fails, (rest.mode (by decide)).trans held,
        congrArg AssayState.step assay, congrArg AssayState.waitFrom assay, ent, rest.slots (by decide)⟩
    case ended =>
      intro quiet pass healthy usable ended
      have ran := assay_healthy now held start quiet pass healthy
      rw [State.assayEntropy_decommissioned (s := (s.atTime now).tested i) _ _ _ usable runs ended] at ran
      obtain ⟨mode, cause, root, -⟩ := State.lockdown_enters
        (s := (((s.atTime now).tested i).setStep 5).assaySeed.rootCleared) runs 9
      exact ⟨_, ran, mode, cause, root⟩
    case counter =>
      intro quiet pass healthy usable serves
      have ran := assay_healthy now held start quiet pass healthy
      rw [State.assayEntropy_counts (s := (s.atTime now).tested i) _ _ _ usable runs serves] at ran
      obtain ⟨rest, seeded⟩ := State.assayChoose_goes_on (s := (s.atTime now).tested i) serves
      generalize ((s.atTime now).tested i).assayChoose = u at ran rest seeded
      have store : u.nv = s.nv := rest.nv (by decide)
      have mode : u.mode = s.mode := rest.mode (by decide)
      have clock : u.now = max s.now now := rest.now (by decide)
      have host : u.hostMem = s.hostMem := rest.hostMem (by decide)
      have dram : u.dram = s.dram := rest.dram (by decide)
      rw [← store]
      refine ⟨fun k input good larger => ?_, fun input good larger => ?_, fun refused => ?_⟩
      · rw [input, State.assayCounter_tampered good larger] at ran
        exact ⟨_, ran, State.assayTamper_locks (s := u.advanced i.counterValue) (mode ▸ runs) k⟩
      · rw [input, State.assayCounter_advances good larger] at ran
        obtain ⟨ends, step, formed, epoch, nv, root, seeds, sameHost, sameDram⟩ :=
          (u.advanced i.counterValue).assayLadder_ends
        exact ⟨_, ran, ends, step, formed, epoch, congrArg NvStore.counter nv, root, seeds.trans seeded,
          sameHost.trans host, sameDram.trans dram⟩
      · rw [State.assayCounter_retries refused] at ran
        obtain ⟨waits, step, retry, since, nv, -, sameHost, sameDram⟩ := u.retrying_waits
        exact ⟨_, ran, waits.trans (mode.trans held), step, retry, since.trans clock, nv, sameHost.trans host,
          sameDram.trans dram⟩
  case retry =>
    intro now ok value s held waits due
    have ran := counterAdvanceRetry_counts ok value held waits due
    refine ⟨fun good larger => ?_, fun refused => ?_⟩
    · rw [State.assayCounter_advances (s := s.atTime now) good larger] at ran
      obtain ⟨mode, step, -, epoch, nv, root, -⟩ := ((s.atTime now).advanced value).assayLadder_ends
      exact ⟨_, ran, mode, step, epoch, congrArg NvStore.counter nv, root⟩
    · rw [State.assayCounter_retries (s := s.atTime now) refused] at ran
      obtain ⟨mode, step, -, since, nv, slots, -⟩ := (s.atTime now).retrying_waits
      exact ⟨_, ran, mode.trans held, step, since, nv, slots⟩

end Sys2Proof.Machine

/-!
PROOFS. The statement on the retention restart and on Dormant (O58).
-/

namespace Sys2Proof.Machine

/-! ### The slots at the release of a retention restart (R235, R429) -/

/-- The scrub of a slot takes every entry of its number out of the store's table. -/
theorem State.slots_scrub (s : State) (k : Nat) : (s.scrub k).slots = Table.erase k s.slots := by
  unfold State.scrub
  split <;> simp only [State.setSlot, Table.put, if_true] <;> rfl

theorem State.slots_foldl_scrub (l : List Nat) : ∀ s : State,
    (l.foldl State.scrub s).slots = l.foldl (fun m k => Table.erase k m) s.slots := by
  induction l with
  | nil => exact fun _ => rfl
  | cons k l ih => exact fun s => (ih _).trans (by rw [s.slots_scrub]; rfl)

/-- The numbers of the entries that expire at a reset. -/
def expiring (m : Table KeySlot) : List Nat := (m.filter (fun e => e.2.expire && !e.2.empty_)).map (·.1)

theorem State.slots_scrubExpired (s : State) :
    s.scrubExpired.slots = (expiring s.slots).foldl (fun m k => Table.erase k m) s.slots :=
  State.slots_foldl_scrub _ s

/-- The registers as the release of a held restart finds them reset (R429, R480). -/
def State.restartedRegisters (s : State) : State :=
  let s1 := ((s.resetRegisters.restartPower.emptyCaches).setLevel 486 s.ent.ready).setLevel 487 s.ent.fail
  { s1.setLevel 496 s.ticks.valid with retention := none }

/-- What a restart keeps of keys, memory and chains (R207, R235, R291). -/
def State.restartSurvivors (s : State) : State :=
  (if s.scrubExpired.mem.clean then s.scrubExpired else s.scrubExpired.poisonAllSpaces).surviveChains

/-- The same with its generators reseeded, or to be so once entropy is usable (R430). -/
def State.restartedStore (s : State) : State :=
  if entropyUsable s.restartSurvivors then s.restartSurvivors.reseedGenerators
  else { s.restartSurvivors with ent := { s.restartSurvivors.ent with reseedWait := true } }

theorem State.restartedRegisters_slots (s : State) : s.restartedRegisters.slots = s.slots := by
  have rest : Touch [.ovr, .mail, .ports, .pairs, .noticeLog, .gates, .mem, .eye, .bus, .power] s
      (((s.resetRegisters.restartPower.emptyCaches).setLevel 486 s.ent.ready).setLevel 487 s.ent.fail |>.setLevel 496
        s.ticks.valid) := by
    simp (disch := decide) only [State.setLevel_touch, State.emptyCaches_touch, State.restartPower_touch,
      State.resetRegisters_touch, Touch.refl]
  exact rest.slots (by decide)

theorem State.restartSurvivors_slots (s : State) : s.restartSurvivors.slots = s.scrubExpired.slots := by
  have rest : Touch [.mem, .pubs, .vers, .bw] s.scrubExpired s.restartSurvivors := by
    rw [State.restartSurvivors, State.surviveChains_touch _ (by decide)]
    split
    · exact Touch.refl _ _
    · exact (State.poisonAllSpaces_touch _ (by decide)).mpr (Touch.refl _ _)
  exact rest.slots (by decide)

theorem State.restartedStore_slots (s : State) : s.restartedStore.slots = s.scrubExpired.slots := by
  rw [← s.restartSurvivors_slots, State.restartedStore]
  split
  · exact State.posts_slots ..
  · rfl

/-- The release of a restart that is held, its tests good. -/
theorem retentionRestartRelease_good {s : State} {r : Retention} (asked : s.retention = some r) (ack : r.ack = true)
    (runs : s.mode ≠ .lockdown) : exec (.retentionRestartRelease true) s = .next
      (if r.former == .dormant then s.restartedRegisters.restartedStore
       else s.restartedRegisters.restartedStore.resume.updateRest) := by
  have isHeld : restartHeld s = true := by simp [restartHeld, asked, ack]
  have done : s.holdRestart r = s := by simp [State.holdRestart, ack]
  have mode : (s.mode == Mode.lockdown) = false := beq_eq_false_iff_ne.mpr runs
  unfold exec execRetentionRestartRelease
  rw [asked]
  dsimp only
  rw [isHeld, done, mode]
  rfl

/-- That release takes the entries of expiring numbers out of the store. -/
theorem retentionRestartRelease_slots {s : State} {r : Retention} (asked : s.retention = some r) (ack : r.ack = true)
    (runs : s.mode ≠ .lockdown) : ∃ t, exec (.retentionRestartRelease true) s = .next t ∧
      t.slots = (expiring s.slots).foldl (fun m k => Table.erase k m) s.slots := by
  refine ⟨_, retentionRestartRelease_good asked ack runs, ?_⟩
  have store : s.restartedRegisters.restartedStore.slots =
      (expiring s.slots).foldl (fun m k => Table.erase k m) s.slots := by
    rw [State.restartedStore_slots, State.slots_scrubExpired, State.restartedRegisters_slots]
  split
  · exact store
  · have awake : Touch [.power, .eReady, .classifying, .ports, .eye] s.restartedRegisters.restartedStore
        s.restartedRegisters.restartedStore.resume.updateRest :=
      Touch.step ((State.resume_touch _ (by decide)).mpr (Touch.refl _ _)) ((State.updateRest_rest _).mono (by decide))
    rw [awake.slots (by decide), store]

/-! ### A slot that the table lists twice -/

/-- A restart that is held in Service, over a store whose table lists slot 9 twice, and so is not in the canonical form:
as an imported key that outlives a reset, which is what the slot reads as, and behind it as one that expires. -/
def heldOverTwice : State := { State.reset with
  mode := .service
  retention := some ⟨.service, true⟩
  slots := [(9, ⟨5, 0, attrWord 1 false (some 3) 64 2 1 (slotDomain 3), 0, 100, none⟩),
    (9, ⟨6, 0, attrWord 1 true (some 3) 64 2 1 (slotDomain 3), 0, 100, none⟩)] }

theorem heldOverTwice_reads : (heldOverTwice.slot 9).expire = false ∧ (heldOverTwice.slot 9).empty_ = false := by decide

theorem heldOverTwice_expiring : (expiring heldOverTwice.slots).foldl (fun m k => Table.erase k m)
    heldOverTwice.slots = [] := by decide

/-- Refutes O58: the statement is of every state, also of one whose store lists a slot twice. The release looks for the
slots that expire among the entries, and scrubs slot 9 for the entry behind the one that it reads as, though that one
does not expire. -/
theorem not_restartAndDormantRowsAct : ¬ Obligations.RestartAndDormantRowsAct := by
  unfold Obligations.RestartAndDormantRowsAct
  rintro ⟨-, -, -, -, -, release, -⟩
  obtain ⟨-, t, ran, -, -, -, kept, -⟩ := release heldOverTwice _ rfl rfl (by decide)
  obtain ⟨outlives, stands⟩ := heldOverTwice_reads
  obtain ⟨u, ran', slots⟩ := retentionRestartRelease_slots (s := heldOverTwice) rfl rfl (by decide)
  cases ran.symm.trans ran'
  have emptied : (t.slot 9).empty_ = true := by rw [State.slot, slots, heldOverTwice_expiring]; rfl
  rw [kept 9 outlives, stands] at emptied
  exact Bool.false_ne_true emptied

end Sys2Proof.Machine

/-!
PROOFS. The statement on Teasel's memory plane (O55).
-/

namespace Sys2Proof.Machine

/-! ### The parts of the memory plane that outcomes and tags leave (R272, R278, R490) -/

/-- The memory plane but for its tag cache and its fault log. -/
def MemPlane.bare (m : MemPlane) : MemPlane :=
  { m with tcache := [], log := [], newest := 0, present := false, lost := 0, unread := 0, frozen := false }

/-- Planes that agree but for those parts agree on every reading that does not look at them. -/
theorem MemPlane.read_of_bare {β : Type} {m n : MemPlane} (same : m.bare = n.bare) (f : MemPlane → β)
    (blind : ∀ p, f p.bare = f p := by intro; rfl) : f m = f n :=
  (blind m).symm.trans ((congrArg f same).trans (blind n))

theorem State.memOutcome_bare (s : State) (x : MemFault) : (s.memOutcome x).mem.bare = s.mem.bare := by
  have logged : (s.memLog x).mem.bare = s.mem.bare := by
    unfold State.memLog
    dsimp only
    split
    · rfl
    · split <;> rfl
  unfold State.memOutcome
  split
  · exact logged
  · exact logged

theorem State.putTagLine_bare (s : State) (a : Nat) (bytes : List Byte) (dirty : Bool) :
    (s.putTagLine a bytes dirty).mem.bare = s.mem.bare := by
  unfold State.putTagLine State.trimTags
  dsimp only
  split
  · rfl
  · split
    · split <;> rfl
    · rfl

theorem State.eccSeen_mem (s : State) (e : Ecc) : (s.eccSeen e).mem = s.mem := State.postIf_mem ..

theorem State.tagLine_bare (s : State) (lines : List DramLine) (a : Nat) :
    (s.tagLine lines a).2.mem.bare = s.mem.bare := by
  unfold State.tagLine
  split
  · exact State.putTagLine_bare ..
  · dsimp only
    split
    · rw [State.eccSeen_mem, State.post_mem]
    · rw [State.putTagLine_bare, State.eccSeen_mem, State.post_mem]

theorem State.writeTag_bare (s : State) (lines : List DramLine) (i port a : Nat) (tag : List Byte)
    (engine seen : Bool) : (s.writeTag lines i port a tag engine seen).mem.bare = s.mem.bare := by
  have found := s.tagLine_bare lines (lineOf a)
  have ready (b : List Byte) : (if seen then s.putTagLine (lineOf a) b false
      else (s.tagLine lines (lineOf a)).2).mem.bare = s.mem.bare := by
    split
    · exact State.putTagLine_bare ..
    · exact found
  unfold State.writeTag
  dsimp only
  split
  · exact (State.memOutcome_bare ..).trans (ready _)
  · exact (State.putTagLine_bare ..).trans (ready _)

/-- What SECDED finds on chip is no reply (R290). -/
theorem State.chipErrors_replies (s : State) (es : List ChipError) :
    (s.chipErrors es).mem.replies = s.mem.replies := by
  have spoiled (u : State) (i a level : Nat) : (u.poisonSpace i a level).mem.replies = u.mem.replies :=
    (MemPlane.read_of_bare (State.memOutcome_bare _ _) MemPlane.replies).trans rfl
  have one (u : State) (e : ChipError) : (u.chipError e).mem.replies = u.mem.replies := by
    cases e with
    | top i c =>
      simp only [State.chipError]
      split
      · rfl
      · split
        · exact spoiled ..
        · rfl
    | node i level j c =>
      simp only [State.chipError]
      split
      · rfl
      · split
        · rfl
        · split
          · exact spoiled ..
          · rfl
    | tag a c =>
      simp only [State.chipError]
      split
      · rfl
      · split
        · rfl
        · split
          · split
            · exact spoiled ..
            · rfl
          · rfl
  induction es generalizing s with
  | nil => rfl
  | cons e es ih => exact (ih (s.chipError e)).trans (one s e)

theorem State.replies_cleared (s : State) (es : List ChipError) :
    (s.clearReplies.chipErrors es).mem.replies = [] := State.chipErrors_replies ..

/-! ### The key that a slice has (R229, R285) -/

/-- The key that slice sl serves identifier i with: its own, or what a fetch of each part gives. -/
def servedKey (s : State) (sl : Nat) (badA badB : Bool) (i : Nat) : Option MemKey :=
  if (heldKey s sl).id = i && i != 0 then some ⟨(heldKey s sl).a.whole, (heldKey s sl).b.whole⟩
  else match fetchJudge (s.slot (slotMemA i)) useMemory (badA && (s.slot (slotMemA i)).digestRef.isNone) with
    | .ok x => match fetchJudge (s.slot (slotMemB i)) useMemory (badB && (s.slot (slotMemB i)).digestRef.isNone) with
      | .ok y => some ⟨x.whole, y.whole⟩
      | _ => none
    | _ => none

theorem State.fetch_fst (s : State) (u k use : Nat) (bad : Bool) :
    (s.fetch u k use bad).1 = fetchJudge (s.slot k) use (bad && (s.slot k).digestRef.isNone) := by
  unfold State.fetch
  dsimp only
  split <;> rfl

theorem State.withLadder_rest (s : State) (l : Ladder) : Touch [.ladder] s { s with ladder := l } := by
  intro f other
  cases f
  case ladder => exact absurd other (by decide)
  all_goals rfl

/-- A failed check of a slot that Lockdown does not hang on invalidates the slot (R247). -/
theorem State.cellFault_rest (s : State) {k : Nat} (device : k ≠ slotDevice) (sealing : k ≠ slotSeal) :
    Touch [.ladder, .slots, .keyCtl, .eye] s (s.cellFault k) := by
  have spared : ¬ (decide (k = slotDevice) || decide (k = slotSeal)) = true := by simp [device, sealing]
  have posted : Touch [.ladder, .slots, .keyCtl, .eye] s ((s.invalidate k).post 464) := by
    simp (disch := decide) only [State.post_touch, State.invalidate_touch, Touch.refl]
  unfold State.cellFault
  dsimp only
  rw [if_neg spared]
  exact posted.step ((State.withLadder_rest _ _).mono (by decide))

/-- A fetch of such a slot alters slots, the count of refusals, and events (R229). -/
theorem State.fetch_rest (s : State) (u use : Nat) (bad : Bool) {k : Nat} (device : k ≠ slotDevice)
    (sealing : k ≠ slotSeal) : Touch [.ladder, .slots, .keyCtl, .eye] s (s.fetch u k use bad).2 := by
  have posted : Touch [.ladder, .slots, .keyCtl, .eye] s ((s.post (fetchFailEvent u)).post 462) := by
    simp (disch := decide) only [State.post_touch, Touch.refl]
  have counted (l : Ladder) := posted.step ((State.withLadder_rest _ l).mono (by decide))
  unfold State.fetch
  dsimp only
  split
  · simp (disch := decide) only [State.setSlot_touch, Touch.refl]
  · simp (disch := decide) only [State.limitMet_touch, Touch.refl]
  · dsimp only
    split
    · exact (counted _).step (State.cellFault_rest _ device sealing)
    · exact counted _

/-- The slots of the memory keys stand above those that Lockdown hangs on (Table 8.1). -/
theorem State.fetchMemory_rest (s : State) (u use : Nat) (bad : Bool) {k : Nat} (memory : slotMemA 0 ≤ k) :
    Touch [.ladder, .slots, .keyCtl, .eye] s (s.fetch u k use bad).2 := by
  unfold slotMemA at memory
  exact s.fetch_rest u use bad (by unfold slotDevice; omega) (by unfold slotSeal; omega)

theorem State.withMem_rest (s : State) (m : MemPlane) : Touch [.mem] s { s with mem := m } := by
  intro f other
  cases f
  case mem => exact absurd other (by decide)
  all_goals rfl

/-- The states agree outside L, and their memory planes but for the keys that slices hold. -/
structure Keyed (L : List Fld) (s t : State) : Prop where
  rest : Touch L s t
  mem : t.mem = { s.mem with keys := t.mem.keys }

theorem Keyed.step {L : List Fld} {s t u : State} (h : Keyed L s t) (k : Keyed L t u) : Keyed L s u := by
  refine ⟨h.rest.step k.rest, ?_⟩
  rw [k.mem, h.mem]

theorem Keyed.mono {A L : List Fld} {s t : State} (h : Keyed A s t) (w : within A L = true) : Keyed L s t :=
  ⟨h.rest.mono w, h.mem⟩

theorem Keyed.of_touch {A L : List Fld} {s t : State} (h : Touch A s t) (w : within A L = true)
    (apart : A.contains .mem = false) : Keyed L s t := by
  refine ⟨h.mono w, ?_⟩
  rw [h.mem apart]

theorem Keyed.withKeys {L : List Fld} (s : State) (k : Table SliceKey) (w : within [.mem] L = true) :
    Keyed L s { s with mem := { s.mem with keys := k } } := ⟨(s.withMem_rest _).mono w, rfl⟩

theorem Keyed.countUse {L : List Fld} (s : State) (k : Nat) (w : within [.slots] L = true) :
    Keyed L s (s.countUse k) :=
  .of_touch (A := [.slots]) ((State.countUse_touch _ _ (by decide)).mpr (Touch.refl _ _)) w (by decide)

theorem Keyed.postIf {L : List Fld} (s : State) (c : Bool) (n : Nat) (w : within [.eye] L = true) :
    Keyed L s (s.postIf c n) :=
  .of_touch (A := [.eye]) ((State.postIf_touch _ _ _ (by decide)).mpr (Touch.refl _ _)) w (by decide)

theorem State.fetch_eq (s : State) (u k use : Nat) (bad : Bool) : s.fetch u k use bad =
    (fetchJudge (s.slot k) use (bad && (s.slot k).digestRef.isNone), (s.fetch u k use bad).2) :=
  Prod.ext (s.fetch_fst u k use bad) rfl

/-- How the search ends: with the key that serves, its slots' uses counted where they were fetched. -/
theorem State.sliceKey_ends (s : State) (sl : Nat) (badA badB : Bool) (i : Nat) :
    (s.sliceKey sl badA badB i).1 = servedKey s sl badA badB i ∧
      Keyed [.ladder, .slots, .keyCtl, .mem, .eye] s (s.sliceKey sl badA badB i).2 ∧
      (servedKey s sl badA badB i ≠ none → Keyed [.slots, .mem, .eye] s (s.sliceKey sl badA badB i).2) := by
  have sought (u : State) (k : Nat) (bad : Bool) (memory : slotMemA 0 ≤ k) :
      Keyed [.ladder, .slots, .keyCtl, .mem, .eye] u (u.fetch (6 + sl) k useMemory bad).2 :=
    .of_touch (u.fetchMemory_rest _ _ _ memory) (by decide) (by decide)
  have apart : slotMemB i ≠ slotMemA i := by unfold slotMemA slotMemB; omega
  have emptied := Keyed.withKeys (L := [.slots, .mem, .eye]) s (Table.put .none sl .none s.mem.keys) (by decide)
  unfold State.sliceKey servedKey
  dsimp only
  split
  · exact ⟨rfl, ⟨Touch.refl _ _, rfl⟩, fun _ => ⟨Touch.refl _ _, rfl⟩⟩
  · generalize made : ({ s with mem := { s.mem with keys := Table.put .none sl .none s.mem.keys } } : State) = s0
      at emptied ⊢
    have slots (k : Nat) : s0.slot k = s.slot k := by rw [← made]; rfl
    cases judgedA : fetchJudge (s.slot (slotMemA i)) useMemory (badA && (s.slot (slotMemA i)).digestRef.isNone) with
    | ok x =>
      rw [State.fetch_ok (6 + sl) (by rw [slots]; exact judgedA)]
      have begun := emptied.step (.countUse _ (slotMemA i) (by decide))
      have slotB : (s0.countUse (slotMemA i)).slot (slotMemB i) = s.slot (slotMemB i) :=
        (State.slot_setSlot_other _ apart _).trans (slots _)
      dsimp only
      cases judgedB : fetchJudge (s.slot (slotMemB i)) useMemory (badB && (s.slot (slotMemB i)).digestRef.isNone) with
      | ok y =>
        rw [State.fetch_ok (6 + sl) (by rw [slotB]; exact judgedB)]
        suffices stored : Keyed [.slots, .mem, .eye] s _ from ⟨rfl, stored.mono (by decide), fun _ => stored⟩
        exact (begun.step (.countUse _ (slotMemB i) (by decide))).step
          ((Keyed.withKeys _ _ (by decide)).step (.postIf _ _ _ (by decide)))
      | _ =>
        rw [State.fetch_eq, slotB, judgedB]
        exact ⟨rfl, (begun.mono (by decide)).step (sought _ _ _ (by unfold slotMemA slotMemB; omega)),
          fun served => absurd rfl served⟩
    | _ =>
      rw [State.fetch_eq, slots, judgedA]
      exact ⟨rfl, (emptied.mono (by decide)).step (sought _ _ _ (by unfold slotMemA; omega)),
        fun served => absurd rfl served⟩

theorem State.sliceKey_fst (s : State) (sl : Nat) (badA badB : Bool) (i : Nat) :
    (s.sliceKey sl badA badB i).1 = servedKey s sl badA badB i := (s.sliceKey_ends sl badA badB i).1

/-- The key that serves depends on the slots and on the keys that slices hold. -/
theorem servedKey_of_same {s t : State} (slots : t.slots = s.slots) (keys : t.mem.keys = s.mem.keys) (sl : Nat)
    (badA badB : Bool) (i : Nat) : servedKey t sl badA badB i = servedKey s sl badA badB i := by
  unfold servedKey heldKey State.slot
  rw [slots, keys]

theorem State.sliceWorks_rest (s : State) (sl : Nat) : Touch [.power, .eye] s (s.sliceWorks sl) :=
  (State.sliceWorks_touch _ _ (by decide)).mpr (Touch.refl _ _)

theorem State.sliceKey_eq {s : State} {sl i : Nat} {badA badB : Bool} {o : Option MemKey}
    (served : servedKey s sl badA badB i = o) : s.sliceKey sl badA badB i = (o, (s.sliceKey sl badA badB i).2) :=
  Prod.ext ((s.sliceKey_fst sl badA badB i).trans served) rfl

section Serves

variable {s : State} {sl i : Nat} {badA badB : Bool} {k : MemKey} (serves : servedKey s sl badA badB i = some k)
include serves

theorem State.sliceKey_keyed : Keyed [.slots, .mem, .eye] s (s.sliceKey sl badA badB i).2 := by
  obtain ⟨-, -, keyed⟩ := s.sliceKey_ends sl badA badB i
  exact keyed (by rw [serves]; exact Option.some_ne_none k)

theorem State.sliceKey_works_keyed :
    Keyed [.slots, .power, .mem, .eye] s ((s.sliceKey sl badA badB i).2.sliceWorks sl) :=
  ((State.sliceKey_keyed serves).mono (by decide)).step (.of_touch (State.sliceWorks_rest _ _) (by decide) (by decide))

end Serves

/-! ### What the other parts of the plane decide (R267, R270, R273, R277) -/

section SamePlane

variable {s t : State} (same : t.mem = { s.mem with keys := t.mem.keys })
include same

theorem idWord_of_same (i : Nat) : idWord t i = idWord s i := by
  unfold idWord
  rw [same]

theorem isProtected_of_same (i : Nat) : isProtected t i = isProtected s i := by
  unfold isProtected
  rw [idWord_of_same same]

theorem lineNumber_of_same (i a : Nat) : lineNumber t i a = lineNumber s i a := by
  unfold lineNumber regionOf
  rw [same]

theorem poisonedLine_of_same (i n : Nat) : poisonedLine t i n = poisonedLine s i n := by
  unfold poisonedLine spacePoisoned
  rw [same]

theorem treeH_of_same (i : Nat) : treeH t i = treeH s i := by
  unfold treeH
  rw [idWord_of_same same]

theorem heldNode_of_same (i level j : Nat) : heldNode t i level j = heldNode s i level j := by
  unfold heldNode onChipFrom cachedNode
  rw [treeH_of_same same, same]

theorem knownZero_of_same (i fuel level n : Nat) : knownZero t i fuel level n = knownZero s i fuel level n := by
  induction fuel generalizing level n with
  | zero => rfl
  | succ fuel ih =>
    unfold knownZero
    rw [heldNode_of_same same]
    split
    · rfl
    · exact ih _ _

end SamePlane

/-! ### Frames of the rows -/

/-- What a row of the memory plane may alter that a slice has served. -/
theorem Touch.slice_frame {s t : State} (h : Touch [.slots, .power, .mem, .dram, .eye] s t) : t = { s with
    dram := t.dram, mem := t.mem, slots := t.slots, eye := t.eye, power := t.power } := by
  refine State.eq_of_same fun f => ?_
  have kept := h f
  cases f
  case slots | power | mem | dram | eye => rfl
  all_goals exact kept rfl

theorem Touch.keyed_frame {s t : State} (h : Touch [.slots, .power, .mem, .eye] s t) : t = { s with
    mem := t.mem, slots := t.slots, eye := t.eye, power := t.power } := by
  have frame := (h.mono (L := [.slots, .power, .mem, .dram, .eye]) (by decide)).slice_frame
  rw [h.dram (by decide)] at frame
  exact frame

theorem Touch.plane_frame {s t : State} (h : Touch [.mem, .eye] s t) : t = { s with mem := t.mem, eye := t.eye } := by
  have frame := (h.mono (L := [.slots, .power, .mem, .eye]) (by decide)).keyed_frame
  rw [h.slots (by decide), h.power (by decide)] at frame
  exact frame

/-! ### The end of a slice's work -/

/-- With no set overfull and no access held there is nothing left to do. -/
theorem State.memDone_settled {s : State} (u : MemUnit) (lines : List DramLine)
    (free : s.mem.held = []) (fits : overfull s.mem.ccache = none) : s.memDone u lines = s := by
  have trimmed (fuel : Nat) : State.trimNodes u.slice.val lines fuel s = s := by
    cases fuel with
    | zero => rfl
    | succ fuel =>
      rw [State.trimNodes, fits]
      split <;> rfl
  rw [State.memDone, trimmed, State.releaseHeld, free]
  exact State.eq_of_same fun f => by
    cases f
    case mem => exact congrArg (fun h => { s.mem with held := h }) free.symm
    all_goals rfl

/-- Fewer nodes overfill no set. -/
theorem overfull_filter {c : List CNode} (fits : overfull c = none) (p : CNode → Bool) :
    overfull (c.filter p) = none := by
  simp only [overfull, List.find?_eq_none, List.mem_reverse, decide_eq_true_eq, Nat.not_lt] at fits ⊢
  intro x mem
  exact Nat.le_trans (List.filter_sublist.filter _).length_le (fits x (List.mem_filter.mp mem).1)

/-! ### An access is taken (R267, R276, R279, R281) -/

/-- What a write makes of an entry of the write-merge buffer for its line. -/
def mergedEntry (s : State) (a : MemAccess) (old : WmEntry) : WmEntry := { old with
  data := (List.range 64).map (fun k =>
    if accPhys a % 64 ≤ k && k < accPhys a % 64 + a.len then a.data.getD (k - accPhys a % 64) 0
      else old.data.getD k 0)
  mask := setFld old.mask (accPhys a % 64) a.len (2 ^ a.len - 1)
  since := s.now }

/-- The free entry that a write takes. -/
def freshEntry (s : State) (a : MemAccess) : WmEntry :=
  ⟨accIdent a, lineOf (accPhys a), List.replicate 64 0, 0, s.now, a.port.val⟩

/-- A write of a line without an entry. -/
theorem State.takeWrite_fresh {s : State} {a : MemAccess} (vacant : entryOf s a = none) : s.takeWrite a =
    ((State.post { s with mem := { s.mem with
      wmb := s.mem.wmb ++ [mergedEntry s a (freshEntry s a)], clean := false } } (436 + a.port.val)).memReply
        .accepted) := by
  simp only [State.takeWrite, vacant]
  rfl

/-- A write of a line that has one. -/
theorem State.takeWrite_merges {s : State} {a : MemAccess} {old : WmEntry} (entry : entryOf s a = some old) :
    s.takeWrite a = ((State.post { s with mem := { s.mem with
      wmb := s.mem.wmb.map (fun x => if x = old then mergedEntry s a old else x), clean := false } }
        (436 + a.port.val)).memReply .accepted) := by
  simp only [State.takeWrite, entry]
  rfl

/-- The bytes of the write stand in the entry at their place. -/
theorem slice_mergedEntry (s : State) {a : MemAccess} (old : WmEntry) (size : a.data.length = a.len)
    (inLine : accPhys a % 64 + a.len ≤ 64) : slice (accPhys a % 64) a.len (mergedEntry s a old).data = a.data := by
  apply List.ext_getElem
  · simp [slice, mergedEntry, size]
    omega
  · intro k h1 h2
    have lt : k < a.len := size ▸ h2
    simp [slice, mergedEntry, lt, h2]

theorem entryOf_key {s : State} {a : MemAccess} {e : WmEntry} (entry : entryOf s a = some e) :
    e.id = accIdent a ∧ e.addr = lineOf (accPhys a) := by
  simpa using List.find?_some entry

/-- An access that passes every check crosses no line (R267 step 0). -/
theorem inLine_of_sound {s : State} {a : MemAccess} (sound : memFaultOf s a = none) :
    accPhys a % 64 + a.len ≤ 64 := by
  refine Nat.not_lt.mp fun crosses => ?_
  unfold memFaultOf memFaultAt at sound
  dsimp only at sound
  rw [if_pos crosses] at sound
  cases sound

/-- The read as it waits, with the bytes of the buffer that stand now (R281). -/
def awaited (s : State) (a : MemAccess) (sl : Nat) : MemWait :=
  ⟨s.mem.nextAcc, a.port.val, accIdent a, accPhys a, a.len, sl, ((entryOf s a).map (·.data)).getD [],
    ((entryOf s a).map (·.mask)).getD 0⟩

theorem State.waitRead_eq (s : State) (a : MemAccess) (sl : Nat) : s.waitRead a sl = { s with mem := { s.mem with
    waits := s.mem.waits ++ [awaited s a sl], nextAcc := s.mem.nextAcc + 1 } } := by
  unfold State.waitRead awaited
  cases entryOf s a <;> rfl

/-- A read of a protected line has looked for its level-0 node (R277). -/
def State.walkSeen (s : State) (a : MemAccess) : State :=
  if isProtected s (accIdent a) then s.countWalk (accIdent a) (lineNumber s (accIdent a) (accPhys a)) else s

theorem State.walkSeen_rest (s : State) (a : MemAccess) : Touch [.eye] s (s.walkSeen a) := by
  unfold State.walkSeen
  split <;> simp (disch := decide) only [State.countWalk_touch, Touch.refl]

theorem State.walkSeen_same (s : State) (a : MemAccess) :
    (s.walkSeen a).mem = { s.mem with keys := (s.walkSeen a).mem.keys } := by
  rw [(s.walkSeen_rest a).mem (by decide)]

theorem State.walkSeen_works (s : State) (a : MemAccess) (sl : Nat) :
    Touch [.power, .eye] s ((s.walkSeen a).sliceWorks sl) :=
  ((s.walkSeen_rest a).mono (by decide)).step ((s.walkSeen a).sliceWorks_rest sl)

section TakeRead

variable {s : State} {a : MemAccess} (u : MemUnit)

theorem State.takeRead_buffered {e : WmEntry} (entry : entryOf s a = some e) (full : e.mask = fullMask) :
    s.takeRead a u = s.answerNow a (slice (accPhys a % 64) a.len e.data) := by
  simp only [State.takeRead, entry, Option.map_some, full, Option.getD_some, if_true]

theorem State.takeRead_zero (vacant : entryOf s a = none) (guarded : isProtected s (accIdent a) = true)
    (zero : knownZero s (accIdent a) (treeH s (accIdent a) + 1) 0 (lineNumber s (accIdent a) (accPhys a)) = true) :
    s.takeRead a u = (((s.walkSeen a).touchNode (accIdent a) (treeH s (accIdent a) + 1) 0
      (lineNumber s (accIdent a) (accPhys a))).post 457).answerNow a (List.replicate a.len 0) := by
  have known := (knownZero_of_same (s.walkSeen_same a) (accIdent a) (treeH s (accIdent a) + 1) 0
    (lineNumber s (accIdent a) (accPhys a))).trans zero
  have seen : s.walkSeen a = s.countWalk (accIdent a) (lineNumber s (accIdent a) (accPhys a)) := if_pos guarded
  rw [seen] at known ⊢
  simp only [State.takeRead, vacant, guarded, known, Option.map_none, Option.isNone_none, Bool.and_self, if_true,
    reduceCtorEq, if_false]

variable (partly : ∀ e, entryOf s a = some e → e.mask ≠ fullMask)
  (unknown : entryOf s a ≠ none ∨ isProtected s (accIdent a) = false ∨
    knownZero s (accIdent a) (treeH s (accIdent a) + 1) 0 (lineNumber s (accIdent a) (accPhys a)) = false)
include partly unknown

/-- A read that neither the buffer nor a zero counter answers waits with the key, and is refused without. -/
theorem State.takeRead_seeks {o : Option MemKey} {t : State} (sought : ((s.walkSeen a).sliceWorks
      u.slice.val).sliceKey u.slice.val u.badA u.badB (accIdent a) = (o, t)) :
    s.takeRead a u = if o.isSome then t.waitRead a u.slice.val
      else t.refuseAccess a ⟨accPhys a, accIdent a, 0xB, a.port.val, false, false, 0xD⟩ := by
  have unfilled : ¬ (entryOf s a).map (·.mask) = some fullMask := by
    intro full
    obtain ⟨e, entry, mask⟩ := Option.map_eq_some_iff.mp full
    exact partly e entry mask
  have nonzero : ¬ ((entryOf s a).isNone && isProtected s (accIdent a) && knownZero (s.walkSeen a) (accIdent a)
      (treeH s (accIdent a) + 1) 0 (lineNumber s (accIdent a) (accPhys a))) = true := by
    rw [knownZero_of_same (s.walkSeen_same a)]
    rcases unknown with held | clear | counted
    · simp [held]
    · simp [clear]
    · simp [counted]
  unfold State.walkSeen at nonzero sought
  simp only [State.takeRead, if_neg unfilled, if_neg nonzero, sought]
  cases o <;> rfl

omit partly unknown in
theorem servedKey_walkSeen (sl : Nat) (badA badB : Bool) (i : Nat) :
    servedKey ((s.walkSeen a).sliceWorks sl) sl badA badB i = servedKey s sl badA badB i :=
  servedKey_of_same ((s.walkSeen_works a sl).slots (by decide))
    (congrArg MemPlane.keys ((s.walkSeen_works a sl).mem (by decide))) ..

/-- With the key it waits. -/
theorem State.takeRead_waits (serves : servedKey s u.slice.val u.badA u.badB (accIdent a) ≠ none) :
    ∃ t : State, Keyed [.slots, .power, .mem, .eye] s t ∧ s.takeRead a u = t.waitRead a u.slice.val := by
  obtain ⟨k, serves⟩ := Option.ne_none_iff_exists'.mp serves
  rw [← servedKey_walkSeen (a := a)] at serves
  exact ⟨_, (Keyed.of_touch (s.walkSeen_works a _) (by decide) (by decide)).step
    ((State.sliceKey_keyed serves).mono (by decide)),
    State.takeRead_seeks u partly unknown (State.sliceKey_eq serves)⟩

/-- Without it the read is refused. -/
theorem State.takeRead_refused (lacks : servedKey s u.slice.val u.badA u.badB (accIdent a) = none) :
    ∃ t : State, Keyed [.ladder, .slots, .keyCtl, .power, .mem, .eye] s t ∧ s.takeRead a u = t.refuseAccess a
      ⟨accPhys a, accIdent a, 0xB, a.port.val, false, false, 0xD⟩ := by
  rw [← servedKey_walkSeen (a := a)] at lacks
  obtain ⟨-, sought, -⟩ := ((s.walkSeen a).sliceWorks u.slice.val).sliceKey_ends u.slice.val u.badA u.badB (accIdent a)
  exact ⟨_, (Keyed.of_touch (s.walkSeen_works a _) (by decide) (by decide)).step (sought.mono (by decide)),
    State.takeRead_seeks u partly unknown (State.sliceKey_eq lacks)⟩

end TakeRead

theorem State.refuseAccess_replies {s : State} {a : MemAccess} (read : a.write = false) (f : MemFault) :
    (s.refuseAccess a f).mem.replies = s.mem.replies ++ [.error 0] := by
  simp only [State.refuseAccess, read, Bool.false_eq_true, if_false, State.memReply,
    MemPlane.read_of_bare (s.memOutcome_bare f) MemPlane.replies]

theorem State.refuseAccess_waits (s : State) (a : MemAccess) (f : MemFault) :
    (s.refuseAccess a f).mem.waits = s.mem.waits := by
  have kept := MemPlane.read_of_bare (s.memOutcome_bare f) MemPlane.waits
  unfold State.refuseAccess
  dsimp only
  split <;> exact kept

/-! ### MEMORY_ACCESS (R262, R267, R268, R292, R354) -/

section Access

variable {a : MemAccess} {now : Nat} {u : MemUnit} {s v : State} (formed : wfMem a = true)
  (ev : v = (s.atTime now).clearReplies.chipErrors u.chip)
include formed ev

theorem memoryAccess_dormant (rests : v.mode = .dormant) : exec (.memoryAccess a now u) s = .next v := by
  subst ev
  simp only [exec, execMemoryAccess, formed, rests, Bool.not_true, Bool.false_eq_true, if_false, beq_self_eq_true,
    if_true]

variable (awake : v.mode ≠ .dormant)
include awake

theorem memoryAccess_gateRefuses {f : GateFault} (refused : portRefusal v a = some f) :
    exec (.memoryAccess a now u) s = .next (if a.write then v.logGate (gateOfCls a.cls) f
      else (v.logGate (gateOfCls a.cls) f).memReply (.error 0)) := by
  subst ev
  simp only [exec, execMemoryAccess, formed, beq_eq_false_iff_ne.mpr awake, refused, Bool.not_true,
    Bool.false_eq_true, if_false]

variable (admitted : portRefusal v a = none)
include admitted

theorem memoryAccess_checkRefuses {f : MemFault} (fault : memFaultOf v a = some f) :
    exec (.memoryAccess a now u) s = .next (if f.cause = 5 && !a.write then (v.memOutcome f).memReply (.poison 0)
      else v.refuseAccess a f) := by
  subst ev
  simp only [exec, execMemoryAccess, formed, beq_eq_false_iff_ne.mpr awake, admitted, fault, Bool.not_true,
    Bool.false_eq_true, if_false, apply_ite Host.Outcome.next]

variable (sound : memFaultOf v a = none)
include sound

theorem memoryAccess_holds (holds : mustHold v a = true) : exec (.memoryAccess a now u) s =
    .next (State.postIf { v with mem := { v.mem with held := v.mem.held ++ [a] } } (noPlace v a) 444) := by
  subst ev
  simp only [exec, execMemoryAccess, formed, beq_eq_false_iff_ne.mpr awake, admitted, sound, holds, Bool.not_true,
    Bool.false_eq_true, if_false, if_true]

theorem memoryAccess_takes (free : mustHold v a = false) :
    exec (.memoryAccess a now u) s = .next (v.takeAccess a u) := by
  subst ev
  simp only [exec, execMemoryAccess, formed, beq_eq_false_iff_ne.mpr awake, admitted, sound, free, Bool.not_true,
    Bool.false_eq_true, if_false]

end Access

/-- What a refusal by a check leaves of the plane: its answer alone (R268). -/
theorem checkRefused_bare {v : State} (a : MemAccess) (f : MemFault) (clear : v.mem.replies = []) :
    (if f.cause = 5 && !a.write then (v.memOutcome f).memReply (.poison 0) else v.refuseAccess a f).mem.bare =
      { v.mem with replies := if a.write then [] else if f.cause = 5 then [.poison 0] else [.error 0] }.bare := by
  have answered (r : List MemReply) :
      { (v.memOutcome f).mem with replies := r }.bare = { v.mem with replies := r }.bare :=
    congrArg (fun m : MemPlane => { m with replies := r }) (v.memOutcome_bare f)
  have kept : (v.memOutcome f).mem.replies = [] :=
    (MemPlane.read_of_bare (v.memOutcome_bare f) MemPlane.replies).trans clear
  cases write : a.write with
  | true =>
    simp only [State.refuseAccess, write, Bool.not_true, Bool.and_false, Bool.false_eq_true, if_false, if_true]
    rw [← kept]
    exact answered _
  | false =>
    by_cases poison : f.cause = 5
    · simp only [poison, Bool.not_false, decide_true, Bool.and_self, if_true, Bool.false_eq_true, if_false,
        State.memReply, kept, List.nil_append]
      exact answered _
    · simp only [poison, State.refuseAccess, write, decide_false, Bool.false_and, Bool.false_eq_true, if_false,
        State.memReply, kept, List.nil_append]
      exact answered _

/-! ### What a taken access does (R267, R269, R276, R279, R281) -/

theorem dataLength_of_wf {a : MemAccess} (formed : wfMem a = true) (write : a.write = true) :
    a.data.length = a.len := by
  simp only [wfMem, write, Bool.and_eq_true, Bool.not_true, Bool.false_or, beq_iff_eq] at formed
  exact formed.2

theorem takeAccess_read {v : State} {a : MemAccess} {u : MemUnit} (read : a.write = false)
    (keyed : accIdent a ≠ 0) : v.takeAccess a u = v.takeRead a u := by
  simp only [State.takeAccess, if_neg keyed, read, Bool.false_eq_true, if_false]

/-- What tells that a counter is zero moves in its cache, and nothing else of the plane. -/
theorem touchNode_plane (s : State) (i fuel level n : Nat) : (s.touchNode i fuel level n).mem =
    { s.mem with top := (s.touchNode i fuel level n).mem.top, ccache := (s.touchNode i fuel level n).mem.ccache } := by
  induction fuel generalizing level n with
  | zero => rfl
  | succ fuel ih =>
    rw [State.touchNode]
    split
    · unfold State.putNode
      split <;> rfl
    · split
      · rfl
      · exact ih _ _

section Taken

variable {v : State} {a : MemAccess} {u : MemUnit} (clear : v.mem.replies = [])

include clear

/-- A write in clear stores its bytes and no other (R269). -/
theorem takeAccess_plainWrite (size : a.data.length = a.len) (plain : accIdent a = 0) (write : a.write = true) :
    Memory.read (v.takeAccess a u).dram (accPhys a) a.len = a.data ∧
      (∀ b, ¬ (accPhys a ≤ b ∧ b < accPhys a + a.len) →
        Memory.byte (v.takeAccess a u).dram b = Memory.byte v.dram b) ∧
      (v.takeAccess a u).mem = { v.mem with replies := [.accepted] } ∧
      v.takeAccess a u = { v with dram := (v.takeAccess a u).dram, mem := (v.takeAccess a u).mem } := by
  have taken : v.takeAccess a u = (v.writeDram (accPhys a) a.data).memReply .accepted := by
    simp only [State.takeAccess, plain, write, if_true]
  rw [taken, ← size]
  exact ⟨Memory.read_write_same .., fun b outside => Memory.byte_write_outside _ _ _ _ outside,
    congrArg (fun r => { v.mem with replies := r ++ [MemReply.accepted] }) clear, rfl⟩

/-- A write under an identifier with a key goes to an entry of the buffer alone (R279). -/
theorem takeAccess_write (size : a.data.length = a.len) (sound : memFaultOf v a = none) (keyed : accIdent a ≠ 0)
    (write : a.write = true) : ∃ e : WmEntry, e.id = accIdent a ∧ e.addr = lineOf (accPhys a) ∧ e.since = v.now ∧
      slice (accPhys a % 64) a.len e.data = a.data ∧
      (v.takeAccess a u).mem = { v.mem with clean := false, replies := [.accepted], wmb := match entryOf v a with
        | none => v.mem.wmb ++ [e]
        | some old => v.mem.wmb.map (fun x => if x = old then e else x) } ∧
      v.takeAccess a u = { v with mem := (v.takeAccess a u).mem, eye := (v.takeAccess a u).eye } := by
  have taken : v.takeAccess a u = v.takeWrite a := by
    simp only [State.takeAccess, if_neg keyed, write, if_true]
  have line (old : WmEntry) := slice_mergedEntry v old size (inLine_of_sound sound)
  have answered (w : List WmEntry) := congrArg (fun r => { v.mem with
    clean := false, replies := r ++ [MemReply.accepted], wmb := w }) clear
  rw [taken]
  cases entry : entryOf v a with
  | none =>
    rw [State.takeWrite_fresh entry]
    exact ⟨mergedEntry v a (freshEntry v a), rfl, rfl, rfl, line _, answered _, rfl⟩
  | some old =>
    rw [State.takeWrite_merges entry]
    obtain ⟨ident, addr⟩ := entryOf_key entry
    exact ⟨mergedEntry v a old, ident, addr, rfl, line _, answered _, rfl⟩

variable (read : a.write = false)
include read

theorem takeAccess_buffered {e : WmEntry} (keyed : accIdent a ≠ 0) (entry : entryOf v a = some e)
    (full : e.mask = fullMask) :
    (v.takeAccess a u).mem.replies = [.data v.mem.nextAcc (slice (accPhys a % 64) a.len e.data)] ∧
      (v.takeAccess a u).mem.waits = v.mem.waits ∧
      v.takeAccess a u = { v with mem := (v.takeAccess a u).mem, eye := (v.takeAccess a u).eye } := by
  rw [takeAccess_read read keyed, State.takeRead_buffered u entry full]
  exact ⟨congrArg (· ++ [_]) clear, rfl, rfl⟩

theorem takeAccess_zero (keyed : accIdent a ≠ 0) (vacant : entryOf v a = none)
    (guarded : isProtected v (accIdent a) = true)
    (zero : knownZero v (accIdent a) (treeH v (accIdent a) + 1) 0 (lineNumber v (accIdent a) (accPhys a)) = true) :
    (v.takeAccess a u).mem.replies = [.data v.mem.nextAcc (List.replicate a.len 0)] ∧
      (v.takeAccess a u).mem.waits = v.mem.waits ∧
      v.takeAccess a u = { v with mem := (v.takeAccess a u).mem, eye := (v.takeAccess a u).eye } := by
  have plane := touchNode_plane (v.walkSeen a) (accIdent a) (treeH v (accIdent a) + 1) 0
    (lineNumber v (accIdent a) (accPhys a))
  have rest : Touch [.mem, .eye] v ((v.walkSeen a).touchNode (accIdent a) (treeH v (accIdent a) + 1) 0
      (lineNumber v (accIdent a) (accPhys a))) :=
    (State.touchNode_touch _ _ _ _ _ (by decide)).mpr ((v.walkSeen_rest a).mono (by decide))
  rw [(v.walkSeen_rest a).mem (by decide)] at plane
  rw [takeAccess_read read keyed, State.takeRead_zero u vacant guarded zero]
  generalize (v.walkSeen a).touchNode _ _ _ _ = t at plane rest ⊢
  have frame : Touch [.mem, .eye] v ((t.post 457).answerNow a (List.replicate a.len 0)) := by
    simp (disch := decide) only [State.answerNow_touch, State.post_touch, rest]
  refine ⟨?_, ?_, frame.plane_frame⟩ <;> simp only [State.answerNow, State.post_mem] <;> rw [plane]
  rw [clear]
  rfl

variable (asks : accIdent a = 0 ∨ (∀ e, entryOf v a = some e → e.mask ≠ fullMask) ∧
  (entryOf v a ≠ none ∨ isProtected v (accIdent a) = false ∨
    knownZero v (accIdent a) (treeH v (accIdent a) + 1) 0 (lineNumber v (accIdent a) (accPhys a)) = false))
include asks

theorem takeAccess_waits
    (serves : accIdent a = 0 ∨ (v.sliceKey u.slice.val u.badA u.badB (accIdent a)).1 ≠ none) :
    ∃ w : MemWait, (v.takeAccess a u).mem.replies = [] ∧ w.acc = v.mem.nextAcc ∧ w.port = a.port.val ∧
      w.id = accIdent a ∧ w.addr = accPhys a ∧ w.len = a.len ∧ (v.takeAccess a u).mem.waits = v.mem.waits ++ [w] ∧
      v.takeAccess a u = { v with
        mem := (v.takeAccess a u).mem, slots := (v.takeAccess a u).slots, eye := (v.takeAccess a u).eye,
        power := (v.takeAccess a u).power } := by
  have waiting : ∃ (t : State) (sl : Nat), Keyed [.slots, .power, .mem, .eye] v t ∧
      v.takeAccess a u = t.waitRead a sl := by
    by_cases plain : accIdent a = 0
    · exact ⟨v, 0, ⟨Touch.refl _ _, rfl⟩, by
        simp only [State.takeAccess, plain, read, Bool.false_eq_true, if_false, if_true]⟩
    · obtain ⟨partly, unknown⟩ := asks.resolve_left plain
      have key := serves.resolve_left plain
      rw [State.sliceKey_fst] at key
      obtain ⟨t, keyed, taken⟩ := State.takeRead_waits u partly unknown key
      exact ⟨t, u.slice.val, keyed, (takeAccess_read read plain).trans taken⟩
  obtain ⟨t, sl, ⟨rest, mem⟩, taken⟩ := waiting
  have frame : Touch [.slots, .power, .mem, .eye] v (t.waitRead a sl) :=
    (State.waitRead_touch _ _ _ (by decide)).mpr rest
  have nextAcc : t.mem.nextAcc = v.mem.nextAcc := by rw [mem]
  have waits : t.mem.waits = v.mem.waits := by rw [mem]
  rw [taken]
  refine ⟨awaited t a sl, ?_, nextAcc, rfl, rfl, rfl, rfl, ?_, frame.keyed_frame⟩
  · rw [State.waitRead_eq, mem]
    exact clear
  · rw [State.waitRead_eq]
    exact congrArg (· ++ _) waits

theorem takeAccess_keyless (keyed : accIdent a ≠ 0)
    (lacks : (v.sliceKey u.slice.val u.badA u.badB (accIdent a)).1 = none) :
    (v.takeAccess a u).mem.replies = [.error 0] ∧ (v.takeAccess a u).mem.waits = v.mem.waits ∧
      (v.takeAccess a u).dram = v.dram ∧ (v.takeAccess a u).mode = v.mode := by
  obtain ⟨partly, unknown⟩ := asks.resolve_left keyed
  rw [State.sliceKey_fst] at lacks
  obtain ⟨t, ⟨rest, mem⟩, taken⟩ := State.takeRead_refused u partly unknown lacks
  have whole : Touch [.ladder, .slots, .keyCtl, .power, .mem, .eye] v (v.takeAccess a u) := by
    rw [takeAccess_read read keyed, taken]
    exact (State.refuseAccess_touch _ _ _ (by decide)).mpr rest
  refine ⟨?_, ?_, whole.dram (by decide), whole.mode (by decide)⟩
  · rw [takeAccess_read read keyed, taken, State.refuseAccess_replies read, mem]
    exact congrArg (· ++ [_]) clear
  · rw [takeAccess_read read keyed, taken, State.refuseAccess_waits, mem]

end Taken

/-! ### MEMORY_READ_RETURN (R269, R277, R287) -/

theorem State.finishRead_mem (s : State) (w : MemWait) (line : List Byte) : (s.finishRead w line).mem = { s.mem with
    replies := s.mem.replies ++ [.data w.acc (slice (w.addr % 64) w.len (overlay w.data w.mask line))] } := by
  unfold State.finishRead
  dsimp only
  split <;> rfl

/-- The read leaves those that wait. -/
def State.unwait (s : State) (acc : Nat) : State :=
  { s with mem := { s.mem with waits := s.mem.waits.filter (fun x => x.acc != acc) } }

theorem State.unwait_rest (s : State) (acc : Nat) : Touch [.mem] s (s.unwait acc) := s.withMem_rest _

theorem memoryReadReturn_none {acc : Nat} {lines : List DramLine} {s : State} (badA badB : Bool)
    (chip : List ChipError) (formed : wfLines lines = true)
    (gone : s.mem.waits.find? (fun x => x.acc == acc) = none) :
    exec (.memoryReadReturn acc lines badA badB chip) s = .next s.clearReplies := by
  simp only [exec, execMemoryReadReturn, formed, gone, Bool.not_true, Bool.false_eq_true, if_false]

section Returns

variable {acc : Nat} {lines : List DramLine} {badA badB : Bool} {chip : List ChipError} {s v t y : State} {w : MemWait}
  {line : List Byte} (formed : wfLines lines = true) (waits : s.mem.waits.find? (fun x => x.acc == acc) = some w)
  (ev : v = s.clearReplies.chipErrors chip)
include formed waits ev

/-- The read that waited is performed, and where that leaves nothing to be trimmed or taken, the row ends there. -/
theorem memoryReadReturn_performs (performed : (v.unwait acc).performRead w badA badB lines = t)
    (free : t.mem.held = []) (fits : overfull t.mem.ccache = none) :
    exec (.memoryReadReturn acc lines badA badB chip) s = .next t := by
  subst ev performed
  simp only [exec, execMemoryReadReturn, formed, waits, Bool.not_true, Bool.false_eq_true, if_false]
  exact congrArg _ (State.memDone_settled _ _ free fits)

theorem memoryReadReturn_answers (performed : (v.unwait acc).performRead w badA badB lines = y.finishRead w line)
    (free : y.mem.held = []) (fits : overfull y.mem.ccache = none) :
    exec (.memoryReadReturn acc lines badA badB chip) s = .next (y.finishRead w line) :=
  memoryReadReturn_performs formed waits ev performed (by rw [State.finishRead_mem, free])
    (by rw [State.finishRead_mem, fits])

end Returns

section Perform

variable {z : State} {w : MemWait} {lines : List DramLine} {b : List Byte} {e : Ecc} (badA badB : Bool)

/-- A line in clear. -/
theorem State.performRead_clear (clear : w.id = 0) (line : dramLine z lines (lineOf w.addr) = (b, e))
    (sound : e ≠ .uncorrectable) : z.performRead w badA badB lines = (z.eccSeen e).finishRead w b := by
  simp only [State.performRead, clear, line, beq_eq_false_iff_ne.mpr sound, if_true, Bool.false_eq_true, if_false]

theorem State.performRead_lost (clear : w.id = 0) (line : dramLine z lines (lineOf w.addr) = (b, .uncorrectable)) :
    z.performRead w badA badB lines = z.memReply (.poison w.acc) := by
  simp only [State.performRead, clear, line, if_true, beq_self_eq_true]

variable {badA badB} {k : MemKey} {y : State} (keyed : w.id ≠ 0)
  (key : z.sliceKey w.slice badA badB w.id = (some k, y))
  (same : (y.sliceWorks w.slice).mem = { z.mem with keys := (y.sliceWorks w.slice).mem.keys })
include keyed key same

/-- A line under an encrypt-only identifier (R269). -/
theorem State.performRead_decrypts (opened : isProtected z w.id = false)
    (line : dramLine (y.sliceWorks w.slice) lines (lineOf w.addr) = (b, e)) (sound : e ≠ .uncorrectable) :
    z.performRead w badA badB lines =
      ((y.sliceWorks w.slice).eccSeen e).finishRead w (xtsDecrypt k.a k.b (lineOf w.addr / 64) b) := by
  rw [← isProtected_of_same same] at opened
  simp only [State.performRead, if_neg keyed, key, opened, line, beq_eq_false_iff_ne.mpr sound, Bool.not_false, if_true,
    Bool.false_eq_true, if_false]

/-- A line under a protected one (R277). -/
theorem State.performRead_verifies {line : List Byte} {fresh : Bool} {x : State} (guarded : isProtected z w.id = true)
    (clean : poisonedLine z w.id (lineNumber z w.id w.addr) = false)
    (read : readLine k lines w.id (lineNumber z w.id w.addr) (lineOf w.addr) (y.sliceWorks w.slice) =
      (.ok, line, fresh, x)) : z.performRead w badA badB lines = (x.postIf fresh 457).finishRead w line := by
  rw [← isProtected_of_same same] at guarded
  rw [← poisonedLine_of_same same, ← lineNumber_of_same same] at clean
  rw [← lineNumber_of_same same] at read
  simp only [State.performRead, if_neg keyed, key, guarded, clean, read, Bool.not_true, Bool.false_eq_true, if_false]

end Perform

/-! ### WRITE_MERGE_DRAIN (R269, R279) -/

/-- The entry leaves the buffer. -/
def State.unbuffer (s : State) (e : WmEntry) : State :=
  { s with mem := { s.mem with wmb := s.mem.wmb.filter (· != e) } }

theorem State.unbuffer_rest (s : State) (e : WmEntry) : Touch [.mem] s (s.unbuffer e) := s.withMem_rest _

section Drain

variable {v : State} {e : WmEntry} {u : MemUnit} {k : MemKey} (lines : List DramLine)

/-- A whole line under an encrypt-only identifier is stored encrypted. -/
theorem State.drainEntry_stores (whole : e.mask = fullMask)
    (serves : servedKey v u.slice.val u.badA u.badB e.id = some k) (opened : isProtected v e.id = false) :
    ∃ t : State, Keyed [.slots, .power, .mem, .eye] (v.unbuffer e) t ∧ v.drainEntry u.slice.val u.badA u.badB lines e =
      t.writeDram e.addr (xtsEncrypt k.a k.b (e.addr / 64) e.data) := by
  have serves' : servedKey (v.unbuffer e) u.slice.val u.badA u.badB e.id = some k :=
    (servedKey_of_same rfl rfl _ _ _ _).trans serves
  have keyed := State.sliceKey_works_keyed serves'
  have plain := (isProtected_of_same keyed.mem e.id).trans opened
  have key := State.sliceKey_eq serves'
  refine ⟨_, keyed, ?_⟩
  unfold State.unbuffer at key plain ⊢
  simp only [State.drainEntry, whole, beq_self_eq_true, Bool.not_true, State.postIf, Bool.false_eq_true, if_false]
  rw [key]
  simp only [plain, Bool.not_false, if_true]

end Drain

/-! ### NODE_WRITEBACK (R278) -/

theorem cachedNode_key {s : State} {i level j : Nat} {x : CNode} (found : cachedNode s i level j = some x) :
    x.id = i ∧ x.level = level ∧ x.node = j := by
  simpa [and_assoc] using List.find?_some found

theorem cachedNode_dropNode (s : State) (i level j : Nat) : cachedNode (s.dropNode i level j) i level j = none := by
  simp only [cachedNode, State.dropNode, List.find?_eq_none, List.mem_filter]
  rintro c ⟨-, other⟩ key
  rw [key] at other
  cases other

/-- A node that is held on chip is at hand. -/
theorem walkNode_onChip {s : State} {i level j : Nat} (k : MemKey) (lines : List DramLine) (fuel : Nat)
    (chip : onChipFrom s i ≤ level) (sound : s.mem.poisonNodes.contains (i, level, j) = false) :
    walkNode k lines i (fuel + 1) level j s = (.ok, s) := by
  have held : heldNode s i level j = some (Table.get zeroNode (nodeKey i level j) s.mem.top) := if_pos chip
  rw [walkNode, sound, held]
  simp only [Bool.false_eq_true, if_false, if_pos chip]

/-- What a dirty node that is given up leaves: its counters in DRAM, its tag formed under the parent's counter c, and
the parent with the counter after it. -/
def State.nodeStored (y : State) (k : MemKey) (lines : List DramLine) (x : CNode) (ctrs : List Nat) : State :=
  (((y.putNode x.id (x.level + 1) (x.node / 8) (ctrs.set (x.node % 8) (ctrs.getD (x.node % 8) 0 + 1)) true).writeTag
    lines x.id 0 (nodeTagAddr (y.putNode x.id (x.level + 1) (x.node / 8)
      (ctrs.set (x.node % 8) (ctrs.getD (x.node % 8) 0 + 1)) true) x.id x.level x.node)
    (lineTag k.b x.id (nodeAddr y x.id x.level x.node) (ctrs.getD (x.node % 8) 0 + 1) 3
      (x.ctrs.flatMap (fun c => natToBytes 8 c))) true false).writeDram (nodeAddr y x.id x.level x.node)
    (x.ctrs.flatMap (fun c => natToBytes 8 c))).dropNode x.id x.level x.node |>.post 443

theorem State.evictNode_clean {s : State} {x : CNode} (sl : Nat) (badA badB : Bool) (lines : List DramLine)
    (clean : x.dirty = false) : s.evictNode sl badA badB lines x = s.dropNode x.id x.level x.node := by
  simp only [State.evictNode, clean, Bool.not_false, if_true]

section Evict

variable {s y : State} {x : CNode} {sl : Nat} {badA badB : Bool} (k : MemKey) (lines : List DramLine)
  (ctrs : List Nat) (chip : onChipFrom y x.id ≤ x.level + 1)

include chip in
variable {k ctrs} in
/-- A dirty node beneath one on chip is stored. -/
theorem State.evictNode_stores (dirty : x.dirty = true)
    (served : s.sliceKey sl badA badB x.id = (some k, (s.sliceKey sl badA badB x.id).2))
    (ey : y = (s.sliceKey sl badA badB x.id).2.sliceWorks sl)
    (sound : y.mem.poisonNodes.contains (x.id, x.level + 1, x.node / 8) = false)
    (held : heldNode y x.id (x.level + 1) (x.node / 8) = some ctrs)
    (more : ctrs.getD (x.node % 8) 0 + 1 ≠ 2 ^ 64) :
    s.evictNode sl badA badB lines x = y.nodeStored k lines x ctrs := by
  subst ey
  unfold State.evictNode
  dsimp only
  rw [dirty, Bool.not_true, if_neg Bool.false_ne_true, served]
  dsimp only
  rw [walkNode_onChip k lines _ chip sound]
  dsimp only
  rw [held, Option.getD_some, if_neg more]
  rfl

theorem State.nodeStored_rest (y : State) : Touch [.mem, .dram, .eye] y (y.nodeStored k lines x ctrs) := by
  unfold State.nodeStored
  simp (disch := decide) only [State.post_touch, State.dropNode_touch, State.writeDram_touch,
    State.writeTag_touch, State.putNode_touch, Touch.refl]

theorem State.nodeStored_read (y : State) : Memory.read (y.nodeStored k lines x ctrs).dram
    (nodeAddr y x.id x.level x.node) (x.ctrs.flatMap (fun c => natToBytes 8 c)).length =
      x.ctrs.flatMap (fun c => natToBytes 8 c) :=
  Memory.read_write_same ..

theorem State.nodeStored_gone (y : State) : cachedNode (y.nodeStored k lines x ctrs) x.id x.level x.node = none := by
  rw [State.nodeStored, cachedNode, State.post_mem]
  exact cachedNode_dropNode ..

include chip

/-- The parent on chip advances, the node leaves the cache, and of the rest only tags and log change. -/
theorem State.nodeStored_bare : (y.nodeStored k lines x ctrs).mem.bare = { y.mem with
    top := Table.put zeroNode (nodeKey x.id (x.level + 1) (x.node / 8))
      (ctrs.set (x.node % 8) (ctrs.getD (x.node % 8) 0 + 1)) y.mem.top
    ccache := y.mem.ccache.filter (fun c => !(c.id == x.id && c.level == x.level && c.node == x.node)) }.bare := by
  have put (next : List Nat) : (y.putNode x.id (x.level + 1) (x.node / 8) next true) = { y with mem := { y.mem with
      top := Table.put zeroNode (nodeKey x.id (x.level + 1) (x.node / 8)) next y.mem.top } } := if_pos chip
  unfold State.nodeStored
  rw [put, State.post_mem]
  exact congrArg (fun m : MemPlane => { m with
    ccache := m.ccache.filter (fun c => !(c.id == x.id && c.level == x.level && c.node == x.node)) })
    (State.writeTag_bare _ lines x.id 0 _ _ true false)

theorem State.nodeStored_parent : heldNode (y.nodeStored k lines x ctrs) x.id (x.level + 1) (x.node / 8) =
    some (ctrs.set (x.node % 8) (ctrs.getD (x.node % 8) 0 + 1)) := by
  have bare := State.nodeStored_bare k lines ctrs chip
  have ids : (y.nodeStored k lines x ctrs).mem.ids = y.mem.ids := MemPlane.read_of_bare bare MemPlane.ids
  have top : (y.nodeStored k lines x ctrs).mem.top = _ := MemPlane.read_of_bare bare MemPlane.top
  have chip' : onChipFrom (y.nodeStored k lines x ctrs) x.id ≤ x.level + 1 := by
    unfold onChipFrom treeH idWord at chip ⊢
    rw [ids]
    exact chip
  rw [heldNode, if_pos chip', top]
  exact congrArg some (Table.get_put_same ..)

end Evict

/-! ### What a returned read gives (Table 9.7) -/

section Returned

variable {acc : Nat} {lines : List DramLine} {badA badB : Bool} {chip : List ChipError} {s v : State} {w : MemWait}
  (formed : wfLines lines = true)
  (waits : s.mem.waits.find? (fun x => x.acc == acc) = some w) (ev : v = s.clearReplies.chipErrors chip)

theorem waits_acc (waits : s.mem.waits.find? (fun x => x.acc == acc) = some w) : w.acc = acc := by
  simpa using List.find?_some waits

include formed waits ev

/-- A protected line that verifies. -/
theorem memoryReadReturn_verifies {k : MemKey} {y x : State} {line : List Byte} {fresh : Bool} (keyed : w.id ≠ 0)
    (key : (v.unwait acc).sliceKey w.slice badA badB w.id = (some k, y)) (guarded : isProtected v w.id = true)
    (sound : poisonedLine v w.id (lineNumber v w.id w.addr) = false)
    (read : readLine k lines w.id (lineNumber v w.id w.addr) (lineOf w.addr) (y.sliceWorks w.slice) =
      (.ok, line, fresh, x)) (fits : overfull x.mem.ccache = none) (free : x.mem.held = []) :
    ∃ t, exec (.memoryReadReturn acc lines badA badB chip) s = .next t ∧
      t = { x with eye := t.eye, mem := { x.mem with replies := x.mem.replies ++
        [.data acc (slice (w.addr % 64) w.len (overlay w.data w.mask line))] } } := by
  obtain rfl := waits_acc waits
  have serves : servedKey (v.unwait w.acc) w.slice badA badB w.id = some k := by rw [← State.sliceKey_fst, key]
  have mem := (State.sliceKey_works_keyed serves).mem
  rw [key] at mem
  refine ⟨_, memoryReadReturn_answers formed waits ev (State.performRead_verifies keyed key mem guarded sound read)
    (by rw [State.postIf_mem, free]) (by rw [State.postIf_mem, fits]), ?_⟩
  unfold State.finishRead
  cases fresh <;> rw [if_neg keyed] <;> rfl

variable {b : List Byte} {e : Ecc} (free : v.mem.held = []) (fits : overfull v.mem.ccache = none)
include free fits

/-- A line in clear. -/
theorem memoryReadReturn_clear (line : dramLine v lines (lineOf w.addr) = (b, e)) (plain : w.id = 0)
    (sound : e ≠ .uncorrectable) : ∃ t, exec (.memoryReadReturn acc lines badA badB chip) s = .next t ∧
      t.mem = { (v.unwait acc).mem with
        replies := [.data acc (slice (w.addr % 64) w.len (overlay w.data w.mask b))] } ∧
      t = { v with mem := t.mem, eye := t.eye } := by
  obtain rfl := waits_acc waits
  have clear : (v.unwait w.acc).mem.replies = [] := ev ▸ State.replies_cleared _ _
  have mem := State.eccSeen_mem (v.unwait w.acc) e
  refine ⟨_, memoryReadReturn_answers formed waits ev (State.performRead_clear badA badB plain line sound)
    (by rw [mem]; exact free) (by rw [mem]; exact fits), ?_, Touch.plane_frame ?_⟩
  · rw [State.finishRead_mem, mem, clear, List.nil_append]
  · rw [State.finishRead_touch _ _ _ (by decide), State.eccSeen_touch _ _ (by decide)]
    exact (State.unwait_rest _ _).mono (by decide)

/-- A line in clear that is lost. -/
theorem memoryReadReturn_lost (line : dramLine v lines (lineOf w.addr) = (b, .uncorrectable)) (plain : w.id = 0) :
    exec (.memoryReadReturn acc lines badA badB chip) s =
      .next { v.unwait acc with mem := { (v.unwait acc).mem with replies := [.poison acc] } } := by
  obtain rfl := waits_acc waits
  have clear : (v.unwait w.acc).mem.replies = [] := ev ▸ State.replies_cleared _ _
  rw [memoryReadReturn_performs formed waits ev (State.performRead_lost badA badB plain line) free fits, State.memReply,
    clear, List.nil_append]

/-- A line under an encrypt-only identifier. -/
theorem memoryReadReturn_decrypts {k : MemKey} (line : dramLine v lines (lineOf w.addr) = (b, e)) (keyed : w.id ≠ 0)
    (serves : ((v.unwait acc).sliceKey w.slice badA badB w.id).1 = some k) (opened : isProtected v w.id = false)
    (sound : e ≠ .uncorrectable) : ∃ t, exec (.memoryReadReturn acc lines badA badB chip) s = .next t ∧
      t.mem = { (v.unwait acc).mem with keys := t.mem.keys, replies := [.data acc (slice (w.addr % 64) w.len
        (overlay w.data w.mask (xtsDecrypt k.a k.b (lineOf w.addr / 64) b)))] } ∧
      t = { v with mem := t.mem, slots := t.slots, eye := t.eye, power := t.power } := by
  obtain rfl := waits_acc waits
  have clear : (v.unwait w.acc).mem.replies = [] := ev ▸ State.replies_cleared _ _
  rw [State.sliceKey_fst] at serves
  obtain ⟨rest, mem⟩ := State.sliceKey_works_keyed serves
  have brought : dramLine (((v.unwait w.acc).sliceKey w.slice badA badB w.id).2.sliceWorks w.slice) lines
      (lineOf w.addr) = (b, e) := by
    rw [dramLine, rest.dram (by decide)]
    exact line
  have performed := State.performRead_decrypts keyed (State.sliceKey_eq serves) mem opened brought sound
  generalize ((v.unwait w.acc).sliceKey w.slice badA badB w.id).2.sliceWorks w.slice = y at rest mem performed
  have same := State.eccSeen_mem y e
  refine ⟨_, memoryReadReturn_answers formed waits ev performed (by rw [same, mem]; exact free)
    (by rw [same, mem]; exact fits), ?_, Touch.keyed_frame ?_⟩
  · rw [State.finishRead_mem, same, mem, clear, List.nil_append]
  · rw [State.finishRead_touch _ _ _ (by decide), State.eccSeen_touch _ _ (by decide)]
    exact ((State.unwait_rest _ _).mono (by decide)).step rest

end Returned

/-! ### WRITE_MERGE_DRAIN and NODE_WRITEBACK -/

section Work

variable {lines : List DramLine} {u : MemUnit} {s v : State} (formed : wfLines lines = true)
include formed

theorem writeMergeDrain_none {now : Nat} (ev : v = (s.atTime now).clearReplies.chipErrors u.chip)
    (idle : drainChoice v = none) : exec (.writeMergeDrain now lines u) s = .next v := by
  subst ev
  simp only [exec, execWriteMergeDrain, formed, idle, Bool.not_true, Bool.false_eq_true, if_false]

theorem writeMergeDrain_drains {now : Nat} {e : WmEntry} (ev : v = (s.atTime now).clearReplies.chipErrors u.chip)
    (chosen : drainChoice v = some e) : exec (.writeMergeDrain now lines u) s =
      .next ((v.drainEntry u.slice.val u.badA u.badB lines e).memDone u lines) := by
  subst ev
  simp only [exec, execWriteMergeDrain, formed, chosen, Bool.not_true, Bool.false_eq_true, if_false]

theorem nodeWriteback_none {id : BitVec 4} {level node : Nat} (ev : v = s.clearReplies.chipErrors u.chip)
    (gone : cachedNode v id.toNat level node = none) : exec (.nodeWriteback id level node lines u) s = .next v := by
  subst ev
  simp only [exec, execNodeWriteback, formed, gone, Bool.not_true, Bool.false_eq_true, if_false]

theorem nodeWriteback_evicts {id : BitVec 4} {level node : Nat} {x : CNode} (ev : v = s.clearReplies.chipErrors u.chip)
    (found : cachedNode v id.toNat level node = some x) : exec (.nodeWriteback id level node lines u) s =
      .next ((v.evictNode u.slice.val u.badA u.badB lines x).memDone u lines) := by
  subst ev
  simp only [exec, execNodeWriteback, formed, found, Bool.not_true, Bool.false_eq_true, if_false]

end Work

/-- A drain of a whole line under an encrypt-only identifier. -/
theorem writeMergeDrain_stores {now : Nat} {lines : List DramLine} {u : MemUnit} {s v : State} {e : WmEntry}
    {k : MemKey} (formed : wfLines lines = true) (ev : v = (s.atTime now).clearReplies.chipErrors u.chip)
    (chosen : drainChoice v = some e) (free : v.mem.held = []) (fits : overfull v.mem.ccache = none)
    (whole : e.mask = fullMask) (serves : (v.sliceKey u.slice.val u.badA u.badB e.id).1 = some k)
    (opened : isProtected v e.id = false) :
    ∃ t : State, Keyed [.slots, .power, .mem, .eye] (v.unbuffer e) t ∧ exec (.writeMergeDrain now lines u) s =
      .next (t.writeDram e.addr (xtsEncrypt k.a k.b (e.addr / 64) e.data)) := by
  rw [State.sliceKey_fst] at serves
  obtain ⟨t, keyed, drained⟩ := State.drainEntry_stores lines whole serves opened
  refine ⟨t, keyed, ?_⟩
  rw [writeMergeDrain_drains formed ev chosen, drained, State.memDone_settled]
  · exact (congrArg MemPlane.held keyed.mem).trans free
  · exact (congrArg (fun m : MemPlane => overfull m.ccache) keyed.mem).trans fits

/-- A dirty node beneath one on chip leaves the cache. -/
theorem nodeWriteback_stores {id : BitVec 4} {level node : Nat} {lines : List DramLine} {u : MemUnit} {s v : State}
    {x : CNode} {k : MemKey} {ctrs : List Nat} (formed : wfLines lines = true)
    (ev : v = s.clearReplies.chipErrors u.chip) (free : v.mem.held = []) (fits : overfull v.mem.ccache = none)
    (found : cachedNode v id.toNat level node = some x) (dirty : x.dirty = true)
    (serves : (v.sliceKey u.slice.val u.badA u.badB x.id).1 = some k) (chip : onChipFrom v x.id ≤ x.level + 1)
    (sound : v.mem.poisonNodes.contains (x.id, x.level + 1, x.node / 8) = false)
    (held : heldNode v x.id (x.level + 1) (x.node / 8) = some ctrs) (more : ctrs.getD (x.node % 8) 0 + 1 ≠ 2 ^ 64) :
    ∃ y : State, Keyed [.slots, .power, .mem, .eye] v y ∧ onChipFrom y x.id ≤ x.level + 1 ∧
      exec (.nodeWriteback id level node lines u) s = .next (y.nodeStored k lines x ctrs) := by
  rw [State.sliceKey_fst] at serves
  have keyed := State.sliceKey_works_keyed serves
  have chip' : onChipFrom ((v.sliceKey u.slice.val u.badA u.badB x.id).2.sliceWorks u.slice.val) x.id ≤
      x.level + 1 := by
    rw [onChipFrom, treeH_of_same keyed.mem]
    exact chip
  have bare := State.nodeStored_bare k lines ctrs chip'
  have stored := State.evictNode_stores lines chip' dirty (State.sliceKey_eq serves) rfl
    (by rw [keyed.mem]; exact sound) ((heldNode_of_same keyed.mem ..).trans held) more
  refine ⟨_, keyed, chip', ?_⟩
  rw [nodeWriteback_evicts formed ev found, stored, State.memDone_settled]
  · exact (MemPlane.read_of_bare bare MemPlane.held).trans ((congrArg MemPlane.held keyed.mem).trans free)
  · have left := MemPlane.read_of_bare bare MemPlane.ccache
    rw [left, keyed.mem]
    exact overfull_filter fits _

/-- Settles O55: each row by the lemmas about the ways in which it ends, which read its slice's key from `servedKey` and
keep apart what tags and the fault log alter. -/
theorem memoryRowsAct : Obligations.MemoryRowsAct := by
  unfold Obligations.MemoryRowsAct
  refine ⟨?access, ?returned, ?drain, ?writeback⟩
  case access =>
    rintro a now u s v _ _ formed ev rfl rfl
    have clear : v.mem.replies = [] := ev ▸ State.replies_cleared _ _
    refine ⟨memoryAccess_dormant formed ev, fun awake => ⟨?gate, ?check, fun admitted sound => ⟨?held, fun free => ?_⟩⟩⟩
    case gate =>
      intro f refused
      refine ⟨_, memoryAccess_gateRefuses formed ev awake refused, ?_⟩
      split
      · exact ⟨congrArg (fun r => { v.mem with replies := r }) clear, rfl⟩
      · exact ⟨congrArg (fun r => { v.mem with replies := r ++ [MemReply.error 0] }) clear, rfl⟩
    case check =>
      intro f admitted fault
      have bare := checkRefused_bare a f clear
      refine ⟨_, memoryAccess_checkRefuses formed ev awake admitted fault, MemPlane.read_of_bare bare MemPlane.wmb,
        MemPlane.read_of_bare bare MemPlane.waits, MemPlane.read_of_bare bare MemPlane.replies, Touch.plane_frame ?_⟩
      split <;> simp (disch := decide) only [State.memReply_touch, State.memOutcome_touch, State.refuseAccess_touch,
        Touch.refl]
    case held =>
      intro holds
      refine ⟨_, memoryAccess_holds formed ev awake admitted sound holds, ?_⟩
      cases noPlace v a <;> rfl
    have takes := memoryAccess_takes formed ev awake admitted sound free
    refine ⟨fun plain write => ⟨_, takes, takeAccess_plainWrite clear (dataLength_of_wf formed write) plain write⟩,
      fun keyed write => ?_, fun read => ⟨?buffered, ?zero, fun asks => ⟨fun serves => ?_, ?keyless⟩⟩⟩
    case buffered => exact fun e keyed entry full => ⟨_, takes, takeAccess_buffered clear read keyed entry full⟩
    case zero => exact fun keyed vacant guarded known =>
      ⟨_, takes, takeAccess_zero clear read keyed vacant guarded known⟩
    case keyless => exact fun keyed lacks => ⟨_, takes, takeAccess_keyless clear read asks keyed lacks⟩
    · obtain ⟨e, acts⟩ := takeAccess_write clear (dataLength_of_wf formed write) sound keyed write
      exact ⟨_, e, takes, acts⟩
    · obtain ⟨w, acts⟩ := takeAccess_waits clear read asks serves
      exact ⟨_, w, takes, acts⟩
  case returned =>
    intro acc lines badA badB chip s v formed
    refine ⟨memoryReadReturn_none badA badB chip formed, ?_⟩
    rintro w b e _ waits ev free fits line rfl
    refine ⟨memoryReadReturn_clear formed waits ev free fits line, ?_,
      fun k keyed serves opened sound =>
        memoryReadReturn_decrypts formed waits ev free fits line keyed serves opened sound,
      fun k y x data fresh keyed key guarded sound read fits free =>
        memoryReadReturn_verifies formed waits ev keyed key guarded sound read fits free⟩
    rintro plain rfl
    exact memoryReadReturn_lost formed waits ev free fits line plain
  case drain =>
    intro now lines u s v formed ev
    refine ⟨writeMergeDrain_none formed ev, ?_⟩
    rintro e k _ chosen free fits whole serves opened rfl
    obtain ⟨t, ⟨rest, mem⟩, ran⟩ := writeMergeDrain_stores formed ev chosen free fits whole serves opened
    have dram : t.dram = v.dram := rest.dram (by decide)
    refine ⟨_, ran, Memory.read_write_same .., fun b outside => ?_, mem, Touch.slice_frame ?_⟩
    · exact (Memory.byte_write_outside _ _ _ _ outside).trans (by rw [dram])
    · rw [State.writeDram_touch _ _ _ (by decide)]
      exact ((State.unbuffer_rest v e).mono (by decide)).step (rest.mono (by decide))
  case writeback =>
    intro id level node lines u s v formed ev
    refine ⟨nodeWriteback_none formed ev, fun free fits => ⟨?clean, ?dirty⟩⟩
    case clean =>
      intro x found clean
      obtain ⟨ident, rfl, rfl⟩ := cachedNode_key found
      rw [nodeWriteback_evicts formed ev found, State.evictNode_clean _ _ _ _ clean, ident]
      exact congrArg _ (State.memDone_settled _ _ free (overfull_filter fits _))
    case dirty =>
      rintro x k ctrs _ found dirty serves chip sound held more rfl
      obtain ⟨ident, rfl, rfl⟩ := cachedNode_key found
      rw [← ident] at serves chip sound held ⊢
      obtain ⟨y, ⟨rest, mem⟩, chip', ran⟩ :=
        nodeWriteback_stores formed ev free fits found dirty serves chip sound held more
      have place : nodeAddr v x.id x.level x.node = nodeAddr y x.id x.level x.node := by
        unfold nodeAddr
        rw [idWord_of_same mem]
      have whole : Touch [.slots, .power, .mem, .dram, .eye] v (y.nodeStored k lines x ctrs) :=
        (rest.mono (by decide)).step ((State.nodeStored_rest k lines ctrs y).mono (by decide))
      refine ⟨_, ran, State.nodeStored_gone k lines ctrs y, ?_, State.nodeStored_parent k lines ctrs chip',
        whole.mode (by decide), whole.hostMem (by decide), whole.streams (by decide)⟩
      rw [place]
      exact State.nodeStored_read k lines ctrs y

end Sys2Proof.Machine

/-!
PROOFS. The statement on links and port resets (O40).
-/

namespace Sys2Proof.Machine

/-! ### What moves nothing of a port but its counters (Table 10.4) -/

/-- Between two states every port is as it was but for its counters, of which counter i too reads the same. -/
structure CountsApart (i : Nat) (s t : State) : Prop where
  port : ∀ q, t.port q = { s.port q with ctr := (t.port q).ctr }
  counter : SameCounter i s t

namespace CountsApart

variable {i : Nat}

theorem of_ports {s t : State} (same : t.ports = s.ports) : CountsApart i s t :=
  ⟨fun q => by rw [State.port, same]; rfl, sameCounter_of_ports same⟩

theorem trans {s t u : State} (h : CountsApart i s t) (k : CountsApart i t u) : CountsApart i s u :=
  ⟨fun q => by rw [k.port q, h.port q], h.counter.trans k.counter⟩

theorem then_ports {s t u : State} (h : CountsApart i s t) (same : u.ports = t.ports) : CountsApart i s u :=
  h.trans (of_ports same)

theorem up {s t : State} (h : CountsApart i s t) (q : Nat) : (t.port q).up = (s.port q).up := by rw [h.port q]

theorem conds {s t : State} (h : CountsApart i s t) (q : Nat) : (t.port q).conds = (s.port q).conds := by rw [h.port q]

theorem ite {s t u : State} {p : Prop} [Decidable p] (h : CountsApart i s t) (k : CountsApart i s u) :
    CountsApart i s (if p then t else u) := by
  split
  · exact h
  · exact k

theorem foldl {α : Type} {f : State → α → State} (each : ∀ t x, CountsApart i t (f t x)) :
    ∀ (l : List α) (s : State), CountsApart i s (l.foldl f s)
  | [], _ => of_ports rfl
  | x :: l, s => (each s x).trans (foldl each l (f s x))

end CountsApart

theorem State.bumpPort_port (s : State) (p j k q : Nat) :
    (s.bumpPort p j k).port q = { s.port q with ctr := ((s.bumpPort p j k).port q).ctr } := by
  rw [State.bumpPort]
  by_cases own : q = p
  · rw [own, State.port_setPort]
  · rw [State.port_setPort_other _ own]

theorem State.bumpPort_apart {i j : Nat} (apart : i ≠ j) (s : State) (p k : Nat) :
    CountsApart i s (s.bumpPort p j k) :=
  ⟨s.bumpPort_port p j k, sameCounter_bumpPort apart s p k⟩

/-! ### Frames in flight on a port whose link goes down (R302, R307, R308) -/

theorem State.linkDownCount_apart {i : Nat} (other : i ≠ 30) (s : State) (x : TxFrame) (status : Nat) :
    CountsApart i s (s.linkDownCount x status) := by
  unfold State.linkDownCount
  exact .ite (State.bumpPort_apart other ..) (.of_ports rfl)

theorem State.allot_ports (s : State) (h : Nat) : (s.allot h).2.ports = s.ports :=
  ((State.allot_touch (Lt := [.rings]) s h (by decide)).mpr (Touch.refl _ _)).ports (by decide)

/-- Of the ports, the end of a frame moves counter 30 alone (Table 10.4). -/
theorem State.completeTx_apart {i : Nat} (other : i ≠ 30) (s : State) (x : TxFrame) (status : Nat) (onePort : Bool) :
    CountsApart i s (s.completeTx x status onePort) := by
  unfold State.completeTx
  extract_lets h c s0 s1 s2 s3 s4 s5 w
  have shot : CountsApart i s s0 := .of_ports (State.onShots_ports ..)
  have traced : CountsApart i s s1 := .ite (shot.then_ports rfl) shot
  have failed : CountsApart i s s2 := .ite (traced.then_ports rfl) traced
  have keyless : CountsApart i s s3 := .ite (failed.then_ports rfl) failed
  have echoed : CountsApart i s s4 :=
    CountsApart.trans (t := if status = stEcho then s3.count 0x308 h c.domain 1 else s3)
      (.ite (keyless.then_ports rfl) keyless) (State.linkDownCount_apart other ..)
  have counted : CountsApart i s s5 := .ite (echoed.then_ports rfl) (.ite (echoed.then_ports rfl) echoed)
  clear_value s5
  have allotted : CountsApart i s (s5.allot h).2 := counted.then_ports (s5.allot_ports h)
  split
  · exact counted
  split
  · exact counted.then_ports rfl
  split
  · exact counted
  rcases given : s5.allot h with ⟨_ | e, s6⟩
  · exact counted.then_ports rfl
  · rw [given] at allotted
    exact allotted.then_ports rfl

theorem State.endIfDone_apart {i : Nat} (other : i ≠ 30) (s : State) (x : TxFrame) :
    CountsApart i s (s.endIfDone x) := by
  unfold State.endIfDone
  exact .ite (State.completeTx_apart other ..) (.of_ports rfl)

theorem State.oneCopyLess_ports (s : State) (p : Nat) (x : TxFrame) : (s.oneCopyLess p x).ports = s.ports :=
  ((State.oneCopyLess_touch (Lt := [.pairs]) s p x (by decide)).mpr (Touch.refl _ _)).ports (by decide)

/-- The cut of the frames on a port moves counters 29 and 30 alone of the ports. -/
theorem State.cutPort_apart {i : Nat} (uncut : i ≠ 29) (other : i ≠ 30) (s : State) (p : Nat) :
    CountsApart i s (s.cutPort p) := by
  refine CountsApart.foldl (fun t x => ?_) _ s
  extract_lets b t1 y t2
  have noted : CountsApart i t t1 :=
    .ite ((State.bumpPort_apart uncut t p 1).then_ports rfl) (.of_ports (t.oneCopyLess_ports p x))
  have skipped : CountsApart i t t2 := .ite (noted.then_ports rfl) noted
  exact skipped.trans (State.endIfDone_apart other ..)

theorem State.failWaiting_apart {i : Nat} (other : i ≠ 30) (s : State) (p : Nat) :
    CountsApart i s (s.failWaiting p) := by
  refine CountsApart.foldl (fun t x => ?_) _ s
  extract_lets t1 t2
  have dropped : CountsApart i t t1 := .ite (.of_ports rfl) (.of_ports rfl)
  have skipped : CountsApart i t t2 := .ite (dropped.then_ports rfl) dropped
  exact skipped.trans (State.completeTx_apart other ..)

theorem State.abortReceive_apart {i : Nat} (other : i ≠ 7) (s : State) (p : Nat) (cut : List Nat) :
    CountsApart i s (s.abortReceive p cut) := by
  unfold State.abortReceive
  dsimp only
  refine CountsApart.trans ?_ (State.bumpPort_apart other ..)
  exact .of_ports rfl

/-! ### The link of a port is declared down (R307, R308) -/

/-- Link p down, before anything is made of that. -/
def State.linkCut (s : State) (p : Nat) : State := s.setPort p { s.port p with up := false }

theorem State.declareDown_of_down {s : State} {p : Nat} (down : (s.port p).up = false) (cut : List Nat) :
    s.declareDown p cut = s := by
  simp [State.declareDown, down]

/-- A link that was up goes down with one count in counter 41, and its frames in flight end (R307, R308). -/
theorem State.declareDown_of_up {s : State} {p : Nat} (up : (s.port p).up = true) (cut : List Nat) :
    s.declareDown p cut =
      (((((s.linkCut p).bumpPort p 41 1).post (12 * p + 1)).abortReceive p cut).cutPort p).failWaiting p := by
  simp only [State.declareDown, up, Bool.not_true, Bool.false_eq_true, if_false]
  rfl

/-- What the end of the frames in flight makes of the ports. -/
theorem State.declareDown_apart {i : Nat} {s : State} {p : Nat} (up : (s.port p).up = true) (cut : List Nat)
    (other : i ∉ [7, 29, 30]) : CountsApart i ((s.linkCut p).bumpPort p 41 1) (s.declareDown p cut) := by
  simp only [List.mem_cons, List.not_mem_nil, or_false, not_or] at other
  obtain ⟨received, cutOff, failed⟩ := other
  rw [State.declareDown_of_up up]
  have posted : CountsApart i ((s.linkCut p).bumpPort p 41 1) (((s.linkCut p).bumpPort p 41 1).post (12 * p + 1)) :=
    .of_ports (State.post_ports ..)
  exact ((posted.trans (State.abortReceive_apart received ..)).trans (State.cutPort_apart cutOff failed ..)).trans
    (State.failWaiting_apart failed ..)

section DeclareDown

variable (s : State) (p : Nat) (cut : List Nat)

theorem State.declareDown_down : ((s.declareDown p cut).port p).up = false := by
  cases up : (s.port p).up with
  | false => rw [State.declareDown_of_down up, up]
  | true =>
    rw [(State.declareDown_apart up cut (i := 41) (by decide)).up, State.bumpPort_port, State.linkCut,
      State.port_setPort]

/-- No other link changes. -/
theorem State.declareDown_up_other {q : Nat} (other : q ≠ p) :
    ((s.declareDown p cut).port q).up = (s.port q).up := by
  cases up : (s.port p).up with
  | false => rw [State.declareDown_of_down up]
  | true =>
    rw [(State.declareDown_apart up cut (i := 41) (by decide)).up, State.bumpPort_port, State.linkCut,
      State.port_setPort_other _ other]

theorem State.declareDown_conds : ((s.declareDown p cut).port p).conds = (s.port p).conds := by
  cases up : (s.port p).up with
  | false => rw [State.declareDown_of_down up]
  | true =>
    rw [(State.declareDown_apart up cut (i := 41) (by decide)).conds, State.bumpPort_port, State.linkCut,
      State.port_setPort]

/-- A link that was up counts one declaration (Table 10.4). -/
theorem State.declareDown_counts (up : (s.port p).up = true) :
    Table.get 0 41 ((s.declareDown p cut).port p).ctr = Table.get 0 41 (s.port p).ctr + 1 := by
  rw [(State.declareDown_apart up cut (by decide)).counter, State.bumpPort_counter, State.linkCut, State.port_setPort]
  rfl

end DeclareDown

/-! ### LINK_DOWN (R306) -/

/-- Condition c holds at port p, with its event and counter where it did not hold before. -/
def State.condSet (s : State) (p : Nat) (c : LinkCond) : State :=
  if (s.port p).conds.contains c then s
  else (s.setPort p { s.port p with conds := (s.port p).conds ++ [c] }).condBegins p c

theorem State.condBegins_apart {i : Nat} (other : i ≠ 42) (s : State) (p : Nat) (c : LinkCond) :
    CountsApart i s (s.condBegins p c) := by
  cases c with
  | highBer => exact CountsApart.trans (.of_ports (State.post_ports ..)) (State.bumpPort_apart other ..)
  | _ => exact .of_ports rfl

section CondSet

variable (s : State) (p : Nat) (c : LinkCond)

theorem State.condSet_mem : c ∈ ((s.condSet p c).port p).conds := by
  rw [State.condSet]
  split
  case isTrue held => exact List.contains_iff_mem.mp held
  case isFalse =>
    rw [(State.condBegins_apart (i := 41) (by decide) ..).conds, State.port_setPort]
    simp

theorem State.condSet_up (q : Nat) : ((s.condSet p c).port q).up = (s.port q).up := by
  rw [State.condSet]
  split
  case isTrue => rfl
  case isFalse =>
    rw [(State.condBegins_apart (i := 41) (by decide) ..).up]
    by_cases own : q = p
    · rw [own, State.port_setPort]
    · rw [State.port_setPort_other _ own]

theorem State.condSet_counter : SameCounter 41 s (s.condSet p c) := by
  rw [State.condSet]
  split
  case isTrue => exact sameCounter_of_ports rfl
  case isFalse =>
    refine SameCounter.trans ?_ (State.condBegins_apart (i := 41) (by decide) ..).counter
    exact sameCounter_setPort 41 s rfl

theorem State.condSet_touch : Touch [.ports, .eye] s (s.condSet p c) := by
  rw [State.condSet]
  exact .ite (Touch.refl _ _) ((State.condBegins_touch _ _ _ (by decide)).mpr
    ((State.setPort_touch _ _ _ (by decide)).mpr (Touch.refl _ _)))

end CondSet

section LinkDown

variable {p : Fin 16} {c : LinkCond} {s : State} (exist : portExists s.img p.val = true)
  (applies : condApplies s.img p.val c = true) (now : Nat) (cut : List Nat)
include exist applies

theorem linkDown_present : exec (.linkDown p c true now cut) s =
    .next (((s.atTime now).condSet p.val c).declareDown p.val cut) := by
  simp only [exec, execLinkDown, State.atTime_img, exist, applies, Bool.not_true, Bool.or_self, Bool.false_eq_true,
    if_false, if_true]
  rfl

theorem linkDown_clears (held : c ∈ (s.port p.val).conds) : exec (.linkDown p c false now cut) s =
    .next ((s.atTime now).setPort p.val { s.port p.val with
      conds := (s.port p.val).conds.filter (· != c)
      cleanFrom := if (s.port p.val).conds.filter (· != c) = [] then max s.now now
        else (s.port p.val).cleanFrom }) := by
  simp only [exec, execLinkDown, State.atTime_img, State.atTime_port, exist, applies, List.contains_iff_mem.mpr held,
    List.isEmpty_iff, Bool.not_true, Bool.or_self, Bool.false_eq_true, if_false, if_true]
  rfl

theorem linkDown_clear_idle (free : c ∉ (s.port p.val).conds) :
    exec (.linkDown p c false now cut) s = .next (s.atTime now) := by
  simp [exec, execLinkDown, exist, applies, free]

end LinkDown

/-- What a link that goes down may alter. -/
theorem Touch.linkDown_frame {s t : State}
    (h : Touch [.now, .streams, .shots, .rings, .tx, .rx, .egSkip, .ports, .pairs, .eye] s t) : t = { s with
      now := t.now, streams := t.streams, shots := t.shots, rings := t.rings, tx := t.tx, rx := t.rx,
      egSkip := t.egSkip, ports := t.ports, pairs := t.pairs, eye := t.eye } := by
  refine State.eq_of_same fun f => ?_
  have kept := h f
  cases f
  case now | streams | shots | rings | tx | rx | egSkip | ports | pairs | eye => rfl
  all_goals exact kept rfl

/-! ### LINK_UP (R298, R306) -/

theorem txEnable_atTime (s : State) (p t : Nat) : txEnable (s.atTime t) p = txEnable s p := rfl

theorem linkUp_declares {p : Fin 16} {now : Nat} {partner : Option Bool} {s : State}
    (enabled : txEnable s p.val = true) (down : (s.port p.val).up = false) (free : (s.port p.val).conds = [])
    (found : autonegRuns s.img p.val = true → partner = some true)
    (held : (s.port p.val).cleanFrom + (portCfg s.img p.val).holdMs * 1000000 ≤ max s.now now) :
    exec (.linkUp p now partner) s =
      .next (((s.atTime now).setPort p.val { s.port p.val with up := true }).post (12 * p.val)) := by
  have agreed : (autonegRuns s.img p.val && partner != some true) = false := by
    cases runs : autonegRuns s.img p.val with
    | false => rfl
    | true => simp [found runs]
  simp only [exec, execLinkUp, txEnable_atTime, State.atTime_port, State.atTime_img, State.atTime_now, enabled, down,
    free, agreed, Nat.not_lt.mpr held, List.isEmpty_nil, Bool.not_true, Bool.or_self, decide_false, Bool.false_eq_true,
    if_false]

/-! ### Port resets (R312, R496, R498) -/

section PortReset

variable {p : Fin 16} {s : State}

/-- A port that exists is held in reset from now, with its link down (R312). -/
theorem State.resetPort_holds {q : Nat} (exist : portExists s.img q = true) (cut : List Nat) :
    ((s.resetPort q cut).port q).up = false ∧ ((s.resetPort q cut).port q).inReset = true ∧
      ((s.resetPort q cut).port q).resetAt = s.now := by
  have stays : (s.declareDown q cut).now = s.now :=
    ((State.declareDown_touch (Lt := [.streams, .shots, .rings, .tx, .rx, .egSkip, .ports, .pairs, .eye]) s q cut
      (by decide)).mpr (Touch.refl _ _)).now (by decide)
  have reset : s.resetPort q cut = (s.declareDown q cut).setPort q
      { (s.declareDown q cut).port q with inReset := true, resetAt := (s.declareDown q cut).now } := by
    simp only [State.resetPort, exist, Bool.not_true, Bool.false_eq_true, if_false]
  rw [reset, State.port_setPort]
  exact ⟨s.declareDown_down q cut, rfl, stays⟩

theorem portResetRequest_resets (now : Nat) (cut : List Nat) (begun : s.mode ≠ .assay) (free : s.mode ≠ .lockdown)
    (exist : portExists s.img p.val = true) (fresh : (s.port p.val).prstAck = false) :
    exec (.portResetRequest p now cut) s = .next (((s.atTime now).resetPort p.val cut).setPort p.val
      { ((s.atTime now).resetPort p.val cut).port p.val with prstAck := true }) := by
  simp only [exec, execPortResetRequest, State.atTime_mode, State.atTime_img, State.atTime_port,
    beq_eq_false_iff_ne.mpr begun, beq_eq_false_iff_ne.mpr free, exist, fresh, Bool.not_true, Bool.or_self,
    Bool.false_eq_true, if_false]

theorem portResetRequest_idle (now : Nat) (cut : List Nat) (shut : s.mode = .assay ∨ s.mode = .lockdown ∨
    portExists s.img p.val = false ∨ (s.port p.val).prstAck = true) :
    exec (.portResetRequest p now cut) s = .next (s.atTime now) := by
  rcases shut with shut | shut | shut | shut <;> simp [exec, execPortResetRequest, shut]

theorem portResetComplete_ends {now : Nat} (exist : portExists s.img p.val = true)
    (held : (s.port p.val).inReset = true) (due : (s.port p.val).resetAt + 10000 ≤ max s.now now) :
    exec (.portResetComplete p now) s = .next (((s.atTime now).setPort p.val { s.port p.val with
      inReset := false, resetAt := 0, cleanFrom := max s.now now }).post (12 * p.val + 11)) := by
  simp only [exec, execPortResetComplete, State.atTime_img, State.atTime_port, State.atTime_now, exist, held, due,
    decide_true, Bool.and_self, if_true]

end PortReset

/-- Settles O40: a link that goes down and a port reset by the declaration that both make, after which the frames in
flight move no link, no condition and not counter 41; the other rows by the branch that their premises select. -/
theorem linkAndPortResetRowsAct : Obligations.LinkAndPortResetRowsAct := by
  unfold Obligations.LinkAndPortResetRowsAct
  refine ⟨?down, fun p now partner s => linkUp_declares, fun p now cut s =>
    ⟨?reset, portResetRequest_idle now cut, rfl, portResetComplete_ends⟩⟩
  case down =>
    intro p c now cut s exist applies
    refine ⟨⟨_, linkDown_present exist applies now cut, State.declareDown_down .., ?records, ?counts, ?others,
      Touch.linkDown_frame ?frame⟩, ?clears, linkDown_clear_idle exist applies now cut⟩
    case records =>
      rw [State.declareDown_conds]
      exact State.condSet_mem ..
    case counts =>
      intro up
      have before : (((s.atTime now).condSet p.val c).port p.val).up = true := (State.condSet_up ..).trans up
      rw [State.declareDown_counts _ _ _ before, State.condSet_counter]
      rfl
    case others =>
      intro q other
      rw [State.declareDown_up_other _ _ _ other, State.condSet_up]
      rfl
    case frame =>
      rw [State.declareDown_touch _ _ _ (by decide)]
      exact ((State.atTime_touch _ _ (by decide)).mpr (Touch.refl _ _)).step
        (((s.atTime now).condSet_touch p.val c).mono (by decide))
    case clears =>
      rintro left held rfl
      exact linkDown_clears exist applies now cut held
  case reset =>
    intro begun free exist fresh
    obtain ⟨down, held, since⟩ := State.resetPort_holds (s := s.atTime now) exist cut
    refine ⟨_, portResetRequest_resets now cut begun free exist fresh, ?_, ?_, ?_, ?_, Touch.linkDown_frame ?frame⟩
    case frame =>
      rw [State.setPort_touch _ _ _ (by decide), State.resetPort_touch _ _ _ (by decide),
        State.atTime_touch _ _ (by decide)]
      exact Touch.refl _ _
    all_goals rw [State.port_setPort]
    · exact down
    · exact held
    · exact since

end Sys2Proof.Machine

/-!
PROOFS. The statements on the step, on the memories, the modes, the fuse fields and the tamper latch (O1, O3 to O9):
what every command but a reset keeps, said once as `Holds` and carried through every operation of the model.
-/

namespace Sys2Proof.Machine

/-! ### What every command but a reset keeps -/

/-- The fields of the state of which no clause of `Holds` speaks. -/
def quiet : List Fld := [.now, .draws, .assay, .nv, .active, .img, .bmr, .ladder, .tamperLevel, .retention, .power, .tcfg,
  .ticks, .ovr, .mail, .rotation, .cmds, .nextCmd, .staged, .streams, .shots, .aux, .adm, .grace, .slots, .keyCtl, .ent,
  .imports, .rings, .jobs, .tx, .rx, .nextFrame, .egSkip, .eReady, .classifying, .ingress, .ports, .pairs, .noticeLog,
  .gates, .pubs, .vers, .v2, .bw, .pebbles, .mem, .eye, .bus, .out]

/-- The fuse fields but the root, which Assay step 2 reads (R413). -/
def Fuses.read (f : Fuses) : BitVec 8 × BitVec 384 × BitVec 32 × BitVec 4 × Bool :=
  (f.lifecycle, f.ownerDigest, f.rollbackFloor, f.entropyWait, f.debugLock)

/-- What a command between two states keeps, Assay and the resets apart: the queue, the fuse fields read by Assay, each
latched tamper bit, the canonical form of the memories, Lockdown with its cause and fatal output, and Drill but for the
way into Lockdown. -/
structure Holds (s t : State) : Prop where
  queue : t.pending = s.pending
  fuses : t.fuses.read = s.fuses.read
  tamper : s.tamperLatch &&& t.tamperLatch = s.tamperLatch
  memory : s.canonical → t.canonical
  lockdown : s.mode = .lockdown → t.mode = .lockdown ∧ t.cause = s.cause ∧ t.fatal = s.fatal
  drill : s.mode = .drill → t.mode = .drill ∨ t.mode = .lockdown

/-- `Holds`, said of every state that differs from the second in quiet fields alone. In this form the `_touch` lemmas
of the model's operations rewrite the goal: one that changes quiet fields alone falls away. -/
@[simp] def Keeps (s t : State) : Prop := ∀ u, Touch quiet u t → Holds s u

theorem Holds.quiet {s t u : State} (h : Holds s t) (k : Touch quiet u t) : Holds s u := by
  have e (f : Fld) (w : Machine.quiet.contains f = false) : t.same u f := State.same_symm (k f w)
  have e1 : u.pending = t.pending := e .pending rfl
  have e2 : u.fuses = t.fuses := e .fuses rfl
  have e3 : u.tamperLatch = t.tamperLatch := e .tamperLatch rfl
  have e4 : u.hostMem = t.hostMem := e .hostMem rfl
  have e5 : u.dram = t.dram := e .dram rfl
  have e6 : u.mode = t.mode := e .mode rfl
  have e7 : u.cause = t.cause := e .cause rfl
  have e8 : u.fatal = t.fatal := e .fatal rfl
  obtain ⟨h1, h2, h3, h4, h5, h6⟩ := h
  constructor
  · rwa [e1]
  · rwa [e2]
  · rwa [e3]
  · intro c; have := h4 c; rwa [State.canonical, ← e4, ← e5] at this
  · rwa [e6, e7, e8]
  · rwa [e6]

theorem keeps_iff {s t : State} : Keeps s t ↔ Holds s t := ⟨fun h => h t (Touch.refl _ _), fun h _ k => h.quiet k⟩

theorem Keeps.refl (s : State) : Keeps s s :=
  keeps_iff.2 ⟨rfl, rfl, by simp, id, fun h => ⟨h, rfl, rfl⟩, .inl⟩

section Updates
variable {s0 u : State} {x1 x2 : Nat} {x6 : AssayState} {x8 : NvStore} {x9 : Option Active} {x10 : ImgCfg} {x11 : BitVec 384}
  {x12 : Ladder} {x14 : BitVec 4} {x15 : Option Retention} {x16 : Power} {x17 : TickCfg} {x18 : TickState}
  {x19 : OverrunState} {x20 : Table Mailbox} {x21 : Nat} {x22 : List Cmd} {x23 : Nat} {x24 : List Staged}
  {x25 : Table Context} {x26 : List Shot} {x27 : Table StreamAux} {x28 : Table Demand} {x29 : List GraceEntry}
  {x30 : Table KeySlot} {x31 : KeyCtl} {x32 : Entropy} {x33 : List Import} {x34 : Table Ring} {x36 : List RecordJob}
  {x37 : List TxFrame} {x38 : List RxFrame} {x39 : Nat} {x40 : List Nat} {x41 x42 : Bool} {x43 : List Beat}
  {x44 : Table PortState} {x45 : Table PairState} {x46 : NoticeLog} {x47 : Table Gate} {x48 : Table Pub} {x49 : Table Ver}
  {x50 : List V2Rec} {x51 : BwState} {x52 : Table (List Word)} {x53 : MemPlane} {x55 : Eye} {x56 : BusReply} {x57 : Outputs}

/-- An update of quiet fields alone leaves a state as far from the first as it was. -/
@[simp] theorem touch_mk :
    Touch quiet s0 ⟨u.pending, x1, x2, u.mode, u.cause, u.fatal, x6, u.fuses, x8, x9, x10, x11, x12, u.tamperLatch, x14, x15,
      x16, x17, x18, x19, x20, x21, x22, x23, x24, x25, x26, x27, x28, x29, x30, x31, x32, x33, x34, u.hostMem, x36, x37, x38,
      x39, x40, x41, x42, x43, x44, x45, x46, x47, x48, x49, x50, x51, x52, x53, u.dram, x55, x56, x57⟩ ↔
    Touch quiet s0 u := by
  constructor
  all_goals
    intro h f hf
    have same := h f hf
    cases f
    case pending | mode | cause | fatal | fuses | tamperLatch | hostMem | dram => exact same
    all_goals exact absurd hf (by decide)

/-- A change of mode keeps the clauses where the first state was neither in Drill nor in Lockdown. -/
theorem Keeps.setMode (h : Keeps s0 u) (free : s0.mode ≠ .drill ∧ s0.mode ≠ .lockdown) {m : Mode} :
    Keeps s0 ⟨u.pending, x1, x2, m, u.cause, u.fatal, x6, u.fuses, x8, x9, x10, x11, x12, u.tamperLatch, x14, x15,
      x16, x17, x18, x19, x20, x21, x22, x23, x24, x25, x26, x27, x28, x29, x30, x31, x32, x33, x34, u.hostMem, x36, x37, x38,
      x39, x40, x41, x42, x43, x44, x45, x46, x47, x48, x49, x50, x51, x52, x53, u.dram, x55, x56, x57⟩ := by
  obtain ⟨queue, fuses, tamper, memory, -, -⟩ := keeps_iff.1 h
  exact keeps_iff.2 ⟨queue, fuses, tamper, memory, fun e => absurd e free.2, fun e => absurd e free.1⟩

end Updates

/-- A mode from which others lead is in force only where neither Drill nor Lockdown was. -/
theorem Keeps.free {s t : State} (k : Keeps s t) (d : t.mode ≠ .drill) (l : t.mode ≠ .lockdown) :
    s.mode ≠ .drill ∧ s.mode ≠ .lockdown :=
  ⟨fun e => ((keeps_iff.1 k).drill e).elim d l, fun e => l ((keeps_iff.1 k).lockdown e).1⟩

theorem Keeps.free_of {s t : State} {m : Mode} (k : Keeps s t) (e : t.mode = m) (h : m ≠ .drill ∧ m ≠ .lockdown) :
    s.mode ≠ .drill ∧ s.mode ≠ .lockdown := k.free (e ▸ h.1) (e ▸ h.2)

/-- An outcome is a next state, of which P holds. -/
def Leads (P : State → Prop) (o : Out) : Prop := ∃ t, o = .next t ∧ P t

@[simp] theorem leads_next {P : State → Prop} {t : State} : Leads P (.next t) ↔ P t := by simp [Leads]

theorem Leads.ite {P : State → Prop} {o q : Out} {c : Prop} [Decidable c] (ho : Leads P o) (hq : Leads P q) :
    Leads P (if c then o else q) := by
  split <;> assumption

/-! ### Lockdown, key fetches and derivations -/

/-- The clauses pass on to the state that a pair names. -/
theorem Keeps.of_pair {α : Type} {s u : State} {p : α × State} {a : α} (e : p = (a, u)) (h : Keeps s p.2) :
    Keeps s u := by rw [e] at h; exact h

/-- The same for the state that comes with a walk, the bytes read and whether they are fresh. -/
theorem Keeps.of_read {α β γ : Type} {s u : State} {p : α × β × γ × State} {a : α} {b : β} {c : γ}
    (e : p = (a, b, c, u)) (h : Keeps s p.2.2.2) : Keeps s u := by rw [e] at h; exact h

theorem Keeps.foldl {α : Type} {s u : State} {f : State → α → State} (h : ∀ t x, Keeps s t → Keeps s (f t x))
    (k : Keeps s u)    (l : List α) : Keeps s (l.foldl f u) := by
  induction l generalizing u with
  | nil => exact k
  | cons x l ih => exact ih (h u x k)

/-- A change within the quiet fields keeps the clauses. -/
theorem Keeps.rest {L : List Fld} {s t u : State} (k : Keeps s t) (h : Touch L t u) (w : within L quiet = true) :
    Keeps s u := fun v hv => k v ((Touch.iff h w).1 hv)

theorem Keeps.ite {s t u : State} {c : Prop} [Decidable c] (ht : Keeps s t) (hu : Keeps s u) :
    Keeps s (if c then t else u) := by
  split <;> assumption

section
variable {s0 s : State} (k : Keeps s0 s)
include k

theorem Keeps.writeHost {a : Nat} {bs : List Byte} : Keeps s0 (s.writeHost a bs) := by
  have h := keeps_iff.1 k
  exact keeps_iff.2 { h with memory := fun c => canonical_writeHost (h.memory c) a bs }

theorem Keeps.writeDram {a : Nat} {bs : List Byte} : Keeps s0 (s.writeDram a bs) := by
  have h := keeps_iff.1 k
  exact keeps_iff.2 { h with memory := fun c => canonical_writeDram (h.memory c) a bs }

theorem Keeps.zeroRoot : Keeps s0 { s with fuses := { s.fuses with root := 0 } } := by
  have h := keeps_iff.1 k
  exact keeps_iff.2 { h with }

theorem Keeps.latch {m l : BitVec 4} : Keeps s0 { s with tamperLatch := s.tamperLatch ||| m, tamperLevel := l } := by
  have h := keeps_iff.1 k
  refine keeps_iff.2 { h with tamper := ?_ }
  ext i
  have := congrArg (·.getLsbD i) h.tamper
  simp at this ⊢
  tauto

theorem Keeps.zeroise : Keeps s0 s.zeroise := by
  have h : Holds s0 s.discardCommands := keeps_iff.1 (by simpa (disch := decide) using k)
  exact keeps_iff.2 ⟨h.queue, h.fuses, h.tamper, h.memory, h.lockdown, h.drill⟩

theorem Keeps.lockdown {c : Nat} : Keeps s0 (s.lockdown c) := by
  unfold State.lockdown
  split
  · exact k
  · rename_i out
    have still : s0.mode ≠ .lockdown := fun e => out ((keeps_iff.1 k).lockdown e).1
    have h : Holds s0 (s.placeAll (abortWords s.rx)).zeroise :=
      keeps_iff.1 (Keeps.zeroise (by simpa (disch := decide) using k))
    simp (disch := decide) only [Keeps, State.post_touch]
    exact keeps_iff.2 ⟨h.queue, h.fuses, h.tamper, h.memory, fun e => absurd e still, fun _ => .inr rfl⟩

theorem Keeps.cellFault {n : Nat} : Keeps s0 (s.cellFault n) := by
  simp only [State.cellFault]
  split
  · exact Keeps.lockdown (by simpa (disch := decide) using k)
  · simpa (disch := decide) using k

theorem Keeps.fetch {u n use : Nat} {bad : Bool} : Keeps s0 (s.fetch u n use bad).2 := by
  have noted : Keeps s0 { (s.post (fetchFailEvent u)).post 462 with ladder := { s.ladder with
      fetchRefusals := satAdd s.ladder.fetchRefusals 1 } } := by
    simpa (disch := decide) using k
  simp only [State.fetch]
  split
  · simpa (disch := decide) using k
  · simpa (disch := decide) using k
  · exact Keeps.ite (noted.cellFault) noted

theorem Keeps.coreFetch {u n use : Nat} {bad : Bool} : Keeps s0 (s.coreFetch u n use bad).2 := by
  simpa (disch := decide) [State.coreFetch] using k.fetch

theorem Keeps.deriveBy {u : Nat} {bad : Bool} {n parent : Nat} {dom : Option Nat} {label : String} {ctx : List Byte}
    {uses origin : Nat} {expire : Bool} {limit : Word} :
    Keeps s0 (s.deriveBy u bad n parent dom label ctx uses origin expire limit).2 := by
  have fetched := k.coreFetch (u := u) (n := parent) (use := useKdf) (bad := bad)
  unfold State.deriveBy
  split <;> rename_i e <;> rw [e] at fetched
  · simpa (disch := decide) using fetched
  · exact fetched

theorem Keeps.deriveSlot {n parent : Nat} {dom : Option Nat} {label : String} {ctx : List Byte} {uses origin : Nat}
    {expire : Bool} {limit : Word} : Keeps s0 (s.deriveSlot n parent dom label ctx uses origin expire limit) :=
  k.deriveBy

theorem Keeps.deriveTree {a b : Nat} {keys roots : List Nat} {ids : List Word} :
    Keeps s0 (s.deriveTree a b keys roots ids) :=
  Keeps.foldl (fun _ _ h => h.deriveSlot.deriveSlot)
    (Keeps.foldl (fun _ _ h => h.deriveSlot) (Keeps.foldl (fun _ _ h => h.deriveSlot) k _) _) _

theorem Keeps.formLadder {ids : List Word} : Keeps s0 (s.formLadder ids) := by
  simp (disch := decide) only [State.formLadder, Keeps, State.post_touch]
  refine Keeps.zeroRoot ((Keeps.deriveSlot ?_).deriveSlot.deriveTree)
  simpa (disch := decide) using k

theorem Keeps.sliceKey {sl : Nat} {badA badB : Bool} {i : Nat} : Keeps s0 (s.sliceKey sl badA badB i).2 := by
  have cleared : Keeps s0 { s with mem := { s.mem with keys := Table.put .none sl .none s.mem.keys } } := by
    simpa (disch := decide) using k
  have first := cleared.fetch (u := 6 + sl) (n := slotMemA i) (use := useMemory) (bad := badA)
  simp only [State.sliceKey]
  split
  · exact k
  · split <;> rename_i e <;> rw [e] at first
    · have second := first.fetch (u := 6 + sl) (n := slotMemB i) (use := useMemory) (bad := badB)
      split <;> rename_i e' <;> rw [e'] at second
      · simpa (disch := decide) using second
      · exact second
    · exact first

end

/-! ### Teasel's memory plane -/

section
variable {s0 s : State} (k : Keeps s0 s)
include k

theorem Keeps.trimTags {a : Nat} : Keeps s0 (s.trimTags a) := by
  simp only [State.trimTags]
  split
  · exact k
  · split
    · exact Keeps.ite (Keeps.writeDram (by simpa (disch := decide) using k)) (by simpa (disch := decide) [Keeps] using k)
    · exact k

theorem Keeps.putTagLine {a : Nat} {bytes : List Byte} {dirty : Bool} : Keeps s0 (s.putTagLine a bytes dirty) :=
  Keeps.trimTags (by simpa (disch := decide) using k)

theorem Keeps.tagLine {lines : List DramLine} {a : Nat} : Keeps s0 (s.tagLine lines a).2 := by
  simp only [State.tagLine]
  split
  · simpa (disch := decide) using k.putTagLine
  · have seen : Keeps s0 ((s.post 442).eccSeen (dramLine s lines a).2) := by simpa (disch := decide) using k
    exact Keeps.ite seen seen.putTagLine

theorem Keeps.writeTag {lines : List DramLine} {i port a : Nat} {tag : List Byte} {engine seen : Bool} :
    Keeps s0 (s.writeTag lines i port a tag engine seen) := by
  have h := k.tagLine (lines := lines) (a := lineOf a)
  simp only [State.writeTag]
  refine Keeps.ite (Keeps.writeDram ?_) (Keeps.putTagLine (Keeps.ite k.putTagLine h))
  simpa (disch := decide) using Keeps.ite k.putTagLine h

theorem Keeps.readData {key : MemKey} {lines : List DramLine} {i n a : Nat} :
    Keeps s0 (readData key lines i n a s).2.2 := by
  have h := k.tagLine (lines := lines) (a := lineOf (dataTagAddr s i n))
  simp only [Machine.readData]
  repeat' split
  all_goals simpa (disch := decide) using h

theorem Keeps.walkNode {key : MemKey} {lines : List DramLine} {i fuel level j : Nat} :
    Keeps s0 (walkNode key lines i fuel level j s).2 := by
  induction fuel generalizing level j with
  | zero => exact k
  | succ fuel ih =>
    have above := ih (level := level + 1) (j := j / 8)
    simp only [Machine.walkNode]
    split
    · exact k
    · split
      · exact Keeps.ite k (by simpa (disch := decide) using k)
      · split <;> rename_i e
        · rw [e] at above
          rename_i s1
          have tagged {s2 : State} (h : Keeps s0 s2) {a : Nat} := h.tagLine (lines := lines) (a := a)
          have seen {a : Nat} : Keeps s0 (s1.eccSeen (dramLine s1 lines a).2) := by simpa (disch := decide) using above
          repeat' split
          · simpa (disch := decide) using above
          · exact seen
          all_goals simpa (disch := decide) using tagged seen
        · exact above

theorem Keeps.readLine {key : MemKey} {lines : List DramLine} {i n a : Nat} :
    Keeps s0 (readLine key lines i n a s).2.2.2 := by
  have walked := k.walkNode (key := key) (lines := lines) (i := i) (fuel := treeH s i + 1) (level := 0) (j := n / 8)
  simp only [Machine.readLine]
  split <;> rename_i e <;> rw [e] at walked
  · split
    · exact walked
    · exact walked.readData
  · exact walked

theorem Keeps.writeLine {key : MemKey} {lines : List DramLine} {i n a port : Nat} {seen : Bool} {plain : List Byte} :
    Keeps s0 (s.writeLine key lines i n a port seen plain) := by
  simp only [State.writeLine]
  split
  · simpa (disch := decide) using k
  · exact Keeps.writeDram (Keeps.writeTag (by simpa (disch := decide) using k))

theorem Keeps.integrityFailure {x : MemFault} : Keeps s0 (s.integrityFailure x) :=
  Keeps.lockdown (by simpa (disch := decide) using k)

theorem Keeps.walkFailed {w : Walk} {addr i port : Nat} {write engine : Bool} :
    Keeps s0 (s.walkFailed w addr i port write engine) := by
  cases w with
  | mismatch => exact k.integrityFailure
  | node _ _ t => cases t <;> simpa (disch := decide) [State.walkFailed] using k
  | _ => simpa (disch := decide) [State.walkFailed] using k

theorem Keeps.drainEntry {sl : Nat} {badA badB : Bool} {lines : List DramLine} {e : WmEntry} :
    Keeps s0 (s.drainEntry sl badA badB lines e) := by
  have taken : Keeps s0 (State.postIf { s with mem := { s.mem with wmb := s.mem.wmb.filter (· != e) } } (!(e.mask == fullMask))
      438) := by simpa (disch := decide) using k
  have keyed := taken.sliceKey (sl := sl) (badA := badA) (badB := badB) (i := e.id)
  simp only [State.drainEntry]
  split <;> rename_i f <;> rw [f] at keyed
  · simpa (disch := decide) using keyed
  · rename_i key s2
    have works : Keeps s0 (s2.sliceWorks sl) := by simpa (disch := decide) using keyed
    have counted {n : Nat} : Keeps s0 ((s2.sliceWorks sl).countWalk e.id n) := by simpa (disch := decide) using keyed
    split
    · split
      · exact works.writeDram
      · split
        · simpa (disch := decide) using works
        · exact Keeps.writeDram (by simpa (disch := decide) using works)
    · split
      · simpa (disch := decide) using counted.walkFailed
      · split
        · split <;> rename_i f
          · exact Keeps.writeLine (counted.walkNode.of_pair f)
          · exact Keeps.walkFailed (by simpa (disch := decide) using Keeps.of_pair f counted.walkNode)
        · split <;> rename_i f <;> have read := counted.readLine.of_read f
          · exact read.writeLine
          · exact Keeps.walkFailed (by simpa (disch := decide) using read)
          · simpa (disch := decide) using read.walkFailed

theorem Keeps.evictNode {sl : Nat} {badA badB : Bool} {lines : List DramLine} {x : CNode} :
    Keeps s0 (s.evictNode sl badA badB lines x) := by
  simp only [State.evictNode]
  split
  · simpa (disch := decide) using k
  · split <;> rename_i e <;> have keyed := k.sliceKey.of_pair e
    · simpa (disch := decide) using keyed
    · rename_i key u
      have works : Keeps s0 (u.sliceWorks sl) := by simpa (disch := decide) using keyed
      split <;> rename_i f <;> have walked := works.walkNode.of_pair f
      · split
        · simpa (disch := decide) using walked
        · simp (disch := decide) only [Keeps, State.post_touch, State.dropNode_touch]
          exact Keeps.writeDram (Keeps.writeTag (by simpa (disch := decide) using walked))
      · exact Keeps.walkFailed (by simpa (disch := decide) using walked)

theorem Keeps.trimNodes {sl : Nat} {lines : List DramLine} {fuel : Nat} : Keeps s0 (State.trimNodes sl lines fuel s) := by
  induction fuel generalizing s with
  | zero => exact k
  | succ fuel ih =>
    simp only [State.trimNodes]
    split
    · exact k
    · split
      · exact k
      · exact ih k.evictNode

theorem Keeps.flushLevel {level : Nat} : Keeps s0 (s.flushLevel level) :=
  Keeps.foldl (fun _ _ h => h.ite h.evictNode) k _

theorem Keeps.flushTags : Keeps s0 s.flushTags := by
  have written : Keeps s0 ((s.mem.tcache.filter (·.dirty)).foldl (fun x t => x.writeDram t.addr t.bytes) s) :=
    Keeps.foldl (fun _ _ h => h.writeDram) k _
  simpa (disch := decide) [State.flushTags] using written

theorem Keeps.flushTeasel : Keeps s0 s.flushTeasel := by
  have drained : Keeps s0 (s.mem.wmb.foldl (fun x e => if x.mode == .lockdown then x else x.drainEntry 0 false false [] e) s) :=
    Keeps.foldl (fun _ _ h => h.ite h.drainEntry) k _
  have flushed := Keeps.foldl (fun _ l h => h.flushLevel (level := l)) drained (List.range 7)
  simp only [State.flushTeasel]
  refine flushed.ite ?_
  simpa (disch := decide) using flushed.flushTags

theorem Keeps.takeRead {a : MemAccess} {u : MemUnit} : Keeps s0 (s.takeRead a u) := by
  obtain ⟨s1, e, counted⟩ : ∃ s1, (if isProtected s (accIdent a) then
      s.countWalk (accIdent a) (lineNumber s (accIdent a) (accPhys a)) else s) = s1 ∧ Keeps s0 s1 :=
    ⟨_, rfl, Keeps.ite (by simpa (disch := decide) using k) k⟩
  simp only [State.takeRead, e]
  split
  · simpa (disch := decide) using k
  · split
    · simpa (disch := decide) using counted
    · have works : Keeps s0 (s1.sliceWorks u.slice.val) := by simpa (disch := decide) using counted
      split <;> rename_i f <;> have keyed := works.sliceKey.of_pair f
      all_goals simpa (disch := decide) using keyed

theorem Keeps.takeAccess {a : MemAccess} {u : MemUnit} : Keeps s0 (s.takeAccess a u) := by
  simp only [State.takeAccess]
  repeat' split
  · simpa (disch := decide) using k.writeDram
  · simpa (disch := decide) using k
  · simpa (disch := decide) using k
  · exact k.takeRead

theorem Keeps.takeHeld {u : MemUnit} {l : List MemAccess} : Keeps s0 (State.takeHeld u l s) := by
  induction l generalizing s with
  | nil => exact k
  | cons a l ih =>
    simp only [State.takeHeld]
    split
    · exact ih (by simpa (disch := decide) using k)
    · exact ih k.takeAccess

theorem Keeps.memDone {u : MemUnit} {lines : List DramLine} : Keeps s0 (s.memDone u lines) :=
  Keeps.takeHeld (by simpa (disch := decide) using k.trimNodes)

theorem Keeps.performRead {w : MemWait} {badA badB : Bool} {lines : List DramLine} :
    Keeps s0 (s.performRead w badA badB lines) := by
  simp only [State.performRead]
  split
  · split <;> simpa (disch := decide) using k
  · split <;> rename_i e <;> have keyed := k.sliceKey.of_pair e
    · simpa (disch := decide) using keyed
    · rename_i key u
      have works : Keeps s0 (u.sliceWorks w.slice) := by simpa (disch := decide) using keyed
      split
      · split <;> simpa (disch := decide) using works
      · split
        · simpa (disch := decide) using works.walkFailed
        · split <;> rename_i f <;> have read := works.readLine.of_read f
          · simpa (disch := decide) using read
          · exact Keeps.walkFailed (by simpa (disch := decide) using read)
          · simpa (disch := decide) using read.walkFailed

end

section
variable {s0 s : State} (k : Keeps s0 s)
include k

/-! ### Rings -/

theorem Keeps.writeHeader {h state : Nat} : Keeps s0 (s.writeHeader h state) := by
  simp only [State.writeHeader]
  split
  · simpa (disch := decide) using k
  · exact Keeps.writeHost (by simpa (disch := decide) using k)

theorem Keeps.writeHeaders : Keeps s0 s.writeHeaders :=
  Keeps.foldl (fun _ _ h => Keeps.ite h.writeHeader h) k _

theorem Keeps.putOutput {h : Nat} {o : OutRec} : Keeps s0 (s.putOutput h o) := by
  have written {r : Ring} {a b c : Nat} {x y z : List Byte} :
      Keeps s0 ((((s.setRing h r).writeHost a x).writeHost b y).writeHost c z) :=
    (Keeps.writeHost (by simpa (disch := decide) using k)).writeHost.writeHost
  simpa (disch := decide) only [State.putOutput, Keeps, State.outputWritten_touch] using written

theorem Keeps.drainWaiting {n h : Nat} : Keeps s0 (State.drainWaiting n h s) := by
  induction n generalizing s with
  | zero => exact k
  | succ n ih =>
    simp only [State.drainWaiting]
    split
    · exact k
    · split <;> rename_i e
      · have allotted := Keeps.of_pair e (s := s0) (by simpa (disch := decide) using k)
        exact ih (by simpa (disch := decide) using allotted)
      · exact k

theorem Keeps.eyePut {r : EyeRing} {size : Nat} {words : List Word} : Keeps s0 (s.eyePut r size words) := by
  simp only [State.eyePut]
  split
  · simpa (disch := decide) using k
  · simp only [Keeps, touch_mk]
    exact k.writeHost

theorem Keeps.fillBuffer {x : RxFrame} {off : Nat} {bs : List Byte} : Keeps s0 (s.fillBuffer x off bs) := by
  unfold State.fillBuffer
  split
  · exact k.writeHost
  · exact k

/-! ### Records -/

theorem Keeps.sealChunk {j : RecordJob} {key : Key} {data : List Byte} : Keeps s0 (s.sealChunk j key data) := by
  simp only [State.sealChunk]
  split
  · simpa (disch := decide) using k.writeHost
  · simpa (disch := decide) using k.writeHost.writeHost.writeHost

theorem Keeps.openChunk {j : RecordJob} {key : Key} {data tag : List Byte} : Keeps s0 (s.openChunk j key data tag) := by
  simp only [State.openChunk]
  repeat' split
  · simpa (disch := decide) using k.writeHost
  · simpa (disch := decide) using k.writeHost
  · simpa (disch := decide) using k.writeHost.writeHost

theorem Keeps.beginSeal {j : RecordJob} {key : Key} {data : List Byte} : Keeps s0 (s.beginSeal j key data) :=
  Keeps.sealChunk (by simpa (disch := decide) using k)

theorem Keeps.chunkFetch {u slot n : Nat} {bad : Bool} : Keeps s0 (s.chunkFetch u slot bad n).2 := by
  induction n generalizing s bad with
  | zero => exact k.fetch
  | succ n ih =>
    simp only [State.chunkFetch]
    split <;> rename_i e
    · exact ih (k.fetch.of_pair e)
    · exact k.fetch

theorem Keeps.recordFetch {j : RecordJob} {unit r : Nat} {g : Gen} {bad : Bool} {f : Key → State → State}
    (next : ∀ key t, Keeps s0 t → Keeps s0 (f key t)) : Keeps s0 (s.recordFetch j unit g bad r f) := by
  have fetched := k.chunkFetch (u := unit) (slot := g.slot) (n := r) (bad := bad)
  simp only [State.recordFetch]
  refine fetched.ite ?_
  split
  · exact next _ _ (by simpa (disch := decide) using fetched)
  · simpa (disch := decide) using fetched

/-! ### Frames -/

theorem Keeps.fetchFrame {u use : Nat} {c : Context} {g : Gen} {bad : Bool} : Keeps s0 (s.fetchFrame u c g use bad).2 := by
  simp only [State.fetchFrame]
  split
  · split
    · split <;> simpa (disch := decide) using k
    · exact k.fetch
  · exact k.fetch

theorem Keeps.fetchMac {u : Nat} {bad : Bool} {x : TxFrame} : Keeps s0 (s.fetchMac u bad x).2 := by
  simp only [State.fetchMac]
  split
  · exact k
  · split
    · split <;> rename_i e <;> exact k.fetch.of_pair e
    · exact k

theorem Keeps.enterSlice {x : TxFrame} {u : Nat} {key : Shares} {bad : Bool} : Keeps s0 (s.enterSlice x u key bad) := by
  have fetched : Keeps s0 (((s.onShots x.handle x.id (countedFor x.ctx)).takeCount x.handle x.ctx).2.fetchMac u bad x).2 :=
    Keeps.fetchMac (by simpa (disch := decide) using k)
  simp (disch := decide) only [State.enterSlice, Keeps, State.readyTx_touch]
  exact Keeps.ite (by simpa (disch := decide) using fetched) (by simpa (disch := decide) using fetched)

theorem Keeps.passV0 {x : RxFrame} {g : Gen} {pn sl : Nat} {bad : Bool} : Keeps s0 (s.passV0 x g pn sl bad) := by
  simp only [State.passV0]
  obtain ⟨p, policed, e⟩ : ∃ p : Bool × State, Keeps s0 p.2 ∧ (if x.ctx.classP then
      (s.onShots x.handle x.id (passedV0 (burstPeriods s) x.ctx)).police x.handle x.ctx x.ctx.isDuplex false
      else (false, s.onShots x.handle x.id (passedV0 (burstPeriods s) x.ctx))) = p := by
    refine ⟨_, ?_, rfl⟩
    split <;> simpa (disch := decide) using k
  rw [e]
  have fetched : Keeps s0 (((((p.2.nextSeq x.handle).2.count 0x301 x.handle x.ctx.domain 1).receiveEntry x.handle).2.2.fetchFrame
      (3 + sl) x.ctx g useOpen bad).2) := Keeps.fetchFrame (by simpa (disch := decide) using policed)
  refine fetched.ite ?_
  split
  · split <;> simpa (disch := decide) using fetched
  · simpa (disch := decide) using fetched

theorem Keeps.recordCopy {p : Nat} {o : Option (BitVec 48 × BitVec 16)} : Keeps s0 (s.recordCopy p o) := by
  cases o with
  | none => exact k
  | some e =>
    simp (disch := decide) only [State.recordCopy, Keeps, State.setPair_touch]
    exact Keeps.ite (by simpa (disch := decide) using k) k

theorem Keeps.passV1 {x : RxFrame} : Keeps s0 (s.passV1 x) := by
  have copied : Keeps s0 ((s.takePn x.handle x.gen x.pn.toNat).recordCopy x.rx.port.val x.key) :=
    Keeps.recordCopy (by simpa (disch := decide) using k)
  simp only [State.passV1]
  repeat' split
  all_goals simpa (disch := decide) using copied

theorem Keeps.giveV1 {x : RxFrame} {code : Nat} : Keeps s0 (s.giveV1 x code) := by
  simp (disch := decide) only [State.giveV1, Keeps, State.discardRx_touch, State.freeGrace_touch, State.completeRx_touch]
  exact Keeps.ite (Keeps.passV1 (by simpa (disch := decide) using k)) (by simpa (disch := decide) using k)

/-! ### Bindweed -/

theorem Keeps.resolveInterval {u core n j i p : Nat} {bad : Bool} {v : Ver} {key : List Byte} :
    Keeps s0 (s.resolveInterval u core bad n v j key i p).2 := by
  simp only [State.resolveInterval]
  split
  · exact k
  · split <;> rename_i e <;> have fetched := Keeps.of_pair e (Keeps.fetch (s0 := s0) (by simpa (disch := decide) using k))
    · simp (disch := decide) only [Keeps, State.invalidate_touch]
      exact Keeps.foldl (fun t x h => by simpa (disch := decide) using h) (by simpa (disch := decide) using fetched) _
    · simpa (disch := decide) using fetched

theorem Keeps.fillSegment {u c : Nat} {bad half : Bool} {v : Pub} {want : Nat × Nat} :
    Keeps s0 (s.fillSegment u c bad v want half) := by
  simp only [State.fillSegment]
  split <;> rename_i e <;> have fetched := k.coreFetch.of_pair e
  · simpa (disch := decide) using fetched
  · exact fetched

theorem Keeps.fillBlock {u c : Nat} {bad half : Bool} {top : RecordRead} {v : Pub} {want : Nat × Nat} :
    Keeps s0 (s.fillBlock u c bad top v want half) := by
  simp only [State.fillBlock]
  split
  · split <;> rename_i e <;> have fetched := k.coreFetch.of_pair e
    · simpa (disch := decide) using fetched
    · exact fetched
  · split
    · exact k
    · split <;> rename_i e <;> have read := Keeps.of_pair e (s := s0) (by simpa (disch := decide) using k)
      all_goals simpa (disch := decide) using read

theorem Keeps.oldKey {u c i j : Nat} {v : Pub} {segment : RecordRead} {bad : Bool} :
    Keeps s0 (s.oldKey u c v i j segment bad).2 := by
  simp only [State.oldKey]
  split
  · simpa (disch := decide) using k
  · split <;> rename_i e <;> exact k.coreFetch.of_pair e

theorem Keeps.disclosedFor {u c i : Nat} {v : Pub} {key : List Byte} {segment : RecordRead} {bad : Bool} :
    Keeps s0 (s.disclosedFor u c v i key segment bad).2 := by
  simp only [State.disclosedFor]
  repeat' split
  · exact k
  · exact k
  · exact k.oldKey

/-! ### Commands -/

theorem Keeps.writeImport {i : Import} {r : KeyBusReply} : Keeps s0 (s.writeImport i r) := by
  simp only [State.writeImport]
  repeat' split
  · simpa (disch := decide) using k
  · exact k.deriveSlot
  · simpa (disch := decide) using k

theorem Keeps.deriveKind {u kind : Nat} {bad : Bool} {c : Cmd} : Keeps s0 (s.deriveKind u bad c kind).2 := by
  simp only [State.deriveKind]
  repeat' split
  all_goals exact k.deriveBy

theorem Keeps.deriveSeed {u d word : Nat} {bad : Bool} {a : ChainArgs} : Keeps s0 (s.deriveSeed u bad d word a).2 :=
  k.deriveBy

/-! ### Modes -/

theorem Keeps.updateRest : Keeps s0 s.updateRest := k.rest s.updateRest_rest (by decide)

theorem Keeps.enterDrill (free : s0.mode ≠ .drill ∧ s0.mode ≠ .lockdown) : Keeps s0 s.enterDrill := by
  have abandoned : Keeps s0 s.abandonBegun := by simpa (disch := decide) using k
  simp (disch := decide) only [State.enterDrill, Keeps, State.post_touch, State.txRise_touch]
  refine Keeps.setMode ?_ free
  simp (disch := decide) only [Keeps, State.resetMemPlane_touch]
  exact (Keeps.deriveSlot (Keeps.foldl (fun _ _ h => Keeps.ite h (by simpa (disch := decide) using h)) abandoned _)).deriveTree

theorem Keeps.endPeriod : Keeps s0 s.endPeriod := by
  simp (disch := decide) only [State.endPeriod, Keeps, State.recheckGates_touch, touch_mk]
  exact k.writeHeaders

theorem Keeps.assayTamper {n : Fin 4} : Keeps s0 (s.assayTamper n) := by
  refine Keeps.lockdown ?_
  simp (disch := decide) only [Keeps, State.post_touch, State.setStep_touch]
  exact k.latch

/-! ### Commits -/

theorem Keeps.commitStream {h : Nat} {t : Tick} {c : Change} : Keeps s0 (s.commitStream h t c) := by
  cases c <;> simpa (disch := decide) [State.commitStream] using k

theorem Keeps.enterDormant (free : s0.mode ≠ .drill ∧ s0.mode ≠ .lockdown) : Keeps s0 s.enterDormant := by
  have quiesced : Keeps s0 s.quiesce := by simpa (disch := decide) [State.quiesce] using k
  simp (disch := decide) only [State.enterDormant, Keeps, State.post_touch]
  exact quiesced.setMode free

theorem Keeps.commitMode {m : Mode} : Keeps s0 (s.commitMode m) := by
  simp only [State.commitMode]
  split
  · exact k
  · rename_i e
    have free := k.free (fun d => by simp [d] at e) (fun l => by simp [l] at e)
    split
    · exact k.enterDrill free
    · exact k.enterDormant free
    · simp (disch := decide) only [Keeps, State.post_touch, State.allDown_touch]
      exact k.setMode free
    · refine Keeps.ite (by simpa (disch := decide) using k) ?_
      simp (disch := decide) only [Keeps, State.post_touch, State.txRise_touch]
      exact k.setMode free

theorem Keeps.commitChange {cut : List Nat} {c : Staged} : Keeps s0 (s.commitChange cut c) := by
  simp only [State.commitChange]
  split
  · exact Keeps.commitStream (Keeps.ite (by simpa (disch := decide) using k) k)
  · exact k.commitMode
  all_goals simpa (disch := decide) using k

theorem Keeps.commitDue {cut : List Nat} : Keeps s0 (s.commitDue cut) :=
  Keeps.foldl (fun _ _ h => h.ite (Keeps.commitChange (by simpa (disch := decide) using h))) k _

theorem Keeps.commitOne {o : Obj} {ok : Change → Bool} : Keeps s0 (s.commitOne o ok) := by
  unfold State.commitOne
  split
  · exact Keeps.commitChange (by simpa (disch := decide) using k)
  · exact k

theorem Keeps.boundary {n : Tick} {cycles : Nat} {ledger : List (List Nat)} {pcs : List PcsCount} :
    Keeps s0 (s.boundary n cycles ledger pcs) := by
  have ended : Keeps s0 ((s.countPeriod cycles ledger pcs).takeSnapshot n).endPeriod :=
    Keeps.endPeriod (by simpa (disch := decide) using k)
  have committed : Keeps s0 (((((s.countPeriod cycles ledger pcs).takeSnapshot n).endPeriod.streamSnapshots n).advanceTicks n).commitDue
      (pcs.flatMap (·.cut))) := Keeps.commitDue (by simpa (disch := decide) using ended)
  have moved {l l' : List Nat} : Keeps s0 (l'.foldl State.earlyIfDue (l.foldl State.closeIfDue
      (((((s.countPeriod cycles ledger pcs).takeSnapshot n).endPeriod.streamSnapshots n).advanceTicks n).commitDue
        (pcs.flatMap (·.cut))))) :=
    Keeps.foldl (fun _ _ h => by simpa (disch := decide) using h)
      (Keeps.foldl (fun _ _ h => by simpa (disch := decide) using h) committed _) _
  simp (disch := decide) only [State.boundary, Keeps, State.beginPeriod_touch]
  exact moved.updateRest.ite moved

end

/-! ### Pyfer commands -/

/-- The state that comes with a result keeps the clauses. -/
def Res.Keeps (s0 : State) : Res → Prop
  | .refused _ _ s | .done _ _ s | .wait _ s => Machine.Keeps s0 s
  | .fail _ _ _ | .miss _ _ _ => True

section
variable {s0 s : State} (k : Keeps s0 s)

theorem Res.Keeps.checked {l : List Check} {r : Res} (h : r.Keeps s0) : (checked l r).Keeps s0 := by
  unfold Machine.checked
  split
  · trivial
  · exact h

include k

theorem Keeps.refused {st d : Nat} : (Res.refused st d s).Keeps s0 := k
theorem Keeps.done {t : Tick} {ws : List Word} : (Res.done t ws s).Keeps s0 := k
theorem Keeps.wait {p : CmdPhase} : (Res.wait p s).Keeps s0 := k

theorem Keeps.finish {c : Cmd} {r : Res} (h : r.Keeps s0) : Keeps s0 (s.finish c r) := by
  cases r with
  | refused _ _ t | done _ _ t | wait _ t =>
    have h : Keeps s0 t := h
    simpa (disch := decide) [State.finish] using h
  | fail | miss => simpa (disch := decide) [State.finish] using k

theorem Keeps.execPyfer {op : Nat} {f : State → Cmd → Res} (h : ∀ c, (f s c).Keeps s0) :
    Leads (Keeps s0) (execPyfer op f s) := by
  unfold Machine.execPyfer
  split
  · exact leads_next.2 k
  · rename_i c _
    refine .ite ?_ (leads_next.2 k)
    refine leads_next.2 (k.finish ?_)
    unfold judge
    repeat' split
    · trivial
    · trivial
    · exact h c

theorem Keeps.stageRes {c : Cmd} {d : Nat} {t : Tick} {ws : List Word} {s1 : State} : (stageRes s1 c d t ws s).Keeps s0 := by
  unfold Machine.stageRes
  repeat' split
  · trivial
  · trivial
  · exact k

theorem Keeps.stagePlan {c : Cmd} {o : Obj} {chg : Change} {d : Nat} {e l : List Check} :
    (stagePlan s c o chg d e l).Keeps s0 := by
  refine Res.Keeps.checked (Keeps.stageRes ?_)
  simpa (disch := decide) using k

omit k in
theorem Res.Keeps.admission {h : Nat} {x : Staged} {r : Demand → Res} (ok : ∀ d, (r d).Keeps s0) :
    (admission s h x r).Keeps s0 := by
  simp only [Machine.admission]
  split
  · trivial
  · exact ok _

theorem Keeps.modeRes {c : Cmd} : (modeRes s c).Keeps s0 := by
  simp only [Machine.modeRes]
  split
  · exact k
  · exact k.stagePlan

theorem Keeps.gateOnlineRes {c : Cmd} : (gateOnlineRes s c).Keeps s0 := by
  simp only [Machine.gateOnlineRes]
  repeat' split
  · trivial
  · trivial
  · trivial
  · exact Keeps.stageRes (by simpa (disch := decide) using k)

theorem Keeps.imageActivateRes {c : Cmd} : (imageActivateRes s c).Keeps s0 := by
  simp only [Machine.imageActivateRes]
  repeat' split
  · trivial
  · trivial
  · exact .checked (Keeps.stageRes (by simpa (disch := decide) using k))

theorem Keeps.createRes {c : Cmd} : (createRes s c).Keeps s0 := by
  simp only [Machine.createRes]
  split
  · trivial
  · split
    · exact Keeps.refused (by simpa (disch := decide) using k)
    · refine .checked ?_
      split
      · exact .admission fun _ => Keeps.stageRes (by simpa (disch := decide) using k)
      · exact Keeps.stageRes (by simpa (disch := decide) using k)

theorem Keeps.modifyRes {c : Cmd} : (modifyRes s c).Keeps s0 := by
  refine .checked ?_
  split
  · exact .admission fun _ => Keeps.stageRes (by simpa (disch := decide) using k)
  · exact Keeps.stageRes (by simpa (disch := decide) using k)

theorem Keeps.armRes {h0 h1 h2 : Container} {c : Cmd} : (armRes h0 h1 h2 s c).Keeps s0 := by
  simp only [Machine.armRes]
  split
  · trivial
  · split
    · exact Keeps.refused (by simpa (disch := decide) using k)
    · refine .checked ?_
      split
      · exact .admission fun _ => Keeps.stageRes (by simpa (disch := decide) using k)
      · exact Keeps.stageRes (by simpa (disch := decide) using k)

theorem Keeps.simpleChange {chg : Change} {legal : Context → Bool} {twin : Context → Option Nat} {c : Cmd} :
    (simpleChange chg legal twin s c).Keeps s0 := by
  refine .checked (Keeps.stageRes ?_)
  split <;> simpa (disch := decide) using k

theorem Keeps.snapshotRes {c : Cmd} : (snapshotRes s c).Keeps s0 := by
  simp only [Machine.snapshotRes]
  refine .checked ?_
  have staged : Res.Keeps s0 _ := k.stageRes (c := c) (d := 4)
    (t := if c.isNext then s.plan + 1 else (c.q 0).toNat) (ws := []) (s1 := s)
  split <;> rename_i e
  · rw [e] at staged
    exact staged
  · exact staged

theorem Keeps.twinRes {c : Cmd} : (twinRes s c).Keeps s0 :=
  .checked (Keeps.stageRes (by simpa (disch := decide) using k))

theorem Keeps.installRes {c : Cmd} : (installRes s c).Keeps s0 := by
  refine .checked ?_
  split
  · exact Keeps.wait (by simpa (disch := decide) using k)
  · refine Keeps.stageRes (Keeps.foldl (fun t g h => ?_) k _)
    simp (disch := decide) only [Keeps, State.stage_touch]
    exact Keeps.ite (by simpa (disch := decide) using h) h

theorem Keeps.rollRes {c : Cmd} : (rollRes s c).Keeps s0 :=
  .checked (Keeps.stageRes (Keeps.foldl (fun _ _ h => by simpa (disch := decide) using h) k _))

theorem Keeps.importRes {busy : Bool} {c : Cmd} : (importRes busy s c).Keeps s0 := by
  refine .checked ?_
  split
  · exact Keeps.refused (by simpa (disch := decide) using k)
  · exact Keeps.wait (by simpa (disch := decide) using k)

theorem Keeps.deriveRes {u : Nat} {bad : Bool} {c : Cmd} : (deriveRes u bad s c).Keeps s0 := by
  unfold Machine.deriveRes
  split
  · simp only [deriveEnd]
    split
    · trivial
    · split <;> rename_i e <;> have derived := k.deriveKind.of_pair e
      · exact derived.done
      · exact derived.refused
  · exact .checked k.wait

theorem Keeps.chainCreateRes {u : Nat} {bad : Bool} {c : Cmd} : (chainCreateRes u bad s c).Keeps s0 := by
  unfold Machine.chainCreateRes
  split
  · simp only [chainCreateEnd]
    split
    · trivial
    · split
      · trivial
      · split <;> rename_i e <;> have derived := k.deriveSeed.of_pair e
        · split <;> rename_i f <;> have fetched := derived.coreFetch.of_pair f
          · exact Keeps.done (by simpa (disch := decide) using fetched)
          · exact fetched.refused
        · exact derived.refused
  · exact .checked (Keeps.wait (by simpa (disch := decide) using k))

theorem Keeps.verifierRes {c : Cmd} : (verifierRes s c).Keeps s0 :=
  .checked (Keeps.done (by simpa (disch := decide) using k))

theorem Keeps.chainInstallRes {c : Cmd} : (chainInstallRes s c).Keeps s0 := by
  refine .checked ?_
  repeat' split
  · trivial
  · trivial
  · exact Keeps.done (by simpa (disch := decide) using k)

theorem Keeps.chainReadRes {c : Cmd} : (chainReadRes s c).Keeps s0 := by
  refine .checked ?_
  split
  · exact k.done
  · trivial

theorem Keeps.umazRes {c : Cmd} : (umazRes s c).Keeps s0 :=
  .checked (Keeps.done (by simpa (disch := decide) using k))

/-! ### settle, assay -/

theorem Keeps.execOutputWrite {h : Handle} : Leads (Keeps s0) (execOutputWrite h s) := by
  unfold Machine.execOutputWrite
  split
  · exact leads_next.2 k
  · refine .ite (leads_next.2 k) ?_
    split <;> refine leads_next.2 ?_
    · simpa (disch := decide) using k
    · exact Keeps.putOutput (by simpa (disch := decide) using k)

theorem Keeps.writeReady {n : Nat} {h : Handle} : Keeps s0 (State.writeReady n h s) := by
  induction n generalizing s with
  | zero => exact k
  | succ n ih =>
    obtain ⟨t, e, h⟩ := k.execOutputWrite (h := h)
    simp only [State.writeReady, e]
    exact ih h

theorem Keeps.execV2RecordWrite {h : Handle} : Leads (Keeps s0) (execV2RecordWrite h s) := by
  unfold Machine.execV2RecordWrite
  repeat' split
  all_goals exact leads_next.2 (by simpa (disch := decide) using k)

theorem Keeps.writeV2 {n : Nat} {h : Handle} : Keeps s0 (State.writeV2 n h s) := by
  induction n generalizing s with
  | zero => exact k
  | succ n ih =>
    obtain ⟨t, e, h⟩ := k.execV2RecordWrite (h := h)
    simp only [State.writeV2, e]
    exact ih h

theorem Keeps.settle : Keeps s0 s.settle := by
  have down : Keeps s0 s.allDown := by simpa (disch := decide) using k
  have decided := Keeps.foldl (fun _ h d => d.writeV2 (n := 1) (h := BitVec.ofNat 15 h)) down (s.allDown.v2.map (·.handle))
  simp only [State.settle, Keeps, touch_mk]
  exact (Keeps.foldl (fun _ _ w => w.writeReady) decided _).flushTeasel

theorem Keeps.holdRestart {r : Retention} : Keeps s0 (s.holdRestart r) := by
  have settled : Keeps s0 (State.settle { s with retention := none }) := Keeps.settle (by simpa (disch := decide) using k)
  simp only [State.holdRestart, State.ackRestart]
  refine Keeps.ite (settled.ite ?_) k
  simp (disch := decide) only [Keeps, touch_mk, State.dropStaged_touch]
  exact settled

theorem Keeps.finishAssay (free : s0.mode ≠ .drill ∧ s0.mode ≠ .lockdown) : Keeps s0 s.finishAssay := by
  simp only [State.finishAssay]
  refine Keeps.updateRest ?_
  simp (disch := decide) only [Keeps, State.post_touch, State.txRise_touch]
  refine Keeps.setMode ?_ free
  split <;> simpa (disch := decide) using k

theorem Keeps.assayLadder (free : s0.mode ≠ .drill ∧ s0.mode ≠ .lockdown) : Keeps s0 s.assayLadder := by
  have formed {img : ImgCfg} : Keeps s0 (((({ s with img := img }).setStep 8).formLadder img.memIds).requestReseed true) := by
    simp (disch := decide) only [Keeps, State.requestReseed_touch]
    exact Keeps.formLadder (by simpa (disch := decide) using k)
  unfold State.assayLadder
  extract_lets img s1 out s2
  refine Keeps.finishAssay ?_ free
  simp (disch := decide) only [Keeps, State.loadImage_touch]
  unfold s2
  split
  · simp only [touch_mk]
    exact formed
  · exact formed

theorem Keeps.assayCounter (free : s0.mode ≠ .drill ∧ s0.mode ≠ .lockdown) {ok : Bool} {v : Word}
    {tamper : Option (Fin 4)} : Keeps s0 (s.assayCounter ok v tamper) := by
  simp only [State.assayCounter]
  split
  · split
    · exact Keeps.assayTamper (by simpa (disch := decide) using k)
    · exact Keeps.assayLadder (by simpa (disch := decide) using k) free
  · simpa (disch := decide) using k

theorem Keeps.assayChoose : Keeps s0 s.assayChoose := by
  have seeded : Keeps s0 (s.setStep 5).assaySeed := by simpa (disch := decide) using k
  exact seeded.zeroRoot.lockdown.ite (by simpa (disch := decide) using seeded)

theorem Keeps.assayEntropy (free : s0.mode ≠ .drill ∧ s0.mode ≠ .lockdown) {ok : Bool} {v : Word}
    {tamper : Option (Fin 4)} : Keeps s0 (s.assayEntropy ok v tamper) :=
  Keeps.ite (by simpa (disch := decide) using k) (k.assayChoose.ite (k.assayChoose.assayCounter free))

theorem Keeps.assayHealth : Keeps s0 s.assayHealth :=
  Keeps.ite (by simpa (disch := decide) using k) (by simpa (disch := decide) using k)

end

section
variable {s0 s : State} (k : Keeps s0 s)
include k

/-! ### The register window -/

theorem Keeps.regWrite {cls : Cls} {off : Nat} {f : State → State} (h : Keeps s0 (f s)) :
    Keeps s0 (s.regWrite cls off f) := by
  unfold State.regWrite
  refine k.ite ?_
  split
  · simpa (disch := decide) using k
  · exact h

theorem Keeps.regRead {cls : Cls} {off : Nat} {f : State → State} (h : Keeps s0 (f s)) : Keeps s0 (s.regRead cls off f) := by
  unfold State.regRead
  refine Keeps.ite (by simpa (disch := decide) using k) ?_
  split
  · simpa (disch := decide) using k
  · exact h

theorem Keeps.doorbellWrite {h : Nat} {w : Word} : Keeps s0 (s.doorbellWrite h w) := by
  unfold State.doorbellWrite
  repeat' split
  all_goals simpa (disch := decide) using k

theorem Keeps.evWrite {o : Nat} {w : Word} : Keeps s0 (s.evWrite o w) := by
  unfold State.evWrite
  repeat' split
  all_goals simpa (disch := decide) using k

theorem Keeps.ctrPageWrite {o : Nat} {w : Word} : Keeps s0 (s.ctrPageWrite o w) := by
  unfold State.ctrPageWrite
  repeat' split
  all_goals simpa (disch := decide) [State.selWrite] using k

theorem Keeps.eyeRingPageWrite {o : Nat} {w : Word} : Keeps s0 (s.eyeRingPageWrite o w) := by
  simp only [State.eyeRingPageWrite]
  repeat' split
  all_goals simpa (disch := decide) [State.writeSeed, State.writeEyeBase] using k

theorem Keeps.regStore {off : Nat} {w : Word} : Keeps s0 (s.regStore off w) := by
  have cleared {g : Nat} : Keeps s0 (s.glogClearWrite g w false) := by
    unfold State.glogClearWrite
    exact Keeps.ite (by simpa (disch := decide) using k) k
  simp only [State.regStore]
  repeat' split
  · simpa (disch := decide) using k
  · exact k.doorbellWrite
  · exact cleared
  · exact k
  · exact k.evWrite
  · exact k.ctrPageWrite
  · exact k.eyeRingPageWrite
  · exact k

theorem Keeps.putRc {off : Nat} {w : Word} : Keeps s0 (s.putRc off w) := by
  simp only [State.putRc]
  repeat' split
  all_goals simpa (disch := decide) using k

theorem Keeps.updateRc {off n : Nat} : Keeps s0 (s.updateRc off n) := k.putRc.ite k

theorem Keeps.regAccess {cls : Cls} {off n : Nat} : Keeps s0 (s.regAccess cls off n) := by
  have read {b : BusReply} {m : MemPlane} : Keeps s0 { s with bus := b, mem := m } := by simpa (disch := decide) using k
  simp only [State.regAccess]
  refine Keeps.ite (by simpa (disch := decide) using k) ?_
  exact read.putRc.ite read

/-! ### Requests and tamper -/

theorem Keeps.execRequestAccept {t : Nat} : Leads (Keeps s0) (execRequestAccept t s) := by
  have later : Keeps s0 (s.atTime t) := by simpa (disch := decide) using k
  simp only [Machine.execRequestAccept]
  split
  · exact leads_next.2 later
  · refine .ite (leads_next.2 (Keeps.lockdown ?_)) (leads_next.2 ?_)
    all_goals
      simp (disch := decide) only [Keeps, touch_mk, State.post_touch, State.setMbox_touch]
      exact later

theorem Keeps.execTamperInput {n : Fin 4} {op : Bool} : Leads (Keeps s0) (execTamperInput n op s) := by
  have latched : Keeps s0 (State.post { s with
      tamperLatch := s.tamperLatch ||| BitVec.ofNat 4 (2 ^ n.val)
      tamperLevel := s.tamperLevel ||| BitVec.ofNat 4 (2 ^ n.val) } (492 + n.val)) := by
    simp (disch := decide) only [Keeps, State.post_touch]
    exact k.latch
  refine .ite (leads_next.2 latched) (leads_next.2 (Keeps.lockdown ?_))
  simp (disch := decide) only [Keeps, State.postIf_touch, State.clearBegun_touch]
  exact latched

/-! ### Boundary -/

theorem Keeps.execPlanBoundary {t cycles : Nat} {ledger : List (List Nat)} {pcs : List PcsCount}
    (w : wfLedger cycles ledger = true) : Leads (Keeps s0) (execPlanBoundary t cycles ledger pcs s) := by
  have later : Keeps s0 (s.atTime t) := by simpa (disch := decide) using k
  simp only [Machine.execPlanBoundary, w, Bool.not_true, Bool.false_eq_true, if_false]
  split
  · exact leads_next.2 later
  · exact leads_next.2 later.boundary

theorem Keeps.execImageActivationCommit {cut : List Nat} : Leads (Keeps s0) (execImageActivationCommit cut s) := by
  unfold Machine.execImageActivationCommit
  split
  · exact leads_next.2 (Keeps.commitChange (by simpa (disch := decide) using k))
  · exact leads_next.2 k

theorem Keeps.execCommissionServiceChange : Leads (Keeps s0) (execCommissionServiceChange s) :=
  .ite (leads_next.2 k) (leads_next.2 k.commitOne)

theorem Keeps.execStagingMiss : Leads (Keeps s0) (execStagingMiss s) := by
  unfold Machine.execStagingMiss
  repeat' split
  · exact leads_next.2 k
  · exact leads_next.2 (k.finish trivial)
  · exact leads_next.2 k

/-! ### Rings -/

theorem Keeps.execStreamFreed {h : Handle} : Leads (Keeps s0) (execStreamFreed h s) := by
  have put : Keeps s0 ((s.allot h.toNat).2.putOutput h.toNat ⟨(s.allot h.toNat).1.getD 0,
    finalOutput h.toNat ((s.allot h.toNat).2.aux_ h.toNat).retireTick, 0, []⟩) :=
    Keeps.putOutput (by simpa (disch := decide) using k)
  simp only [Machine.execStreamFreed]
  refine .ite (leads_next.2 k) ?_
  split <;> refine leads_next.2 ?_
  · simpa (disch := decide) using k
  · simpa (disch := decide) using put.writeHeader

theorem Keeps.execRingInterrupt {h : Handle} : Leads (Keeps s0) (execRingInterrupt h s) :=
  .ite (leads_next.2 (by simpa (disch := decide) using k.writeHeader)) (leads_next.2 k)

theorem Keeps.execDescriptorFetch {h : Handle} {desc : List Container} {source : List Byte} {ok : Bool}
    (w : wfDesc desc = true) : Leads (Keeps s0) (execDescriptorFetch h desc source ok s) := by
  have fetched {r : Ring} : Keeps s0 (s.setRing h.toNat r) := by simpa (disch := decide) using k
  simp only [Machine.execDescriptorFetch, w, Bool.not_true, Bool.false_eq_true, if_false]
  refine .ite (leads_next.2 k) (.ite (leads_next.2 k) ?_)
  split
  · exact leads_next.2 (by simpa (disch := decide) using k)
  · refine .ite (leads_next.2 fetched.drainWaiting) (.ite (leads_next.2 (Keeps.ite ?_ ?_)) (leads_next.2 ?_))
    all_goals simpa (disch := decide) using k

/-! ### Keys -/

theorem Keeps.execMaskingRefresh {bad : Bool} : Leads (Keeps s0) (execMaskingRefresh bad s) := by
  have moved : Keeps s0 { s with keyCtl := { s.keyCtl with maskPos := (s.keyCtl.maskPos + 1) % slotCount } } := by
    simpa (disch := decide) using k
  simp only [Machine.execMaskingRefresh]
  repeat' split
  · exact leads_next.2 k
  · exact leads_next.2 moved
  · exact leads_next.2 moved.cellFault
  · refine leads_next.2 ?_
    simp (disch := decide) only [Keeps, State.setSlot_touch, State.generated_touch, State.draw_touch]
    exact moved

theorem Keeps.execKeyBusResponse {r : KeyBusReply} : Leads (Keeps s0) (execKeyBusResponse r s) := by
  have written {i : Import} : Keeps s0 ((s.endImport i true).writeImport i r) :=
    Keeps.writeImport (by simpa (disch := decide) using k)
  simp only [Machine.execKeyBusResponse]
  split
  · exact leads_next.2 k
  · split
    · exact leads_next.2 (by simpa (disch := decide) using k)
    · refine .ite (leads_next.2 (by simpa (disch := decide) using k)) (.ite (leads_next.2 ?_) (leads_next.2 ?_))
      all_goals simpa (disch := decide) using written

theorem Keeps.execEntropyRecovered : Leads (Keeps s0) (execEntropyRecovered s) := by
  have recovered {f : Bool} : Keeps s0 ((State.requestReseed (State.setLevel { s with
      ent := { s.ent with fail := false, failAt := 0, degraded := false } } 487 false) f).draw) := by
    simpa (disch := decide) using k
  simp only [Machine.execEntropyRecovered]
  refine .ite (leads_next.2 ?_) (leads_next.2 k)
  have posted {t : State} (h : Keeps s0 t) : Keeps s0 (if ((t.post 488).post 467).mode == .assay &&
      ((t.post 488).post 467).assay.step == 4 then ((t.post 488).post 467).assayChoose else (t.post 488).post 467) := by
    have h : Keeps s0 ((t.post 488).post 467) := by simpa (disch := decide) using h
    exact h.assayChoose.ite h
  refine posted (Keeps.ite ?_ ?_)
  all_goals
    simp (disch := decide) only [Keeps, touch_mk, State.reseedGenerators_touch]
    exact recovered

theorem Keeps.execEntropyReady {t : Nat} {ok : Bool} {v : Word} : Leads (Keeps s0) (execEntropyReady t ok v s) := by
  have ready : Keeps s0 (State.setLevel { s.atTime t with ent := { s.ent with ready := true } } 486 true) := by
    simpa (disch := decide) using k
  simp only [Machine.execEntropyReady]
  refine .ite (leads_next.2 ready) ?_
  split
  · rename_i a
    simp only [Bool.and_eq_true, beq_iff_eq] at a
    exact leads_next.2 (ready.assayEntropy (ready.free_of a.1 (by decide)))
  · exact .ite (leads_next.2 (by simpa (disch := decide) using ready)) (leads_next.2 ready)

theorem Keeps.execCounterAdvanceRetry {t : Nat} {ok : Bool} {v : Word} :
    Leads (Keeps s0) (execCounterAdvanceRetry t ok v s) := by
  have later : Keeps s0 (s.atTime t) := by simpa (disch := decide) using k
  simp only [Machine.execCounterAdvanceRetry]
  split
  · rename_i a
    simp only [Bool.and_eq_true, beq_iff_eq] at a
    exact leads_next.2 (later.assayCounter (later.free_of a.1.1 (by decide)))
  · exact leads_next.2 later

/-! ### Restart, Dormant -/

theorem Keeps.execRetentionRestartRequest {t : Nat} : Leads (Keeps s0) (execRetentionRestartRequest t s) := by
  simp only [Machine.execRetentionRestartRequest]
  split
  · exact leads_next.2 (Keeps.holdRestart (by simpa (disch := decide) using k))
  · refine .ite (leads_next.2 (by simpa (disch := decide) using k)) (leads_next.2 (Keeps.holdRestart ?_))
    simpa (disch := decide) [State.quiesce] using k

theorem Keeps.execRetentionRestartRelease {pass : Bool} : Leads (Keeps s0) (execRetentionRestartRelease pass s) := by
  simp only [Machine.execRetentionRestartRelease]
  split
  · exact leads_next.2 k
  · rename_i r _
    have held : Keeps s0 (s.holdRestart r) := k.holdRestart
    have reset {a b c : Bool} : Keeps s0 { ((((s.holdRestart r).resetRegisters.restartPower.emptyCaches).setLevel 486 a).setLevel
        487 b).setLevel 496 c with retention := none } := by
      simp (disch := decide) only [Keeps, touch_mk, State.setLevel_touch, State.emptyCaches_touch, State.restartPower_touch,
        State.resetRegisters_touch]
      exact held
    refine .ite (leads_next.2 k) (.ite (leads_next.2 held) (.ite (leads_next.2 reset.lockdown) (leads_next.2 ?_)))
    have scrubs {u : State} (h : Keeps s0 u) : Keeps s0 u.scrubExpired := by simpa (disch := decide) using h
    have survives {u : State} (h : Keeps s0 u) : Keeps s0 (if u.mem.clean then u else u.poisonAllSpaces).surviveChains := by
      simp (disch := decide) only [Keeps, State.surviveChains_touch]
      exact h.ite (by simpa (disch := decide) using h)
    have reseeded {u : State} (h : Keeps s0 u) : Keeps s0 (if entropyUsable u then u.reseedGenerators
        else { u with ent := { u.ent with reseedWait := true } }) :=
      Keeps.ite (by simpa (disch := decide) using h) (by simpa (disch := decide) using h)
    have ended := reseeded (survives (scrubs (reset (a := s.ent.ready) (b := s.ent.fail) (c := s.ticks.valid))))
    exact ended.ite (Keeps.updateRest (by simpa (disch := decide) only [Keeps, State.resume_touch] using ended))

theorem Keeps.execDormantPowerDown : Leads (Keeps s0) (execDormantPowerDown s) := by
  have settled := k.settle
  simp only [Machine.execDormantPowerDown]
  refine .ite (leads_next.2 k) (.ite (leads_next.2 settled) (leads_next.2 ?_))
  simp (disch := decide) only [Keeps, touch_mk, State.post_touch, State.emptyCaches_touch]
  exact settled

theorem Keeps.execDormantExit {pass : Bool} : Leads (Keeps s0) (execDormantExit pass s) := by
  unfold Machine.execDormantExit
  split
  · exact leads_next.2 k
  · rename_i e
    have dormant : s.mode = .dormant := by
      by_contra h
      simp [State.cipherStopped, h] at e
    refine .ite (leads_next.2 k.lockdown) (leads_next.2 ?_)
    simp (disch := decide) only [Keeps, State.post_touch, State.resume_touch, State.surviveChains_touch]
    exact k.setMode (k.free_of dormant (by decide))

/-! ### Frames -/

theorem Keeps.execEgressHeaderBeat {b : EgressBeat} (w : wfHeaderBeat b = true) :
    Leads (Keeps s0) (execEgressHeaderBeat b s) := by
  have skipped {h n : Nat} : Keeps s0 (if b.mgmt then (if b.last then (s.endShort h).unskipHandle h else (s.endShort h).skipHandle h)
      else (if b.last then (s.endShort h).unskipHandle h else (s.endShort h).skipHandle h).post n) := by
    cases b.mgmt <;> cases b.last <;> simpa (disch := decide) using k
  simp only [Machine.execEgressHeaderBeat, w, Bool.not_true, Bool.false_eq_true, if_false]
  refine .ite (leads_next.2 k) (.ite (leads_next.2 ?_) ?_)
  · exact Keeps.ite (by simpa (disch := decide) only [Keeps, State.refuseOffer_touch] using skipped) skipped
  · split
    · exact leads_next.2 (by simpa (disch := decide) using k)
    · refine .ite (leads_next.2 ?_) (.ite (leads_next.2 ?_) (.ite (leads_next.2 ?_) (.ite (leads_next.2 k) (leads_next.2 ?_))))
      all_goals simpa (disch := decide) using k

theorem Keeps.execEgressDataBeat {b : EgressBeat} (w : wfDataBeat b = true) : Leads (Keeps s0) (execEgressDataBeat b s) := by
  simp only [Machine.execEgressDataBeat, w, Bool.not_true, Bool.false_eq_true, if_false]
  refine .ite (leads_next.2 k) (.ite (leads_next.2 (Keeps.ite ?_ k)) ?_)
  · simpa (disch := decide) using k
  · split
    · exact leads_next.2 (k.ite (by simpa (disch := decide) using k))
    · refine .ite (leads_next.2 (Keeps.ite ?_ ?_)) (.ite (leads_next.2 k) (leads_next.2 (Keeps.ite ?_ ?_)))
      all_goals simpa (disch := decide) using k

theorem Keeps.execSealSliceEntry {f : Nat} {sl : Fin 3} {bad macBad : Bool} :
    Leads (Keeps s0) (execSealSliceEntry f sl bad macBad s) := by
  simp only [Machine.execSealSliceEntry]
  split
  · exact leads_next.2 k
  · rename_i x _
    have policed : Keeps s0 (s.policeTx x).2 := by simpa (disch := decide) using k
    have fetched := policed.fetchFrame (u := sl.val) (c := (s.policeTx x).1.ctx) (g := x.ctx.cur) (use := useSeal) (bad := bad)
    refine .ite (leads_next.2 k) (.ite (leads_next.2 (Keeps.ite ?_ ?_)) (.ite (leads_next.2 fetched) ?_))
    · simpa (disch := decide) using k
    · simpa (disch := decide) using k
    · split
      · exact leads_next.2 fetched.enterSlice
      · exact leads_next.2 (by simpa (disch := decide) using fetched)

theorem Keeps.execDigestSealResult {f : Nat} {r : DigestResult} (w : wfDigest r = true) :
    Leads (Keeps s0) (execDigestSealResult f r s) := by
  simp only [Machine.execDigestSealResult, w, Bool.not_true, Bool.false_eq_true, if_false]
  split
  · exact leads_next.2 k
  · refine .ite (leads_next.2 k) (.ite (leads_next.2 ?_) (leads_next.2 (Keeps.ite ?_ ?_)))
    all_goals simpa (disch := decide) using k

theorem Keeps.execSealEcho {f : Nat} {sl : Fin 3} {upset : List (Nat × Byte)} {bad : Bool} :
    Leads (Keeps s0) (execSealEcho f sl upset bad s) := by
  simp only [Machine.execSealEcho]
  split
  · exact leads_next.2 k
  · rename_i x _
    have fetched := k.fetchFrame (u := 3 + sl.val) (c := x.ctx) (g := x.ctx.cur) (use := useSeal) (bad := bad)
    refine .ite (leads_next.2 k) (.ite (leads_next.2 fetched) ?_)
    split
    · refine .ite (leads_next.2 ?_) (leads_next.2 ?_)
      all_goals simpa (disch := decide) using fetched
    · exact leads_next.2 (by simpa (disch := decide) using fetched)

theorem Keeps.execRecordChunk {h : Handle} {header data : List Byte} {ok : Bool} {sl : Fin 3} {bad : Bool} {n : Nat} :
    Leads (Keeps s0) (execRecordChunk h header data ok sl bad n s) := by
  simp only [Machine.execRecordChunk]
  split
  · exact leads_next.2 k
  · refine .ite (leads_next.2 k) (.ite (leads_next.2 (by simpa (disch := decide) using k)) ?_)
    split
    · exact leads_next.2 (by simpa (disch := decide) using k)
    · refine .ite (leads_next.2 ?_) ?_
      · exact Keeps.ite (by simpa (disch := decide) using k) (by simpa (disch := decide) using k)
      · split
        · exact leads_next.2 (by simpa (disch := decide) using k)
        · split
          · exact leads_next.2 (by simpa (disch := decide) using k)
          · refine .ite (leads_next.2 ?_) (.ite (leads_next.2 ?_) (.ite (leads_next.2 ?_) (.ite (leads_next.2 ?_) (leads_next.2 ?_))))
            · simpa (disch := decide) using k
            · simpa (disch := decide) using k
            · exact k.recordFetch fun _ _ h => h.openChunk
            · exact k.recordFetch fun _ _ h => h.beginSeal
            · exact k.recordFetch fun _ _ h => h.sealChunk

theorem Keeps.execV0Check {f : Nat} {sl : Fin 3} {bad ended : Bool} {t : Nat} :
    Leads (Keeps s0) (execV0Check f sl bad ended t s) := by
  have later : Keeps s0 (s.atTime t) := by simpa (disch := decide) using k
  simp only [Machine.execV0Check]
  split
  · exact leads_next.2 later
  · refine .ite (leads_next.2 later) (.ite (leads_next.2 (by simpa (disch := decide) using later)) ?_)
    split
    · exact leads_next.2 (later.passV0.ite later)
    · exact leads_next.2 (by simpa (disch := decide) using later)

theorem Keeps.execPlaintextBeat {f : Nat} : Leads (Keeps s0) (execPlaintextBeat f s) := by
  simp only [Machine.execPlaintextBeat]
  split
  · exact leads_next.2 k
  · refine .ite (leads_next.2 k) (.ite (leads_next.2 (k.ite (by simpa (disch := decide) using k))) (leads_next.2 ?_))
    simp (disch := decide) only [Keeps, State.setRx_touch]
    exact Keeps.fillBuffer (by simpa (disch := decide) using k)

theorem Keeps.execV1Verdict {f t : Nat} : Leads (Keeps s0) (execV1Verdict f t s) := by
  have later : Keeps s0 (s.atTime t) := by simpa (disch := decide) using k
  simp only [Machine.execV1Verdict]
  split
  · exact leads_next.2 later
  · refine .ite (leads_next.2 later) (.ite (leads_next.2 later.giveV1) (.ite (leads_next.2 ?_)
      (.ite (leads_next.2 later.giveV1) (leads_next.2 later.giveV1))))
    simpa (disch := decide) using later

theorem Keeps.execDigestOpenResult {f t : Nat} {r : DigestResult} (w : wfDigest r = true) :
    Leads (Keeps s0) (execDigestOpenResult f r t s) := by
  have later : Keeps s0 (s.atTime t) := by simpa (disch := decide) using k
  have noted : Keeps s0 ((s.atTime t).digestEvents r) := by simpa (disch := decide) using later
  simp only [Machine.execDigestOpenResult, w, Bool.not_true, Bool.false_eq_true, if_false]
  split
  · exact leads_next.2 later
  · exact .ite (leads_next.2 later) (.ite (leads_next.2 noted.giveV1)
      (.ite (leads_next.2 noted.giveV1) (leads_next.2 noted.giveV1)))

theorem Keeps.execClearFrameDelivery {f t : Nat} : Leads (Keeps s0) (execClearFrameDelivery f t s) := by
  have later : Keeps s0 (s.atTime t) := by simpa (disch := decide) using k
  simp only [Machine.execClearFrameDelivery]
  split
  · exact leads_next.2 later
  · refine .ite (leads_next.2 later) (.ite (leads_next.2 (by simpa (disch := decide) using later)) (leads_next.2 ?_))
    simp (disch := decide) only [Keeps, State.completeRx_touch, State.endTrace_touch, State.setStream_touch]
    refine Keeps.recordCopy (Keeps.fillBuffer ?_)
    simp (disch := decide) only [Keeps, State.placeAll_touch, State.dropRx_touch, State.receiveEntry_touch, State.count_touch,
      State.nextSeq_touch, State.onShots_touch]
    exact Keeps.ite (by simpa (disch := decide) using later) later

/-! ### Bindweed -/

theorem Keeps.execHoldResolution {chain : BitVec 13} {slice : Fin 3} {core : Fin 2} {bad : Bool} :
    Leads (Keeps s0) (execHoldResolution chain slice core bad s) := by
  simp only [Machine.execHoldResolution]
  split
  · exact leads_next.2 k
  · split
    · split
      · exact leads_next.2 k
      · refine leads_next.2 (k.resolveInterval.ite ?_)
        simp (disch := decide) only [Keeps, State.resolved_touch]
        exact k.resolveInterval
    · exact leads_next.2 (by simpa (disch := decide) using k)

theorem Keeps.execIntervalKeyPrepare {chain : BitVec 10} {core : Fin 2} {block segment : RecordRead} {bad : Bool} :
    Leads (Keeps s0) (execIntervalKeyPrepare chain core block segment bad s) := by
  simp only [Machine.execIntervalKeyPrepare]
  split
  · exact leads_next.2 k
  · split
    · exact leads_next.2 k
    · refine .ite (leads_next.2 k) ?_
      split <;> rename_i e <;> have read := Keeps.of_pair e (s := s0) (by simpa (disch := decide) using k)
      · exact leads_next.2 read
      · refine leads_next.2 (Keeps.ite ?_ ?_)
        all_goals
          simp (disch := decide) only [Keeps, State.coreWorks_touch, State.makeReady_touch]
          exact read.disclosedFor

theorem Keeps.execPebbleBankFill {chain : BitVec 10} {segment : Bool} {core : Fin 2} {top : RecordRead} {bad : Bool} :
    Leads (Keeps s0) (execPebbleBankFill chain segment core top bad s) := by
  simp only [Machine.execPebbleBankFill]
  repeat' split
  · exact leads_next.2 k
  · exact leads_next.2 k
  · exact leads_next.2 k
  · exact leads_next.2 k.fillSegment
  · exact leads_next.2 k.fillBlock

/-! ### Memory plane -/

theorem Keeps.execMemoryAccess {a : MemAccess} {t : Nat} {u : MemUnit} (w : wfMem a = true) :
    Leads (Keeps s0) (execMemoryAccess a t u s) := by
  have taken : Keeps s0 (((s.atTime t).clearReplies).chipErrors u.chip) := by simpa (disch := decide) using k
  simp only [Machine.execMemoryAccess, w, Bool.not_true, Bool.false_eq_true, if_false]
  refine .ite (leads_next.2 taken) ?_
  split
  · refine leads_next.2 (Keeps.ite ?_ ?_)
    all_goals simpa (disch := decide) using taken
  · split
    · refine .ite (leads_next.2 ?_) (leads_next.2 ?_)
      all_goals simpa (disch := decide) using taken
    · exact .ite (leads_next.2 (by simpa (disch := decide) using taken)) (leads_next.2 taken.takeAccess)

theorem Keeps.execMemoryReadReturn {acc : Nat} {lines : List DramLine} {badA badB : Bool} {chip : List ChipError}
    (w : wfLines lines = true) : Leads (Keeps s0) (execMemoryReadReturn acc lines badA badB chip s) := by
  simp only [Machine.execMemoryReadReturn, w, Bool.not_true, Bool.false_eq_true, if_false]
  split
  · exact leads_next.2 (by simpa (disch := decide) using k)
  · refine leads_next.2 (Keeps.memDone (Keeps.performRead ?_))
    simp (disch := decide) only [Keeps, touch_mk, State.chipErrors_touch, State.clearReplies_touch]
    exact k

theorem Keeps.execWriteMergeDrain {t : Nat} {lines : List DramLine} {u : MemUnit} (w : wfLines lines = true) :
    Leads (Keeps s0) (execWriteMergeDrain t lines u s) := by
  have taken : Keeps s0 (((s.atTime t).clearReplies).chipErrors u.chip) := by simpa (disch := decide) using k
  simp only [Machine.execWriteMergeDrain, w, Bool.not_true, Bool.false_eq_true, if_false]
  split
  · exact leads_next.2 taken.drainEntry.memDone
  · exact leads_next.2 taken

theorem Keeps.execNodeWriteback {id : BitVec 4} {level node : Nat} {lines : List DramLine} {u : MemUnit}
    (w : wfLines lines = true) : Leads (Keeps s0) (execNodeWriteback id level node lines u s) := by
  have taken : Keeps s0 (s.clearReplies.chipErrors u.chip) := by simpa (disch := decide) using k
  simp only [Machine.execNodeWriteback, w, Bool.not_true, Bool.false_eq_true, if_false]
  split
  · exact leads_next.2 taken.evictNode.memDone
  · exact leads_next.2 taken

/-! ### Eyebright -/

theorem Keeps.withEye {e : Eye} : Keeps s0 { s with eye := e } := by simpa (disch := decide) using k

theorem Keeps.execSnapshotWrite : Leads (Keeps s0) (execSnapshotWrite s) := by
  unfold Machine.execSnapshotWrite
  split
  · exact leads_next.2 k
  · exact .ite (leads_next.2 k) (leads_next.2 k.withEye.eyePut)

theorem Keeps.execEventLogWrite : Leads (Keeps s0) (execEventLogWrite s) := by
  unfold Machine.execEventLogWrite
  split
  · exact leads_next.2 k
  · exact .ite (leads_next.2 k.withEye) (.ite (leads_next.2 k) (leads_next.2 k.withEye.eyePut))

theorem Keeps.execTraceRecordWrite {f : Nat} {stages : List Nat} {v : Word} (w : wfStages stages = true) :
    Leads (Keeps s0) (execTraceRecordWrite f stages v s) := by
  simp only [Machine.execTraceRecordWrite, w, Bool.not_true, Bool.false_eq_true, if_false]
  split
  · exact leads_next.2 k
  · exact .ite (leads_next.2 k.withEye) (leads_next.2 k.withEye.eyePut)

end

/-! ### Rows whose meaning changes quiet fields alone -/

/-- Rows of the engine that change quiet fields alone: answers, rest, windows of generations, the key store's machinery,
entropy. -/
def engineRow : Instr → Bool
  | .responseWrite _ | .yarrowRest _ | .earlyWindowOpen _ | .closeTick _ | .graceEntryFree _ | .followRollRetry _ |
    .sweepSlot | .localGeneratorReseed _ | .importTimeout _ | .entropyHealthFailure _ | .maskingDegraded _ |
    .entropyWaitTimeout _ | .entropyReadyLoss | .restEntry _ _ | .restExit _ _ => true
  | _ => false

/-- Rows of time, ports and Speedwell. -/
def lineRow : Instr → Bool
  | .portResetRequest _ _ _ | .portResetRequestFall _ | .portResetAction _ _ _ | .portResetComplete _ _ | .timeAlign _ _
    _ _ | .qualityChange _ _ _ _ | .ppsEdge _ _ | .burstWindowEnd _ _ | .overrun _ | .planOverloadSet |
    .planOverloadClear | .linkDown _ _ _ _ _ | .linkUp _ _ _ => true
  | _ => false

/-- Rows of frames and rings that write no host memory and fetch no key. -/
def frameRow : Instr → Bool
  | .ringRecheck _ | .ringStarved _ | .sealSupplyCheck _ | .frameStart _ | .transmitComplete _ _ _ _ | .recordStart |
    .frameClassify _ | .duplicateEntryForget _ _ | .hsrForwardEntryForget _ _ | .ptpBypass _ | .hsrForward _ _ |
    .ingressBeatTaken => true
  | _ => false

/-- Rows of Bindweed and of partner notices that fetch no key. -/
def chainRow : Instr → Bool
  | .standaloneDisclosureReceive _ | .partnerNoticeReceive _ | .noticeIntervalEnd _ _ _ _ | .noticeToken _ _ |
    .holdCloseMissing _ | .holdExpired _ | .publisherKeyLate _ | .standaloneDisclosureSend _ | .anchorStarved _ |
    .publisherRenewalStart _ => true
  | _ => false

/-- Rows of Eyebright and of the registers that stand in the state alone. -/
def eyeRow : Instr → Bool
  | .eventLogRecordClose | .interruptSend _ | .evStatusClear _ _ _ _ | .counterWrite _ _ _ _ => true
  | _ => false

section
variable {s0 s : State} (k : Keeps s0 s)
include k

theorem Keeps.engineRow {c : Instr} (r : engineRow c = true) : Leads (Keeps s0) (exec c s) := by
  cases c with
  | responseWrite | yarrowRest | earlyWindowOpen | closeTick | graceEntryFree | followRollRetry | sweepSlot |
    localGeneratorReseed | importTimeout | entropyHealthFailure | maskingDegraded | entropyWaitTimeout |
    entropyReadyLoss | restEntry | restExit =>
    simp only [exec, execResponseWrite, execYarrowRest, execEarlyWindowOpen, execCloseTick, execGraceEntryFree,
      execFollowRollRetry, execSweepSlot, execLocalGeneratorReseed, execImportTimeout, execEntropyHealthFailure,
      execMaskingDegraded, execEntropyWaitTimeout, execEntropyReadyLoss, execRestEntry, execRestExit]
    repeat' split
    all_goals exact leads_next.2 (by simpa (disch := decide) using k)
  | _ => cases r

theorem Keeps.lineRow {c : Instr} (r : lineRow c = true) : Leads (Keeps s0) (exec c s) := by
  cases c with
  | portResetRequest | portResetRequestFall | portResetAction | portResetComplete | timeAlign | qualityChange | ppsEdge
    | burstWindowEnd | overrun | planOverloadSet | planOverloadClear | linkDown | linkUp =>
    simp only [exec, execPortResetRequest, execPortResetRequestFall, execPortResetAction, execPortResetComplete,
      execTimeAlign, execQualityChange, execPpsEdge, execBurstWindowEnd, execOverrun, execPlanOverloadSet,
      execPlanOverloadClear, execLinkDown, execLinkUp]
    repeat' split
    all_goals exact leads_next.2 (by simpa (disch := decide) using k)
  | _ => cases r

theorem Keeps.frameRow {c : Instr} (r : frameRow c = true) : Leads (Keeps s0) (exec c s) := by
  cases c with
  | ringRecheck | ringStarved | sealSupplyCheck | frameStart | transmitComplete | recordStart | frameClassify |
    duplicateEntryForget | hsrForwardEntryForget | ptpBypass | hsrForward | ingressBeatTaken =>
    simp only [exec, execRingRecheck, execRingStarved, execSealSupplyCheck, execFrameStart, execTransmitComplete,
      execRecordStart, execFrameClassify, execDuplicateEntryForget, execHsrForwardEntryForget, execPtpBypass,
      execHsrForward, execIngressBeatTaken]
    repeat' split
    all_goals exact leads_next.2 (by simpa (disch := decide) using k)
  | _ => cases r

theorem Keeps.chainRow {c : Instr} (r : chainRow c = true) : Leads (Keeps s0) (exec c s) := by
  cases c with
  | standaloneDisclosureReceive | partnerNoticeReceive | noticeIntervalEnd | noticeToken | holdCloseMissing |
    holdExpired | publisherKeyLate | standaloneDisclosureSend | anchorStarved | publisherRenewalStart =>
    simp only [exec, execStandaloneDisclosureReceive, execPartnerNoticeReceive, execNoticeIntervalEnd,
      execNoticeToken, execHoldCloseMissing, execHoldExpired, execPublisherKeyLate, execStandaloneDisclosureSend,
      execAnchorStarved, execPublisherRenewalStart]
    repeat' split
    all_goals exact leads_next.2 (by simpa (disch := decide) using k)
  | _ => cases r

theorem Keeps.eyeRow {c : Instr} (r : eyeRow c = true) : Leads (Keeps s0) (exec c s) := by
  cases c with
  | eventLogRecordClose | interruptSend | evStatusClear | counterWrite =>
    simp only [exec, execEventLogRecordClose, execInterruptSend, execEvStatusClear, execCounterWrite]
    repeat' split
    all_goals exact leads_next.2 (by simpa (disch := decide) using k)
  | _ => cases r

end

/-- Rows that write one register of the window, which stands in the state alone. -/
def windowRow : Instr → Bool
  | .mbSubmit _ _ | .mbAck _ _ | .mbDoorbellReserved _ _ _ | .doorbellPost _ _ _ _ | .doorbellRelease _ _ _ _ | .intEoi
    _ _ | .eyebrightReleaseWrite _ _ _ | .eyebrightRingControl _ _ _ => true
  | _ => false

section
variable {s0 s : State} (k : Keeps s0 s)
include k

theorem Keeps.windowRow {c : Instr} (r : windowRow c = true) : Leads (Keeps s0) (exec c s) := by
  cases c with
  | mbSubmit | mbAck | mbDoorbellReserved | doorbellPost | doorbellRelease | intEoi | eyebrightReleaseWrite |
    eyebrightRingControl =>
    exact leads_next.2 (k.regWrite (by simpa (disch := decide) using k))
  | _ => cases r

theorem Keeps.execGlogClear {cls : Cls} {g : Fin 17} {v : Container} {same : Bool} :
    Leads (Keeps s0) (execGlogClear cls g v same s) :=
  leads_next.2 (k.regWrite (Keeps.ite (by simpa (disch := decide) using k) k))

theorem Keeps.execChainedCounterLowRead {cls : Cls} {j : Fin 32} : Leads (Keeps s0) (execChainedCounterLowRead cls j s) :=
  leads_next.2 (k.regRead (by simpa (disch := decide) using k))

theorem Keeps.execRcFieldRead {cls : Cls} {off : BitVec 20} {size update : Nat} :
    Leads (Keeps s0) (execRcFieldRead cls off size update s) := by
  unfold Machine.execRcFieldRead
  refine .ite (leads_next.2 (by simpa (disch := decide) using k)) ?_
  split
  · refine leads_next.2 ?_
    simp (disch := decide) only [Keeps, State.windowFault_touch]
    exact k.updateRc
  · exact leads_next.2 k.regAccess

theorem Keeps.execRegisterWrite {cls : Cls} {off : BitVec 20} {size : Nat} {v : Container} :
    Leads (Keeps s0) (execRegisterWrite cls off size v s) := by
  unfold Machine.execRegisterWrite
  refine .ite (leads_next.2 k) ?_
  split
  · exact leads_next.2 (by simpa (disch := decide) using k)
  · exact leads_next.2 k.regStore

/-- Every row but a reset and Assay, once its command can be formed, answers a state that keeps the clauses. -/
theorem Keeps.exec {c : Instr} (w : c.wf = true) (r : isReset c = false) (a : ∀ i t, c ≠ .assay i t) :
    Leads (Keeps s0) (exec c s) := by
  cases c with
  | responseWrite | yarrowRest | earlyWindowOpen | closeTick | graceEntryFree | followRollRetry | sweepSlot |
    localGeneratorReseed | importTimeout | entropyHealthFailure | maskingDegraded | entropyWaitTimeout |
    entropyReadyLoss | restEntry | restExit => exact k.engineRow rfl
  | portResetRequest | portResetRequestFall | portResetAction | portResetComplete | timeAlign | qualityChange | ppsEdge
    | burstWindowEnd | overrun | planOverloadSet | planOverloadClear | linkDown | linkUp => exact k.lineRow rfl
  | ringRecheck | ringStarved | sealSupplyCheck | frameStart | transmitComplete | recordStart | frameClassify |
    duplicateEntryForget | hsrForwardEntryForget | ptpBypass | hsrForward | ingressBeatTaken => exact k.frameRow rfl
  | standaloneDisclosureReceive | partnerNoticeReceive | noticeIntervalEnd | noticeToken | holdCloseMissing |
    holdExpired | publisherKeyLate | standaloneDisclosureSend | anchorStarved | publisherRenewalStart => exact k.chainRow rfl
  | eventLogRecordClose | interruptSend | evStatusClear | counterWrite => exact k.eyeRow rfl
  | mbSubmit | mbAck | mbDoorbellReserved | doorbellPost | doorbellRelease | intEoi | eyebrightReleaseWrite |
    eyebrightRingControl => exact k.windowRow rfl
  | coldReset | engineReset => cases r
  | assay i t => exact absurd rfl (a i t)
  | streamArmCommit | streamDisarmCommit | retirementCommit | genInstallCommit | rollCommit | invalidationCommit |
    drillEntry | dormantEntry | gateOfflineCommit | gateOnlineCommit => exact leads_next.2 k.commitOne
  | stagedChangeCommit => exact leads_next.2 k.commitDue
  | echo | status | imageInfo => exact k.execPyfer fun _ => k.done
  | streamRead | keyRead | gateRead => exact k.execPyfer fun _ => .checked k.done
  | gateWrite | imageWrite | timeRealign =>
    exact k.execPyfer fun _ => .checked (Keeps.done (by simpa (disch := decide) using k))
  | keyInvalidate | chainDelete | gateOffline | portReset => exact k.execPyfer fun _ => k.stagePlan
  | latencyBudget => exact k.execPyfer fun _ => Keeps.stagePlan (by simpa (disch := decide) using k)
  | streamDisarm | streamRetire => exact k.execPyfer fun _ => k.simpleChange
  | keyImport busy at_ =>
    have later : Keeps s0 (s.atTime at_) := by simpa (disch := decide) using k
    exact later.execPyfer fun _ => later.importRes
  | modeRequest => exact k.execPyfer fun _ => k.modeRes
  | streamCreate => exact k.execPyfer fun _ => k.createRes
  | streamModify => exact k.execPyfer fun _ => k.modifyRes
  | streamArm => exact k.execPyfer fun _ => k.armRes
  | streamSnapshot => exact k.execPyfer fun _ => k.snapshotRes
  | twinLink => exact k.execPyfer fun _ => k.twinRes
  | genInstall => exact k.execPyfer fun _ => k.installRes
  | genRoll => exact k.execPyfer fun _ => k.rollRes
  | keyDerive => exact k.execPyfer fun _ => k.deriveRes
  | chainCreate => exact k.execPyfer fun _ => k.chainCreateRes
  | chainVerifier => exact k.execPyfer fun _ => k.verifierRes
  | chainInstall => exact k.execPyfer fun _ => k.chainInstallRes
  | chainRead => exact k.execPyfer fun _ => k.chainReadRes
  | gateOnline => exact k.execPyfer fun _ => k.gateOnlineRes
  | imageActivate => exact k.execPyfer fun _ => k.imageActivateRes
  | umazRequest => exact k.execPyfer fun _ => k.umazRes
  | requestAccept => exact k.execRequestAccept
  | planBoundary => exact k.execPlanBoundary w
  | streamFreed => exact k.execStreamFreed
  | stagingMiss => exact k.execStagingMiss
  | maskingRefresh => exact k.execMaskingRefresh
  | keyBusResponse => exact k.execKeyBusResponse
  | entropyRecovered => exact k.execEntropyRecovered
  | entropyReady => exact k.execEntropyReady
  | counterAdvanceRetry => exact k.execCounterAdvanceRetry
  | retentionRestartRequest => exact k.execRetentionRestartRequest
  | retentionRestartRelease => exact k.execRetentionRestartRelease
  | tamperInput => exact k.execTamperInput
  | dormantPowerDown => exact k.execDormantPowerDown
  | dormantExit => exact k.execDormantExit
  | commissionServiceChange => exact k.execCommissionServiceChange
  | imageActivationCommit => exact k.execImageActivationCommit
  | egressHeaderBeat => exact k.execEgressHeaderBeat w
  | egressDataBeat => exact k.execEgressDataBeat w
  | descriptorFetch => exact k.execDescriptorFetch w
  | sealSliceEntry => exact k.execSealSliceEntry
  | digestSealResult => exact k.execDigestSealResult w
  | sealEcho => exact k.execSealEcho
  | outputWrite => exact k.execOutputWrite
  | ringInterrupt => exact k.execRingInterrupt
  | recordChunk => exact k.execRecordChunk
  | v0Check => exact k.execV0Check
  | plaintextBeat => exact k.execPlaintextBeat
  | v1Verdict => exact k.execV1Verdict
  | digestOpenResult => exact k.execDigestOpenResult w
  | clearFrameDelivery => exact k.execClearFrameDelivery
  | holdResolution => exact k.execHoldResolution
  | v2RecordWrite => exact k.execV2RecordWrite
  | intervalKeyPrepare => exact k.execIntervalKeyPrepare
  | pebbleBankFill => exact k.execPebbleBankFill
  | memoryAccess => exact k.execMemoryAccess w
  | memoryReadReturn => exact k.execMemoryReadReturn w
  | writeMergeDrain => exact k.execWriteMergeDrain w
  | nodeWriteback => exact k.execNodeWriteback w
  | snapshotWrite => exact k.execSnapshotWrite
  | eventLogWrite => exact k.execEventLogWrite
  | traceRecordWrite f st v => exact k.execTraceRecordWrite (v := v) w
  | chainedCounterLowRead => exact k.execChainedCounterLowRead
  | rcFieldRead => exact k.execRcFieldRead
  | glogClear => exact k.execGlogClear
  | registerWrite => exact k.execRegisterWrite

end

/-! ### Commands that cannot be formed, and Assay -/

theorem refuse_of_not_wf {b : Bool} {o : Out} (w : b = false) :
    (if !b then .refused .illFormed else o) = .refused .illFormed := by
  simp [w]

/-- A command that cannot be formed is refused. -/
theorem exec_of_not_wf {c : Instr} {s : State} (w : c.wf = false) : exec c s = .refused .illFormed := by
  cases c with
  | egressHeaderBeat | egressDataBeat | planBoundary | memoryAccess | memoryReadReturn | writeMergeDrain | nodeWriteback
  | traceRecordWrite | descriptorFetch | digestSealResult | digestOpenResult => exact refuse_of_not_wf w
  | _ => cases w

theorem wf_of_exec_next {c : Instr} {s t : State} (h : exec c s = .next t) : c.wf = true := by
  by_contra w
  rw [exec_of_not_wf (by simpa using w)] at h
  cases h

/-- Assay reads the fuses first: what follows keeps the clauses. -/
theorem execAssay_keeps (i : AssayIn) (at_ : Nat) (s : State) :
    ∃ f, Leads (Keeps { s with fuses := f }) (execAssay i at_ s) := by
  simp only [execAssay]
  split
  · refine ⟨s.fuses, leads_next.2 ?_⟩
    exact keeps_iff.2 ⟨rfl, rfl, BitVec.and_self, id, fun h => ⟨h, rfl, rfl⟩, .inl⟩
  · rename_i e
    have assay : s.mode = .assay := by
      by_contra h
      simp [h] at e
    split
    · refine ⟨s.fuses, leads_next.2 (Keeps.lockdown ?_)⟩
      exact keeps_iff.2 ⟨rfl, rfl, BitVec.and_self, id, fun h => ⟨h, rfl, rfl⟩, .inl⟩
    · let f : Fuses := ⟨i.root, i.lifecycle, i.ownerDigest, i.rollbackFloor, i.entropyWait, i.debugLock⟩
      have free : ({ s with fuses := f } : State).mode ≠ .drill ∧ ({ s with fuses := f } : State).mode ≠ .lockdown := by
        simp [assay]
      refine ⟨f, .ite (leads_next.2 (Keeps.lockdown ?_))
        (leads_next.2 (Keeps.ite (Keeps.assayHealth ?_) (Keeps.assayEntropy ?_ free)))⟩
      all_goals exact keeps_iff.2 ⟨rfl, rfl, BitVec.and_self, id, fun h => ⟨h, rfl, rfl⟩, .inl⟩

/-! ### Every command -/

/-- A bit that a latch holds stays where the later latch has every bit of the first. -/
theorem getLsbD_of_and_eq {a b : BitVec 4} {k : Nat} (h : a &&& b = a) (set : a.getLsbD k = true) : b.getLsbD k = true := by
  rw [← h, BitVec.getLsbD_and, Bool.and_eq_true] at set
  exact set.2

/-- Every row but a reset, once its command can be formed, answers a state that keeps the clauses; Assay first reads the
fuses. -/
theorem exec_keeps {c : Instr} {s : State} (w : c.wf = true) (r : isReset c = false) :
    ∃ f, Leads (Keeps { s with fuses := f }) (exec c s) := by
  by_cases a : ∃ i n, c = .assay i n
  · obtain ⟨i, n, rfl⟩ := a
    exact execAssay_keeps i n s
  · exact ⟨s.fuses, Keeps.exec (Keeps.refl s) w r fun i n e => a ⟨i, n, e⟩⟩

/-- What holds of the answer of a row holds of the state that it answers. -/
theorem Leads.holds {s t : State} {o : Out} (l : Leads (Keeps s) o) (h : o = .next t) : Holds s t := by
  obtain ⟨u, e, k⟩ := l
  rw [h] at e
  cases e
  exact keeps_iff.1 k

/-- What every command but a reset keeps, where it answers a next state; a step of Assay reads the fuses. -/
theorem exec_holds {c : Instr} {s t : State} (r : isReset c = false) (h : exec c s = .next t) :
    ∃ f, Holds { s with fuses := f } t := by
  obtain ⟨f, l⟩ := exec_keeps (s := s) (wf_of_exec_next h) r
  exact ⟨f, l.holds h⟩

/-- A reset keeps the host's memory and the DRAM. -/
theorem exec_reset_canonical {c : Instr} {s t : State} (r : isReset c = true) (h : exec c s = .next t) (m : s.canonical) :
    t.canonical := by
  cases c with
  | coldReset | engineReset => cases h; exact m
  | _ => cases r

theorem exec_canonical {c : Instr} {s t : State} (h : exec c s = .next t) (m : s.canonical) : t.canonical := by
  cases r : isReset c with
  | true => exact exec_reset_canonical r h m
  | false =>
    obtain ⟨f, kept⟩ := exec_holds r h
    exact kept.memory m

/-- The state that a rising tamper input leaves before anything answers it (R431). -/
def State.latchTamper (s : State) (k : Fin 4) : State :=
  { s with
    tamperLatch := s.tamperLatch ||| BitVec.ofNat 4 (2 ^ k.val)
    tamperLevel := s.tamperLevel ||| BitVec.ofNat 4 (2 ^ k.val) }

theorem State.latchTamper_bit (s : State) (k : Fin 4) : (s.latchTamper k).tamperLatch.getLsbD k.val = true := by
  have own : ∀ k : Fin 4, (BitVec.ofNat 4 (2 ^ k.val)).getLsbD k.val = true := by decide
  rw [State.latchTamper, BitVec.getLsbD_or, own, Bool.or_true]

/-- What answers a rising tamper input keeps the latch that it set. -/
theorem execTamperInput_latches (s : State) (k : Fin 4) (keyOp : Bool) :
    Leads (Keeps (s.latchTamper k)) (exec (.tamperInput k keyOp) s) := by
  have posted : Keeps (s.latchTamper k) ((s.latchTamper k).post (492 + k.val)) := by
    simpa (disch := decide) using Keeps.refl (s.latchTamper k)
  refine .ite (leads_next.2 posted) (leads_next.2 (Keeps.lockdown ?_))
  simp (disch := decide) only [Keeps, State.postIf_touch, State.clearBegun_touch]
  exact posted

/-- Settles O1, by the two forms of the queue. -/
theorem stepRunsFrontCommand : Obligations.StepRunsFrontCommand := by
  unfold Obligations.StepRunsFrontCommand
  constructor
  · intro c rest s h
    rw [step, h]
  · intro s h
    rw [step, h]

/-- Settles O3: both memories are empty lists. -/
theorem resetMemoryCanonical : Obligations.ResetMemoryCanonical := by
  unfold Obligations.ResetMemoryCanonical
  exact ⟨rfl, rfl⟩

/-- Settles O4: every row but the resets keeps the canonical form by `Keeps.exec`, and a reset keeps both memories. -/
theorem memoryStaysCanonical : Obligations.MemoryStaysCanonical := by
  unfold Obligations.MemoryStaysCanonical
  intro s t m h
  cases p : s.pending with
  | nil =>
    rw [stepRunsFrontCommand.2 s p] at h
    cases h
    exact m
  | cons c rest =>
    rw [stepRunsFrontCommand.1 c rest s p] at h
    exact exec_canonical h m

/-- Settles O5: entry latches the cause by `State.lockdown_enters`, and every row but a reset keeps Lockdown by
`Keeps.exec`. -/
theorem lockdownEndsOnlyByReset : Obligations.LockdownEndsOnlyByReset := by
  unfold Obligations.LockdownEndsOnlyByReset
  refine ⟨fun s k runs => ?_, fun c s t e r h => ?_, fun n s => ⟨⟨_, rfl, rfl, rfl⟩, ⟨_, rfl, rfl, rfl⟩⟩⟩
  · simp [State.lockdown_enters runs]
  · obtain ⟨f, kept⟩ := exec_holds r h
    exact kept.lockdown e

/-- Settles O6, by `Keeps.exec`. -/
theorem drillEndsOnlyByLockdownOrReset : Obligations.DrillEndsOnlyByLockdownOrReset := by
  unfold Obligations.DrillEndsOnlyByLockdownOrReset
  intro c s t e r h
  obtain ⟨f, kept⟩ := exec_holds r h
  exact kept.drill e

/-- Settles O7, by `Keeps.exec`. -/
theorem fuseFieldsHeld : Obligations.FuseFieldsHeld := by
  unfold Obligations.FuseFieldsHeld
  intro c s t r a h
  have kept := (Keeps.exec (Keeps.refl s) (wf_of_exec_next h) r a).holds h
  simpa [Fuses.read] using kept.fuses

/-- Settles O8: every row but a cold reset keeps the latch by `Keeps.exec`, and what follows a latched input keeps it
too. -/
theorem tamperLatchHolds : Obligations.TamperLatchHolds := by
  unfold Obligations.TamperLatchHolds
  constructor
  · intro c s t cold h
    cases r : isReset c with
    | true =>
      cases c with
      | coldReset n => exact absurd rfl (cold n)
      | engineReset => cases h; exact BitVec.and_self
      | _ => cases r
    | false =>
      obtain ⟨f, kept⟩ := exec_holds r h
      exact kept.tamper
  · intro k keyOp s
    obtain ⟨t, e, kept⟩ := execTamperInput_latches s k keyOp
    exact ⟨t, e, getLsbD_of_and_eq (keeps_iff.1 kept).tamper (s.latchTamper_bit k)⟩

/-- Settles O9: `Keeps.exec` where the command can be formed, the refusal of each row else. -/
theorem commandsLeaveQueue : Obligations.CommandsLeaveQueue := by
  unfold Obligations.CommandsLeaveQueue
  intro c s
  refine ⟨fun w => ?_, exec_of_not_wf⟩
  cases r : isReset c with
  | true =>
    cases c with
    | coldReset | engineReset => exact ⟨_, rfl, rfl⟩
    | _ => cases r
  | false =>
    obtain ⟨f, t, e, kept⟩ := exec_keeps (s := s) w r
    exact ⟨t, e, (keeps_iff.1 kept).queue⟩

end Sys2Proof.Machine

/-!
PROOFS. The statements on mailboxes, their requests and responses, and on the Pyfer commands that answer, stage a change or
fail a check (O10, O12 to O15, O17).
-/

namespace Sys2Proof.Machine

/-! ### Mailboxes (R366 to R370) -/

/-- The doorbell of a mailbox stands in its own page. -/
theorem offMb_page (m : Nat) : (offMb m + 8) / 4096 = m + 1 := by unfold offMb; omega

/-- A doorbell write of a mailbox that the window admits has its own effect. -/
theorem mailboxWrite_admitted {s : State} {cls : Cls} {m : Fin 18} (f : State → State) (free : windowHeld s = false)
    (admitted : windowRefusal s cls (m.val + 1) true = none) : s.regWrite cls (offMb m.val + 8) f = f s :=
  regWrite_admitted f free (offMb_page m.val ▸ admitted)

/-- SUBMIT on a free request area of a mailbox that is ready (R366, R443). -/
theorem State.mbSubmit_ready {s : State} {m : Nat} (idle : (s.mbox m).reqBusy = false) (ready : mbReady s m = true) :
    s.mbSubmit m = (s.setMbox m { s.mbox m with reqBusy := true }).wakeYarrow := by
  simp [State.mbSubmit, idle, ready]

theorem State.mbSubmit_refused {s : State} {m : Nat} (h : (s.mbox m).reqBusy = true ∨ mbReady s m = false) :
    s.mbSubmit m = s.protocolError m 1 := by
  rcases h with h | h <;> simp [State.mbSubmit, h]

/-- Settles O10: the window admits the write, and each operation takes the branch of its condition. -/
theorem mailboxDoorbells : Obligations.MailboxDoorbells := by
  unfold Obligations.MailboxDoorbells
  intro cls m s free admitted
  have run {f : State → State} : Host.Outcome.next (s.regWrite cls (offMb m.val + 8) f) = (.next (f s) : Out) :=
    congrArg _ (mailboxWrite_admitted f free admitted)
  refine ⟨fun ⟨idle, ready⟩ => ?submit, fun h => ?busy, fun h => ?ack, fun h => ?none, fun v sub ack => ?reserved⟩
  case submit =>
    refine ⟨((s.setMbox m.val { s.mbox m.val with reqBusy := true }).wakeYarrow).power, ?_, fun e => ?_, fun e => ?_⟩
    · refine run.trans (congrArg _ ?_)
      rw [State.mbSubmit_ready idle ready]
      simp only [State.wakeYarrow]
      split <;> rfl
    · simp [State.wakeYarrow, e]
    · simp [State.wakeYarrow, e]
  case busy => exact run.trans (congrArg _ (State.mbSubmit_refused h))
  case ack => exact run.trans (congrArg _ (by simp [State.mbAck, h]))
  case none => exact run.trans (congrArg _ (by simp [State.mbAck, h, State.protocolError]))
  case reserved => exact run.trans (congrArg _ (by simp [State.mbDoorbell, sub, ack, State.protocolError]))

/-- What the rotation gives while PD1 is awake and no retention restart is in progress. -/
theorem ite_accept_some {s : State} {m : Nat} (awake : s.power.pd1 = true) (runs : s.retention = none)
    (next : nextAccept s = some m) :
    (if s.power.pd1 && s.retention.isNone then nextAccept s else none) = some m := by
  simp [awake, runs, next]

theorem ite_accept_none {s : State} (h : s.power.pd1 = false ∨ s.retention ≠ none ∨ nextAccept s = none) :
    (if s.power.pd1 && s.retention.isNone then nextAccept s else none) = none := by
  rcases h with h | h | h
  · simp [h]
  · rw [Option.isNone_eq_false_iff.2 (Option.isSome_iff_ne_none.2 h), Bool.and_false, if_neg Bool.false_ne_true]
  · simp [h]

/-- Settles O12: bringing the model's clock changes nothing that the rotation looks at. -/
theorem requestAccepted : Obligations.RequestAccepted := by
  unfold Obligations.RequestAccepted
  intro now s
  refine ⟨fun m c u t awake runs next hc hu ht => ⟨?_, ?_, fun k apart => ?_⟩, fun h => ?_⟩
  · have given := ite_accept_some (s := s.atTime now) awake runs next
    subst hc hu ht
    show execRequestAccept now s = _
    simp only [execRequestAccept, given]
    exact (apply_ite Host.Outcome.next _ _ _).symm
  · subst ht hu
    exact State.mbox_setMbox (s := s.atTime now) m _
  · subst ht hu
    exact State.mbox_setMbox_other (s := s.atTime now) apart _
  · have none := ite_accept_none (s := s.atTime now) h
    show execRequestAccept now s = _
    simp only [execRequestAccept, none]

theorem State.postIf_beq (s : State) (a b n : Nat) : s.postIf (a == b) n = if a = b then s.post n else s := by
  simp [State.postIf]

/-- Settles O13: where the area is free and the oldest command has an answer, RESPONSE_WRITE is the write that the
statement spells out, and nothing happens where it is not. -/
theorem responseWritten : Obligations.ResponseWritten := by
  unfold Obligations.ResponseWritten
  intro m c s oldest
  refine ⟨fun ws out b u free unheld answered hout hb hu => ⟨?_, ?_⟩, fun h => ?_⟩
  · subst hout
    rfl
  · have given : (if (s.mbox m.val).rspValid || restartHeld s then none else answerOf s c) = some ws := by
      simp [free, unheld, answered]
    subst hu hb hout
    show execResponseWrite m s = _
    simp only [execResponseWrite, oldest, given, State.postIf_beq, beq_iff_eq]
    rfl
  · show execResponseWrite m s = _
    have none : (if (s.mbox m.val).rspValid || restartHeld s then none else answerOf s c) = none := by
      rcases h with h | h | h <;> simp [h]
    simp only [execResponseWrite, oldest, none]

/-! ### Commands that fail one of checks 1 to 4 (R375, R377) -/

/-- A row of Table 13.11 executes its opcode by a function of its own; KEY_IMPORT brings the model's clock first. -/
theorem exec_pyferRow {op : Nat} {x : Instr} (s : State) (row : pyferRow op x = true) :
    ∃ n f, exec x s = execPyfer op f { s with now := n } ∧ ((∀ busy at_, x ≠ .keyImport busy at_) → n = s.now) := by
  cases x with
  | keyImport busy at_ =>
    rw [beq_iff_eq.1 row]
    exact ⟨max s.now at_, importRes busy, rfl, fun other => absurd rfl (other busy at_)⟩
  | echo | status | modeRequest | timeRealign | latencyBudget | streamCreate | streamModify | streamArm | streamDisarm
  | streamRetire | streamRead | streamSnapshot | twinLink | genInstall | genRoll | keyDerive | keyInvalidate | keyRead
  | chainCreate | chainVerifier | chainInstall | chainDelete | chainRead | gateOffline | gateWrite | gateOnline | gateRead
  | portReset | imageWrite | imageActivate | imageInfo | umazRequest =>
    rw [beq_iff_eq.1 row]
    exact ⟨s.now, _, rfl, fun _ => rfl⟩
  | _ => cases row

/-- None of checks 1 to 4 is about entropy. -/
theorem commonChecks_status_ne {s : State} {c : Cmd} {i : OpInfo} {st d : Nat}
    (fails : failOf (commonChecks s c i) = some (st, d)) : (st == rEntropy) = false := by
  obtain ⟨x, found, e⟩ := Option.map_eq_some_iff.1 fails
  have each : ∀ x ∈ commonChecks s c i, (x.2.1 == rEntropy) = false := by
    simp [commonChecks, rEntropy, eOpcode, eLength, eDomain, eMalformed, eState]
  simpa [e] using each x (List.mem_of_find?_eq_some found)

/-- The oldest waiting command is answered with its first failing check, and nothing else changes. -/
theorem execPyfer_fail {s : State} {c : Cmd} {i : OpInfo} {st d : Nat} {f : State → Cmd → Res} (front : frontCmd s = some c)
    (info : opInfo c.opcode = some i) (waits : begunWith c = none) (fails : failOf (commonChecks s c i) = some (st, d)) :
    execPyfer c.opcode f s = .next (s.answer c.id [at_ 40 st ||| at_ 0 d, 0]) := by
  have judged : judge s c f = .fail st d [] := by simp [judge, info, waits, fails]
  simp [execPyfer, front, judged, State.finish, State.postIf, commonChecks_status_ne fails, State.posts, answerWords]

/-- Settles O17: a failing check is answered whatever the command's own function is, and STAGING_MISS by R23. -/
theorem failedCheckAnswersAndChangesNothing : Obligations.FailedCheckAnswersAndChangesNothing := by
  unfold Obligations.FailedCheckAnswersAndChangesNothing
  refine ⟨fun c i st d x s front info waits fails row => ?_, fun c s t d front misses => ?_⟩
  · obtain ⟨n, f, run, still⟩ := exec_pyferRow s row
    exact ⟨n, run.trans (execPyfer_fail (s := { s with now := n }) front info waits fails), still⟩
  · show execStagingMiss s = _
    simp only [execStagingMiss, front, misses]
    simp [State.finish, State.postIf, answerWords, errStagingMissCode, at_]

/-! ### Commands that answer what they read (R385, R403, R408) -/

theorem gateReadRes_ok {s : State} {c : Cmd} (clean : fld (c.q 1) 10 38 = 0) (exists_ : fld (c.q 1) 0 5 ≤ 16) :
    gateReadRes s c = .done 0
      [(Table.get (0, 0, 0) (fld (c.q 1) 5 5) (s.gate (fld (c.q 1) 0 5)).rules).1,
       (Table.get (0, 0, 0) (fld (c.q 1) 5 5) (s.gate (fld (c.q 1) 0 5)).rules).2.1,
       (Table.get (0, 0, 0) (fld (c.q 1) 5 5) (s.gate (fld (c.q 1) 0 5)).rules).2.2,
       at_ 47 (boolNat (s.gate (fld (c.q 1) 0 5)).online)] s := by
  refine checked_ok ?_ _
  simp [gateChecks, gateArg, clean, Nat.not_lt.mpr exists_]

theorem umazRes_ok {s u : State} {c : Cmd} (clean : fld (c.q 6) 0 32 = 0)
    (numbered : u = { s with ladder := { s.ladder with umazSeq := s.ladder.umazSeq + 1 } }) :
    umazRes s c = .done 0 (packWords 54 (umazBody u ((unpackWords (c.words.drop 1)).take 32) ++
      sha3 (umazBody u ((unpackWords (c.words.drop 1)).take 32)))) (u.coreWorks 10) := by
  subst numbered
  exact checked_ok (by simp [clean]) _

/-- Settles O14: each command is answered by its own function, whose checks all pass. -/
theorem queryCommandsAnswer : Obligations.QueryCommandsAnswer := by
  unfold Obligations.QueryCommandsAnswer
  intro c s
  exact ⟨fun front => front_done front rfl, fun front => front_done front rfl,
    fun front clean exists_ => front_done front (gateReadRes_ok clean exists_),
    fun front => front_done front rfl,
    fun front clean => ⟨_, rfl, front_done front (umazRes_ok clean rfl)⟩⟩

/-! ### Commands that stage a change for a plan tick (R378 to R380, R508) -/

/-- A command whose function stages a change of the plan domain with no failing check is answered with its tick. -/
theorem front_staged {s u : State} {c : Cmd} {op : Nat} {f : State → Cmd → Res} {o : Obj} {chg : Change} {d : Nat}
    {early late : List Check} (front : Front s c op) (stages : f s c = stagePlan u c o chg d early late)
    (timely : Timely u c [o] 4) (passes : failOf early = none) (goes : failOf late = none) :
    execPyfer op f s = .next ((u.stage ⟨o, 4, effTick u c [o] 4, chg⟩).answer c.id (okWords (effTick u c [o] 4) [])) :=
  front_done front (stages.trans (plan_ok timely chg d early late passes goes))

theorem gateChecks_pass {c : Cmd} {lo : Nat} (clean : fld (c.q 1) lo (48 - lo) = 0) (exists_ : fld (c.q 1) 0 5 ≤ 16) :
    failOf (gateChecks c lo) = none :=
  failOf_nil (by simp [gateChecks, gateArg, clean, Nat.not_lt.mpr exists_])

theorem modeRequest_stages {c : Cmd} {s : State} (front : Front s c 0x08) (clean : fld (c.q 1) 8 40 = 0)
    (range : fld (c.q 1) 0 8 ≤ 5)
    (legal : modeLegal s (effTick s c [.mode] 4) (futureMode s) (modeOf (fld (c.q 1) 0 8)) = true)
    (oldest : modeOf (fld (c.q 1) 0 8) = .dormant → ∀ x ∈ s.cmds, c.id ≤ x.id) (timely : Timely s c [.mode] 4) :
    exec .modeRequest s = .next ((s.stage ⟨.mode, 4, effTick s c [.mode] 4, .mode (modeOf (fld (c.q 1) 0 8))⟩).answer
      c.id (okWords (effTick s c [.mode] 4) [])) := by
  have now : (modeOf (fld (c.q 1) 0 8) == .dormant && s.cmds.any (fun x => decide (x.id < c.id))) = false := by
    simpa using oldest
  refine front_staged front (by simp only [modeRes, now]; rfl) timely (failOf_nil ?_) (failOf_nil ?_)
  · simp [clean, range]
  · simp [legal]

theorem latencyBudget_stages {c : Cmd} {s : State} {d : Option Nat} (front : Front s c 0x0A) (clean : fld (c.q 1) 32 15 = 0)
    (wide : bit (c.q 1) 47 = true → c.mbox = 16) (ed : d = if bit (c.q 1) 47 then none else some c.domain)
    (timely : Timely s c [.budget d] 4) :
    exec .latencyBudget s = .next
      (((s.wakeAs (s.setBudget d (BitVec.ofNat 32 (fld (c.q 1) 0 32)))).stage
        ⟨.budget d, 4, effTick s c [.budget d] 4, .budget (BitVec.ofNat 32 (fld (c.q 1) 0 32))⟩).answer
        c.id (okWords (effTick s c [.budget d] 4) [])) := by
  subst ed
  refine front_staged (u := s.wakeAs _) front rfl timely (failOf_nil ?_) (failOf_nil ?_)
  · simp [clean]
  · simpa [mbMgmt] using wide

theorem gateOffline_stages {c : Cmd} {s : State} {g : Nat} (eg : g = fld (c.q 1) 0 5) (front : Front s c 0x40)
    (clean : fld (c.q 1) 5 43 = 0) (exists_ : g ≤ 16) (timely : Timely s c [.gate g] 4) :
    exec .gateOffline s = .next ((s.stage ⟨.gate g, 4, effTick s c [.gate g] 4, .gateOffline⟩).answer
      c.id (okWords (effTick s c [.gate g] 4) [])) := by
  subst eg
  exact front_staged front rfl timely (gateChecks_pass clean exists_) rfl

theorem gateOnline_stages {c : Cmd} {s : State} {g : Nat} (eg : g = fld (c.q 1) 0 5) (front : Front s c 0x42)
    (clean : fld (c.q 1) 11 37 = 0) (exists_ : g ≤ 16) (most : fld (c.q 1) 5 6 ≤ 32) (offline : futureOnline s g = false)
    (count : validRules (s.gate g).rules = fld (c.q 1) 5 6)
    (legal : firstBadRule g s.mem.ids (guardedNow s) (s.gate g).rules = none) (timely : Timely s c [.gate g] 4) :
    exec .gateOnline s = .next ((s.stage ⟨.gate g, 4, effTick s c [.gate g] 4, .gateOnline⟩).answer
      c.id (okWords (effTick s c [.gate g] 4) [])) := by
  subst eg
  refine front_done front ?_
  have staged := stage_ok timely []
    (s.stage ⟨.gate (fld (c.q 1) 0 5), 4, effTick s c [.gate (fld (c.q 1) 0 5)] 4, .gateOnline⟩)
  obtain ⟨far, order, -⟩ := timely
  have passes : failOf (gateChecks c 11 ++ [(decide (32 < fld (c.q 1) 5 6), eRange, 0), (tickFar c 4, eRange, 0),
      (futureOnline s (gateArg c), eState, noObject),
      (orderBad s [.gate (gateArg c)] (effTick s c [.gate (gateArg c)] 4), eState, noObject)]) = none :=
    failOf_nil (by simp [gateChecks, gateArg, clean, Nat.not_lt.mpr exists_, most, offline, far, order])
  simp only [gateOnlineRes, passes]
  simp only [gateArg, count, legal, staged, ne_eq, not_true_eq_false, if_false]

theorem portReset_stages {c : Cmd} {s : State} {p : Nat} (ep : p = fld (c.q 1) 0 4) (front : Front s c 0x48)
    (clean : fld (c.q 1) 4 44 = 0) (exists_ : portExists s.img p = true) (timely : Timely s c [.port p] 4) :
    exec .portReset s = .next ((s.stage ⟨.port p, 4, effTick s c [.port p] 4, .portReset⟩).answer
      c.id (okWords (effTick s c [.port p] 4) [])) := by
  subst ep
  exact front_staged front rfl timely (failOf_nil (by simp [clean, exists_])) rfl

theorem imageActivate_stages {c : Cmd} {s : State} {img : ImgCfg} (front : Front s c 0x51) (clean : fld (c.q 1) 0 47 = 0)
    (good : verifyImage s.fuses (s.nv.slotOf (bit (c.q 1) 47)).bytes = .good img) (free : activationBlocked s img = false)
    (timely : Timely s c [.image] 4) :
    exec .imageActivate s = .next ((s.stage ⟨.image, 4, effTick s c [.image] 4, .activate (bit (c.q 1) 47)⟩).answer
      c.id (okWords (effTick s c [.image] 4) [])) := by
  refine front_done front ?_
  have staged := stage_ok timely [] (s.stage ⟨.image, 4, effTick s c [.image] 4, .activate (bit (c.q 1) 47)⟩)
  obtain ⟨far, order, -⟩ := timely
  have passes : failOf [(fld (c.q 1) 0 47 != 0, eMalformed, 0), (tickFar c 4, eRange, 0),
      (orderBad s [.image] (effTick s c [.image] 4), eState, noObject)] = none :=
    failOf_nil (by simp [clean, far, order])
  simp only [imageActivateRes, passes, good, checked_ok (l := [(activationBlocked s img, eState, noObject)]) (by simp [free]),
    staged]

/-- Settles O15: each command by the lemma about it. -/
theorem planTickCommandsStage : Obligations.PlanTickCommandsStage := by
  unfold Obligations.PlanTickCommandsStage
  exact fun c s => ⟨modeRequest_stages, fun _ => latencyBudget_stages, fun _ => gateOffline_stages,
    fun _ => gateOnline_stages, fun _ => portReset_stages, fun _ => imageActivate_stages⟩

end Sys2Proof.Machine

/-!
PROOFS. The statements on the doorbells, the headers and the outputs of a ring (O26 to O28).
-/

namespace Sys2Proof.Machine

/-! ### Doorbells of the rings (R331, R332) -/

theorem doorbellOff_page (h : Nat) : doorbellOff h / 4096 = 0x20 + h / 512 := by
  unfold doorbellOff
  omega

/-- A doorbell write of a ring that the window admits has its own effect. -/
theorem ringWrite_admitted {s : State} {cls : Cls} {h : Handle} (f : State → State) (free : windowHeld s = false)
    (admitted : windowRefusal s cls (0x20 + h.toNat / 512) true = none) : s.regWrite cls (doorbellOff h.toNat) f = f s :=
  regWrite_admitted f free (doorbellOff_page h.toNat ▸ admitted)

theorem postOk_iff {r : Ring} {n : Nat} :
    postOk r n = true ↔ ahead n r.release ≤ r.entries ∧ ahead r.tail r.release ≤ ahead n r.release := by
  simp [postOk]

theorem releaseOk_iff {r : Ring} {n : Nat} : releaseOk r n = true ↔ ahead n r.release ≤ ahead r.head r.release := by
  simp [releaseOk]

/-- A doorbell write that breaks R332 is counted in the gate of the block's domain and posted. -/
theorem State.doorbellError_of_block {s : State} {h d : Nat} (owner : blockDomain s h = some d) : s.doorbellError h =
    (s.setGate d { s.gate d with doorbellErr := (s.gate d).doorbellErr + 1 }).post (312 + 4 * d) := by
  simp [State.doorbellError, owner]

theorem State.doorbellPost_accepts {s : State} {h n : Nat} (runs : frozen s = false) (taken : (s.stream h).free = false)
    (ok : postOk (s.ring h) n = true) : s.doorbellPost h 0 n = s.setRing h { s.ring h with tail := n } := by
  simp [State.doorbellPost, runs, taken, ok]

theorem State.doorbellRelease_accepts {s : State} {h n : Nat} (runs : frozen s = false) (taken : (s.stream h).free = false)
    (ok : releaseOk (s.ring h) n = true) : s.doorbellRelease h 0 n = s.setRing h { s.ring h with
      release := n, changed := (s.ring h).changed || n != (s.ring h).release } := by
  simp [State.doorbellRelease, runs, taken, ok]

theorem State.doorbellPost_ignored {s : State} {h w n : Nat}
    (bad : frozen s = true ∨ w ≠ 0 ∨ (s.stream h).free = true ∨ postOk (s.ring h) n = false) :
    s.doorbellPost h w n = s.doorbellError h := by
  rcases bad with e | e | e | e <;> simp [State.doorbellPost, e]

theorem State.doorbellRelease_ignored {s : State} {h w n : Nat}
    (bad : frozen s = true ∨ w ≠ 0 ∨ (s.stream h).free = true ∨ releaseOk (s.ring h) n = false) :
    s.doorbellRelease h w n = s.doorbellError h := by
  rcases bad with e | e | e | e <;> simp [State.doorbellRelease, e]

/-- Settles O26: the window admits the write, and the count is taken or the error noted as R332 says. -/
theorem doorbellsSetCounts : Obligations.DoorbellsSetCounts := by
  unfold Obligations.DoorbellsSetCounts
  intro cls h rsvd count s r er free admitted
  subst er
  have run {f : State → State} : Host.Outcome.next (s.regWrite cls (doorbellOff h.toNat) f) = (.next (f s) : Out) :=
    congrArg _ (ringWrite_admitted f free admitted)
  have reserved (e : rsvd ≠ 0) : rsvd.toNat ≠ 0 := by simpa [BitVec.toNat_eq] using e
  refine ⟨fun runs clean taken room behind => ?post, fun runs clean taken back => ?release, fun d g owner eg =>
    ⟨fun bad => ?posted, fun bad => ?released⟩⟩
  case post =>
    subst clean
    exact run.trans (congrArg _ (State.doorbellPost_accepts runs taken (postOk_iff.2 ⟨room, behind⟩)))
  case release =>
    subst clean
    exact run.trans (congrArg _ (State.doorbellRelease_accepts runs taken (releaseOk_iff.2 back)))
  case posted =>
    subst eg
    refine run.trans (congrArg _ ((State.doorbellPost_ignored ?_).trans (State.doorbellError_of_block owner)))
    rw [← Bool.not_eq_true (postOk _ _), postOk_iff]
    rcases bad with e | e | e | e | e
    · exact .inl e
    · exact .inr (.inl (reserved e))
    · exact .inr (.inr (.inl e))
    · exact .inr (.inr (.inr (by omega)))
    · exact .inr (.inr (.inr (by omega)))
  case released =>
    subst eg
    refine run.trans (congrArg _ ((State.doorbellRelease_ignored ?_).trans (State.doorbellError_of_block owner)))
    rw [← Bool.not_eq_true (releaseOk _ _), releaseOk_iff, Nat.not_le]
    exact bad.imp_right (Or.imp_left reserved)

/-! ### Interrupts, starvation and rechecks of a ring (R330, R337, R343, R359) -/

/-- What changes rings, host memory, gates and the event block alone. -/
theorem Touch.served_frame {s t : State} (h : Touch [.rings, .hostMem, .gates, .eye] s t) :
    t = { s with rings := t.rings, hostMem := t.hostMem, gates := t.gates, eye := t.eye } := by
  refine State.eq_of_same fun f => ?_
  have kept := h f
  cases f
  case rings | hostMem | gates | eye => rfl
  all_goals exact kept rfl

/-- What changes rings, host memory and the event block alone. -/
theorem Touch.ring_frame {s t : State} (h : Touch [.rings, .hostMem, .eye] s t) :
    t = { s with rings := t.rings, hostMem := t.hostMem, eye := t.eye } := by
  have frame := (h.mono (L := [.rings, .hostMem, .gates, .eye]) (by decide)).served_frame
  rw [h.gates (by decide)] at frame
  exact frame

/-- The bit of a message in the registers of messages (Table 16.5). -/
theorem bit_message (m k : Nat) : bit (BitVec.ofNat 32 (1 <<< m)) k = decide (k < 32 ∧ k = m) := by
  have pow : (1 <<< m).testBit k = decide (k = m) := by
    rw [Nat.one_shiftLeft, Nat.testBit_two_pow]
    exact decide_eq_decide.mpr eq_comm
  rw [bit, BitVec.getLsbD_ofNat, pow, Bool.decide_and]

/-- A message that a ring raises has its latch set (R343). -/
theorem bit_ringLatch_raise {e : Eye} {m : Nat} (range : m < 32) : bit (Eye.raise m e).ringLatch m = true := by
  have own : bit (BitVec.ofNat 32 (1 <<< m)) m = true := by simp [bit_message, range]
  rw [Eye.raise, bit_or, own, Bool.or_true]

theorem Context.message_lt (x : Context) : x.message < 32 := Nat.mod_lt _ (by decide)

/-- A ring that is served does not stand still (R348, R359). -/
theorem not_stopped_of_serves {s : State} {h : Nat} (serves : ringServes s h = true) : (s.ring h).stopped = false := by
  simp only [ringServes, Bool.and_eq_true, Bool.not_eq_true'] at serves
  exact serves.1.2

theorem execRingInterrupt_due {h : Handle} {s : State} (due : (s.ring h.toNat).raise_ = true)
    (first : (s.ring h.toNat).raised = false) (serves : ringServes s h.toNat = true) :
    execRingInterrupt h s = .next ((s.writeHeader h.toNat (s.stream h.toNat).st).raiseRing h.toNat) := by
  simp [execRingInterrupt, due, first, serves]

theorem State.writeHeader_admitted {s : State} {h n : Nat}
    (admitted : deputyRefusal s (s.stream h).domain h (s.ring h).base 64 true = none) :
    s.writeHeader h n = (s.setRing h { s.ring h with changed := false, stateHdr := n }).writeHost ((s.ring h).base + 24)
      (wordsBytes (headerWords (s.ring h) n)) := by
  simp [State.writeHeader, admitted]

theorem State.writeHeader_refused {s : State} {h n : Nat} {x : GateFault}
    (refused : deputyRefusal s (s.stream h).domain h (s.ring h).base 64 true = some x) :
    s.writeHeader h n = s.stopRing h x := by
  simp [State.writeHeader, refused]

theorem State.raiseRing_due {s : State} {h : Nat} {r : Ring} (own : s.ring h = r) (due : r.raise_ = true)
    (runs : r.stopped = false) : s.raiseRing h =
      (s.setRing h { r with raise_ := false, raised := true }).onEye (Eye.raise (s.stream h).message) := by
  simp [State.raiseRing, own, due, runs]

theorem State.raiseRing_stopped {s : State} {h : Nat} (stopped : (s.ring h).stopped = true) : s.raiseRing h = s := by
  simp [State.raiseRing, stopped]

theorem ringInterrupt_raises {h : Handle} {s : State} (due : (s.ring h.toNat).raise_ = true)
    (first : (s.ring h.toNat).raised = false) (serves : ringServes s h.toNat = true)
    (admitted : deputyRefusal s (s.stream h.toNat).domain h.toNat (s.ring h.toNat).base 64 true = none) :
    ∃ t, exec (.ringInterrupt h) s = .next t ∧
      t.ring h.toNat = { s.ring h.toNat with
        changed := false, stateHdr := (s.stream h.toNat).st, raise_ := false, raised := true } ∧
      t.hostMem = Memory.write s.hostMem (((s.ring h.toNat).base + 24) % 2 ^ 48)
        (wordsBytes (headerWords (s.ring h.toNat) (s.stream h.toNat).st)) ∧
      bit t.eye.ringLatch (s.stream h.toNat).message = true ∧ (∀ k, k ≠ h.toNat → t.ring k = s.ring k) ∧
      t = { s with rings := t.rings, hostMem := t.hostMem, eye := t.eye } := by
  let r : Ring := { s.ring h.toNat with changed := false, stateHdr := (s.stream h.toNat).st }
  have headed := State.writeHeader_admitted (n := (s.stream h.toNat).st) admitted
  have own {a : Nat} {bs : List Byte} : ((s.setRing h.toNat r).writeHost a bs).ring h.toNat = r :=
    State.ring_setRing (s := s) h.toNat r
  refine ⟨_, (execRingInterrupt_due due first serves).trans (congrArg _ ((congrArg (State.raiseRing · h.toNat) headed).trans
    (State.raiseRing_due own due (not_stopped_of_serves serves)))),
    ?own, ?memory, ?latch, fun k apart => ?other, ?frame⟩
  case own => exact State.ring_setRing (s := s.setRing h.toNat r) _ _
  case memory => rfl
  case latch => exact bit_ringLatch_raise (Context.message_lt _)
  case other =>
    exact (State.ring_setRing_other (s := s.setRing h.toNat r) apart _).trans (State.ring_setRing_other (s := s) apart _)
  case frame =>
    refine Touch.ring_frame ?_
    simp (disch := decide) only [State.onEye_touch, State.setRing_touch, State.writeHost_touch, Touch.refl]

theorem ringInterrupt_refused {h : Handle} {s : State} {x : GateFault} (due : (s.ring h.toNat).raise_ = true)
    (first : (s.ring h.toNat).raised = false) (serves : ringServes s h.toNat = true)
    (refused : deputyRefusal s (s.stream h.toNat).domain h.toNat (s.ring h.toNat).base 64 true = some x) :
    exec (.ringInterrupt h) s = .next (State.logGate (s.setRing h.toNat { s.ring h.toNat with stopped := true })
      (s.stream h.toNat).domain x) := by
  refine (execRingInterrupt_due due first serves).trans (congrArg _ ?_)
  rw [State.writeHeader_refused refused]
  refine State.raiseRing_stopped ?_
  exact congrArg Ring.stopped (State.ring_setRing (s := s) h.toNat { s.ring h.toNat with stopped := true })

theorem ringStarved_posts {h : Handle} {s : State} (first : (s.ring h.toNat).starved = false)
    (full : (s.ring h.toNat).room = false) (waits : (s.ring h.toNat).waiting ≠ [] ∨ retireDone s h.toNat = true) :
    exec (.ringStarved h) s = .next ((s.setRing h.toNat { s.ring h.toNat with starved := true }).post
      (313 + 4 * (s.stream h.toNat).domain)) := by
  have held : (!(s.ring h.toNat).waiting.isEmpty || retireDone s h.toNat) = true := by simpa using waits
  show execRingStarved h s = _
  simp [execRingStarved, first, full, held]

/-- Settles O28: each row by the lemma about it. -/
theorem ringRowsComplete : Obligations.RingRowsComplete := by
  unfold Obligations.RingRowsComplete
  intro h s r er
  subst er
  refine ⟨ringInterrupt_raises, fun x => ringInterrupt_refused, ringStarved_posts, fun changed stopped serving f ef =>
    ⟨fun e => ?runs, fun x e => ?stays⟩⟩
  all_goals
    subst ef
    show execRingRecheck h s = _
    simp [execRingRecheck, State.recheckRing, changed, stopped, serving, e]

/-! ### Outputs written to their entries (R328, R340) -/

theorem wordsBytes_length (ws : List Word) : (wordsBytes ws).length = 8 * ws.length := by
  induction ws with
  | nil => rfl
  | cons w ws ih =>
    have e : (wordBytes w).length = 8  := by simp [wordBytes, natToBytesLE]
    simp only [wordsBytes, List.flatMap_cons, List.length_append, List.length_cons] at ih ⊢
    omega

theorem wordsBytes_take_drop (ws : List Word) (n : Nat) :
    wordsBytes (ws.take n) ++ wordsBytes (ws.drop n) = wordsBytes ws := by
  rw [wordsBytes, wordsBytes, ← List.flatMap_append, List.take_append_drop, wordsBytes]

theorem Memory.read_add (m : Table Byte) (a n k : Nat) :
    Memory.read m a (n + k) = Memory.read m a n ++ Memory.read m (a + n) k := by
  simp [Memory.read, List.range_add, Nat.add_assoc]

/-- Two neighbouring writes, the upper one first, read back as one. -/
theorem Memory.read_write_write (m : Table Byte) (a : Nat) (lo hi : List Byte) :
    Memory.read (Memory.write (Memory.write m (a + lo.length) hi) a lo) a (lo.length + hi.length) = lo ++ hi := by
  rw [Memory.read_add, Memory.read_write_same, Memory.read_write_apart _ _ _ _ _ (.inr (Nat.le_refl _)),
    Memory.read_write_same]

/-- A write inside the 48-bit space stands at its own address. -/
theorem Memory.write_mod (m : Table Byte) {a : Nat} {bs : List Byte} (fits : a + bs.length ≤ 2 ^ 48) :
    Memory.write m (a % 2 ^ 48) bs = Memory.write m a bs := by
  cases bs with
  | nil => rfl
  | cons b bs =>
    rw [Nat.mod_eq_of_lt]
    simp only [List.length_cons] at fits
    omega

/-- The head passes entries; it takes no output (R329). -/
theorem headAdvance_outs (n : Nat) (r : Ring) : (headAdvance n r).outs = r.outs := by
  induction n generalizing r with
  | zero => rfl
  | succ n ih =>
    rw [headAdvance]
    split
    · exact ih _
    · rfl

/-- A change of the event block alone. -/
theorem Touch.eye_only (s : State) (e : Eye) : Touch [.eye] s { s with eye := e } := by
  intro f out
  cases f
  case eye => exact absurd out (by decide)
  all_goals rfl

theorem State.outputWritten_keeps (s : State) (h : Nat) (o : OutRec) : Touch [.eye] s (s.outputWritten h o) := by
  simp only [State.outputWritten]
  split
  · exact Touch.refl _ _
  · rw [State.count_touch _ _ _ _ _ (by decide)]
    exact Touch.eye_only s _

/-- The host's memory once an output is written: buffer, words 1 to 3, word 0 (R340). -/
theorem State.putOutput_hostMem (s : State) (h : Nat) (o : OutRec) : (s.putOutput h o).hostMem =
    Memory.write (Memory.write (Memory.write s.hostMem (o.bufAddr % 2 ^ 48) o.buf)
      ((entryAddr (s.ring h) o.entry + 8) % 2 ^ 48) (wordsBytes (o.words.drop 1)))
      (entryAddr (s.ring h) o.entry % 2 ^ 48) (wordsBytes (o.words.take 1)) :=
  (State.outputWritten_keeps _ h o).hostMem rfl

theorem State.putOutput_keeps (s : State) (h : Nat) (o : OutRec) : Touch [.rings, .hostMem, .eye] s (s.putOutput h o) := by
  simp only [State.putOutput]
  refine Touch.step ?_ ((State.outputWritten_keeps _ h o).mono (by decide))
  simp (disch := decide) only [State.setRing_touch, State.writeHost_touch, Touch.refl]

/-- The ring once an output is written: the output leaves the ready ones, and the head passes its entry (R329). -/
def Ring.filled (r : Ring) (o : OutRec) : Ring :=
  let r1 : Ring := { r with outs := r.outs.filter (· != o) }
  if o.entry / 2 ^ 32 = r.era then headAdvance r.entries { r1 with written := (o.entry % 2 ^ 32) :: r1.written } else r1

/-- A head that moved makes the message of the ring due (R343). -/
def Ring.wrote (r : Ring) (o : OutRec) : Ring :=
  if (r.filled o).head = r.head then r.filled o else { r.filled o with raise_ := (r.filled o).raise_ || bit r.h0 45 }

theorem Ring.wrote_outs (r : Ring) (o : OutRec) : (r.wrote o).outs = r.outs.filter (· != o) := by
  have left : (r.filled o).outs = r.outs.filter (· != o) := by
    simp only [Ring.filled]
    split
    · exact headAdvance_outs _ _
    · rfl
  rw [Ring.wrote]
  split
  · exact left
  · exact left

theorem State.putOutput_ring (s : State) (h : Nat) (o : OutRec) : (s.putOutput h o).ring h = (s.ring h).wrote o := by
  have rings : (s.putOutput h o).rings = (s.setRing h ((s.ring h).wrote o)).rings :=
    (State.outputWritten_keeps _ h o).rings rfl
  rw [State.ring, rings]
  exact State.ring_setRing (s := s) h ((s.ring h).wrote o)

/-- The bytes of an output stand at its entry and at its buffer, and nowhere else (R328, R340). -/
theorem State.putOutput_stores {s : State} {h a : Nat} {o : OutRec} (ea : a = entryAddr (s.ring h) o.entry)
    (four : o.words.length = 4) (fits : a + 32 ≤ 2 ^ 48) (room : o.bufAddr + o.buf.length ≤ 2 ^ 48) :
    Memory.read (s.putOutput h o).hostMem a 32 = wordsBytes o.words ∧
    ((o.bufAddr + o.buf.length ≤ a ∨ a + 32 ≤ o.bufAddr) →
      Memory.read (s.putOutput h o).hostMem o.bufAddr o.buf.length = o.buf) ∧
    ∀ b, ¬ (a ≤ b ∧ b < a + 32) → ¬ (o.bufAddr ≤ b ∧ b < o.bufAddr + o.buf.length) →
      Memory.byte (s.putOutput h o).hostMem b = Memory.byte s.hostMem b := by
  have low : (wordsBytes (o.words.take 1)).length = 8 := by simp [wordsBytes_length, four]
  have high : (wordsBytes (o.words.drop 1)).length = 24 := by simp [wordsBytes_length, four]
  have stored := State.putOutput_hostMem s h o
  rw [← ea, Memory.write_mod _ room, Memory.write_mod _ (by omega), Memory.write_mod _ (by omega)] at stored
  rw [stored]
  refine ⟨?_, fun apart => ?_, fun b out buf => ?_⟩
  · have whole := Memory.read_write_write (Memory.write s.hostMem o.bufAddr o.buf) a (wordsBytes (o.words.take 1))
      (wordsBytes (o.words.drop 1))
    rwa [wordsBytes_take_drop, low, high] at whole
  · rw [Memory.read_write_apart _ _ _ _ _ (by omega), Memory.read_write_apart _ _ _ _ _ (by omega),
      Memory.read_write_same]
  · rw [Memory.byte_write_outside _ _ _ _ (by omega), Memory.byte_write_outside _ _ _ _ (by omega),
      Memory.byte_write_outside _ _ _ _ (by omega)]

theorem execOutputWrite_admitted {h : Handle} {s : State} {o : OutRec} {rest : List OutRec}
    (oldest : (s.ring h.toNat).outs = o :: rest) (serves : ringServes s h.toNat = true)
    (admitted : deputyRefusal s (s.stream h.toNat).domain h.toNat (entryAddr (s.ring h.toNat) o.entry) 32 true = none) :
    execOutputWrite h s = .next ((s.judgeHeld h.toNat o).2.putOutput h.toNat (s.judgeHeld h.toNat o).1) := by
  simp [execOutputWrite, oldest, serves, admitted]

theorem State.judgeHeld_passes {s : State} {h : Nat} {o : OutRec} (passes : o.buf = [] ∨
    deputyRefusal s (s.stream h).domain h o.bufAddr (bufferStride (s.ring h)) true = none) : s.judgeHeld h o = (o, s) := by
  rcases passes with e | e <;> simp [State.judgeHeld, e]

/-- An output whose buffer the gate refuses goes on without its bytes (R361, Table 12.4). -/
def OutRec.bare (o : OutRec) : OutRec := { o with words := unbuffered o.words, bufAddr := 0, buf := [] }

/-- The bytes of an output are dropped, and the refusal of its buffer is logged. -/
def State.dropBuffer (s : State) (h : Nat) (o : OutRec) (f : GateFault) : State :=
  (s.setRing h { s.ring h with outs := (s.ring h).outs.map (fun x => if x = o then o.bare else x) }).logGate
    (s.stream h).domain f

theorem State.dropBuffer_rest (s : State) (h : Nat) (o : OutRec) (f : GateFault) :
    Touch [.rings, .gates, .eye] s (s.dropBuffer h o f) := by
  simp (disch := decide) only [State.dropBuffer, State.logGate_touch, State.setRing_touch, Touch.refl]

/-- The entries of the ring stand where they stood. -/
theorem State.dropBuffer_entryAddr (s : State) (h : Nat) (o : OutRec) (f : GateFault) (e : Nat) :
    entryAddr ((s.dropBuffer h o f).ring h) e = entryAddr (s.ring h) e := by
  have own : (s.dropBuffer h o f).ring h = { s.ring h with
      outs := (s.ring h).outs.map (fun x => if x = o then o.bare else x) } := State.ring_setRing (s := s) h _
  rw [own]
  rfl

theorem State.judgeHeld_refused {s : State} {h : Nat} {o : OutRec} {f : GateFault} (held : o.buf ≠ [])
    (refused : deputyRefusal s (s.stream h).domain h o.bufAddr (bufferStride (s.ring h)) true = some f) :
    s.judgeHeld h o = (o.bare, s.dropBuffer h o f) := by
  simp [State.judgeHeld, held, refused, OutRec.bare, State.dropBuffer]

theorem outputWrite_stores {h : Handle} {s : State} {o : OutRec} {rest : List OutRec} {a : Nat}
    (oldest : (s.ring h.toNat).outs = o :: rest) (ea : a = entryAddr (s.ring h.toNat) o.entry)
    (serves : ringServes s h.toNat = true)
    (admitted : deputyRefusal s (s.stream h.toNat).domain h.toNat a 32 true = none)
    (passes : o.buf = [] ∨
      deputyRefusal s (s.stream h.toNat).domain h.toNat o.bufAddr (bufferStride (s.ring h.toNat)) true = none)
    (four : o.words.length = 4) (fits : a + 32 ≤ 2 ^ 48) (room : o.bufAddr + o.buf.length ≤ 2 ^ 48)
    (apart : o.bufAddr + o.buf.length ≤ a ∨ a + 32 ≤ o.bufAddr) :
    ∃ t, exec (.outputWrite h) s = .next t ∧
      Memory.read t.hostMem a 32 = wordsBytes o.words ∧
      Memory.read t.hostMem o.bufAddr o.buf.length = o.buf ∧
      (∀ b, ¬ (a ≤ b ∧ b < a + 32) → ¬ (o.bufAddr ≤ b ∧ b < o.bufAddr + o.buf.length) →
        Memory.byte t.hostMem b = Memory.byte s.hostMem b) ∧
      (t.ring h.toNat).outs = (s.ring h.toNat).outs.filter (· != o) ∧
      t = { s with rings := t.rings, hostMem := t.hostMem, eye := t.eye } := by
  have run := execOutputWrite_admitted oldest serves (ea ▸ admitted)
  rw [State.judgeHeld_passes passes] at run
  obtain ⟨words, buffer, outside⟩ := State.putOutput_stores ea four fits room
  refine ⟨_, run, words, buffer apart, outside, ?_, (State.putOutput_keeps s h.toNat o).ring_frame⟩
  rw [State.putOutput_ring, Ring.wrote_outs]

theorem outputWrite_unbuffered {h : Handle} {s : State} {o : OutRec} {rest : List OutRec} {a : Nat}
    (oldest : (s.ring h.toNat).outs = o :: rest) (ea : a = entryAddr (s.ring h.toNat) o.entry)
    (serves : ringServes s h.toNat = true)
    (admitted : deputyRefusal s (s.stream h.toNat).domain h.toNat a 32 true = none) (held : o.buf ≠ [])
    (refused : deputyRefusal s (s.stream h.toNat).domain h.toNat o.bufAddr (bufferStride (s.ring h.toNat)) true ≠ none)
    (four : o.words.length = 4) (fits : a + 32 ≤ 2 ^ 48) :
    ∃ t, exec (.outputWrite h) s = .next t ∧
      Memory.read t.hostMem a 32 = wordsBytes (o.words.set 0 (o.words.getD 0 0 &&& ~~~(at_ 36 1 ||| at_ 35 1))) ∧
      (∀ b, ¬ (a ≤ b ∧ b < a + 32) → Memory.byte t.hostMem b = Memory.byte s.hostMem b) ∧
      t = { s with rings := t.rings, hostMem := t.hostMem, gates := t.gates, eye := t.eye } := by
  obtain ⟨f, refused⟩ := Option.ne_none_iff_exists'.1 refused
  have run := execOutputWrite_admitted oldest serves (ea ▸ admitted)
  rw [State.judgeHeld_refused held refused] at run
  have same : a = entryAddr ((s.dropBuffer h.toNat o f).ring h.toNat) o.bare.entry :=
    ea.trans (State.dropBuffer_entryAddr s h.toNat o f o.entry).symm
  have length : o.bare.words.length = 4 := by simp [OutRec.bare, unbuffered, four]
  obtain ⟨words, -, outside⟩ := State.putOutput_stores same length fits (by simp [OutRec.bare])
  refine ⟨_, run, words, fun b out => ?_, Touch.served_frame (((s.dropBuffer_rest h.toNat o f).mono (by decide)).step
    ((State.putOutput_keeps _ _ _).mono (by decide)))⟩
  rw [outside b out (by simp [OutRec.bare]), (s.dropBuffer_rest h.toNat o f).hostMem rfl]

/-- Settles O27, by the two ways the gate judges the buffer that waited. -/
theorem outputWriteStores : Obligations.OutputWriteStores := by
  unfold Obligations.OutputWriteStores
  intro h s o rest a f oldest ea serves admitted ef four fits
  subst ef
  exact ⟨fun passes room apart => outputWrite_stores oldest ea serves admitted passes four fits room apart,
    fun held refused => outputWrite_unbuffered oldest ea serves admitted held refused four fits⟩

end Sys2Proof.Machine

/-!
PROOFS. The statement on the mode changes (O36).
-/

namespace Sys2Proof.Machine

/-! ### Mode changes at their boundary (R381, R412, R435 to R437) -/

/-- A due mode change is of the mode, and of a mode that the row takes. -/
theorem dueChange_mode {s : State} {ok : Change → Bool} {x : Staged} {m : Mode} (due : dueChange s .mode ok = some x)
    (chg : x.chg = .mode m) : s.commitOne .mode ok = (s.unstage x).commitMode m := by
  have obj := dueChange_obj due
  rw [State.commitOne, due]
  dsimp only
  rw [State.commitChange, obj, chg]

/-- The change that a row takes satisfies the row's test. -/
theorem dueChange_ok {s : State} {o : Obj} {ok : Change → Bool} {x : Staged} (due : dueChange s o ok = some x) :
    ok x.chg = true := by
  have found := List.find?_some due
  simp only [Bool.and_eq_true] at found
  exact found.1.2

/-- Out of Drill and of Lockdown no mode change leads (R433, R436). -/
theorem State.commitMode_stays {s : State} (m : Mode) (h : s.mode = .drill ∨ s.mode = .lockdown) : s.commitMode m = s := by
  rcases h with h | h <;> simp [State.commitMode, h]

theorem State.commitMode_out {s : State} (drill : s.mode ≠ .drill) (lockdown : s.mode ≠ .lockdown) :
    s.commitMode .drill = s.enterDrill ∧ s.commitMode .dormant = s.enterDormant ∧
      s.commitMode .commission = (({ s with mode := .commission }).allDown).post 498 ∧
      (s.mode ≠ .dormant → s.commitMode .service = (({ s with mode := .service }).txRise).post 498) := by
  have goes : (s.mode == .drill || s.mode == .lockdown) = false := by simp [drill, lockdown]
  refine ⟨by simp [State.commitMode, goes], by simp [State.commitMode, goes], by simp [State.commitMode, goes], fun h => ?_⟩
  simp [State.commitMode, goes, h]

/-- Entry into Drill before the mode changes: every key of a domain and of memory is derived anew (R435). -/
def State.drillKeyed (s : State) : State :=
  let ks := (List.range 16).map slotDomain ++ (List.range 16).map slotRoot ++
    ((List.range 15).map (fun i => slotMemA (i + 1))) ++ ((List.range 15).map (fun i => slotMemB (i + 1)))
  let s1 := ks.foldl (fun x k => if (x.slot k).empty_ then x else (x.invalidate k).scrub k) s.abandonBegun
  let s2 := s1.deriveSlot slotPool slotDrill none "SEAL" [] maskKdf 0 false unlimited
  (s2.deriveTree slotDrill slotPool (drillDomains s slotDomain) (drillDomains s slotRoot) s2.mem.ids).resetMemPlane

theorem State.enterDrill_eq (s : State) : s.enterDrill =
    (State.txRise { s.drillKeyed with mode := .drill, ladder := { s.drillKeyed.ladder with drill := true } }).post 498 := by
  rw [State.enterDrill, State.drillKeyed]

theorem State.drillKeyed_rest (s : State) :
    Touch [.draws, .ladder, .power, .cmds, .imports, .slots, .keyCtl, .pebbles, .mem, .eye, .out] s s.drillKeyed := by
  rw [State.drillKeyed, State.resetMemPlane_touch _ (by decide)]
  refine Touch.step ?_ ((State.keysMade_deriveTree ..).1.mono (by decide))
  refine Touch.step ?_ ((State.keysMade_deriveSlot ..).1.mono (by decide))
  refine Touch.foldl_step (fun t k => Touch.ite (Touch.refl _ _) ?_) ?_
  · simp (disch := decide) only [State.scrub_touch, State.invalidate_touch, Touch.refl]
  · simp (disch := decide) only [State.abandonBegun_touch, Touch.refl]

/-- Entry into Drill: the drill flag is set, and the streams, the image, the fuses and the staging area stay (R435). -/
theorem State.enterDrill_enters (s : State) : ∃ u : State, s.enterDrill = u.post 498 ∧ u.mode = .drill ∧
    u.ladder.drill = true ∧ u.staged = s.staged ∧ u.streams = s.streams ∧ u.img = s.img ∧ u.fuses = s.fuses := by
  have rest := s.drillKeyed_rest
  have ports (w : State) : Touch [.ports] w w.txRise := (State.txRise_touch w (by decide)).mpr (Touch.refl _ _)
  refine ⟨_, s.enterDrill_eq, (ports _).mode rfl, ?_, ?_, ?_, ?_, ?_⟩
  · rw [(ports _).ladder rfl]
  · exact ((ports _).staged rfl).trans (rest.staged rfl)
  · exact ((ports _).streams rfl).trans (rest.streams rfl)
  · exact ((ports _).img rfl).trans (rest.img rfl)
  · exact ((ports _).fuses rfl).trans (rest.fuses rfl)

/-- Dormant begins: nothing more is taken or classified (R437). -/
theorem State.enterDormant_enters (s : State) : ∃ u : State, s.enterDormant = u.post 498 ∧ u.mode = .dormant ∧
    u.power.entering = true ∧ u.eReady = false ∧ u.classifying = false := by
  have quiet : Touch [.staged, .streams, .shots, .aux, .rings, .tx, .egSkip, .ports, .pairs, .eye]
      { s with eReady := false, classifying := false } s.quiesce := by
    simp (disch := decide) only [State.quiesce, State.noMoreStarts_touch, State.endSupply_touch, Touch.refl]
  exact ⟨_, rfl, rfl, rfl, quiet.eReady rfl, quiet.classifying rfl⟩

theorem drillEntry_enters {s : State} {x : Staged} (drill : s.mode ≠ .drill) (lockdown : s.mode ≠ .lockdown)
    (due : dueChange s .mode (· == .mode .drill) = some x) :
    ∃ t u : State, exec .drillEntry s = .next t ∧ t = u.post 498 ∧ t.mode = .drill ∧ t.ladder.drill = true ∧
      t.staged = s.staged.erase x ∧ t.streams = s.streams ∧ t.img = s.img ∧ t.fuses = s.fuses := by
  obtain ⟨u, enters, entered⟩ := (s.unstage x).enterDrill_enters
  have run : exec .drillEntry s = .next (u.post 498) :=
    congrArg _ ((dueChange_mode due (by simpa using dueChange_ok due)).trans
      ((State.commitMode_out (s := s.unstage x) drill lockdown).1.trans enters))
  exact ⟨_, u, run, rfl, entered⟩

theorem dormantEntry_begins {s : State} {x : Staged} (drill : s.mode ≠ .drill) (lockdown : s.mode ≠ .lockdown)
    (due : dueChange s .mode (· == .mode .dormant) = some x) :
    ∃ t u : State, exec .dormantEntry s = .next t ∧ t = u.post 498 ∧ t.mode = .dormant ∧ t.power.entering = true ∧
      t.eReady = false ∧ t.classifying = false := by
  obtain ⟨u, enters, begun⟩ := (s.unstage x).enterDormant_enters
  have run : exec .dormantEntry s = .next (u.post 498) :=
    congrArg _ ((dueChange_mode due (by simpa using dueChange_ok due)).trans
      ((State.commitMode_out (s := s.unstage x) drill lockdown).2.1.trans enters))
  exact ⟨_, u, run, rfl, begun⟩

/-- Outside Dormant, COMMISSION_SERVICE_CHANGE makes the change that is due. -/
theorem exec_commissionServiceChange {s : State} (runs : s.mode ≠ .dormant) : exec .commissionServiceChange s =
    .next (s.commitOne .mode (fun c => c == .mode .service || c == .mode .commission)) := by
  show execCommissionServiceChange s = _
  simp [execCommissionServiceChange, runs]

theorem exec_commissionServiceChange_dormant {s : State} (rests : s.mode = .dormant) :
    exec .commissionServiceChange s = .next s := by
  show execCommissionServiceChange s = _
  simp [execCommissionServiceChange, rests]

/-- A due mode change in Drill or in Lockdown leaves the staging area, and nothing else changes. -/
theorem commitOne_mode_stays {s : State} {ok : Change → Bool} {x : Staged} (h : s.mode = .drill ∨ s.mode = .lockdown)
    (modes : ∀ c, ok c = true → ∃ m, c = .mode m) (due : dueChange s .mode ok = some x) :
    s.commitOne .mode ok = s.unstage x := by
  obtain ⟨m, chg⟩ := modes _ (dueChange_ok due)
  exact (dueChange_mode due chg).trans (State.commitMode_stays (s := s.unstage x) m h)

/-- Settles O36: entry into each mode by the lemma about it, out of every mode that a change leads from. -/
theorem modeChangesTakeEffect : Obligations.ModeChangesTakeEffect := by
  unfold Obligations.ModeChangesTakeEffect
  intro s
  refine ⟨fun drill lockdown => ⟨fun x => drillEntry_enters drill lockdown, fun x => dormantEntry_begins drill lockdown,
      fun runs x due => ⟨fun chg => ?service, fun chg => ?commission⟩⟩,
    fun h => ⟨fun x due => ?d, fun x due => ?r, fun x due => ?c⟩, exec_commissionServiceChange_dormant,
    fun idle => congrArg _ (State.commitOne_none idle), fun idle => congrArg _ (State.commitOne_none idle), fun idle => ?idle⟩
  case service =>
    rw [exec_commissionServiceChange runs, dueChange_mode due chg]
    exact congrArg _ ((State.commitMode_out (s := s.unstage x) drill lockdown).2.2.2 runs)
  case commission =>
    rw [exec_commissionServiceChange runs, dueChange_mode due chg]
    exact congrArg _ (State.commitMode_out (s := s.unstage x) drill lockdown).2.2.1
  case d => exact congrArg _ (commitOne_mode_stays h (by simp) due)
  case r => exact congrArg _ (commitOne_mode_stays h (by simp) due)
  case c =>
    have runs : s.mode ≠ .dormant := by rcases h with h | h <;> simp [h]
    rw [exec_commissionServiceChange runs, commitOne_mode_stays h _ due]
    intro c
    simp only [Bool.or_eq_true, beq_iff_eq]
    rintro (e | e)
    · exact ⟨_, e⟩
    · exact ⟨_, e⟩
  case idle =>
    by_cases rests : s.mode = .dormant
    · exact exec_commissionServiceChange_dormant rests
    · rw [exec_commissionServiceChange rests, State.commitOne_none idle]

end Sys2Proof.Machine

/-!
PROOFS. The statements on rest and on the fetch of descriptors (O41, O43).
-/

namespace Sys2Proof.Machine

/-! ### Rest of the units and of Yarrow (R370, R443 to R446) -/

theorem restMode_iff {s : State} : restMode s = true ↔ s.mode = .commission ∨ s.mode = .service ∨ s.mode = .drill := by
  simp [restMode, or_assoc]

/-- A unit goes one rest level deeper; a memory slice that is switched off loses the keys it held. -/
theorem State.restAt_eq (s : State) (u r : Nat) : s.restAt u (r + 1) = State.post { s with
    power := { s.power with rest := Table.put 0 u (r + 1) s.power.rest }
    mem := if r = 1 ∧ 6 ≤ u then { s.mem with keys := s.mem.keys.filter (fun e => e.1 ≠ u - 6) } else s.mem }
    (195 + 4 * u) := by
  simp only [State.restAt, State.dropKeys]
  by_cases off : r = 1 ∧ 6 ≤ u
  · simp [off, beq_eq_decide]
  · simp [off]

theorem restEntry_rests {unit : Fin 12} {now r idle : Nat} {s : State} (er : r = Table.get 0 unit.val s.power.rest)
    (ei : idle = max s.now now - Table.get 0 unit.val s.power.lastWork)
    (serves : s.mode = .commission ∨ s.mode = .service ∨ s.mode = .drill) (above : r < s.power.level)
    (free : unitHeld s unit.val = false) (empty : unitBusy s unit.val = false)
    (due : r = 0 ∧ 2048 ≤ 10 * idle ∨ r ≠ 0 ∧ 10000 ≤ idle) :
    exec (.restEntry unit now) s = .next ((s.atTime now).restAt unit.val (r + 1)) := by
  subst er ei
  have late : (if Table.get 0 unit.val s.power.rest = 0 then
      decide (2048 ≤ 10 * (max s.now now - Table.get 0 unit.val s.power.lastWork))
      else decide (10000 ≤ max s.now now - Table.get 0 unit.val s.power.lastWork)) = true := by
    rcases due with ⟨zero, h⟩ | ⟨some, h⟩
    · simp [zero, h]
    · simp [some, h]
  have all : (restMode s && decide (Table.get 0 unit.val s.power.rest < s.power.level) && !unitHeld s unit.val &&
      !unitBusy s unit.val && (if Table.get 0 unit.val s.power.rest = 0 then
      decide (2048 ≤ 10 * (max s.now now - Table.get 0 unit.val s.power.lastWork))
      else decide (10000 ≤ max s.now now - Table.get 0 unit.val s.power.lastWork))) = true := by
    rw [restMode_iff.2 serves, free, empty, late]
    simp [above]
  exact if_pos all

theorem yarrowRest_rests {now : Nat} {s : State} (dormant : s.mode = .dormant) (down : s.power.dormantReached = true)
    (awake : s.power.pd1 = true) (stays : s.power.exiting = false) (none_ : s.cmds = []) (quiet : nextAccept s = none)
    (due : s.power.pd1Since + 1000000 ≤ max s.now now) : exec (.yarrowRest now) s = .next { s with
      now := max s.now now, power := { s.power with pd1 := false, clkReq := false } } := by
  have same : nextAccept (s.atTime now) = none := quiet
  show execYarrowRest now s = _
  simp only [execYarrowRest, same]
  simp [State.cipherStopped, dormant, down, awake, stays, none_, due]

/-- Settles O41: the three rows by the lemmas about them. -/
theorem unitsAndYarrowRest : Obligations.UnitsAndYarrowRest := by
  unfold Obligations.UnitsAndYarrowRest
  refine ⟨fun unit now s => ⟨fun r idle er ei serves above free empty due => ?_, rfl⟩, fun now s => yarrowRest_rests⟩
  rw [restEntry_rests er ei serves above free empty due, State.restAt_eq]
  rfl

/-! ### Descriptors (R334, R336, R337) -/

theorem Table.erase_insert {α : Type} (k : Nat) (v : α) (m : Table α) :
    Table.erase k (Table.insert k v m) = Table.erase k m := by
  induction m with
  | nil => simp [Table.insert, Table.erase]
  | cons e m ih =>
    simp only [Table.insert]
    split
    · simp [Table.erase]
    · split
      · rename_i same
        simp [Table.erase, same]
      · simp only [Table.erase, ih]

theorem Table.insert_insert {α : Type} (k : Nat) (v w : α) (m : Table α) :
    Table.insert k w (Table.insert k v m) = Table.insert k w m := by
  induction m with
  | nil => simp [Table.insert]
  | cons e m ih =>
    simp only [Table.insert]
    split
    · simp [Table.insert]
    · split
      · simp [Table.insert]
      · rename_i above other
        simp [Table.insert, above, other, ih]

/-- Of two values stored at one place the second stays, where the first was listed. -/
theorem Table.put_put {α : Type} [DecidableEq α] {d v : α} (listed : v ≠ d) (k : Nat) (w : α) (m : Table α) :
    Table.put d k w (Table.put d k v m) = Table.put d k w m := by
  simp only [Table.put, if_neg listed, Table.erase_insert, Table.insert_insert]

theorem State.setRing_setRing {s : State} {h : Nat} {r q : Ring} (listed : r ≠ .zero) :
    (s.setRing h r).setRing h q = s.setRing h q := by
  simp only [State.setRing, Table.put_put listed]

/-- A ring serves the fetch of a posted entry of a stream that is Armed or Retiring, whose gate admits the entry (R346). -/
structure Fetches (s : State) (h : Handle) (desc : List Container) : Prop where
  whole : desc.length = 4
  live : (s.stream h.toNat).armed = true ∨ (s.stream h.toNat).retiring = true
  serves : ringServes s h.toNat = true
  runs : stopping s = false
  posted : (s.ring h.toNat).tail ≠ (s.ring h.toNat).fetch

/-- What the gate says of the entry to be fetched. -/
def fetchRefusal (s : State) (h : Nat) : Option GateFault :=
  deputyRefusal s (s.stream h).domain h (entryAddr (s.ring h) ((s.ring h).era * 2 ^ 32 + (s.ring h).fetch)) 32 false

/-- The ring once a descriptor is fetched. -/
def Ring.fetched (r : Ring) : Ring := { r with fetch := inc32 r.fetch, changed := true }

/-- What becomes of a descriptor that is no Slot, at its entry (R334, R336). -/
def State.placeDescriptor (s : State) (h entry : Nat) (desc : List Container) (source : List Byte) (readOk : Bool)
    (c : Context) : State :=
  let d := desc.map toWord
  let bad := descriptorBad c h desc
  let status := if bad then stMalformed else stRetired
  if bad || c.retiring then
    if dKind (d.getD 0 0) == 3 || dKind (d.getD 0 0) == 4 then s.refuseRecord h entry status (dKind (d.getD 0 0) == 4)
      (if desc.any badContainer then 0 else fld (d.getD 3 0) 32 16)
    else s.output h entry (txCompletion h status false false false
      (if !bad && dBypass (d.getD 0 0) then dPort (d.getD 0 0) else 0)
      (if bad then 0 else d.getD 2 0) 0 0 0) 0 []
  else s.takeDescriptor h entry d source readOk

section
variable {s : State} {h entry : Nat} {desc : List Container} {source : List Byte} {readOk : Bool} {c : Context}

/-- A bad container makes the descriptor bad (R5). -/
theorem clean_of_good (good : descriptorBad c h desc = false) : desc.any badContainer = false := by
  rw [descriptorBad, Bool.or_eq_false_iff] at good
  exact good.1

theorem State.placeDescriptor_bad (bad : descriptorBad c h desc = true) :
    s.placeDescriptor h entry desc source readOk c =
      if dKind ((desc.map toWord).getD 0 0) == 3 || dKind ((desc.map toWord).getD 0 0) == 4 then
        s.refuseRecord h entry stMalformed (dKind ((desc.map toWord).getD 0 0) == 4)
          (if desc.any badContainer then 0 else fld ((desc.map toWord).getD 3 0) 32 16)
      else s.output h entry (txCompletion h stMalformed false false false 0 0 0 0 0) 0 [] := by
  simp only [State.placeDescriptor, bad, Bool.true_or, if_true, Bool.not_true, Bool.false_and, Bool.false_eq_true, if_false]

theorem State.placeDescriptor_taken (good : descriptorBad c h desc = false) (armed : c.retiring = false) :
    s.placeDescriptor h entry desc source readOk c = s.takeDescriptor h entry (desc.map toWord) source readOk := by
  simp only [State.placeDescriptor, good, armed, Bool.false_or, Bool.false_eq_true, if_false]

theorem State.placeDescriptor_retired (good : descriptorBad c h desc = false) (retiring : c.retiring = true) :
    s.placeDescriptor h entry desc source readOk c =
      if dKind ((desc.map toWord).getD 0 0) == 3 || dKind ((desc.map toWord).getD 0 0) == 4 then
        s.refuseRecord h entry stRetired (dKind ((desc.map toWord).getD 0 0) == 4) (fld ((desc.map toWord).getD 3 0) 32 16)
      else s.output h entry (txCompletion h stRetired false false false
        (if dBypass ((desc.map toWord).getD 0 0) then dPort ((desc.map toWord).getD 0 0) else 0)
        ((desc.map toWord).getD 2 0) 0 0 0) 0 [] := by
  simp only [State.placeDescriptor, good, retiring, clean_of_good good, Bool.or_true, if_true, Bool.false_eq_true, if_false,
    Bool.not_false, Bool.true_and]

end

/-- A fetched descriptor is allotted the entry at reserve, where there is one (R337). -/
theorem State.allot_fetched {s : State} {h : Nat} (entry : ahead (inc32 (s.ring h).fetch) (s.ring h).reserve ≠ 0) :
    (s.setRing h (s.ring h).fetched).allot h = (some ((s.ring h).era * 2 ^ 32 + (s.ring h).reserve),
      s.setRing h { (s.ring h).fetched with reserve := inc32 (s.ring h).reserve }) := by
  have room : (s.ring h).fetched.room = true := by simpa [Ring.room, Ring.fetched, Nat.pos_iff_ne_zero] using entry
  have listed : (s.ring h).fetched ≠ .zero := fun e => Bool.noConfusion (congrArg Ring.changed e : true = false)
  simp only [State.allot, State.ring_setRing, room, if_true, State.setRing_setRing listed]
  rfl

section
variable {h : Handle} {desc : List Container} {source : List Byte} {readOk : Bool} {s : State} (ready : Fetches s h desc)
include ready

theorem Fetches.goes : (!((s.stream h.toNat).armed || (s.stream h.toNat).retiring) || !ringServes s h.toNat || stopping s ||
    (s.ring h.toNat).tail == (s.ring h.toNat).fetch) = false := by
  obtain ⟨-, live, serves, runs, posted⟩ := ready
  have live : ((s.stream h.toNat).armed || (s.stream h.toNat).retiring) = true := by simpa using live
  simp [live, serves, runs, posted]

theorem Fetches.wf : (!wfDesc desc) = false := by simp [wfDesc, ready.whole]

/-- A Slot descriptor is room for outputs that wait (R336). -/
theorem Fetches.slot (clean : desc.any badContainer = false) (slot : slotOk h.toNat (desc.map toWord) = true)
    (admitted : fetchRefusal s h.toNat = none) : exec (.descriptorFetch h desc source readOk) s =
      .next ((s.setRing h.toNat (s.ring h.toNat).fetched).drainWaiting (s.ring h.toNat).waiting.length h.toNat) := by
  show execDescriptorFetch h desc source readOk s = _
  unfold fetchRefusal at admitted
  simp only [execDescriptorFetch, ready.wf, ready.goes, clean, slot, admitted]
  rw [if_neg Bool.false_ne_true, if_neg Bool.false_ne_true, if_neg (by simp), if_pos (by simp), State.ring_setRing]
  rfl

theorem Fetches.refused {x : GateFault} (clean : desc.any badContainer = false)
    (slot : slotOk h.toNat (desc.map toWord) = true) (refused : fetchRefusal s h.toNat = some x) :
    exec (.descriptorFetch h desc source readOk) s = .next (s.stopRing h.toNat x) := by
  show execDescriptorFetch h desc source readOk s = _
  unfold fetchRefusal at refused
  simp only [execDescriptorFetch, ready.wf, ready.goes, clean, slot, refused]
  rw [if_neg Bool.false_ne_true, if_neg Bool.false_ne_true, if_neg (by simp)]

theorem Fetches.placed (other : desc.any badContainer = true ∨ slotOk h.toNat (desc.map toWord) = false)
    (few : heldDescriptors s h.toNat < 32) (room : noEgressRoom s h.toNat desc source = false)
    (admitted : fetchRefusal s h.toNat = none) (entry : ahead (inc32 (s.ring h.toNat).fetch) (s.ring h.toNat).reserve ≠ 0) :
    exec (.descriptorFetch h desc source readOk) s = .next ((s.setRing h.toNat { (s.ring h.toNat).fetched with
      reserve := inc32 (s.ring h.toNat).reserve }).placeDescriptor h.toNat
        ((s.ring h.toNat).era * 2 ^ 32 + (s.ring h.toNat).reserve) desc source readOk (s.stream h.toNat)) := by
  have noSlot : (!desc.any badContainer && slotOk h.toNat (desc.map toWord)) = false := by
    rcases other with e | e <;> simp [e]
  have free : (decide (32 ≤ heldDescriptors s h.toNat) || noEgressRoom s h.toNat desc source) = false := by
    simp [room, few]
  have allotted := State.allot_fetched (s := s) (h := h.toNat) entry
  unfold Ring.fetched at allotted
  show execDescriptorFetch h desc source readOk s = _
  unfold fetchRefusal at admitted
  simp only [execDescriptorFetch, ready.wf, ready.goes, noSlot, admitted, free, allotted, State.placeDescriptor]
  rw [if_neg Bool.false_ne_true, if_neg Bool.false_ne_true, if_neg (by simp), if_neg Bool.false_ne_true]
  split
  · rfl
  · rfl

end

/-- Settles O43: what becomes of the descriptor, by its kind and by what R334 says of it. -/
theorem descriptorsFetched : Obligations.DescriptorsFetched := by
  unfold Obligations.DescriptorsFetched
  refine ⟨fun h desc source readOk s r c d f er ec ed whole live serves runs posted ef => ?_, fun j s few next => ?_⟩
  · subst er ec ed ef
    have ready : Fetches s h desc := ⟨whole, live, serves, runs, posted⟩
    refine ⟨fun u clean slot admitted eu => ?slot, fun u other few room admitted entry eu => ?placed,
      fun x refused clean slot => ready.refused clean slot refused⟩
    case slot =>
      subst eu
      refine ⟨ready.slot clean slot admitted, fun idle => ?_⟩
      have few : (s.ring h.toNat).waiting.length = 0 := by rw [idle, List.length_nil]
      rw [ready.slot clean slot admitted, few]
      rfl
    case placed =>
      subst eu
      rw [ready.placed other few room admitted entry]
      refine ⟨fun bad => ?_, fun good armed => ?_, fun good retiring => ?_⟩
      · exact congrArg _ (State.placeDescriptor_bad bad)
      · exact congrArg _ (State.placeDescriptor_taken good armed)
      · exact congrArg _ (State.placeDescriptor_retired good retiring)
  · show execRecordStart s = _
    simp [execRecordStart, few, next]

end Sys2Proof.Machine

/-!
PROOFS. The statement on Eyebright (O59).
-/

namespace Sys2Proof.Machine

/-! ### Records of Eyebright (R460, R470, R472, R473) -/

/-- A record that gate 16 admits stands at the entry that the head names, and the head goes on by one. -/
theorem State.eyePut_stores {s : State} {r : EyeRing} {size a : Nat} {ws : List Word} {t : State}
    (admitted : eyeRefusal s r size = none) (ea : a = (s.eye.ringOf r).entryAt size) (fits : a + size ≤ 2 ^ 48)
    (whole : 8 * ws.length = size) (et : t = s.eyePut r size ws) :
    Memory.read t.hostMem a size = wordsBytes ws ∧
    (∀ b, ¬ (a ≤ b ∧ b < a + size) → Memory.byte t.hostMem b = Memory.byte s.hostMem b) ∧
    t.eye = s.eye.setRing r { s.eye.ringOf r with head := (s.eye.ringOf r).head + 1 } ∧
    t = { s with hostMem := t.hostMem, eye := t.eye } := by
  have length : (wordsBytes ws).length = size := (wordsBytes_length ws).trans whole
  have put : s.eyePut r size ws = { s with
      hostMem := Memory.write s.hostMem a (wordsBytes ws)
      eye := s.eye.setRing r { s.eye.ringOf r with head := (s.eye.ringOf r).head + 1 } } := by
    simp only [State.eyePut, admitted, ← ea, State.writeHost]
    rw [Memory.write_mod _ (by omega)]
  subst et
  rw [put]
  refine ⟨?_, fun b out => Memory.byte_write_outside _ _ _ _ (by omega), rfl, rfl⟩
  have stored := Memory.read_write_same s.hostMem a (wordsBytes ws)
  rwa [length] at stored

theorem eyeRefusal_none {s : State} {r : EyeRing} {size a : Nat} (ea : a = (s.eye.ringOf r).entryAt size)
    (admitted : portRefusal s ⟨0, 16, BitVec.ofNat 52 a, size, true, []⟩ = none) : eyeRefusal s r size = none := by
  rw [eyeRefusal, ← ea]
  exact admitted

theorem snapshotWrite_stores {s : State} {w : List Word} {rest : List (List Word)} {a : Nat} (oldest : s.eye.snaps = w :: rest)
    (whole : w.length = 256) (writes : eyeWrites s = true) (room : s.eye.snap.full = false)
    (ea : a = (s.eye.snap.base.toNat + 2048 * (s.eye.snap.head.toNat % s.eye.snap.entries)) % 2 ^ 48)
    (fits : a + 2048 ≤ 2 ^ 48) (admitted : portRefusal s ⟨0, 16, BitVec.ofNat 52 a, 2048, true, []⟩ = none) :
    ∃ t, exec .snapshotWrite s = .next t ∧ Memory.read t.hostMem a 2048 = wordsBytes (w.set 2 s.eye.snapLost) ∧
      (∀ b, ¬ (a ≤ b ∧ b < a + 2048) → Memory.byte t.hostMem b = Memory.byte s.hostMem b) ∧
      t.eye = { s.eye with snaps := rest, snapLost := 0, snap := { s.eye.snap with head := s.eye.snap.head + 1 } } ∧
      t = { s with hostMem := t.hostMem, eye := t.eye } := by
  have passes := eyeRefusal_none (r := .snap) ea admitted
  let u : State := { s with eye := { s.eye with snaps := rest, snapLost := 0 } }
  have run : exec .snapshotWrite s = .next (u.eyePut .snap 2048 (w.set 2 s.eye.snapLost)) := by
    show execSnapshotWrite s = _
    simp [execSnapshotWrite, oldest, writes, room, passes, u]
  obtain ⟨words, outside, eye, rest⟩ := State.eyePut_stores (s := u) (r := .snap) (ws := w.set 2 s.eye.snapLost)
    passes ea fits (by simp [whole]) rfl
  exact ⟨_, run, words, outside, eye, rest⟩

theorem eventLogWrite_stores {s : State} {r : LogRec} {a : Nat} (oldest : s.eye.buffer.find? (·.closed) = some r)
    (writes : eyeWrites s = true) (room : s.eye.evlog.full = false)
    (ea : a = (s.eye.evlog.base.toNat + 16 * (s.eye.evlog.head.toNat % s.eye.evlog.entries)) % 2 ^ 48)
    (fits : a + 16 ≤ 2 ^ 48) (admitted : portRefusal s ⟨0, 16, BitVec.ofNat 52 a, 16, true, []⟩ = none) :
    ∃ t, exec .eventLogWrite s = .next t ∧ Memory.read t.hostMem a 16 = wordsBytes (logWords r) ∧
      (∀ b, ¬ (a ≤ b ∧ b < a + 16) → Memory.byte t.hostMem b = Memory.byte s.hostMem b) ∧
      t.eye = { s.eye with
        buffer := s.eye.buffer.erase r, evlog := { s.eye.evlog with head := s.eye.evlog.head + 1 } } ∧
      t = { s with hostMem := t.hostMem, eye := t.eye } := by
  have passes := eyeRefusal_none (r := .evlog) ea admitted
  let u : State := { s with eye := { s.eye with buffer := s.eye.buffer.erase r } }
  have run : exec .eventLogWrite s = .next (u.eyePut .evlog 16 (logWords r)) := by
    show execEventLogWrite s = _
    simp [execEventLogWrite, oldest, writes, room, u]
  obtain ⟨words, outside, eye, rest⟩ := State.eyePut_stores (s := u) (r := .evlog) (ws := logWords r) passes ea fits rfl rfl
  exact ⟨_, run, words, outside, eye, rest⟩

theorem traceRecordWrite_stores {f : Nat} {stages : List Nat} {v2tick : Word} {s : State} {r : TraceRec} {a : Nat}
    (wf : wfStages stages = true) (oldest : s.eye.traces.find? (fun x => x.frame == f && x.done) = some r)
    (writes : eyeWrites s = true) (room : s.eye.trace.full = false)
    (ea : a = (s.eye.trace.base.toNat + 64 * (s.eye.trace.head.toNat % s.eye.trace.entries)) % 2 ^ 48)
    (fits : a + 64 ≤ 2 ^ 48) (admitted : portRefusal s ⟨0, 16, BitVec.ofNat 52 a, 64, true, []⟩ = none) :
    ∃ t, exec (.traceRecordWrite f stages v2tick) s = .next t ∧
      Memory.read t.hostMem a 64 = wordsBytes (traceWords r stages) ∧
      (∀ b, ¬ (a ≤ b ∧ b < a + 64) → Memory.byte t.hostMem b = Memory.byte s.hostMem b) ∧
      t.eye = { s.eye with
        traces := s.eye.traces.erase r, trace := { s.eye.trace with head := s.eye.trace.head + 1 } } ∧
      t = { s with hostMem := t.hostMem, eye := t.eye } := by
  have passes := eyeRefusal_none (r := .trace) ea admitted
  let u : State := { s with eye := { s.eye with traces := s.eye.traces.erase r } }
  have run : exec (.traceRecordWrite f stages v2tick) s = .next (u.eyePut .trace 64 (traceWords r stages)) := by
    show execTraceRecordWrite f stages v2tick s = _
    simp [execTraceRecordWrite, wf, oldest, writes, room, u]
  obtain ⟨words, outside, eye, rest⟩ := State.eyePut_stores (s := u) (r := .trace) (ws := traceWords r stages) passes ea
    fits rfl rfl
  exact ⟨_, run, words, outside, eye, rest⟩

/-- The records of another plan period are closed, and those of this one stay as they are (R460). -/
theorem eventLogRecordClose_closes (s : State) : ∃ t, exec .eventLogRecordClose s = .next t ∧
    (∀ r ∈ t.eye.buffer, r.tick ≠ s.plan → r.closed = true) ∧
    (∀ r ∈ s.eye.buffer, r.tick = s.plan → r ∈ t.eye.buffer) ∧ t.eye.buffer.length = s.eye.buffer.length ∧
    t = { s with eye := { s.eye with buffer := t.eye.buffer } } := by
  refine ⟨_, rfl, fun r mem other => ?_, fun r mem own => ?_, List.length_map _, rfl⟩
  · obtain ⟨q, -, rfl⟩ := List.mem_map.1 mem
    by_cases now : q.tick = s.plan
    · rw [if_pos now] at other
      exact absurd now other
    · rw [if_neg now]
  · exact List.mem_map.2 ⟨r, mem, if_pos own⟩

/-! ### Interrupt messages (R457, R458) -/

/-- A message's bit cleared leaves every other. -/
theorem bit_clearMessage (w : BitVec 32) {m k : Nat} (range : k < 32) :
    bit (w &&& ~~~BitVec.ofNat 32 (1 <<< m)) k = (bit w k && decide (k ≠ m)) := by
  have own := bit_message m k
  rw [bit] at own
  rw [bit, BitVec.getLsbD_and, BitVec.getLsbD_not, own]
  simp [range, bit]

theorem interruptSend_sends {m : Fin 32} {s : State} (due : msgDue s.eye m.val = true) :
    ∃ t, exec (.interruptSend m) s = .next t ∧ t.eye.strobe = some m.val ∧
      bit t.eye.ringLatch m.val = false ∧ bit t.eye.want m.val = false ∧
      (bit s.eye.auto m.val = false → bit t.eye.armed m.val = false) ∧
      (bit s.eye.auto m.val = true → t.eye.armed = s.eye.armed ∧ bit t.eye.sent m.val = true) ∧
      (∀ k, k ≠ m.val → k < 32 → bit t.eye.ringLatch k = bit s.eye.ringLatch k ∧ bit t.eye.armed k = bit s.eye.armed k) ∧
      t.eye.status = s.eye.status ∧ t = { s with eye := t.eye } := by
  have own (w : BitVec 32) : bit (w &&& ~~~BitVec.ofNat 32 (1 <<< m.val)) m.val = false := by
    simp [bit_clearMessage w m.isLt]
  have other (w : BitVec 32) {k : Nat} (apart : k ≠ m.val) (range : k < 32) :
      bit (w &&& ~~~BitVec.ofNat 32 (1 <<< m.val)) k = bit w k := by simp [bit_clearMessage w range, apart]
  have run : exec (.interruptSend m) s = _ := if_neg (by simp [due])
  refine ⟨_, run, rfl, own _, own _, fun eoi => ?_, fun auto => ⟨?_, ?_⟩, fun k apart range => ⟨other _ apart range, ?_⟩,
    rfl, rfl⟩
  · simp only [eoi, Bool.false_eq_true, if_false]
    exact own _
  · simp only [auto, if_true]
  · simp only [auto, if_true]
    rw [bit_or, bit_message]
    simp [m.isLt]
  · dsimp only
    split
    · rfl
    · exact other _ apart range

theorem intEoi_arms {cls : Cls} {v : Container} {s : State} (free : windowHeld s = false)
    (admitted : windowRefusal s cls 0x81 true = none) :
    (bit (toWord v) 5 = true → ∃ t, exec (.intEoi cls v) s = .next t ∧ bit t.eye.armed (fld (toWord v) 0 5) = true ∧
      (∀ k, k ≠ fld (toWord v) 0 5 → bit t.eye.armed k = bit s.eye.armed k) ∧
      t = { s with eye := { s.eye with armed := t.eye.armed } }) ∧
    (bit (toWord v) 5 = false → exec (.intEoi cls v) s = .next s) := by
  have run : exec (.intEoi cls v) s = .next (s.writeEoi (toWord v)) := congrArg _ (regWrite_admitted _ free admitted)
  have range : fld (toWord v) 0 5 < 32 := Nat.mod_lt _ (by decide)
  refine ⟨fun valid => ⟨_, run.trans (congrArg _ (if_pos valid)), ?_, fun k apart => ?_, rfl⟩, fun void => ?_⟩
  · dsimp only
    rw [bit_or, bit_message]
    simp [range]
  · dsimp only
    rw [bit_or, bit_message]
    simp [apart]
  · rw [run, State.writeEoi, void, if_neg Bool.false_ne_true]

/-- Settles O59: each row by the lemma about it. -/
theorem eyebrightRowsAct : Obligations.EyebrightRowsAct := by
  unfold Obligations.EyebrightRowsAct
  refine ⟨fun s w rest a => snapshotWrite_stores, eventLogRecordClose_closes, fun s r a => eventLogWrite_stores,
    fun f stages v2tick s r a => traceRecordWrite_stores, fun m s => ⟨interruptSend_sends, fun idle => ?_⟩,
    fun cls v s => intEoi_arms⟩
  exact if_pos (by simp [idle])

end Sys2Proof.Machine

/-!
PROOFS. The statement of policing and its burst windows (O38).
-/

namespace Sys2Proof.Machine

/-! ### The policing fields of a half (R60, Table 3.6) -/

namespace Context

variable (c : Context) (op : Bool)

@[simp] theorem periodCount_setPeriodCount (v : Nat) : (c.setPeriodCount op v).periodCount op = v % 2 ^ 10 := by
  cases op <;> exact fld_setFld_same _ _ (by decide)

@[simp] theorem burstLeft_setPeriodCount (v : Nat) : (c.setPeriodCount op v).burstLeft op = c.burstLeft op := by
  cases op <;> exact fld_setFld_apart _ _ (by decide) (by decide)

@[simp] theorem windowLeft_setPeriodCount (v : Nat) : (c.setPeriodCount op v).windowLeft op = c.windowLeft op := by
  cases op
  · exact fld_setFld_apart _ _ (by decide) (by decide)
  · rfl

@[simp] theorem windowOpen_setPeriodCount (v : Nat) : (c.setPeriodCount op v).windowOpen op = c.windowOpen op := by
  cases op
  · exact bit_setFld _ _ _ _ (by decide)
  · rfl

@[simp] theorem periodCount_setBurstLeft (v : Nat) : (c.setBurstLeft op v).periodCount op = c.periodCount op := by
  cases op <;> exact fld_setFld_apart _ _ (by decide) (by decide)

@[simp] theorem burstLeft_setBurstLeft (v : Nat) : (c.setBurstLeft op v).burstLeft op = v % 2 ^ 16 := by
  cases op <;> exact fld_setFld_same _ _ (by decide)

@[simp] theorem windowLeft_setBurstLeft (v : Nat) : (c.setBurstLeft op v).windowLeft op = c.windowLeft op := by
  cases op
  · exact fld_setFld_apart _ _ (by decide) (by decide)
  · rfl

@[simp] theorem windowOpen_setBurstLeft (v : Nat) : (c.setBurstLeft op v).windowOpen op = c.windowOpen op := by
  cases op
  · exact bit_setFld _ _ _ _ (by decide)
  · rfl

@[simp] theorem periodCount_setWindowLeft (v : Nat) : (c.setWindowLeft op v).periodCount op = c.periodCount op := by
  cases op
  · exact fld_setFld_apart _ _ (by decide) (by decide)
  · rfl

@[simp] theorem windowLeft_setWindowLeft (v : Nat) : (c.setWindowLeft op v).windowLeft op = v % 2 ^ 10 := by
  cases op <;> exact fld_setFld_same _ _ (by decide)

@[simp] theorem windowOpen_setWindowLeft (v : Nat) : (c.setWindowLeft op v).windowOpen op = c.windowOpen op := by
  cases op <;> exact bit_setFld _ _ _ _ (by decide)

@[simp] theorem periodCount_setWindowOpen (v : Bool) : (c.setWindowOpen op v).periodCount op = c.periodCount op := by
  cases op
  · exact fld_setFld_apart _ _ (by decide) (by decide)
  · rfl

@[simp] theorem windowOpen_setWindowOpen (v : Bool) : (c.setWindowOpen op v).windowOpen op = v := by
  cases op <;> exact (bit_setBit _ _ _ (by decide)).trans (if_pos rfl)

end Context

/-! ### Which frames are demoted (R60, R67) -/

/-- The context in which a frame beyond Q is judged: counted, and with a burst window open. -/
def inWindow (w : Nat) (a c : Context) (op : Bool) : Context :=
  if c.windowOpen op && decide (0 < c.windowLeft op) then c
  else ((c.setWindowOpen op true).setWindowLeft op w).setBurstLeft op a.burstAllow

section Policing

variable {w n left : Nat} {was : Bool} {a c : Context} {op : Bool}

theorem policeP_steady (within : n ≤ a.steady) (en : n = min 1023 (c.periodCount op + 1)) :
    policeP w a c op = (false, c.setPeriodCount op n) := by
  subst en
  exact if_pos within

theorem policeP_beyond (beyond : a.steady < n) (en : n = min 1023 (c.periodCount op + 1)) {d : Context}
    (ed : d = inWindow w a (c.setPeriodCount op n) op) :
    policeP w a c op = if n ≤ a.steady + a.burstPeak ∧ 0 < d.burstLeft op
      then (false, d.setBurstLeft op (d.burstLeft op - 1)) else (true, d) := by
  subst en ed
  refine (if_neg (Nat.not_le.mpr beyond)).trans ?_
  simp only [inWindow, Bool.and_eq_true, decide_eq_true_eq]

theorem burstAllow_lt (a : Context) : a.burstAllow < 65536 := fld_lt _ _ _

theorem Context.burstLeft_lt (c : Context) (op : Bool) : c.burstLeft op < 65536 := by
  cases op <;> exact fld_lt _ _ _

/-- A window that was open goes on; where none was, one begins with its whole allowance and length. -/
theorem inWindow_fields (w : Nat) (a c : Context) (op : Bool) (fits : w < 1024)
    (ewas : was = (c.windowOpen op && decide (0 < c.windowLeft op))) :
    (inWindow w a c op).windowOpen op = true ∧
      (inWindow w a c op).windowLeft op = (if was then c.windowLeft op else w) ∧
      (inWindow w a c op).burstLeft op = (if was then c.burstLeft op else a.burstAllow) ∧
      (inWindow w a c op).periodCount op = c.periodCount op := by
  unfold inWindow
  rw [← ewas]
  cases was with
  | true =>
    have going : c.windowOpen op = true := by simpa using (Bool.and_eq_true_iff.mp ewas.symm).1
    simp [going]
  | false => simp [Nat.mod_eq_of_lt fits, burstAllow_lt a]

theorem policeP_judges (en : n = min 1023 (c.periodCount op + 1)) (fits : w < 1024)
    (ewas : was = (c.windowOpen op && decide (0 < c.windowLeft op)))
    (eleft : left = (if was then c.burstLeft op else a.burstAllow)) :
    ((policeP w a c op).1 = true ↔ a.steady < n ∧ (a.steady + a.burstPeak < n ∨ left = 0)) ∧
    ((policeP w a c op).2.periodCount op = n) ∧
    (a.steady < n → (policeP w a c op).2.windowOpen op = true ∧
      (policeP w a c op).2.windowLeft op = if was then c.windowLeft op else w) ∧
    (a.steady < n → n ≤ a.steady + a.burstPeak → 0 < left → (policeP w a c op).2.burstLeft op = left - 1) ∧
    (n ≤ a.steady → (policeP w a c op).2.burstLeft op = c.burstLeft op ∧
      (policeP w a c op).2.windowOpen op = c.windowOpen op) := by
  have counts_fit : n < 1024 := by omega
  rcases Nat.lt_or_ge a.steady n with beyond | within
  case inr =>
    rw [policeP_steady within en]
    simp [counts_fit, Nat.not_lt.mpr within]
  case inl =>
    obtain ⟨opens, length, allows, counts⟩ := inWindow_fields w a (c.setPeriodCount op n) op (was := was) fits
      (by simpa)
    have allowed : (inWindow w a (c.setPeriodCount op n) op).burstLeft op = left := by simpa [eleft] using allows
    have small : left - 1 < 65536 := by
      have := Context.burstLeft_lt (inWindow w a (c.setPeriodCount op n) op) op
      omega
    rw [policeP_beyond beyond en rfl, allowed]
    by_cases spends : n ≤ a.steady + a.burstPeak ∧ 0 < left
    · rw [if_pos spends]
      simp [counts_fit, opens, length, counts, Nat.mod_eq_of_lt small]
      omega
    · rw [if_neg spends]
      simp [counts_fit, opens, length, counts]
      omega

end Policing

/-- Settles O38: the frame within Q, the frame beyond it by the window in which it is judged, and the window's end. -/
theorem policingDemotes : Obligations.PolicingDemotes := by
  unfold Obligations.PolicingDemotes
  refine ⟨fun w n left was a c op en fits ewas eleft => policeP_judges en fits ewas eleft, fun h op s => ⟨?_, ?_⟩⟩
  · rintro ⟨opened, passed⟩
    exact if_pos (by simp [opened, passed])
  · intro stays
    refine if_neg ?_
    rcases stays with shut | runs
    · simp [shut]
    · simp [runs]

end Sys2Proof.Machine

/-!
PROOFS. The statement of arming, disarming and retiring at their boundary (O32).
-/

namespace Sys2Proof.Machine

/-! ### States of a context (R85) -/

namespace Context

@[simp] theorem st_setSt (c : Context) (v : Nat) : (c.setSt v).st = v % 8 := fld_setFld_same _ _ (by decide)

@[simp] theorem st_setTwin (c : Context) (valid : Bool) (h : Nat) : (c.setTwin valid h).st = c.st :=
  fld_setFld_apart _ _ (by decide) (by decide)

theorem twinValid_unlinked (c : Context) (h : Nat) (low : h < 2 ^ 15) : (c.setTwin false h).twinValid = false := by
  refine (bit_setFld _ _ _ _ (by decide)).trans ?_
  simp [boolNat, Nat.testBit_lt_two_pow low]

theorem twin_setSt (c : Context) (v : Nat) : (c.setSt v).twin = c.twin := fld_setFld_apart _ _ (by decide) (by decide)

end Context

/-! ### What agreement outside some fields gives for one ring -/

theorem Touch.ring {L : List Fld} {s t : State} (h : Touch L s t) (w : L.contains .rings = false) (k : Nat) :
    t.ring k = s.ring k := by
  rw [State.ring, h.rings w]
  rfl

/-! ### Arming at its boundary (R85, R330, R359) -/

/-- A ring that is checked again may run on; nothing else of it changes, and no other ring. -/
theorem State.ring_recheckRing (s : State) (h : Nat) : (∀ k, k ≠ h → (s.recheckRing h).ring k = s.ring k) ∧
    ((s.recheckRing h).ring h = s.ring h ∨ (s.recheckRing h).ring h = { s.ring h with stopped := false }) := by
  unfold State.recheckRing
  dsimp only
  split
  · exact ⟨fun _ _ => rfl, .inl rfl⟩
  · split
    next f _ =>
      have logged : Touch [.gates, .eye] s (s.logGate (s.stream h).domain f) :=
        (State.logGate_touch _ _ _ (by decide)).mpr (Touch.refl _ _)
      exact ⟨fun k _ => logged.ring rfl k, .inl (logged.ring rfl h)⟩
    next => exact ⟨fun k other => State.ring_setRing_other _ other _, .inr (State.ring_setRing ..)⟩

/-- Ring r is ring q under the header words of an arming. -/
structure ArmedRing (q : Ring) (h0 h1 h2 : Word) (r : Ring) : Prop where
  h0 : r.h0 = h0
  h1 : r.h1 = h1
  h2 : r.h2 = h2
  tail : r.tail = q.tail
  head : r.head = q.head

theorem State.commitArm_ring (s : State) (h : Nat) (h0 h1 h2 : Word) :
    (∀ k, k ≠ h → (s.commitArm h h0 h1 h2).ring k = s.ring k) ∧
      ArmedRing (s.ring h) h0 h1 h2 ((s.commitArm h h0 h1 h2).ring h) := by
  unfold State.commitArm
  dsimp only
  generalize eu : (s.setStream h ((s.stream h).setSt 2)).setRing h _ = u
  obtain ⟨others, own⟩ := u.ring_recheckRing h
  refine ⟨fun k other => ?_, ?_⟩
  · rw [others k other, ← eu, State.ring_setRing_other _ other]
    rfl
  · rcases own with own | own <;> rw [own, ← eu, State.ring_setRing] <;> exact ⟨rfl, rfl, rfl, rfl, rfl⟩

theorem State.commitArm_stream (s : State) (h : Nat) (h0 h1 h2 : Word) :
    (s.commitArm h h0 h1 h2).stream h = (s.stream h).setSt 2 ∧
      ∀ k, k ≠ h → (s.commitArm h h0 h1 h2).stream k = s.stream k := by
  have checked (u : State) : Touch [.rings, .gates, .eye] u (u.recheckRing h) :=
    (State.recheckRing_touch u h (by decide)).mpr (Touch.refl _ _)
  unfold State.commitArm
  dsimp only
  refine ⟨?_, fun k other => ?_⟩
  · rw [(checked _).stream rfl, State.setRing_stream, State.stream_setStream]
  · rw [(checked _).stream rfl, State.setRing_stream, State.stream_setStream_other _ other]

theorem State.commitArm_rest (s : State) (h : Nat) (h0 h1 h2 : Word) :
    Touch [.streams, .rings, .gates, .eye] s (s.commitArm h h0 h1 h2) :=
  (State.commitArm_touch s h h0 h1 h2 (by decide)).mpr (Touch.refl _ _)

theorem Touch.arm_frame {s t : State}
    (h : Touch [.streams, .rings, .aux, .slots, .keyCtl, .grace, .gates, .staged, .eye] s t) : t = { s with
      streams := t.streams, rings := t.rings, aux := t.aux, slots := t.slots, keyCtl := t.keyCtl, grace := t.grace,
      gates := t.gates, staged := t.staged, eye := t.eye } := by
  refine State.eq_of_same fun f => ?_
  have kept := h f
  cases f
  case streams | rings | aux | slots | keyCtl | grace | gates | staged | eye => rfl
  all_goals exact kept rfl

/-! ### Descriptors that are held when a stream is disarmed or retired (R90, R336) -/

/-- The statuses with which descriptors complete that are not begun: neither is counted in w29 or w30. -/
def heldStatus (status : Nat) : Prop := status = stNotArmed ∨ status = stRetired

/-- A frame that completes before it has begun changes no context. -/
theorem State.completeTx_held {status : Nat} (held : heldStatus status) (s : State) (x : TxFrame) (onePort : Bool) :
    Touch [.shots, .rings, .tx, .eye] s (s.completeTx x status onePort) := by
  have uncounted : x.countsFailure status = false :=
    Bool.and_eq_false_iff.mpr (.inr (by rcases held with rfl | rfl <;> decide))
  have bad : status ≠ stGood := by rcases held with rfl | rfl <;> decide
  have keyed : status ≠ stKeyFailure := by rcases held with rfl | rfl <;> decide
  have echoed : status ≠ stEcho := by rcases held with rfl | rfl <;> decide
  have linked : status ≠ stLinkDown := by rcases held with rfl | rfl <;> decide
  unfold State.completeTx
  simp only [uncounted, bad, keyed, echoed, State.linkDownCount, linked, decide_false, Bool.false_and,
    Bool.false_eq_true, if_false]
  have traced : Touch [.shots, .rings, .tx, .eye] s (if x.traced then
      ((s.dropTx x.id).onShots x.handle x.id (ended x status)).traceEnd x.id true
        (traceW0 true (lowPort x.ctx.portMask) x.ctx.cls x.demoted x.slice x.handle)
        (traceW1 0 (x.r3Length s.img) status)
      else (s.dropTx x.id).onShots x.handle x.id (ended x status)) := by
    refine Touch.ite ?_ ?_ <;>
      simp (disch := decide) only [State.traceEnd_touch, State.onShots_touch, State.dropTx_touch, Touch.refl]
  revert traced
  generalize (if x.traced then _ else _ : State) = u
  intro traced
  split
  · exact traced
  split
  · exact (State.output_touch _ _ _ _ _ _ (by decide)).mpr traced
  rcases given : u.allot x.handle with ⟨_ | e, v⟩
  · exact (State.loseReport_touch _ _ (by decide)).mpr traced
  · exact (State.output_touch _ _ _ _ _ _ (by decide)).mpr
      (Touch.of_pair given ((State.allot_touch _ _ (by decide)).mpr traced))

/-- A record that completes before it has begun changes no context. -/
theorem State.endRecord_held {status : Nat} (held : heldStatus status) (s : State) (j : RecordJob) :
    Touch [.rings, .jobs, .eye] s (s.endRecord j status) := by
  have bad : status ≠ stGood := by rcases held with rfl | rfl <;> decide
  have keyed : status ≠ stKeyFailure := by rcases held with rfl | rfl <;> decide
  have left : status ≠ stExhausted := by rcases held with rfl | rfl <;> decide
  unfold State.endRecord
  simp only [bad, keyed, left, if_false]
  simp (disch := decide) only [State.output_touch, State.discardRecord_touch, State.dropJob_touch, Touch.refl]

theorem State.failHeld_held {status : Nat} (held : heldStatus status) (s : State) (h : Nat) (ringOnly : Bool) :
    Touch [.shots, .rings, .jobs, .tx, .eye] s (s.failHeld h status ringOnly) :=
  Touch.foldl_step (fun t j => (State.endRecord_held held t j).mono (by decide))
    (Touch.foldl_step (fun t x => (State.completeTx_held held t x false).mono (by decide)) (Touch.refl _ _))

/-! ### Disarming at its boundary (R63, R336) -/

theorem State.commitDisarm_after_setSt (s : State) (h : Nat) : Touch [.shots, .adm, .rings, .jobs, .tx, .eye]
    (s.setStream h ((s.stream h).setSt 1)) (s.commitDisarm h) := by
  unfold State.commitDisarm
  exact (State.recharge_touch _ _ (by decide)).mpr ((State.failHeld_held (.inl rfl) _ h true).mono (by decide))

theorem State.commitDisarm_stream (s : State) (h : Nat) : (s.commitDisarm h).stream h = (s.stream h).setSt 1 ∧
    ∀ k, k ≠ h → (s.commitDisarm h).stream k = s.stream k := by
  have rest := s.commitDisarm_after_setSt h
  refine ⟨?_, fun k other => ?_⟩
  · rw [rest.stream rfl, State.stream_setStream]
  · rw [rest.stream rfl, State.stream_setStream_other _ other]

theorem State.commitDisarm_rest (s : State) (h : Nat) :
    Touch [.streams, .shots, .adm, .rings, .jobs, .tx, .eye] s (s.commitDisarm h) :=
  ((State.setStream_touch s h _ (by decide)).mpr (Touch.refl _ _)).step
    ((s.commitDisarm_after_setSt h).mono (by decide))

/-! ### Retiring at its boundary (R90, R100) -/

/-- The streams of a retirement: the stream is Retiring, and its twin, where it names it back, linked no more. -/
def State.unlinked (s : State) (h : Nat) : State :=
  let c := s.stream h
  let s1 := s.setStream h (c.setSt 3)
  if c.twinValid && (s1.stream c.twin).twin == h then s1.setStream c.twin ((s1.stream c.twin).setTwin false 0) else s1

theorem State.unlinked_rest (s : State) (h : Nat) : Touch [.streams] s (s.unlinked h) := by
  unfold State.unlinked
  refine Touch.ite ?_ ?_ <;> simp (disch := decide) only [State.setStream_touch, Touch.refl]

theorem State.unlinked_retiring (s : State) (h : Nat) : ((s.unlinked h).stream h).retiring = true := by
  unfold State.unlinked
  dsimp only
  split
  · by_cases own : h = (s.stream h).twin
    · rw [← own, State.stream_setStream, State.stream_setStream]
      simp [Context.retiring]
    · rw [State.stream_setStream_other _ own, State.stream_setStream]
      simp [Context.retiring]
  · rw [State.stream_setStream]
    simp [Context.retiring]

theorem State.unlinked_other (s : State) (h : Nat) {k : Nat} (other : k ≠ h) (apart : k ≠ (s.stream h).twin) :
    (s.unlinked h).stream k = s.stream k := by
  unfold State.unlinked
  dsimp only
  split
  · rw [State.stream_setStream_other _ apart, State.stream_setStream_other _ other]
  · rw [State.stream_setStream_other _ other]

theorem State.unlinked_twin (s : State) (h : Nat) (linked : (s.stream h).twinValid = true)
    (apart : (s.stream h).twin ≠ h) (back : (s.stream (s.stream h).twin).twin = h) :
    ((s.unlinked h).stream (s.stream h).twin).twinValid = false := by
  unfold State.unlinked
  dsimp only
  rw [if_pos (by simp [linked, State.stream_setStream_other _ apart, back]), State.stream_setStream]
  exact Context.twinValid_unlinked _ 0 (by decide)

/-- The state whose charge is computed afresh at a retirement. -/
def State.retired (s : State) (h : Nat) : State :=
  (((s.unlinked h).failHeld h stRetired false).closeHolds (·.handle == h) 0x16).dropGrace h (fun _ => true)

theorem State.commitRetire_retired (s : State) (h : Nat) : s.commitRetire h = ((s.retired h).recharge h).setAux h
    { ((s.retired h).recharge h).aux_ h with retireTick := ((s.retired h).recharge h).plan } := rfl

theorem State.commitRetire_after_unlinked (s : State) (h : Nat) :
    Touch [.shots, .aux, .adm, .grace, .rings, .jobs, .tx, .v2, .eye] (s.unlinked h) (s.commitRetire h) := by
  rw [State.commitRetire_retired]
  simp (disch := decide) only [State.setAux_touch, State.recharge_touch, State.retired, State.dropGrace_touch,
    State.closeHolds_touch]
  exact (State.failHeld_held (.inr rfl) _ h false).mono (by decide)

theorem State.commitRetire_grace (s : State) (h : Nat) {e : GraceEntry} (kept : e ∈ (s.commitRetire h).grace) :
    e.handle ≠ h := by
  simp only [State.commitRetire_retired, State.setAux_grace, State.recharge, State.setDemand_grace, State.retired,
    State.dropGrace, List.mem_filter] at kept
  simpa using kept.2

theorem State.commitRetire_rest (s : State) (h : Nat) :
    Touch [.streams, .shots, .aux, .adm, .grace, .rings, .jobs, .tx, .v2, .eye] s (s.commitRetire h) :=
  ((s.unlinked_rest h).mono (by decide)).step ((s.commitRetire_after_unlinked h).mono (by decide))

theorem Touch.disarm_frame {s t : State} (h : Touch [.streams, .shots, .adm, .rings, .jobs, .tx, .aux, .slots, .keyCtl,
    .grace, .staged, .eye] s t) : t = { s with
      streams := t.streams, shots := t.shots, adm := t.adm, rings := t.rings, jobs := t.jobs, tx := t.tx,
      egSkip := t.egSkip, ports := t.ports, aux := t.aux, slots := t.slots, keyCtl := t.keyCtl, grace := t.grace,
      staged := t.staged, eye := t.eye } := by
  refine State.eq_of_same fun f => ?_
  have kept := h f
  cases f
  case streams | shots | adm | rings | jobs | tx | egSkip | ports | aux | slots | keyCtl | grace | staged | eye => rfl
  all_goals exact kept rfl

theorem Touch.retire_frame {s t : State} (h : Touch [.streams, .shots, .adm, .rings, .jobs, .tx, .aux, .slots, .keyCtl,
    .grace, .v2, .staged, .eye] s t) : t = { s with
      streams := t.streams, shots := t.shots, adm := t.adm, rings := t.rings, jobs := t.jobs, tx := t.tx,
      egSkip := t.egSkip, ports := t.ports, aux := t.aux, slots := t.slots, keyCtl := t.keyCtl, grace := t.grace,
      v2 := t.v2, staged := t.staged, eye := t.eye } := by
  refine State.eq_of_same fun f => ?_
  have kept := h f
  cases f
  case streams | shots | adm | rings | jobs | tx | egSkip | ports | aux | slots | keyCtl | grace | v2 | staged |
    eye => rfl
  all_goals exact kept rfl

/-- Settles O32: the due change of the stream by `State.commitOne_stream`, and then the arming, the disarming or the
retirement. -/
theorem streamStateChangesTakeEffect : Obligations.StreamStateChangesTakeEffect := by
  unfold Obligations.StreamStateChangesTakeEffect
  refine ⟨fun h s => ⟨fun idle => congrArg _ (State.commitOne_none idle), fun x h0 h1 h2 due chg => ?arm⟩,
    fun h s => ⟨fun idle => congrArg _ (State.commitOne_none idle), fun idle => congrArg _ (State.commitOne_none idle),
      fun x => ⟨fun due => ?disarm, fun due => ?retire⟩⟩⟩
  case arm =>
    obtain ⟨u, ran, streams, -, staged, before⟩ := State.commitOne_stream due
    rw [chg] at ran
    obtain ⟨own, others⟩ := u.commitArm_stream h.toNat h0 h1 h2
    obtain ⟨otherRings, ring⟩ := u.commitArm_ring h.toNat h0 h1 h2
    have rest := u.commitArm_rest h.toNat h0 h1 h2
    rw [before.ring rfl] at ring
    rw [streams] at own
    exact ⟨_, congrArg Host.Outcome.next ran, own, by
        rw [State.commitStream, own]
        simp [Context.armed],
      fun k other => ⟨(others k other).trans (streams k), (otherRings k other).trans (before.ring rfl k)⟩,
      ring.h0, ring.h1, ring.h2, ring.tail, ring.head, (rest.staged rfl).trans staged,
      Touch.arm_frame ((before.mono (by decide)).step (rest.mono (by decide)))⟩
  case disarm =>
    obtain ⟨u, ran, streams, -, staged, before⟩ := State.commitOne_stream due
    rw [show x.chg = .disarm by simpa using dueChange_ok due] at ran
    obtain ⟨own, others⟩ := u.commitDisarm_stream h.toNat
    have rest := u.commitDisarm_rest h.toNat
    rw [streams] at own
    exact ⟨_, congrArg Host.Outcome.next ran, own, by
        rw [State.commitStream, own]
        simp [Context.created],
      fun k other => (others k other).trans (streams k), (rest.staged rfl).trans staged,
      Touch.disarm_frame ((before.mono (by decide)).step (rest.mono (by decide)))⟩
  case retire =>
    obtain ⟨u, ran, streams, -, staged, before⟩ := State.commitOne_stream due
    rw [show x.chg = .retire by simpa using dueChange_ok due] at ran
    have kept := u.commitRetire_after_unlinked h.toNat
    have rest := u.commitRetire_rest h.toNat
    refine ⟨_, congrArg Host.Outcome.next ran, ?_, fun k other apart => ?_, fun e => u.commitRetire_grace h.toNat,
      fun linked apart back => ?_, (rest.staged rfl).trans staged,
      Touch.retire_frame ((before.mono (by decide)).step (rest.mono (by decide)))⟩
    · rw [State.commitStream, kept.stream rfl]
      exact u.unlinked_retiring h.toNat
    · rw [State.commitStream, kept.stream rfl, u.unlinked_other h.toNat other (by rwa [streams]), streams]
    · rw [State.commitStream, kept.stream rfl]
      simp only [← streams] at linked apart back ⊢
      exact u.unlinked_twin h.toNat linked apart back

end Sys2Proof.Machine

/-!
PROOFS. The statement of invalidations, gates, images and port resets at their boundary (O35).
-/

namespace Sys2Proof.Machine

/-! ### Invalidation at its boundary (R232, R233) -/

/-- The due change of an object leaves the staging area and takes effect. -/
theorem State.commitOne_due {s : State} {o : Obj} {ok : Change → Bool} {x : Staged} (due : dueChange s o ok = some x) :
    s.commitOne o ok = (s.unstage x).commitChange [] x := by
  rw [State.commitOne, due]

/-- A descendant is listed among the slots. -/
theorem listed_of_mem_descendants {m : Table KeySlot} {j : Nat} :
    ∀ (n : Nat) (dead : List Nat), j ∈ descendants m n dead → ∃ v, (j, v) ∈ m
  | 0, _, mem => absurd mem List.not_mem_nil
  | n + 1, dead, mem => by
    rcases List.mem_append.mp mem with child | below
    · simp only [childrenOf, List.mem_map, List.mem_filter] at child
      obtain ⟨e, ⟨listed, -⟩, rfl⟩ := child
      exact ⟨e.2, listed⟩
    · exact listed_of_mem_descendants n _ below

theorem Table.get_map_of_listed {d v : KeySlot} {j : Nat} {f : Nat × KeySlot → Nat × KeySlot} {P : KeySlot → Prop}
    (keys : ∀ e, (f e).1 = e.1) (own : ∀ w, P (f (j, w)).2) :
    ∀ {m : Table KeySlot}, (j, v) ∈ m → P (Table.get d j (m.map f))
  | (i, w) :: m, listed => by
    rw [List.map_cons, show f (i, w) = (i, (f (i, w)).2) from Prod.ext (keys _) rfl, Table.get]
    by_cases here : i = j
    · subst here
      rw [if_pos rfl]
      exact own w
    · rw [if_neg here]
      refine Table.get_map_of_listed keys own ((List.mem_cons.mp listed).resolve_left fun same => here ?_)
      exact (Prod.mk.inj same).1.symm

/-- Every descendant of a slot is orphaned with it (R232). -/
theorem orphaned_orphanBelow {k j : Nat} {m : Table KeySlot} (below : j ∈ descendants m 6 [k]) :
    (Table.get .empty j (orphanBelow k m)).orphaned = true := by
  obtain ⟨v, listed⟩ := listed_of_mem_descendants 6 [k] below
  refine Table.get_map_of_listed (P := fun w => w.orphaned = true) (fun e => ?_) (fun w => ?_) listed
  · split <;> rfl
  · rw [if_pos (List.contains_iff_mem.mpr below)]
    exact (bit_setBit _ _ _ (by decide)).trans (if_pos rfl)

theorem State.invalidate_eq {s : State} {k : Nat} (valid : (s.slot k).valid = true) : s.invalidate k =
    State.post { s with
      slots := orphanBelow k (s.setSlot k (s.slot k).toScrub).slots
      keyCtl := { s.keyCtl with sweepOn := true, sweepAgain := true } } 459 := by
  rw [State.invalidate, if_pos valid, State.invalidateQuiet, if_pos valid]
  rfl

theorem invalidationCommit_acts {k : SlotIx} {s : State} {x : Staged}
    (due : dueChange s (.slot k.toNat) (· == .invalidate) = some x) :
    exec (.invalidationCommit k) s = .next ((s.unstage x).invalidate k.toNat) := by
  refine congrArg _ ((State.commitOne_due due).trans ?_)
  rw [State.commitChange, dueChange_obj due]

/-! ### Gates at their boundary (R361) -/

theorem gateOfflineCommit_acts {g : Fin 17} {s : State} {x : Staged}
    (due : dueChange s (.gate g.val) (· == .gateOffline) = some x) :
    exec (.gateOfflineCommit g) s = .next (goOffline g.val (s.unstage x)) := by
  refine congrArg _ ((State.commitOne_due due).trans ?_)
  rw [State.commitChange, dueChange_obj due, show x.chg = .gateOffline by simpa using dueChange_ok due]

theorem gateOnlineCommit_acts {g : Fin 17} {s : State} {x : Staged}
    (due : dueChange s (.gate g.val) (· == .gateOnline) = some x) :
    exec (.gateOnlineCommit g) s = .next (goOnline g.val (s.unstage x)) := by
  refine congrArg _ ((State.commitOne_due due).trans ?_)
  rw [State.commitChange, dueChange_obj due, show x.chg = .gateOnline by simpa using dueChange_ok due]

/-! ### Activation of an image (R300, R355, R427) -/

/-- A gate that takes its rule set at an activation is online, and one that is online stays so. -/
theorem gateOnline_activated (rules : Nat → Table (Word × Word × Word)) (k : Nat) : ∀ (l : List Nat) (t : Table Gate),
    (k ∈ l ∨ (Table.get .zero k t).online = true) → (Table.get .zero k (l.foldl (fun t g =>
      Table.put .zero g { Table.get .zero g t with rules := rules g, online := true } t) t)).online = true
  | [], _, online => online.resolve_left List.not_mem_nil
  | g :: l, t, online => by
    rw [List.foldl_cons]
    refine gateOnline_activated rules k l _ ?_
    by_cases own : k = g
    · subst own
      exact .inr (by rw [Table.get_put_same])
    · rw [Table.get_put_other _ _ own]
      exact online.imp_left fun mem => (List.mem_cons.mp mem).resolve_left own

/-- The gates of the image are marked as changed. -/
def State.gatesMarked (s : State) : State :=
  (List.range 17).foldl (fun x g => x.setGate g { x.gate g with changed := true }) s

theorem State.gatesMarked_rest (s : State) : Touch [.gates] s s.gatesMarked :=
  Touch.foldl (fun _ _ => (State.setGate_touch _ _ _ (by decide)).mpr (Touch.refl _ _)) _ s

theorem State.gatesMarked_online (s : State) (k : Nat) : (s.gatesMarked.gate k).online = (s.gate k).online := by
  unfold State.gatesMarked
  induction List.range 17 generalizing s with
  | nil => rfl
  | cons g l ih =>
    rw [List.foldl_cons, ih]
    by_cases own : k = g
    · rw [own, State.gate_setGate]
    · rw [State.gate_setGate_other _ own]

/-- The ports whose configuration an image changes are reset under it. -/
def State.portsReset (s : State) (ps cut : List Nat) : State := ps.foldl (fun x p => (x.fitPort p).resetPort p cut) s

theorem State.portsReset_rest (s : State) (ps cut : List Nat) :
    Touch [.streams, .shots, .rings, .tx, .rx, .egSkip, .ports, .pairs, .eye] s (s.portsReset ps cut) :=
  Touch.foldl (fun _ _ => by simp (disch := decide) only [State.resetPort_touch, State.fitPort_touch, Touch.refl]) ps s

/-- An image that verifies is in force, its slot the active one, and every gate online. -/
theorem State.commitImage_good {s : State} {b : Bool} {img : ImgCfg}
    (good : verifyImage s.fuses (s.nv.slotOf b).bytes = .good img) (cut : List Nat) :
    (s.commitImage b cut).img = img ∧ (s.commitImage b cut).active.map (·.slotB) = some b ∧
      ∀ g, g < 17 → ((s.commitImage b cut).gate g).online = true := by
  obtain ⟨u, ps, ns, run⟩ : ∃ u ps ns, s.commitImage b cut =
      (((State.activateImage u b img).portsReset ps cut).gatesMarked).posts ns := by
    rw [State.commitImage, good]
    exact ⟨_, _, _, rfl⟩
  have reset := (u.activateImage b img).portsReset_rest ps cut
  have after : Touch [.streams, .shots, .rings, .tx, .rx, .egSkip, .ports, .pairs, .gates, .eye] (u.activateImage b img)
      (s.commitImage b cut) := by
    rw [run, State.posts_touch _ _ (by decide)]
    exact (reset.mono (by decide)).step ((State.gatesMarked_rest _).mono (by decide))
  refine ⟨after.img rfl, by rw [after.active rfl]; rfl, fun g low => ?_⟩
  have posted (v : State) : Touch [.eye] v (v.posts ns) := (State.posts_touch _ _ (by decide)).mpr (Touch.refl _ _)
  rw [run, State.gate, (posted _).gates rfl, ← State.gate, State.gatesMarked_online, State.gate, reset.gates rfl]
  exact gateOnline_activated _ g _ _ (.inl (List.mem_range.mpr low))

/-- An image that does not verify changes nothing (log 55). -/
theorem State.commitImage_bad {s : State} {b : Bool}
    (bad : ∀ img, verifyImage s.fuses (s.nv.slotOf b).bytes ≠ .good img) (cut : List Nat) :
    s.commitImage b cut = s := by
  rw [State.commitImage]
  split
  · rfl
  · next good => exact absurd good (bad _)

theorem imageActivationCommit_acts {s : State} {x : Staged} {b : Bool} (cut : List Nat)
    (due : dueChange s .image (fun _ => true) = some x) (chg : x.chg = .activate b) :
    exec (.imageActivationCommit cut) s = .next ((s.unstage x).commitImage b cut) := by
  show execImageActivationCommit cut s = _
  rw [execImageActivationCommit, due]
  dsimp only
  rw [State.commitChange, dueChange_obj due, chg]

/-! ### A port reset at its boundary (R312, R405) -/

theorem portResetAction_acts {p : Fin 16} {now : Nat} {s : State} {x : Staged} (cut : List Nat)
    (due : dueChange (s.atTime now) (.port p.val) (· == .portReset) = some x) :
    exec (.portResetAction p now cut) s = .next (((s.atTime now).unstage x).resetPort p.val cut) := by
  show execPortResetAction p now cut s = _
  simp only [execPortResetAction, due]

/-- Settles O35: each row by what its due change does once it has left the staging area. -/
theorem otherCommitsTakeEffect : Obligations.OtherCommitsTakeEffect := by
  unfold Obligations.OtherCommitsTakeEffect
  refine ⟨fun k s => ⟨?invalidation, fun idle => congrArg _ (State.commitOne_none idle)⟩,
    fun g s => ⟨fun x due => gateOfflineCommit_acts due, fun x due => gateOnlineCommit_acts due,
      fun idle => congrArg _ (State.commitOne_none idle), fun idle => congrArg _ (State.commitOne_none idle)⟩,
    fun cut s => ⟨fun x b due _ chg => ⟨fun img good => ?good, fun bad => ?bad⟩, fun idle => ?unchanged⟩,
    fun p now cut s u eu => ⟨fun x due exist => ?port, fun idle => ?free⟩, fun s => rfl⟩
  case invalidation =>
    rintro x v u due rfl valid rfl
    have gone : ((s.unstage x).slot k.toNat).valid = true := valid
    have scrubbing := State.invalidate_scrubbing gone
    have run := (invalidationCommit_acts due).trans (congrArg _ (State.invalidate_eq gone))
    rw [State.invalidate_eq gone] at scrubbing
    exact ⟨_, run, rfl, scrubbing, fun j below => orphaned_orphanBelow below⟩
  case good =>
    obtain ⟨inForce, active, online⟩ := State.commitImage_good (s := s.unstage x) good cut
    have rest : Touch [.nv, .active, .img, .bmr, .ladder, .streams, .shots, .rings, .tx, .rx, .egSkip, .ports, .pairs,
        .gates, .eye, .out] (s.unstage x) ((s.unstage x).commitImage b cut) :=
      (State.commitImage_touch _ _ _ (by decide)).mpr (Touch.refl _ _)
    exact ⟨_, imageActivationCommit_acts cut due chg, rfl, inForce, active, rest.staged rfl, online⟩
  case bad =>
    rw [imageActivationCommit_acts cut due chg, State.commitImage_bad (s := s.unstage x) bad]
  case unchanged =>
    show execImageActivationCommit cut s = _
    rw [execImageActivationCommit, idle]
  case port =>
    subst eu
    obtain ⟨down, held, since⟩ := State.resetPort_holds (s := (s.atTime now).unstage x) exist cut
    have rest : Touch [.streams, .shots, .rings, .tx, .rx, .egSkip, .ports, .pairs, .eye] ((s.atTime now).unstage x)
        (((s.atTime now).unstage x).resetPort p.val cut) :=
      (State.resetPort_touch _ _ _ (by decide)).mpr (Touch.refl _ _)
    exact ⟨_, portResetAction_acts cut due, rfl, down, held, since, rest.staged rfl⟩
  case free =>
    subst eu
    show execPortResetAction p now cut s = _
    simp only [execPortResetAction, idle]

end Sys2Proof.Machine

/-!
PROOFS. The statement of a retired stream that becomes Free (O29).
-/

namespace Sys2Proof.Machine

/-! ### Rings as the Final output is written (R340, R347) -/

/-- The gate judges a buffer by its rules and by the identifiers of memory, so what rings and host memory hold does not
matter. -/
theorem deputyRefusal_of_served {s t : State} (h : Touch [.rings, .hostMem, .eye] s t) (d k a n : Nat) (write : Bool) :
    deputyRefusal t d k a n write = deputyRefusal s d k a n write := by
  rw [h.ring_frame]
  rfl

theorem headAdvance_base (n : Nat) (r : Ring) : (headAdvance n r).base = r.base := by
  induction n generalizing r with
  | zero => rfl
  | succ n ih =>
    rw [headAdvance]
    split
    · exact ih _
    · rfl

theorem Ring.wrote_base (r : Ring) (o : OutRec) : (r.wrote o).base = r.base := by
  have filled : (r.filled o).base = r.base := by
    simp only [Ring.filled]
    split
    · exact headAdvance_base _ _
    · rfl
  rw [Ring.wrote]
  split
  · exact filled
  · exact filled

theorem State.putOutput_ring_other (s : State) {h k : Nat} (other : k ≠ h) (o : OutRec) :
    (s.putOutput h o).ring k = s.ring k := by
  have rings : (s.putOutput h o).rings = (s.setRing h ((s.ring h).wrote o)).rings :=
    (State.outputWritten_keeps _ h o).rings rfl
  rw [State.ring, rings]
  exact State.ring_setRing_other (s := s) other _

theorem State.raiseRing_ring_other (s : State) {h k : Nat} (other : k ≠ h) : (s.raiseRing h).ring k = s.ring k := by
  unfold State.raiseRing
  dsimp only
  split
  · exact State.ring_setRing_other _ other _
  · rfl

/-- An entry stands where it stands, however many are allotted. -/
theorem entryAddr_reserve (r : Ring) (n e : Nat) : entryAddr { r with reserve := n } e = entryAddr r e := rfl

theorem finalOutput_length (h : Nat) (t : Tick) : (finalOutput h t).length = 4 := rfl

/-- The state in which the Final output stands in its entry, the header says Free, and the message is raised. -/
def State.finished (s : State) (h : Nat) : State :=
  let s1 := s.setRing h { s.ring h with reserve := inc32 (s.ring h).reserve }
  let s2 := s1.putOutput h
    ⟨(s.ring h).era * 2 ^ 32 + (s.ring h).reserve, finalOutput h (s.aux_ h).retireTick, 0, []⟩
  (s2.writeHeader h 0).raiseRing h

theorem streamFreed_frees {h : Handle} {s : State} (done : retireDone s h.toNat = true)
    (quiet : (s.ring h.toNat).raised = false ∨ bit (s.ring h.toNat).h0 45 = false)
    (serves : ringServes s h.toNat = true) (room : (s.ring h.toNat).room = true)
    (admitted : deputyRefusal s (s.stream h.toNat).domain h.toNat (s.ring h.toNat).base
      (64 + 32 * (s.ring h.toNat).entries) true = none) :
    exec (.streamFreed h) s = .next ((s.finished h.toNat).freeStream h.toNat) := by
  have first : ((s.ring h.toNat).raised && bit (s.ring h.toNat).h0 45) = false := by
    rcases quiet with quiet | quiet <;> simp [quiet]
  show execStreamFreed h s = _
  simp only [execStreamFreed, State.allot, done, serves, room, first, admitted, Bool.and_self, Bool.not_true,
    Bool.or_self, Bool.false_eq_true, if_false, if_true]
  rfl

section Finished

variable {s : State} {h : Nat}
  (admitted : deputyRefusal s (s.stream h).domain h (s.ring h).base 64 true = none)

theorem State.allotted_output_rest (s : State) (h : Nat) (r : Ring) (o : OutRec) :
    Touch [.rings, .hostMem, .eye] s ((s.setRing h r).putOutput h o) :=
  ((State.setRing_touch s h r (by decide)).mpr (Touch.refl _ _)).step ((s.setRing h r).putOutput_keeps h o)

include admitted

/-- The header is written where the ring stands, which the gate admits. -/
theorem State.finished_eq {r : Ring} {u : State}
    (er : r = { s.ring h with reserve := inc32 (s.ring h).reserve })
    (eu : u = (s.setRing h r).putOutput h
      ⟨(s.ring h).era * 2 ^ 32 + (s.ring h).reserve, finalOutput h (s.aux_ h).retireTick, 0, []⟩) :
    (u.ring h).base = (s.ring h).base ∧ s.finished h =
      ((u.setRing h { u.ring h with changed := false, stateHdr := 0 }).writeHost ((u.ring h).base + 24)
        (wordsBytes (headerWords (u.ring h) 0))).raiseRing h := by
  have rest : Touch [.rings, .hostMem, .eye] s u := eu ▸ s.allotted_output_rest h r _
  have base : (u.ring h).base = (s.ring h).base := by
    rw [eu, State.putOutput_ring, State.ring_setRing, Ring.wrote_base, er]
  have head : deputyRefusal u (u.stream h).domain h (u.ring h).base 64 true = none := by
    rw [deputyRefusal_of_served rest, rest.stream rfl, base, admitted]
  refine ⟨base, ?_⟩
  unfold State.finished
  dsimp only
  rw [← er, ← eu, State.writeHeader_admitted head]

theorem State.finished_rest : Touch [.rings, .hostMem, .eye] s (s.finished h) := by
  obtain ⟨-, e⟩ := State.finished_eq admitted rfl rfl
  rw [e, State.raiseRing_touch _ _ (by decide), State.writeHost_touch _ _ _ (by decide),
    State.setRing_touch _ _ _ (by decide)]
  exact s.allotted_output_rest h _ _

theorem State.finished_ring_other {k : Nat} (other : k ≠ h) : (s.finished h).ring k = s.ring k := by
  obtain ⟨-, e⟩ := State.finished_eq admitted rfl rfl
  rw [e, State.raiseRing_ring_other _ other, State.writeHost_ring, State.ring_setRing_other _ other,
    State.putOutput_ring_other _ other, State.ring_setRing_other _ other]

/-- Host memory changes in the entry allotted and in the words of the header that Quecy writes (R330, R340). -/
theorem State.finished_hostMem {a b : Nat}
    (ea : a = entryAddr (s.ring h) ((s.ring h).era * 2 ^ 32 + (s.ring h).reserve))
    (fits : a + 32 ≤ 2 ^ 48) (head : (s.ring h).base + 64 ≤ 2 ^ 48) (out : ¬ (a ≤ b ∧ b < a + 32))
    (apart : ¬ ((s.ring h).base + 24 ≤ b ∧ b < (s.ring h).base + 56)) :
    Memory.byte (s.finished h).hostMem b = Memory.byte s.hostMem b := by
  have raised (u : State) : Touch [.rings, .eye] u (u.raiseRing h) :=
    (State.raiseRing_touch u h (by decide)).mpr (Touch.refl _ _)
  obtain ⟨base, e⟩ := State.finished_eq admitted rfl rfl
  have header (r : Ring) : (wordsBytes (headerWords r 0)).length = 32 := by simp [wordsBytes_length, headerWords]
  rw [e, (raised _).hostMem rfl, State.writeHost_hostMem, base, Memory.write_mod _ (by rw [header]; omega),
    Memory.byte_write_outside _ _ _ _ (by rw [header]; omega), State.setRing_hostMem]
  refine (State.putOutput_stores (a := a) ?_ (finalOutput_length _ _) fits (by simp)).2.2 b out (by simp)
  rw [State.ring_setRing, entryAddr_reserve, ea]

end Finished

/-! ### The stream becomes Free (R91) -/

section Freed

variable (s : State) (h : Nat)

/-- What stands of the state once the stream's slots are invalidated, before its context is cleared. -/
theorem State.invalidatedOwn_rest :
    Touch [.bw, .slots, .keyCtl, .eye] s ((s.keepOwed h).invalidateAll (ownSlots s h)) := by
  simp (disch := decide) only [State.invalidateAll_touch, State.keepOwed_touch, Touch.refl]

theorem State.freeStream_own : (s.freeStream h).stream h = .zero ∧ (s.freeStream h).aux_ h = .zero ∧
    (s.freeStream h).ring h = .zero ∧ (s.freeStream h).demand h = .zero := by
  simp [State.freeStream]

theorem State.freeStream_other {k : Nat} (other : k ≠ h) : (s.freeStream h).stream k = s.stream k ∧
    (s.freeStream h).ring k = s.ring k ∧ (s.freeStream h).aux_ k = s.aux_ k := by
  have rest := s.invalidatedOwn_rest h
  simp only [State.freeStream, State.post_stream, State.setDemand_stream, State.setRing_stream, State.setAux_stream,
    State.stream_setStream_other _ other, State.post_ring, State.setDemand_ring, State.ring_setRing_other _ other,
    State.setAux_ring, State.setStream_ring, State.post_aux_, State.setDemand_aux_, State.setRing_aux_,
    State.aux__setAux_other _ other, State.setStream_aux_]
  refine ⟨rest.stream rfl k, ?_, ?_⟩
  · rw [State.ring, rest.rings rfl]
    rfl
  · rw [State.aux_, rest.aux rfl]
    rfl

theorem State.freeStream_rest :
    Touch [.streams, .aux, .adm, .slots, .keyCtl, .rings, .bw, .eye] s (s.freeStream h) :=
  (State.freeStream_touch s h (by decide)).mpr (Touch.refl _ _)

end Freed

/-- Settles O29: the Final output and the header are written by `State.finished`, and then the stream is freed. -/
theorem retiredStreamFreed : Obligations.RetiredStreamFreed := by
  unfold Obligations.RetiredStreamFreed
  rintro h s r rfl - done quiet serves room ring admitted a ea fits head
  have finished := State.finished_rest admitted
  have freed := (s.finished h.toNat).freeStream_rest h.toNat
  obtain ⟨own, companion, ringGone, uncharged⟩ := (s.finished h.toNat).freeStream_own h.toNat
  refine ⟨_, streamFreed_frees done quiet serves room ring, own, ?_, companion, ringGone, uncharged, fun k other => ?_,
    fun b out apart => ?_, (freed.ports rfl).trans (finished.ports rfl), (freed.gates rfl).trans (finished.gates rfl),
    (freed.staged rfl).trans (finished.staged rfl), (freed.cmds rfl).trans (finished.cmds rfl),
    (freed.mode rfl).trans (finished.mode rfl)⟩
  · rw [own, Context.zero_free]
  · obtain ⟨stream, ring, aux⟩ := (s.finished h.toNat).freeStream_other h.toNat other
    refine ⟨stream.trans (finished.stream rfl k), ring.trans (State.finished_ring_other admitted other), aux.trans ?_⟩
    rw [State.aux_, finished.aux rfl]
    rfl
  · rw [freed.hostMem rfl]
    exact State.finished_hostMem admitted ea fits head out apart

end Sys2Proof.Machine

/-!
PROOFS. The statement of the key store's sweep and refresh and of the entropy port (O56).
-/

namespace Sys2Proof.Machine

/-! ### Levels of the event block (R456, R463) -/

namespace Eye

@[simp] theorem logIf_level (n : Nat) (lvl : Bool) (t : Tick) (e : Eye) : (logIf n lvl t e).level = e.level := by
  unfold logIf logRecord
  dsimp only
  repeat' split
  all_goals rfl

section Counting

variable {post : Nat → Eye → Eye} (keeps : ∀ n e, (post n e).level = e.level)
include keeps

theorem addCtr_level (n k : Nat) (e : Eye) : (addCtr post n k e).level = e.level := by
  have raw (m j : Nat) (x : Eye) : (x.addRaw m j).1.level = x.level := rfl
  unfold addCtr
  dsimp only
  split
  · rfl
  · split
    · split
      · rfl
      · split
        · rw [keeps, raw, raw]
        · rw [raw, raw]
    · rw [keeps, raw]

theorem countEach_level (hit : Nat → Word → Nat) (e : Eye) : (countEach post hit e).level = e.level := by
  unfold countEach
  refine List.foldlRecOn (motive := fun x : Eye => x.level = e.level) e.sel _ rfl fun x same p _ => ?_
  split
  · exact (addCtr_level keeps ..).trans same
  · exact same

theorem postWith_level (lvl : Bool) (t : Tick) (n : Nat) (e : Eye) : (postWith post lvl t n e).level = e.level :=
  (countEach_level keeps ..).trans (logIf_level ..)

end Counting

/-- A posting moves no level. -/
theorem postN_level (fuel : Nat) (t : Tick) : ∀ n e, (postN fuel t n e).level = e.level := by
  induction fuel with
  | zero => exact fun _ _ => rfl
  | succ fuel ih => exact fun n e => postWith_level ih false t n e

end Eye

/-- A level source stands at the level that it took. -/
theorem State.setLevel_reads (s : State) {n : Nat} (source : n < 528) (lvl : Bool) :
    bit (s.setLevel n lvl).eye.level n = lvl := by
  unfold State.setLevel
  split
  · next same => exact beq_iff_eq.mp same
  · split
    · next high =>
      show bit (Eye.postWith _ true _ n _).level n = lvl
      rw [Eye.postWith_level (Eye.postN_level 64 _), bit_or, bit_evBit, high]
      simp [source]
    · next low =>
      show bit (Eye.logIf n false _ _).level n = lvl
      rw [Eye.logIf_level]
      simp only [bit, BitVec.getLsbD_and, BitVec.getLsbD_not]
      rw [show (evBit n).getLsbD n = true by simpa [bit, source] using bit_evBit n n, Bool.eq_false_of_not_eq_true low]
      simp

theorem State.setLevel_rest (s : State) (n : Nat) (lvl : Bool) : Touch [.eye] s (s.setLevel n lvl) :=
  (State.setLevel_touch s n lvl (by decide)).mpr (Touch.refl _ _)

/-! ### The sweep (R233) -/

/-- A scrub leaves the place of the sweep and whether it is on. -/
theorem State.scrub_sweep (s : State) (k : Nat) : (s.scrub k).keyCtl.sweepOn = s.keyCtl.sweepOn := by
  unfold State.scrub
  split <;> rfl

/-- The slot at the sweep's place is emptied where it waits for the sweep. -/
def State.swept (s : State) (p : Nat) : State :=
  if (s.slot p).scrubbing || ((s.slot p).valid && (s.slot p).orphaned) then s.scrub p else s

theorem State.swept_rest (s : State) (p : Nat) : Touch [.slots, .keyCtl, .out] s (s.swept p) :=
  Touch.ite ((State.scrub_touch s p (by decide)).mpr (Touch.refl _ _)) (Touch.refl _ _)

theorem State.swept_sweep (s : State) (p : Nat) : (s.swept p).keyCtl.sweepOn = s.keyCtl.sweepOn := by
  unfold State.swept
  split
  · exact s.scrub_sweep p
  · rfl

theorem State.swept_empties {s : State} {p : Nat}
    (waits : (s.slot p).scrubbing = true ∨ (s.slot p).valid = true ∧ (s.slot p).orphaned = true) :
    (s.swept p).slot p = .empty := by
  rw [State.swept, if_pos (by simpa using waits), State.slot, State.slots_scrub, Table.get_erase_same]

theorem State.swept_passes {s : State} {p : Nat} (kept : (s.slot p).scrubbing = false)
    (live : (s.slot p).valid = false ∨ (s.slot p).orphaned = false) : s.swept p = s := by
  rcases live with live | live <;> simp [State.swept, kept, live]

theorem State.swept_other (s : State) {p k : Nat} (other : k ≠ p) : (s.swept p).slot k = s.slot k := by
  unfold State.swept
  split
  · exact s.slot_scrub_other other
  · rfl

/-- The sweep's control after it has visited place p. -/
def sweptCtl (c : KeyCtl) (p : Nat) (more : Bool) : KeyCtl :=
  if p + 1 < slotCount then { c with sweepPos := p + 1 }
  else if more then { c with sweepPos := 0, sweepAgain := false }
  else { c with sweepPos := 0, sweepOn := false, sweepAgain := false }

theorem sweepSlot_visits {s u : State} {p : Nat} (ep : p = s.keyCtl.sweepPos) (on : s.keyCtl.sweepOn = true)
    (runs : halted s = false) (eu : u = s.swept p) : ∃ e, exec .sweepSlot s = .next { u with
      keyCtl := sweptCtl u.keyCtl p (sweepWork u.slots), eye := e } := by
  subst ep
  show ∃ e, execSweepSlot s = _
  simp only [execSweepSlot, on, runs, Bool.not_true, Bool.or_self, Bool.false_eq_true, if_false]
  rw [← State.swept, ← eu]
  unfold sweptCtl
  split
  · exact ⟨_, rfl⟩
  · split
    · exact ⟨_, rfl⟩
    · exact ⟨_, rfl⟩

theorem sweptCtl_pos (c : KeyCtl) {p : Nat} (more : Bool) (inside : p + 1 < slotCount) :
    sweptCtl c p more = { c with sweepPos := p + 1 } := if_pos inside

theorem sweptCtl_wraps {c : KeyCtl} {p : Nat} (more : Bool) (ends : slotCount ≤ p + 1) (on : c.sweepOn = true) :
    (sweptCtl c p more).sweepPos = 0 ∧ (sweptCtl c p more).sweepOn = more := by
  rw [sweptCtl, if_neg (Nat.not_lt.mpr ends)]
  cases more with
  | true => exact ⟨rfl, on⟩
  | false => exact ⟨rfl, rfl⟩

theorem Touch.sweep_frame {s t : State} (h : Touch [.slots, .keyCtl, .eye, .out] s t) :
    t = { s with slots := t.slots, keyCtl := t.keyCtl, eye := t.eye, out := t.out } := by
  refine State.eq_of_same fun f => ?_
  have kept := h f
  cases f
  case slots | keyCtl | eye | out => rfl
  all_goals exact kept rfl

/-- The key store's control and the event block are written. -/
theorem State.withCtl_rest (s : State) (c : KeyCtl) (e : Eye) :
    Touch [.keyCtl, .eye] s { s with keyCtl := c, eye := e } := by
  intro f other
  cases f
  case keyCtl | eye => exact absurd other (by decide)
  all_goals rfl

theorem sweepSlot_sweeps {s : State} {p : Nat} {v : KeySlot} (ep : p = s.keyCtl.sweepPos) (ev : v = s.slot p)
    (on : s.keyCtl.sweepOn = true) (runs : halted s = false) : ∃ t, exec .sweepSlot s = .next t ∧
      ((v.scrubbing = true ∨ v.valid = true ∧ v.orphaned = true) → t.slot p = .empty) ∧
      (v.scrubbing = false → (v.valid = false ∨ v.orphaned = false) → t.slots = s.slots) ∧
      (∀ k, k ≠ p → t.slot k = s.slot k) ∧
      (p + 1 < slotCount → t.keyCtl.sweepPos = p + 1 ∧ t.keyCtl.sweepOn = true) ∧
      (slotCount ≤ p + 1 → t.keyCtl.sweepPos = 0 ∧ t.keyCtl.sweepOn = sweepWork t.slots) ∧
      t = { s with slots := t.slots, keyCtl := t.keyCtl, eye := t.eye, out := t.out } := by
  subst ev
  obtain ⟨e, run⟩ := sweepSlot_visits ep on runs rfl
  have still : (s.swept p).keyCtl.sweepOn = true := (s.swept_sweep p).trans on
  refine ⟨_, run, fun waits => State.swept_empties waits, fun kept live => ?_,
    fun k other => s.swept_other other, fun inside => ?_, fun ends => sweptCtl_wraps _ ends still, Touch.sweep_frame ?_⟩
  · show (s.swept p).slots = s.slots
    rw [State.swept_passes kept live]
  · rw [sweptCtl_pos _ _ inside]
    exact ⟨rfl, still⟩
  · exact ((s.swept_rest p).mono (by decide)).step ((State.withCtl_rest _ _ e).mono (by decide))

/-! ### The refresh of masks (R247 to R249) -/

/-- The refresh pass has gone on to the next slot. -/
def State.maskNext (s : State) : State :=
  { s with keyCtl := { s.keyCtl with maskPos := (s.keyCtl.maskPos + 1) % slotCount } }

section Refresh

variable {s : State} {v : KeySlot} (ev : v = s.slot s.keyCtl.maskPos) (runs : refreshRuns s = true)
include ev runs

theorem maskingRefresh_passes (bad : Bool) (idle : v.valid = false ∨ v.digestRef ≠ none) :
    exec (.maskingRefresh bad) s = .next s.maskNext := by
  subst ev
  have skipped : (!(s.slot s.keyCtl.maskPos).valid || (s.slot s.keyCtl.maskPos).digestRef.isSome) = true := by
    rcases idle with empty | bound
    · simp [empty]
    · simp [Option.isSome_iff_ne_none.mpr bound]
  show execMaskingRefresh bad s = _
  simp only [execMaskingRefresh, runs, skipped, Bool.not_true, Bool.false_eq_true, if_false, if_true]
  rfl

variable (valid : v.valid = true) (shares : v.digestRef = none)
include valid shares

theorem maskingRefresh_faults : exec (.maskingRefresh true) s = .next (s.maskNext.cellFault s.keyCtl.maskPos) := by
  subst ev
  show execMaskingRefresh true s = _
  simp only [execMaskingRefresh, runs, valid, shares, Option.isSome_none, Bool.not_true, Bool.or_self,
    Bool.false_eq_true, if_false, if_true]
  rfl

theorem maskingRefresh_remasks : exec (.maskingRefresh false) s =
    .next ((s.maskNext.draw.generated s.keyCtl.maskPos 1).setSlot s.keyCtl.maskPos
      { v with share0 := v.share0 ^^^ s.drawn, share1 := v.share1 ^^^ s.drawn }) := by
  subst ev
  show execMaskingRefresh false s = _
  simp only [execMaskingRefresh, runs, valid, shares, Option.isSome_none, Bool.not_true, Bool.or_self,
    Bool.false_eq_true, if_false]
  rfl

end Refresh

/-- One word masks both shares, so that they keep their key (R248). -/
theorem KeySlot.key_remasked (v : KeySlot) (m : Key) :
    ({ v with share0 := v.share0 ^^^ m, share1 := v.share1 ^^^ m } : KeySlot).key = v.key := by
  show (v.share0 ^^^ m) ^^^ (v.share1 ^^^ m) = v.share0 ^^^ v.share1
  rw [BitVec.xor_comm v.share1 m, BitVec.xor_assoc, ← BitVec.xor_assoc m m, BitVec.xor_self, BitVec.zero_xor]

theorem localGeneratorReseed_draws {g : Fin 4} {s : State} (seeded : s.keyCtl.seeded = true)
    (usable : entropyUsable s = true) (runs : halted s = false) (spent : 65536 ≤ Table.get 0 g.val s.keyCtl.genOut) :
    exec (.localGeneratorReseed g) s = .next (State.post { s.draw with
      keyCtl := { s.keyCtl with genOut := Table.put 0 g.val 0 s.keyCtl.genOut } } 488) :=
  if_pos (by simp [seeded, usable, runs, spent])

/-! ### The entropy port (R38, R252 to R256) -/

/-- The port has recovered: the reseed is asked for, and the first word is discarded (R256). -/
def State.recovered (s : State) : State :=
  let s1 := ({ s with ent := { s.ent with fail := false, failAt := 0, degraded := false } }).setLevel 487 false
  let s2 := s1.requestReseed s1.ladder.formed
  { s2.draw with ent := { s2.ent with reseedWait := false } }

/-- The port is ready. -/
def State.entropyUp (s : State) : State := ({ s with ent := { s.ent with ready := true } }).setLevel 486 true

theorem State.withEnt_rest (s : State) (e : Entropy) : Touch [.ent] s { s with ent := e } := by
  intro f other
  cases f
  case ent => exact absurd other (by decide)
  all_goals rfl

theorem State.recovered_rest (s : State) : Touch [.ent, .eye, .out, .draws] s s.recovered := by
  unfold State.recovered
  dsimp only
  refine Touch.step ?_ ((State.withEnt_rest _ _).mono (by decide))
  simp (disch := decide) only [State.draw_touch, State.requestReseed_touch, State.setLevel_touch]
  exact (s.withEnt_rest _).mono (by decide)

/-- The port's fields, the reseeds asked for and the words drawn, once the port has recovered. -/
theorem State.recovered_fields (s : State) : s.recovered.ent = { s.ent with
      fail := false, failAt := 0, degraded := false, reseedWait := false } ∧
    s.recovered.out.reseeds = s.out.reseeds + 1 ∧ s.recovered.draws = s.draws + 1 := by
  have level := ({ s with ent := { s.ent with fail := false, failAt := 0, degraded := false } } : State).setLevel_rest
    487 false
  refine ⟨?_, congrArg (fun o : Outputs => o.reseeds + 1) (level.out rfl), congrArg (· + 1) (level.draws rfl)⟩
  exact congrArg (fun e : Entropy => { e with reseedWait := false }) (level.ent rfl)

/-- Every local generator that has its seed takes a fresh one. -/
def State.generatorsFresh (s : State) : State :=
  ((if s.keyCtl.seeded then s.reseedGenerators else s).post 488).post 467

theorem State.generatorsFresh_rest (s : State) : Touch [.draws, .keyCtl, .eye] s s.generatorsFresh := by
  unfold State.generatorsFresh
  rw [State.post_touch _ _ (by decide), State.post_touch _ _ (by decide)]
  exact Touch.ite ((State.reseedGenerators_touch s (by decide)).mpr (Touch.refl _ _)) (Touch.refl _ _)

theorem State.reseedGenerators_fields (s : State) : s.reseedGenerators.draws = s.draws + 4 ∧
    s.reseedGenerators.keyCtl = { s.keyCtl with genOut := [] } := by
  have posted (u : State) : Touch [.eye] u (u.posts [488, 488, 488, 488]) :=
    (State.posts_touch _ _ (by decide)).mpr (Touch.refl _ _)
  exact ⟨(posted _).draws rfl, (posted _).keyCtl rfl⟩

theorem State.generatorsFresh_fields (s : State) :
    s.generatorsFresh.draws = s.draws + (if s.keyCtl.seeded then 4 else 0) ∧
      (s.keyCtl.seeded = true → s.generatorsFresh.keyCtl.genOut = []) := by
  obtain ⟨draws, ctl⟩ := s.reseedGenerators_fields
  unfold State.generatorsFresh
  rw [State.post_draws, State.post_draws, State.post_keyCtl, State.post_keyCtl]
  cases seeded : s.keyCtl.seeded with
  | true => exact ⟨by simpa using draws, fun _ => by simpa using congrArg KeyCtl.genOut ctl⟩
  | false => exact ⟨rfl, fun h => absurd h Bool.false_ne_true⟩

section Recovery

variable {s : State} (failed : s.ent.fail = true) (ready : s.ent.ready = true)
include failed ready

theorem entropyRecovered_runs : exec .entropyRecovered s =
    .next (if s.mode == .assay && s.assay.step == 4 then s.recovered.generatorsFresh.assayChoose
      else s.recovered.generatorsFresh) := by
  have rest : Touch [.ent, .eye, .out, .draws, .keyCtl] s s.recovered.generatorsFresh :=
    (s.recovered_rest.mono (by decide)).step (s.recovered.generatorsFresh_rest.mono (by decide))
  have run : execEntropyRecovered s = .next (if s.recovered.generatorsFresh.mode == .assay &&
      s.recovered.generatorsFresh.assay.step == 4 then s.recovered.generatorsFresh.assayChoose
      else s.recovered.generatorsFresh) := if_pos (by simp [failed, ready])
  rw [rest.mode rfl, rest.assay rfl] at run
  exact run

theorem entropyRecovered_outside (outside : s.mode ≠ .assay ∨ s.assay.step ≠ 4) :
    exec .entropyRecovered s = .next s.recovered.generatorsFresh := by
  rw [entropyRecovered_runs failed ready, if_neg]
  rcases outside with other | other <;> simp [other]

theorem entropyRecovered_assay (assay : s.mode = .assay) (waits : s.assay.step = 4) :
    exec .entropyRecovered s = .next s.recovered.generatorsFresh.assayChoose := by
  rw [entropyRecovered_runs failed ready, if_pos (by simp [assay, waits])]

end Recovery

/-- Past steps 5 and 6 Assay stands at step 7. -/
theorem State.assayChoose_step {s : State} (serves : s.fuses.lifecycle.toNat < 3) : s.assayChoose.assay.step = 7 := by
  have lives : decommissioned (s.setStep 5).assaySeed = false := by
    rw [decommissioned, (s.setStep 5).assaySeed_seeds.1.fuses rfl]
    exact decide_eq_false (Nat.not_le.mpr serves)
  rw [State.assayChoose, if_neg (ne_true_of_eq_false lives)]
  rfl

/-! ### The port is ready (R38, R416, R430) -/

section Ready

variable {s : State} (now : Nat) (ok : Bool) (value : Word)

theorem State.entropyUp_rest (s : State) : Touch [.ent, .eye] s s.entropyUp :=
  ((s.withEnt_rest _).mono (by decide)).step ((State.setLevel_rest _ 486 true).mono (by decide))

theorem State.entropyUp_ent (s : State) : s.entropyUp.ent = { s.ent with ready := true } :=
  (State.setLevel_rest _ 486 true).ent rfl

theorem entropyReady_eq : exec (.entropyReady now ok value) s = .next (
    if s.ent.fail then (s.atTime now).entropyUp
    else if s.mode == .assay && s.assay.step == 4 then (s.atTime now).entropyUp.assayEntropy ok value none
    else if s.ent.reseedWait then State.reseedGenerators { (s.atTime now).entropyUp with
      ent := { s.ent with ready := true, reseedWait := false } }
    else (s.atTime now).entropyUp) := by
  have ent : (s.atTime now).entropyUp.ent = { s.ent with ready := true } := (s.atTime now).entropyUp_ent
  have rest := (s.atTime now).entropyUp_rest
  have mode : (s.atTime now).entropyUp.mode = s.mode := rest.mode rfl
  have assay : (s.atTime now).entropyUp.assay = s.assay := rest.assay rfl
  show execEntropyReady now ok value s = _
  unfold execEntropyReady
  dsimp only
  rw [show State.setLevel { s.atTime now with ent := { s.ent with ready := true } } 486 true = (s.atTime now).entropyUp
    from rfl, ent, mode, assay]
  split
  · rfl
  · split
    · rfl
    · split <;> rfl

variable {now ok value}

theorem entropyReady_rises (outside : s.mode ≠ .assay ∨ s.assay.step ≠ 4 ∨ s.ent.fail = true)
    (quiet : s.ent.reseedWait = false ∨ s.ent.fail = true) :
    exec (.entropyReady now ok value) s = .next (s.atTime now).entropyUp := by
  rw [entropyReady_eq]
  cases failed : s.ent.fail with
  | true => rfl
  | false =>
    have still : s.ent.reseedWait = false := by simpa [failed] using quiet
    have apart : (s.mode == .assay && s.assay.step == 4) = false := by
      rcases (by simpa [failed] using outside : s.mode ≠ .assay ∨ s.assay.step ≠ 4) with other | other <;> simp [other]
    simp [still, apart]

theorem entropyReady_reseeds (outside : s.mode ≠ .assay ∨ s.assay.step ≠ 4) (healthy : s.ent.fail = false)
    (waits : s.ent.reseedWait = true) : exec (.entropyReady now ok value) s =
      .next (State.reseedGenerators { (s.atTime now).entropyUp with
        ent := { s.ent with ready := true, reseedWait := false } }) := by
  have apart : (s.mode == .assay && s.assay.step == 4) = false := by
    rcases outside with other | other <;> simp [other]
  rw [entropyReady_eq]
  simp [healthy, waits, apart]

theorem entropyReady_assay (assay : s.mode = .assay) (waits : s.assay.step = 4) (healthy : s.ent.fail = false) :
    exec (.entropyReady now ok value) s = .next ((s.atTime now).entropyUp.assayEntropy ok value none) := by
  rw [entropyReady_eq]
  simp [healthy, assay, waits]

theorem State.entropyUp_usable (healthy : s.ent.fail = false) : entropyUsable s.entropyUp = true := by
  simp [entropyUsable, s.entropyUp_ent, healthy]

end Ready

/-! ### Frames of the entropy rows -/

theorem Touch.flag_frame {s t : State} (h : Touch [.now, .ent, .eye] s t) :
    t = { s with now := t.now, ent := t.ent, eye := t.eye } := by
  refine State.eq_of_same fun f => ?_
  have kept := h f
  cases f
  case now | ent | eye => rfl
  all_goals exact kept rfl

theorem Touch.recovery_frame {s t : State} (h : Touch [.ent, .eye, .out, .draws, .keyCtl] s t) :
    t = { s with ent := t.ent, eye := t.eye, out := t.out, draws := t.draws, keyCtl := t.keyCtl } := by
  refine State.eq_of_same fun f => ?_
  have kept := h f
  cases f
  case ent | eye | out | draws | keyCtl => rfl
  all_goals exact kept rfl

theorem Touch.reseed_frame {s t : State} (h : Touch [.now, .draws, .ent, .keyCtl, .eye] s t) :
    t = { s with now := t.now, draws := t.draws, ent := t.ent, keyCtl := t.keyCtl, eye := t.eye } := by
  refine State.eq_of_same fun f => ?_
  have kept := h f
  cases f
  case now | draws | ent | keyCtl | eye => rfl
  all_goals exact kept rfl

/-! ### The rows of the entropy port -/

theorem entropyHealthFailure_flags {now : Nat} {s : State} (healthy : s.ent.fail = false) :
    ∃ t, exec (.entropyHealthFailure now) s = .next t ∧ t.ent = { s.ent with
        fail := true, failAt := max s.now now, buffered := 0 } ∧ bit t.eye.level 487 = true ∧
      t = { s with now := max s.now now, ent := t.ent, eye := t.eye } := by
  have run : exec (.entropyHealthFailure now) s = .next ((s.atTime now).unhealthy.setLevel 487 true) :=
    if_neg (by simp [healthy])
  have level := (s.atTime now).unhealthy.setLevel_rest 487 true
  have rest : Touch [.ent, .eye] (s.atTime now) ((s.atTime now).unhealthy.setLevel 487 true) :=
    (s.atTime now).unhealthy_rest.step (level.mono (by decide))
  refine ⟨_, run, level.ent rfl, State.setLevel_reads _ (by decide) true,
    ?_⟩
  exact (rest.mono (L := [.now, .ent, .eye]) (by decide)).flag_frame.trans (by rw [rest.now rfl]; rfl)

theorem entropyReadyLoss_lowers (s : State) : ∃ t, exec .entropyReadyLoss s = .next t ∧
    t.ent = { s.ent with ready := false } ∧ bit t.eye.level 486 = false ∧
      t = { s with ent := t.ent, eye := t.eye } := by
  have level := ({ s with ent := { s.ent with ready := false } } : State).setLevel_rest 486 false
  have rest : Touch [.ent, .eye] s _ := ((s.withEnt_rest _).mono (by decide)).step (level.mono (by decide))
  refine ⟨_, rfl, level.ent rfl, State.setLevel_reads _ (by decide) false, ?_⟩
  exact (rest.mono (L := [.now, .ent, .eye]) (by decide)).flag_frame.trans (by rw [rest.now rfl])

theorem entropyRecovered_recovers {s : State} (failed : s.ent.fail = true) (ready : s.ent.ready = true)
    (outside : s.mode ≠ .assay ∨ s.assay.step ≠ 4) : ∃ t, exec .entropyRecovered s = .next t ∧
      t.ent = { s.ent with fail := false, failAt := 0, degraded := false, reseedWait := false } ∧
      t.out.reseeds = s.out.reseeds + 1 ∧ t.draws = s.draws + (if s.keyCtl.seeded then 5 else 1) ∧
      (s.keyCtl.seeded = true → t.keyCtl.genOut = []) ∧
      t = { s with ent := t.ent, eye := t.eye, out := t.out, draws := t.draws, keyCtl := t.keyCtl } := by
  obtain ⟨ent, reseeds, draws⟩ := s.recovered_fields
  have fresh := s.recovered.generatorsFresh_rest
  have before := s.recovered_rest
  obtain ⟨drawn, cleared⟩ := s.recovered.generatorsFresh_fields
  rw [before.keyCtl rfl] at drawn cleared
  refine ⟨_, entropyRecovered_outside failed ready outside, (fresh.ent rfl).trans ent,
    (congrArg Outputs.reseeds (fresh.out rfl)).trans reseeds, ?_, cleared,
    ((before.mono (by decide)).step (fresh.mono (by decide))).recovery_frame⟩
  rw [drawn, draws]
  split <;> rfl

theorem entropyRecovered_goes_on {s : State} (failed : s.ent.fail = true) (ready : s.ent.ready = true)
    (assay : s.mode = .assay) (waits : s.assay.step = 4) :
    (s.fuses.lifecycle.toNat < 3 → ∃ t, exec .entropyRecovered s = .next t ∧ t.mode = .assay ∧ t.assay.step = 7 ∧
      t.ent.fail = false ∧ t.keyCtl.seeded = true ∧ t.nv = s.nv ∧ t.slots = s.slots) ∧
    (3 ≤ s.fuses.lifecycle.toNat → ∃ t, exec .entropyRecovered s = .next t ∧ t.mode = .lockdown ∧ t.cause = 9) := by
  obtain ⟨ent, -, -⟩ := s.recovered_fields
  have before : Touch [.ent, .eye, .out, .draws, .keyCtl] s s.recovered.generatorsFresh :=
    (s.recovered_rest.mono (by decide)).step (s.recovered.generatorsFresh_rest.mono (by decide))
  have healthy : s.recovered.generatorsFresh.ent.fail = false :=
    congrArg Entropy.fail ((s.recovered.generatorsFresh_rest.ent rfl).trans ent)
  have run := entropyRecovered_assay failed ready assay waits
  generalize s.recovered.generatorsFresh = u at before healthy run
  rw [← before.fuses rfl]
  refine ⟨fun serves => ?_, fun ended => ?_⟩
  · obtain ⟨rest, seeded⟩ := State.assayChoose_goes_on serves
    exact ⟨_, run, (rest.mode rfl).trans ((before.mode rfl).trans assay), State.assayChoose_step serves,
      (congrArg Entropy.fail (rest.ent rfl)).trans healthy, seeded, (rest.nv rfl).trans (before.nv rfl),
      (rest.slots rfl).trans (before.slots rfl)⟩
  · rw [State.assayChoose_decommissioned ended] at run
    have runs : u.mode ≠ .lockdown := by
      rw [before.mode rfl, assay]
      decide
    obtain ⟨mode, cause, -⟩ := State.lockdown_enters (s := (u.setStep 5).assaySeed.rootCleared) runs 9
    exact ⟨_, run, mode, cause⟩

theorem entropyReady_sets {now : Nat} {ok : Bool} {value : Word} {s : State}
    (outside : s.mode ≠ .assay ∨ s.assay.step ≠ 4 ∨ s.ent.fail = true)
    (quiet : s.ent.reseedWait = false ∨ s.ent.fail = true) :
    ∃ t, exec (.entropyReady now ok value) s = .next t ∧ t.ent = { s.ent with ready := true } ∧
      bit t.eye.level 486 = true ∧ t = { s with now := max s.now now, ent := t.ent, eye := t.eye } := by
  have rest := (s.atTime now).entropyUp_rest
  refine ⟨_, entropyReady_rises outside quiet, (s.atTime now).entropyUp_ent, State.setLevel_reads _ (by decide) true,
    ?_⟩
  exact (rest.mono (L := [.now, .ent, .eye]) (by decide)).flag_frame.trans (by rw [rest.now rfl]; rfl)

theorem entropyReady_seeds {now : Nat} {ok : Bool} {value : Word} {s : State}
    (outside : s.mode ≠ .assay ∨ s.assay.step ≠ 4) (healthy : s.ent.fail = false) (waits : s.ent.reseedWait = true) :
    ∃ t, exec (.entropyReady now ok value) s = .next t ∧ t.ent = { s.ent with ready := true, reseedWait := false } ∧
      t.keyCtl = { s.keyCtl with genOut := [] } ∧ t = { s with
        now := max s.now now, draws := s.draws + 4, ent := t.ent, keyCtl := t.keyCtl, eye := t.eye } := by
  have up := (s.atTime now).entropyUp_rest
  have flagged : Touch [.ent, .eye] (s.atTime now) { (s.atTime now).entropyUp with
      ent := { s.ent with ready := true, reseedWait := false } } := up.step ((State.withEnt_rest _ _).mono (by decide))
  obtain ⟨draws, ctl⟩ := State.reseedGenerators_fields { (s.atTime now).entropyUp with
    ent := { s.ent with ready := true, reseedWait := false } }
  have seeds (u : State) : Touch [.draws, .keyCtl, .eye] u u.reseedGenerators :=
    (State.reseedGenerators_touch u (by decide)).mpr (Touch.refl _ _)
  have rest : Touch [.draws, .ent, .keyCtl, .eye] (s.atTime now) _ :=
    (flagged.mono (by decide)).step ((seeds _).mono (by decide))
  refine ⟨_, entropyReady_reseeds outside healthy waits, (seeds _).ent rfl, ?_, ?_⟩
  · rw [ctl, flagged.keyCtl rfl]
    rfl
  · refine (rest.mono (L := [.now, .draws, .ent, .keyCtl, .eye]) (by decide)).reseed_frame.trans ?_
    rw [rest.now rfl, draws, flagged.draws rfl]
    rfl

theorem entropyReady_goes_on {now : Nat} {ok : Bool} {value : Word} {s : State} (assay : s.mode = .assay)
    (waits : s.assay.step = 4) (healthy : s.ent.fail = false) :
    (3 ≤ s.fuses.lifecycle.toNat → ∃ t, exec (.entropyReady now ok value) s = .next t ∧ t.mode = .lockdown ∧
      t.cause = 9) ∧
    (s.fuses.lifecycle.toNat < 3 → ok = true → s.nv.counter.toNat < value.toNat →
      ∃ t, exec (.entropyReady now ok value) s = .next t ∧ (t.mode = .service ∨ t.mode = .commission) ∧
        t.assay.step = 15 ∧ t.ladder.epoch = value ∧ t.nv.counter = value ∧ t.fuses.root = 0) ∧
    (s.fuses.lifecycle.toNat < 3 → (ok = false ∨ value.toNat ≤ s.nv.counter.toNat) →
      ∃ t, exec (.entropyReady now ok value) s = .next t ∧ t.mode = .assay ∧ t.assay.step = 7 ∧
        t.assay.retry = true ∧ t.nv = s.nv) := by
  have up := (s.atTime now).entropyUp_rest
  have usable := State.entropyUp_usable (s := s.atTime now) healthy
  have mode : (s.atTime now).entropyUp.mode = .assay := (up.mode rfl).trans assay
  have runs : (s.atTime now).entropyUp.mode ≠ .lockdown := by
    rw [mode]
    decide
  have run := entropyReady_assay (now := now) (ok := ok) (value := value) assay waits healthy
  have store : (s.atTime now).entropyUp.nv = s.nv := up.nv rfl
  rw [show s.fuses = (s.atTime now).entropyUp.fuses from (up.fuses rfl).symm, ← store]
  generalize (s.atTime now).entropyUp = u at usable mode runs run
  refine ⟨fun ended => ?_, fun serves good larger => ?_, fun serves refused => ?_⟩
  · rw [State.assayEntropy_decommissioned _ _ _ usable runs ended] at run
    obtain ⟨locked, cause, -⟩ := State.lockdown_enters (s := (u.setStep 5).assaySeed.rootCleared) runs 9
    exact ⟨_, run, locked, cause⟩
  all_goals
    rw [State.assayEntropy_counts _ _ _ usable runs serves] at run
    obtain ⟨rest, -⟩ := State.assayChoose_goes_on serves
  · rw [← rest.nv rfl] at larger
    rw [State.assayCounter_advances good larger] at run
    obtain ⟨ends, step, -, epoch, nv, root, -⟩ := (u.assayChoose.advanced value).assayLadder_ends
    exact ⟨_, run, ends, step, epoch, congrArg NvStore.counter nv, root⟩
  · rw [← rest.nv rfl] at refused ⊢
    rw [State.assayCounter_retries refused] at run
    obtain ⟨stays, step, retry, -, nv, -⟩ := u.assayChoose.retrying_waits
    exact ⟨_, run, stays.trans ((rest.mode rfl).trans mode), step, retry, nv⟩

/-- Settles O56: each row by the lemma about it. -/
theorem entropyAndStoreRowsAct : Obligations.EntropyAndStoreRowsAct := by
  unfold Obligations.EntropyAndStoreRowsAct
  refine ⟨fun s p v => sweepSlot_sweeps, fun s still => ?off, fun bad s p v ep ev runs => ⟨?remasks, ?faults, ?passes⟩,
    fun bad s still => ?idle, fun g s seeded usable runs spent => ?reseed, fun now s => entropyHealthFailure_flags,
    fun now s failed first due => ?degraded, fun s => entropyRecovered_recovers, fun s => entropyRecovered_goes_on,
    entropyReadyLoss_lowers, fun now ok value s => entropyReady_sets, fun now ok value s => entropyReady_seeds,
    fun now ok value s => entropyReady_goes_on, fun now s assay waits first due => ?timeout⟩
  case off =>
    refine if_pos ?_
    rcases still with still | still <;> simp [still]
  case remasks =>
    rintro valid shares rfl
    subst ep
    refine ⟨_, maskingRefresh_remasks ev runs valid shares, ?_, ?_, ?_, fun k other => ?_, rfl, ?_⟩
    · rw [State.slot_setSlot, KeySlot.key_remasked]
    · rw [State.slot_setSlot]
    · rw [State.slot_setSlot]
    · rw [State.slot_setSlot_other _ other]
      rfl
    · rfl
  case faults =>
    rintro valid shares rfl
    subst ep
    exact ⟨_, rfl, maskingRefresh_faults ev runs valid shares⟩
  case passes =>
    intro idle
    subst ep
    exact maskingRefresh_passes ev runs bad idle
  case idle => exact if_pos (by simp [still])
  case reseed => exact ⟨_, localGeneratorReseed_draws seeded usable runs spent, by
    rw [State.post_keyCtl, Table.get_put_same], rfl⟩
  case degraded => exact if_pos (by simpa [failed, first] using due)
  case timeout => exact if_pos (by simpa [assay, waits, first] using due)

end Sys2Proof.Machine

/-!
PROOFS. The commands on streams that stage a change, read the context or wait for its snapshot (R85, R90, R100, R390,
R391, R508).
-/

namespace Sys2Proof.Machine

/-! ### Disarming and retiring (R85, R90, R100, R508) -/

section SimpleChange

variable {s : State} {c : Cmd} {x : Context} {h d : Nat} {t : Tick} {os : List Obj} {chg : Change}
  {legal : Context → Bool} {twin : Context → Option Nat}

/-- What STREAM_DISARM and STREAM_RETIRE ask of the command and the stream, of which `legal` says the states and `os`
the objects changed (R85, R90, R377). -/
structure ChangeMay (s : State) (c : Cmd) (x : Context) (h d : Nat) (t : Tick) (os : List Obj)
    (legal : Context → Bool) : Prop where
  handle : h = fld (c.q 1) 0 15
  stream : x = futureStream s h
  tickDomain : d = x.tickDomain
  tick : t = effTick s c os d
  timely : Timely s c os d
  clean : fld (c.q 1) 15 33 = 0
  owned : x.domain = c.domain
  held : x.free = false
  state : legal x = true
  space : os.length ≤ freeStaged s

/-- Past its checks the command stages its change, and the end of the twin's link where the change ends one. -/
theorem simpleChange_ok (may : ChangeMay s c x h d t os legal)
    (objects : os = .stream h :: ((twin x).map Obj.stream).toList) :
    simpleChange chg legal twin s c = .done t [] (match twin x with
      | some o => (s.stage ⟨.stream h, d, t, chg⟩).stage ⟨.stream o, d, t, .unlink⟩
      | none => s.stage ⟨.stream h, d, t, chg⟩) := by
  obtain ⟨rfl, ex, rfl, rfl, timely, clean, owned, held, state, space⟩ := may
  have staged := stage_ok timely
  obtain ⟨near, order, -⟩ := timely
  have owner := owner_ok (s := s) (h := fld (c.q 1) 0 15) held owned
  unfold simpleChange handleArg
  dsimp only
  rw [← ex, ← objects]
  refine (checked_ok ?_ _).trans (staged _ _)
  simp only [List.forall_mem_cons]
  refine ⟨?_, near, owner, ?_, decide_eq_false (Nat.not_lt.mpr space), by simp⟩
  · simp [clean]
  · simp [state, order]

end SimpleChange

theorem streamDisarm_stages {s : State} {c : Cmd} {x : Context} {h d : Nat} {t : Tick}
    (may : ChangeMay s c x h d t [.stream h] Context.armed) (front : Front s c 0x13) :
    exec .streamDisarm s = .next ((s.stage ⟨.stream h, d, t, .disarm⟩).answer c.id (okWords t [])) :=
  front_done front (simpleChange_ok may rfl)

theorem streamRetire_stages {s : State} {c : Cmd} {x : Context} {h d : Nat} {t : Tick}
    (may : ChangeMay s c x h d t [.stream h] (fun y => y.created || y.armed)) (alone : x.twinValid = false)
    (front : Front s c 0x14) :
    exec .streamRetire s = .next ((s.stage ⟨.stream h, d, t, .retire⟩).answer c.id (okWords t [])) := by
  refine front_done front ((simpleChange_ok may ?_).trans ?_)
  · simp [alone]
  · simp [alone]

theorem streamRetire_stages_unlink {s : State} {c : Cmd} {x : Context} {h d : Nat} {t : Tick}
    (may : ChangeMay s c x h d t [.stream h, .stream x.twin] (fun y => y.created || y.armed))
    (linked : x.twinValid = true) (front : Front s c 0x14) :
    exec .streamRetire s = .next (((s.stage ⟨.stream h, d, t, .retire⟩).stage
      ⟨.stream x.twin, d, t, .unlink⟩).answer c.id (okWords t [])) := by
  refine front_done front ((simpleChange_ok may ?_).trans ?_)
  · simp [linked]
  · simp [linked]

/-- A stream in a state that may be retired is not Free. -/
theorem not_free_of_created_or_armed {x : Context} (state : x.created = true ∨ x.armed = true) : x.free = false :=
  state.elim not_free_of_created not_free_of_armed

/-! ### Linking twins (R100) -/

section Twins

variable {s : State} {c : Cmd} {p u d : Nat} {t : Tick}

/-- What TWIN_LINK asks of one of its two streams. -/
structure TwinReady (s : State) (c : Cmd) (h : Nat) : Prop where
  owned : (futureStream s h).domain = c.domain
  created : (futureStream s h).created = true
  alone : (futureStream s h).twinValid = false

/-- A stream that may be linked fails neither its check of state nor that of order. -/
theorem TwinReady.state_passes {h : Nat} {os : List Obj} (ready : TwinReady s c h) (order : orderBad s os t = false)
    (mem : Obj.stream h ∈ os) : (!(futureStream s h).created || (futureStream s h).twinValid ||
      orderBad s [.stream h] t) = false := by
  obtain ⟨-, created, alone⟩ := ready
  simp [created, alone, orderBad_mem order mem]

/-- Past its checks TWIN_LINK stages the link of each of the two streams to the other. -/
theorem twinRes_ok (epub : p = fld (c.q 1) 0 15) (esub : u = fld (c.q 1) 15 15) (ed : d = (futureStream s p).tickDomain)
    (et : t = effTick s c [.stream p, .stream u] d) (timely : Timely s c [.stream p, .stream u] d)
    (clean : fld (c.q 1) 30 18 = 0) (gsvPub : (futureStream s p).isGsvPub = true)
    (gsvSub : (futureStream s u).isGsvSub = true) (oneDomain : (futureStream s u).tickDomain = d)
    (publisher : TwinReady s c p) (subscriber : TwinReady s c u) (space : 2 ≤ freeStaged s) :
    twinRes s c = .done t [] ((s.stage ⟨.stream p, d, t, .twin u⟩).stage ⟨.stream u, d, t, .twin p⟩) := by
  subst et
  have staged := stage_ok timely
  obtain ⟨near, order, -⟩ := timely
  have readyPub := publisher.state_passes order (by simp)
  have readySub := subscriber.state_passes order (by simp)
  have ownPub := owner_ok (s := s) (h := p) (not_free_of_created publisher.created) publisher.owned
  have ownSub := owner_ok (s := s) (h := u) (not_free_of_created subscriber.created) subscriber.owned
  unfold twinRes handleArg
  dsimp only
  rw [← epub, ← esub, ← ed]
  refine (checked_ok ?_ _).trans (staged _ _)
  simp only [List.forall_mem_cons]
  refine ⟨?_, near, ?_, ?_, readyPub, readySub, decide_eq_false (Nat.not_lt.mpr space), by simp⟩
  · simp [clean]
  · simp [gsvPub, gsvSub, oneDomain]
  · simp [ownPub, ownSub]

end Twins

/-! ### Reading and snapshots (R20, R390) -/

theorem readRes_ok {s : State} {c : Cmd} {h : Nat} (eh : h = fld (c.q 1) 0 15) (clean : fld (c.q 1) 15 33 = 0)
    (held : (s.stream h).free = false) (owned : (s.stream h).domain = c.domain) :
    readRes s c = .done 0 ((s.stream h).words.take 24) s := by
  have owner := owner_ok (s := s) (h := h) held owned
  unfold readRes handleArg
  dsimp only
  rw [← eh]
  exact checked_ok (by simp [clean, owner, held]) _

/-- A command for a plan tick whose boundary has passed neither at acceptance nor since misses nothing. -/
theorem stageRes_plan_ok {s : State} {c : Cmd} {t : Tick}
    (ahead : c.isNext = true ∨ (acceptTick c 4 < t ∧ s.plan < t)) (ws : List Word) (s' : State) :
    stageRes s c 4 t ws s' = .done t ws s' := by
  rcases ahead with next | ⟨accepted, now⟩
  · simp [stageRes, next]
  · have passed : ¬ t ≤ tickNow s 4 := Nat.not_le.mpr now
    simp [stageRes, Nat.not_le.mpr accepted, passed]

theorem snapshotRes_ok {s : State} {c : Cmd} {h : Nat} {t : Tick} (eh : h = fld (c.q 1) 0 15)
    (et : t = if c.isNext then s.plan + 1 else (c.q 0).toNat) (clean : fld (c.q 1) 15 33 = 0)
    (near : tickFar c 4 = false) (ahead : c.isNext = true ∨ (acceptTick c 4 < t ∧ s.plan < t))
    (held : (streamBefore s h t).free = false) (owned : (streamBefore s h t).domain = c.domain) :
    snapshotRes s c = .wait (.snapshot h t) s := by
  have owner := owner_ok (s := s) (h := h) held owned
  unfold snapshotRes handleArg
  dsimp only
  rw [← et, ← eh, stageRes_plan_ok ahead]
  exact checked_ok (by simp [clean, near, owner, held]) _

/-- Settles O21: each command by its own function, whose checks all pass. -/
theorem streamCommandsStageOrRead : Obligations.StreamCommandsStageOrRead := by
  unfold Obligations.StreamCommandsStageOrRead
  refine ⟨fun c s => ⟨?change, ?linked, ?link⟩, fun c s h eh clean => ⟨?read, ?snapshot⟩⟩
  case change =>
    intro x h d t eh ex ed et timely clean owned space
    refine ⟨fun front armed => ?_, fun front state alone => ?_⟩
    · exact streamDisarm_stages
        ⟨eh, ex, ed, et, timely, clean, owned, not_free_of_armed armed, armed, space⟩ front
    · exact streamRetire_stages ⟨eh, ex, ed, et, timely, clean, owned, not_free_of_created_or_armed state,
        Bool.or_eq_true_iff.mpr state, space⟩ alone front
  case linked =>
    intro x h d t eh ex ed linked et timely clean owned space front state
    exact streamRetire_stages_unlink ⟨eh, ex, ed, et, timely, clean, owned, not_free_of_created_or_armed state,
      Bool.or_eq_true_iff.mpr state, space⟩ linked front
  case link =>
    intro p u xp xu d t ep eu exp exu ed et front timely clean gsvPub gsvSub oneDomain ownPub ownSub createdPub
      createdSub alonePub aloneSub space
    subst exp exu
    exact front_done front (twinRes_ok ep eu ed et timely clean gsvPub gsvSub oneDomain
      ⟨ownPub, createdPub, alonePub⟩ ⟨ownSub, createdSub, aloneSub⟩ space)
  case read => exact fun front held owned => front_done front (readRes_ok eh clean held owned)
  case snapshot =>
    exact fun t front et near ahead held owned =>
      front_wait front (snapshotRes_ok eh et clean near ahead held owned)

end Sys2Proof.Machine

/-!
PROOFS. STREAM_CREATE and STREAM_MODIFY: past their checks they stage their change, once it is admitted where the stream
is charged (R61, R62, R80, R85 to R89, R388, R389).
-/

namespace Sys2Proof.Machine

/-! ### STREAM_CREATE (R80, R85, R87, R209, R388) -/

/-- What STREAM_CREATE asks of the command, the context it carries, and the stream (R80, R87, R95, R101, R357, R388). -/
structure CreateMay (s : State) (c : Cmd) (x : Context) (h d : Nat) (t : Tick) : Prop where
  context : x = createCtx c
  handle : h = x.handle
  tickDomain : d = x.tickDomain
  tick : t = effTick s c [.stream h] d
  timely : Timely s c [.stream h] d
  clean : ctxReserved x = false
  unset : x.st = 0
  unlinked : fld x.w0 15 16 = 0
  idle : x.w11 = 0
  inRange : ctxInRange s x = true
  owned : x.domain = c.domain
  block : blockDomain s h = some c.domain
  ring : ringRefusal s h x = none
  policy : clearForbidden s x = false
  free : (futureStream s h).free = true
  noConflict : conflicts s h x d t = false
  space : 1 ≤ freeStaged s

theorem createdCtx_eq (x : Context) :
    createdCtx x = if x.w7 = 0 then { x.setSt 1 with w7 := defaultThreshold x.suite } else x.setSt 1 := rfl

/-- A STREAM_CREATE whose checks pass comes to admission, where its stream is C class and not CLEAR, or to its
staging. -/
theorem createRes_ok {s : State} {c : Cmd} {x : Context} {h d : Nat} {t : Tick} (may : CreateMay s c x h d t) :
    createRes s c = (if x.classC && !x.isClear then admission s h ⟨.stream h, d, t, .create (createdCtx x)⟩ (fun dm =>
        .done t [waitWord (s.setDemand h dm) x] ((s.setDemand h dm).stage ⟨.stream h, d, t, .create (createdCtx x)⟩))
      else .done t [0] (s.stage ⟨.stream h, d, t, .create (createdCtx x)⟩)) := by
  obtain ⟨ex, rfl, rfl, rfl, timely, clean, unset, unlinked, idle, inRange, owned, block, ring, policy, free,
    noConflict, space⟩ := may
  have staged := stage_ok timely
  obtain ⟨near, order, -⟩ := timely
  have first : failOf [(ctxReserved x, eMalformed, 0),
      (x.st != 0 || fld x.w0 15 16 != 0 || x.w11 != 0 || !ctxInRange s x || tickFar c x.tickDomain, eRange, 0),
      (x.domain != c.domain || blockDomain s x.handle != some c.domain, eDomain, 0)] = none :=
    failOf_nil (by simp [clean, unset, unlinked, idle, inRange, near, owned, block])
  unfold createRes
  dsimp only
  rw [← ex, first]
  dsimp only
  rw [ring]
  refine (checked_ok ?_ _).trans ?_
  · simp only [List.forall_mem_cons]
    refine ⟨policy, ?_, noConflict, decide_eq_false (Nat.not_lt.mpr space), by simp⟩
    simp [free, order]
  · simp only [staged]

/-- Settles O18: past its checks the command stages the creation, a C-class stream's once it is admitted. -/
theorem streamCreateStages : Obligations.StreamCreateStages := by
  unfold Obligations.StreamCreateStages
  intro c s x h d t y front ex eh ed et timely clean unset unlinked idle inRange owned block ring policy free noConflict
    space ey
  have ok := createRes_ok ⟨ex, eh, ed, et, timely, clean, unset, unlinked, idle, inRange, owned, block, ring, policy,
    free, noConflict, space⟩
  rw [createdCtx_eq, ← ey] at ok
  refine ⟨fun plain => front_done front ?_, fun dm charged charge admitted => front_done front ?_⟩
  · rw [ok, plain, if_neg Bool.false_ne_true]
  · rw [ok, if_pos charged, admission_ok charge admitted]

/-! ### STREAM_MODIFY (R86, R89, R389) -/

/-- What STREAM_MODIFY asks of the command, the stream as it will stand and the context that results (R95,
R101, R389). -/
structure ModifyMay (s : State) (c : Cmd) (x y : Context) (h d : Nat) (t : Tick) (mask : BitVec 11) (vals : List Word) :
    Prop where
  handle : h = fld (c.q 1) 0 15
  stream : x = futureStream s h
  tickDomain : d = x.tickDomain
  named : mask = BitVec.ofNat 11 (fld (c.q 1) 37 11)
  carried : vals = (List.range 11).map (fun i => c.q (i + 2))
  context : y = modifyCtx x mask vals
  tick : t = effTick s c [.stream h] d
  timely : Timely s c [.stream h] d
  clean : fld (c.q 1) 15 22 = 0
  unnamed : ∀ i, i < 11 → bit mask (10 - i) = false → c.q (i + 2) = 0
  reserved : ctxReserved y = false
  inRange : ctxInRange s y = true
  owned : x.domain = c.domain
  state : x.created = true ∨ x.armed = true
  alters : altersFixed x mask vals = false
  policy : clearForbidden s y = false
  noConflict : y.w1 = x.w1 ∧ y.w2 = x.w2 ∧ y.w3 = x.w3 ∨ conflicts s h y d t = false
  space : 1 ≤ freeStaged s

section Modify

variable {s : State} {c : Cmd} {x y : Context} {h d : Nat} {t : Tick} {mask : BitVec 11} {vals : List Word}

/-- No value stands in a place that the mask does not name. -/
theorem ModifyMay.values_named (may : ModifyMay s c x y h d t mask vals) :
    ((List.range 11).any fun i => !bit mask (10 - i) && vals.getD i 0 != 0) = false := by
  rw [List.any_eq_false]
  intro i mem
  have small := List.mem_range.mp mem
  have value : vals.getD i 0 = c.q (i + 2) := by
    simp [may.carried, small]
  cases named : bit mask (10 - i) with
  | true => simp
  | false =>
    rw [value, may.unnamed i small named]
    decide

/-- The match fields stay as they are, or conflict with no other stream. -/
theorem ModifyMay.conflict_passes (may : ModifyMay s c x y h d t mask vals) :
    ((y.w1 != x.w1 || y.w2 != x.w2 || y.w3 != x.w3) && conflicts s h y d t) = false := by
  rcases may.noConflict with ⟨w1, w2, w3⟩ | none
  · simp [w1, w2, w3]
  · simp [none]

/-- A STREAM_MODIFY whose checks pass comes to admission, where it changes what a charge rests on, or to its staging. -/
theorem modifyRes_ok (may : ModifyMay s c x y h d t mask vals) :
    modifyRes s c = (if (y.w4 != x.w4 || y.w5 != x.w5) && (x.armed && x.classP || x.classC && !x.isClear) then
        admission s h ⟨.stream h, d, t, .modify mask vals⟩ (fun dm =>
          .done t [waitWord (s.setDemand h dm) y] ((s.setDemand h dm).stage ⟨.stream h, d, t, .modify mask vals⟩))
      else .done t [0] (s.stage ⟨.stream h, d, t, .modify mask vals⟩)) := by
  have values := may.values_named
  have conflict := may.conflict_passes
  obtain ⟨rfl, ex, rfl, emask, evals, ey, rfl, timely, clean, -, reserved, inRange, owned, state, alters, policy, -,
    space⟩ := may
  have staged := stage_ok timely
  obtain ⟨near, order, -⟩ := timely
  have held := not_free_of_created_or_armed state
  have owner := owner_ok (s := s) (h := fld (c.q 1) 0 15) held owned
  unfold modifyRes handleArg
  dsimp only
  rw [← emask, ← evals, ← ex, ← ey]
  refine (checked_ok ?_ _).trans ?_
  · simp only [List.forall_mem_cons]
    refine ⟨?_, ?_, owner, ?_, ?_, conflict, decide_eq_false (Nat.not_lt.mpr space), by simp⟩
    · simp only [clean, values, reserved]
      rfl
    · simp [near, held, inRange]
    · simp [policy]
    · rw [Bool.or_eq_true_iff.mpr state, order, alters]
      rfl
  · simp only [staged]

end Modify

/-- Settles O19: past its checks the command stages the modification, once it is admitted where it changes what the
charge of the stream rests on. -/
theorem streamModifyStages : Obligations.StreamModifyStages := by
  unfold Obligations.StreamModifyStages
  intro c s x y h d t mask vals front eh ex ed emask evals ey et timely clean unnamed reserved inRange owned state
    alters policy noConflict space
  have ok := modifyRes_ok ⟨eh, ex, ed, emask, evals, ey, et, timely, clean, unnamed, reserved, inRange, owned, state,
    alters, policy, noConflict, space⟩
  refine ⟨fun plain => front_done front ?_, fun dm changed charged charge admitted => front_done front ?_⟩
  · have skip : ((y.w4 != x.w4 || y.w5 != x.w5) && (x.armed && x.classP || x.classC && !x.isClear)) = false := by
      rcases plain with ⟨w4, w5⟩ | uncharged
      · simp [w4, w5]
      · rw [uncharged, Bool.and_false]
    rw [ok, skip, if_neg Bool.false_ne_true]
  · have readmit : ((y.w4 != x.w4 || y.w5 != x.w5) && (x.armed && x.classP || x.classC && !x.isClear)) = true := by
      rw [charged, Bool.and_true]
      simpa using changed
    rw [ok, if_pos readmit, admission_ok charge admitted]

end Sys2Proof.Machine

/-!
PROOFS. KEY_DERIVE in its two rows, KEY_INVALIDATE and KEY_READ (R30, R227, R233, R235, R237, R397, R398).
-/

namespace Sys2Proof.Machine

/-! ### The attribute word of a derived slot (R231, Table 8.2) -/

/-- An attribute word says Valid where its fields below the state are no larger than their places hold; the depth may
fill the bit above its field. -/
theorem attrWord_valid {d uses origin depth parent : Nat} (expire : Bool) (dom : d < 16) (use : uses < 128)
    (org : origin < 8) (deep : depth ≤ 8) (par : parent < 2 ^ 17) :
    fld (attrWord 1 expire (some d) uses origin depth parent) 46 2 = 1 := by
  have flag : boolNat expire < 2 := by cases expire <;> decide
  simp only [attrWord, fld_or, Option.isSome_some, Option.getD_some, show boolNat true = 1 from rfl]
  simp (disch := omega) only [fld_at_same, fld_at_below, Nat.or_zero]

/-- A slot derived or imported below a parent is Valid (R230, R231). -/
theorem childAttr_valid (s : State) {parent d uses origin : Nat} (expire : Bool) (dom : d < 16) (use : uses < 128)
    (org : origin < 8) (par : parent < 2 ^ 17) :
    fld (childAttr s parent (some d) expire uses origin) 46 2 = 1 := by
  have deep : (s.slot parent).depth + 1 ≤ 8 := fld_lt _ 26 3
  unfold childAttr
  dsimp only
  split
  · exact attrWord_valid _ (fld_lt _ 39 4) use org deep par
  · exact attrWord_valid _ dom use org deep par

/-! ### The derivation (R229, R235, R237, Table 8.6) -/

/-- The label of Table 8.6 for a kind. -/
def deriveLabel (kind : Nat) : String := if kind = 0 then "DOM" else if kind = 1 then "SEALD" else "REC"

/-- The context of Table 8.6 for a kind. -/
def deriveContext (c : Cmd) (kind : Nat) : List Byte :=
  if kind = 2 then natToBytes 4 (fld (c.q 2) 16 32) ++ natToBytes 2 (fld (c.q 2) 0 16) else natToBytes 1 c.domain

theorem deriveParent_lt (s : State) (kind : Nat) {d : Nat} (dom : d < 16) : deriveParent s kind d < 2 ^ 17 := by
  unfold deriveParent slotRoot slotDrill slotPool slotDevice slotSeal
  split
  · omega
  · split <;> split <;> decide

section Derive

variable {s : State} {c : Cmd} {k p kind : Nat} {bad : Bool} {key : Shares} (u : Nat)

/-- The slot k has been derived from p, of which one use is counted. -/
def State.derived (s : State) (u k p : Nat) (key : Key) (attr limit : Word) : State :=
  ((s.countUse p).coreWorks u).writeSlot k key attr limit

/-- A derivation whose parent gives its key writes the target slot by Table 8.6. -/
theorem State.deriveKind_ok (range : kind ≤ 2) (ep : p = deriveParent s kind c.domain)
    (judged : fetchJudge (s.slot p) useKdf (bad && (s.slot p).digestRef.isNone) = .ok key) :
    ∃ uses origin expire, uses < 128 ∧ origin < 8 ∧ s.deriveKind u bad c kind =
      (.ok key, s.derived u (targetArg c) p (kdf key.whole (deriveLabel kind) (deriveContext c kind))
        (childAttr (s.countUse p) p (some c.domain) expire uses origin) (limitOf (c.q 3))) := by
  subst ep
  have fetched := State.coreFetch_ok u judged
  unfold State.deriveKind
  dsimp only
  obtain rfl | rfl | rfl : kind = 0 ∨ kind = 1 ∨ kind = 2 := by omega
  · refine ⟨maskKdf, 0, false, by decide, by decide, ?_⟩
    simp only [if_true, State.deriveBy, fetched]
    rfl
  · refine ⟨maskKdf, 0, false, by decide, by decide, ?_⟩
    simp only [if_true, if_neg Nat.one_ne_zero, State.deriveBy, fetched]
    rfl
  · refine ⟨16, 1, bit (c.q 1) 23, by decide, by decide, ?_⟩
    simp only [OfNat.ofNat_ne_zero, if_false, show (2 : Nat) ≠ 1 by decide, State.deriveBy, fetched]
    rfl

/-- What a derivation may alter. -/
theorem State.derived_rest (s : State) (k p : Nat) (key : Key) (attr limit : Word) :
    Touch [.draws, .slots, .keyCtl, .power, .eye] s (s.derived u k p key attr limit) :=
  (State.writeSlot_touch _ _ _ _ _ (by decide)).mpr ((State.coreWorks_touch _ _ (by decide)).mpr
    ((State.countUse_touch _ _ (by decide)).mpr (Touch.refl _ _)))

theorem State.derived_draws (s : State) (k p : Nat) (key : Key) (attr limit : Word) :
    (s.derived u k p key attr limit).draws = s.draws + 1 := by
  have before : Touch [.slots, .power, .eye] s ((s.countUse p).coreWorks u) :=
    (State.coreWorks_touch _ _ (by decide)).mpr ((State.countUse_touch _ _ (by decide)).mpr (Touch.refl _ _))
  rw [← before.draws (by decide)]
  rfl

theorem State.slot_derived (s : State) (k p : Nat) (key : Key) (attr limit : Word) :
    ((s.derived u k p key attr limit).slot k).key = key ∧ ((s.derived u k p key attr limit).slot k).attr = attr ∧
      ((s.derived u k p key attr limit).slot k).u0 = 0 ∧ ((s.derived u k p key attr limit).slot k).u1 = limit := by
  rw [State.derived, State.slot_writeSlot]
  exact ⟨by rw [KeySlot.key, BitVec.xor_assoc, BitVec.xor_self, BitVec.xor_zero], rfl, rfl, rfl⟩

theorem State.slot_derived_other (s : State) {j k : Nat} (other : j ≠ k) (p : Nat) (key : Key) (attr limit : Word) :
    (s.derived u k p key attr limit).slot j = (s.countUse p).slot j := by
  rw [State.derived, State.slot_writeSlot_other _ other]
  exact ((State.coreWorks_touch (Lt := [.power, .eye]) _ u (by decide)).mpr (Touch.refl _ _)).slot (by decide) j

end Derive

/-- What a derivation by a core may alter, but for the entropy words drawn. -/
theorem Touch.derive_frame {s t : State} (h : Touch [.draws, .slots, .keyCtl, .power, .eye] s t) :
    t = { s with draws := t.draws, slots := t.slots, keyCtl := t.keyCtl, power := t.power, eye := t.eye } := by
  refine State.eq_of_same fun f => ?_
  have kept := h f
  cases f
  case draws | slots | keyCtl | power | eye => rfl
  all_goals exact kept rfl

theorem KeySlot.not_empty_of_live {v : KeySlot} (live : v.live = true) : v.empty_ = false := by
  obtain ⟨valid, -⟩ := Bool.and_eq_true_iff.mp live
  rw [KeySlot.valid, beq_iff_eq] at valid
  rw [KeySlot.empty_, valid]
  rfl

/-! ### KEY_DERIVE (R227, R235, R238, R397) -/

/-- What KEY_DERIVE asks of the command and the slots (R227, R230, R252, R377, R397). -/
structure DeriveMay (s : State) (c : Cmd) (kind : Nat) : Prop where
  named : kind = kindOf c
  target : kind = 0 ∧ targetArg c = slotDomain c.domain ∨ kind = 1 ∧ targetArg c = slotRoot c.domain ∨
    kind = 2 ∧ targetArg c < 65536
  clean : fld (c.q 1) 24 7 = 0
  cleanLow : fld (c.q 1) 0 20 = 0
  empty : (s.slot (targetArg c)).empty_ = true
  parent : (s.slot (deriveParent s kind c.domain)).live = true
  masked : degradedRefuse s = false
  seeded : s.keyCtl.seeded = true
  allowed : kind ≤ 1 ∧ c.mbox = 16 ∧ c.q 2 = 0 ∨ kind = 2 ∧ slotBlockDomain s (targetArg c) = some c.domain

/-- Past its checks KEY_DERIVE begins. -/
theorem deriveRes_begins {s : State} {c : Cmd} {kind : Nat} (u : Nat) (bad : Bool) (fresh : begunWith c = none)
    (may : DeriveMay s c kind) : deriveRes u bad s c = .wait (.begun s.draws) s := by
  obtain ⟨rfl, target, clean, cleanLow, empty, parent, masked, seeded, allowed⟩ := may
  unfold deriveRes
  dsimp only
  rw [fresh, if_neg (by decide)]
  refine checked_ok ?_ _
  rcases target with ⟨isDom, slot⟩ | ⟨isRoot, slot⟩ | ⟨isRec, small⟩
  · obtain ⟨-, box, q2⟩ := allowed.resolve_right (by omega)
    rw [isDom] at parent
    rw [slot] at empty
    simp [isDom, slot, clean, cleanLow, q2, mbMgmt, box, empty, parent, splitCheck, masked, seeded]
  · obtain ⟨-, box, q2⟩ := allowed.resolve_right (by omega)
    rw [isRoot] at parent
    rw [slot] at empty
    simp [isRoot, slot, clean, cleanLow, q2, mbMgmt, box, empty, parent, splitCheck, masked, seeded]
  · obtain ⟨-, block⟩ := allowed.resolve_left (by omega)
    rw [isRec] at parent
    simp [isRec, clean, cleanLow, small, writeChecks, block, empty, parent, splitCheck, masked, seeded]

section Begun

variable {s : State} {c : Cmd} {p w : Nat} {bad : Bool} (u : Nat)

/-- Begun, the derivation writes the slot where its parent gives the key. -/
theorem deriveRes_writes {key : Shares} (began : begunWith c = some w) (range : kindOf c ≤ 2)
    (ep : p = deriveParent s (kindOf c) c.domain) (live : (s.slot p).live = true)
    (empty : (s.slot (targetArg c)).empty_ = true)
    (judged : fetchJudge (s.slot p) useKdf (bad && (s.slot p).digestRef.isNone) = .ok key) :
    ∃ uses origin expire t, uses < 128 ∧ origin < 8 ∧ t = s.derived u (targetArg c) p
        (kdf key.whole (deriveLabel (kindOf c)) (deriveContext c (kindOf c)))
        (childAttr (s.countUse p) p (some c.domain) expire uses origin) (limitOf (c.q 3)) ∧
      deriveRes u bad s c = .done 0 [(t.slot (targetArg c)).attr] t := by
  obtain ⟨uses, origin, expire, use, org, made⟩ := State.deriveKind_ok u range ep judged
  refine ⟨uses, origin, expire, _, use, org, rfl, ?_⟩
  subst ep
  simp only [deriveRes, began, Option.isSome_some, if_true, deriveEnd, live, empty, Bool.not_true, Bool.or_self,
    Bool.false_eq_true, if_false, made]

/-- Begun, the write is abandoned under a parent that is live no more, and none is made to a slot that is taken. -/
theorem deriveRes_abandons (bad : Bool) (began : begunWith c = some w) (ep : p = deriveParent s (kindOf c) c.domain)
    (gone : (s.slot p).live = false ∨ (s.slot (targetArg c)).empty_ = false) :
    deriveRes u bad s c = .fail eState (slotDetail s (targetArg c)) [] := by
  subst ep
  have stops : (!(s.slot (deriveParent s (kindOf c) c.domain)).live || !(s.slot (targetArg c)).empty_) = true := by
    rcases gone with dead | taken
    · simp [dead]
    · simp [taken]
  simp only [deriveRes, began, Option.isSome_some, if_true, deriveEnd, stops]

end Begun

/-- A failed check of the cells refuses the fetch: one that gives its key has passed it (R229, R247). -/
theorem fetchJudge_shares {v : KeySlot} {use : Nat} {bad : Bool} {key : Shares} (b : Bool)
    (judged : fetchJudge v use bad = .ok key) : fetchJudge v use (bad && b) = .ok key := by
  cases bad with
  | false => exact judged
  | true => simp [fetchJudge] at judged

/-! ### KEY_INVALIDATE and KEY_READ (R30, R227, R233, R398) -/

theorem keyInvalidate_stages {s : State} {c : Cmd} {k : Nat} (front : Front s c 0x2A) (ek : k = fld (c.q 1) 0 17)
    (clean : fld (c.q 1) 17 31 = 0) (exists_ : k < slotCount) (timely : Timely s c [.slot k] 4)
    (may : (k < 65536 ∧ slotOwner s k = some c.domain) ∨
      (slotDomain 0 ≤ k ∧ k ≤ slotRoot 15 ∧ slotOwner s k = some c.domain ∧ c.mbox = 16)) :
    exec .keyInvalidate s = .next ((s.stage ⟨.slot k, 4, effTick s c [.slot k] 4, .invalidate⟩).answer c.id
      (okWords (effTick s c [.slot k] 4) [])) := by
  subst ek
  have owner : slotOwner s (fld (c.q 1) 0 17) = some c.domain := may.elim And.right (·.2.2.1)
  refine front_staged front rfl timely (failOf_nil ?_) (failOf_nil ?_)
  · simp [clean, slotArg, Nat.not_le.mpr exists_]
  · rcases may with ⟨small, -⟩ | ⟨low, high, -, box⟩
    · simp [slotArg, owner, Nat.not_le.mpr small]
    · simp [slotArg, owner, domainSlot, low, high, mbMgmt, box]

theorem keyReadRes_ok {s : State} {c : Cmd} {k : Nat} (ek : k = fld (c.q 1) 0 17) (clean : fld (c.q 1) 17 31 = 0)
    (exists_ : k < slotCount) (may : slotOwner s k = some c.domain ∨ (c.mbox = 16 ∧ 65536 ≤ k)) :
    keyReadRes s c = .done 0 [(s.slot k).attr, (s.slot k).u0, (s.slot k).u1] s := by
  subst ek
  refine checked_ok ?_ _
  rcases may with owner | ⟨box, high⟩
  · simp [clean, slotArg, Nat.not_le.mpr exists_, owner]
  · simp [clean, slotArg, Nat.not_le.mpr exists_, mbMgmt, box, high]

/-- Settles O24: a derivation begins past its checks, and writes its slot or abandons the write once it has begun; an
invalidation is staged, and a read answers, past their checks. -/
theorem keyDeriveInvalidateRead : Obligations.KeyDeriveInvalidateRead := by
  unfold Obligations.KeyDeriveInvalidateRead
  refine ⟨fun c s k p kind label ctx core bad ek ekind ep elabel ectx target => ⟨?begins, ?writes, ?abandons⟩,
    fun c s => ⟨fun k => keyInvalidate_stages, fun k front ek clean exists_ may =>
      front_done front (keyReadRes_ok ek clean exists_ may)⟩⟩
  case begins =>
    intro front clean cleanLow empty live masked seeded allowed
    subst ek ep
    have ⟨_, _, fresh, _⟩ := front
    exact front_wait front (deriveRes_begins _ bad fresh
      ⟨ekind, target, clean, cleanLow, empty, live, masked, seeded, allowed⟩)
  case writes =>
    intro w key begun dom live empty judged
    have range : kind ≤ 2 := by omega
    subst ek ekind elabel ectx
    have ⟨_, _, began⟩ := begun
    obtain ⟨uses, origin, expire, t, use, org, et, ends⟩ :=
      deriveRes_writes (10 + core.val) began range ep live empty (fetchJudge_shares _ judged)
    have apart : p ≠ targetArg c := by
      intro same
      have taken := KeySlot.not_empty_of_live live
      rw [same] at taken
      exact Bool.false_ne_true (taken.symm.trans empty)
    obtain ⟨whole, attr, unused, limit⟩ := s.slot_derived (10 + core.val) (targetArg c) p
      (kdf key.whole (deriveLabel (kindOf c)) (deriveContext c (kindOf c)))
      (childAttr (s.countUse p) p (some c.domain) expire uses origin) (limitOf (c.q 3))
    have draws : t.draws = s.draws + 1 := by rw [et, State.derived_draws]
    have rest := (et ▸ State.derived_rest _ s _ _ _ _ _ :
      Touch [.draws, .slots, .keyCtl, .power, .eye] s t).derive_frame
    rw [draws] at rest
    rw [← et] at whole attr unused limit
    have other {j : Nat} (apart : j ≠ targetArg c) : t.slot j = (s.countUse p).slot j := by
      rw [et, State.slot_derived_other _ _ apart]
    refine ⟨t, begun_done begun ⟨_, rfl⟩ ends, whole, ?_, unused, limit, ?_, fun j target parent => ?_, rest⟩
    · rw [KeySlot.valid, KeySlot.st, show (t.slot (fld (c.q 1) 31 17)).attr = _ from attr,
        childAttr_valid _ _ dom use org (ep ▸ deriveParent_lt s _ dom)]
      rfl
    · rw [other apart, State.countUse, State.slot_setSlot]
    · rw [other target, State.countUse, State.slot_setSlot_other _ parent]
  case abandons =>
    intro w begun gone
    subst ek ekind
    have ⟨_, _, began⟩ := begun
    rw [exec, execKeyDerive, begun_exec begun ⟨_, rfl⟩, deriveRes_abandons _ bad began ep gone]
    rfl

end Sys2Proof.Machine

/-!
PROOFS. The classification of received frames on ports of no redundancy pair, and of PTP frames (R69, R92 to R97, R303,
R304, Table 3.8).
-/

namespace Sys2Proof.Machine

/-! ### The MAC's checks of a whole frame (R303, R304) -/

/-- A whole frame with a good FCS, of an allowed length, on a port that receives and whose unicast filter it passes. -/
structure WholeFrame (s : State) (r : RxIn) : Prop where
  receives : receiving s r.port.val = true
  good : r.fcsGood = true
  complete : r.aborted = false
  least : 60 ≤ r.bytes.length
  most : r.bytes.length + 4 ≤ (portCfg s.img r.port.val).maxLen
  passes : addressPasses s r.port.val (daOf r.bytes) = true

section Whole

variable {s : State} {r : RxIn} (whole : WholeFrame s r)
include whole

theorem WholeFrame.not_cut : cutAtMac s r = false := by
  simp [cutAtMac, whole.complete, whole.most]

/-- The MAC leaves a whole frame as it came. -/
theorem WholeFrame.macFrame_eq : macFrame s r = r := by
  have bytes : r.bytes.take ((portCfg s.img r.port.val).maxLen - 4) = r.bytes :=
    List.take_of_length_le (by have := whole.most; omega)
  have long : decide (r.bytes.length < 60) = false := decide_eq_false (Nat.not_lt.mpr whole.least)
  rw [macFrame, bytes, whole.not_cut, long]
  obtain ⟨-, good, complete, -, -, -⟩ := whole
  cases r
  cases good
  cases complete
  rfl

theorem WholeFrame.macCounts_eq : s.macCounts r = s := by
  obtain ⟨-, good, complete, least, most, -⟩ := whole
  simp [State.macCounts, good, complete, Nat.not_lt.mpr least, Nat.not_lt.mpr most]

theorem WholeFrame.passesMac : passesMac r r.bytes = true := by
  simp [Machine.passesMac, whole.good, whole.complete]

/-- A whole PTP frame is counted, and waits for the bypass. -/
theorem WholeFrame.exec_ptp (ptp : etherTypeOf r.bytes = 0x88F7) : exec (.frameClassify r) s =
    .next ((s.countReceived r r.bytes).pushRx
      (rxNew (s.countReceived r r.bytes) .ptp r r.bytes none noHandle .zero)) := by
  have long : ¬ r.bytes.length < 14 := by have := whole.least; omega
  have noPause : (0x88F7 : Nat) ≠ 0x8808 := by decide
  simp only [exec, execFrameClassify, whole.receives, whole.macCounts_eq, whole.macFrame_eq, whole.good,
    whole.complete, long, whole.passes, ptp, noPause, Bool.not_true, Bool.not_false, Bool.and_self, Bool.false_eq_true,
    if_false, if_true]

/-- On a port of no redundancy pair a whole frame of a type that is neither the bypass's nor a pause frame's is counted,
and classified by its bytes as they came. -/
theorem WholeFrame.classified (single : pairOf s.img r.port.val = none) (noPtp : etherTypeOf r.bytes ≠ 0x88F7)
    (noPause : etherTypeOf r.bytes ≠ 0x8808) : exec (.frameClassify r) s =
      .next ((s.countReceived r r.bytes).classifyBody r r.bytes none none) := by
  have long : ¬ r.bytes.length < 14 := by have := whole.least; omega
  simp only [exec, execFrameClassify, whole.receives, whole.macCounts_eq, whole.macFrame_eq, long, whole.passes,
    noPtp, noPause, single, Bool.not_true, Bool.false_eq_true, if_false]

/-! ### The counters of a frame received (Table 10.4) -/

theorem WholeFrame.countReceived_eq : s.countReceived r r.bytes =
    (s.bumpPort r.port.val 0 1).bumpPort r.port.val 1 (wireLen r.bytes) := by
  rw [State.countReceived, whole.passesMac, if_pos rfl]

theorem WholeFrame.counted : Table.get 0 0 ((s.countReceived r r.bytes).port r.port.val).ctr =
    Table.get 0 0 (s.port r.port.val).ctr + 1 := by
  rw [whole.countReceived_eq, sameCounter_bumpPort (by decide), State.bumpPort_counter]
  rfl

theorem WholeFrame.length_counted : Table.get 0 1 ((s.countReceived r r.bytes).port r.port.val).ctr =
    Table.get 0 1 (s.port r.port.val).ctr + BitVec.ofNat 48 (wireLen r.bytes) := by
  rw [whole.countReceived_eq, State.bumpPort_counter, sameCounter_bumpPort (by decide)]

theorem WholeFrame.other_counter {i : Nat} (frames : i ≠ 0) (bytes : i ≠ 1) :
    SameCounter i s (s.countReceived r r.bytes) := by
  rw [whole.countReceived_eq]
  exact (sameCounter_bumpPort frames s _ _).trans (sameCounter_bumpPort bytes _ _ _)

omit whole in
theorem State.countReceived_rest (s : State) (r : RxIn) (body : List Byte) :
    Touch [.ports] s (s.countReceived r body) :=
  (State.countReceived_touch _ _ _ (by decide)).mpr (Touch.refl _ _)

end Whole

/-! ### Frames that are kept -/

/-- A frame x is the newest of the received ones, in a state that has altered nothing more than L names. -/
def KeepsRx (L : List Fld) (s t : State) (x : RxFrame) : Prop := ∃ v, Touch L s v ∧ t = v.pushRx x

section KeepsRx

variable {L : List Fld} {s t : State} {x : RxFrame}

theorem KeepsRx.of_touch {u : State} (h : Touch L s u) (k : KeepsRx L u t x) : KeepsRx L s t x := by
  obtain ⟨v, rest, et⟩ := k
  exact ⟨v, h.step rest, et⟩

theorem KeepsRx.rx (k : KeepsRx L s t x) (off : L.contains .rx = false) : t.rx = s.rx ++ [x] := by
  obtain ⟨v, rest, rfl⟩ := k
  rw [← rest.rx off]
  rfl

theorem KeepsRx.counter (k : KeepsRx L s t x) (off : L.contains .ports = false) (i : Nat) : SameCounter i s t := by
  obtain ⟨v, rest, rfl⟩ := k
  exact sameCounter_of_ports (rest.ports off)

/-- What the keeping of a frame may alter. -/
theorem KeepsRx.frame (k : KeepsRx [.ports, .eye] s t x) :
    t = { s with rx := t.rx, nextFrame := s.nextFrame + 1, ports := t.ports, eye := t.eye } := by
  obtain ⟨v, rest, rfl⟩ := k
  refine State.eq_of_same fun f => ?_
  have kept := rest f
  cases f
  case rx | ports | eye => rfl
  case nextFrame => exact congrArg (· + 1) (rest.nextFrame (by decide))
  all_goals exact kept rfl

/-- What the keeping of a frame of no stream may alter. -/
theorem KeepsRx.frame_ports (k : KeepsRx [.ports] s t x) :
    t = { s with rx := t.rx, nextFrame := s.nextFrame + 1, ports := t.ports } := by
  obtain ⟨v, rest, rfl⟩ := k
  refine State.eq_of_same fun f => ?_
  have kept := rest f
  cases f
  case rx | ports => rfl
  case nextFrame => exact congrArg (· + 1) (rest.nextFrame (by decide))
  all_goals exact kept rfl

end KeepsRx

theorem State.countReceived_keeps (s : State) (r : RxIn) (body : List Byte) (x : RxFrame) :
    KeepsRx [.ports] s ((s.countReceived r body).pushRx x) x := ⟨_, s.countReceived_rest r body, rfl⟩

/-- The ingress buffer of a port's quad takes another frame of this class (R69). -/
def quadTakes (s : State) (p cls : Nat) : Prop :=
  quadBytes s p < quadBuffer ∧ (cls = 0 ∨ quadBytes s p < quadBuffer * 7 / 8)

theorem State.bufferRx_keeps {s : State} {x : RxFrame} {cls : Nat} (room : quadTakes s x.rx.port.val cls) :
    s.bufferRx x cls none = s.pushRx { x with
      bufferAbort := decide (quadBuffer < quadBytes s x.rx.port.val + x.rx.bytes.length), reported := false } := by
  obtain ⟨below, other⟩ := room
  have taken : (decide (quadBuffer ≤ quadBytes s x.rx.port.val) ||
      (decide (quadBuffer * 7 / 8 ≤ quadBytes s x.rx.port.val) && decide (cls ≠ 0))) = false := by
    rcases other with strict | low
    · simp [Nat.not_le.mpr below, strict]
    · simp [Nat.not_le.mpr below, Nat.not_le.mpr low]
  rw [State.bufferRx, taken, if_neg Bool.false_ne_true]
  rfl

theorem quadTakes_of_rx {s t : State} (same : t.rx = s.rx) {p cls : Nat} (room : quadTakes s p cls) :
    quadTakes t p cls := by
  unfold quadTakes quadBytes at room ⊢
  rwa [same]

/-- The trace considers a frame: nothing but the trace moves, and no event counter. -/
theorem State.tagRx_rest (s : State) (x : RxFrame) : Touch [.eye] s (s.tagRx x).2 :=
  (State.tagRx_touch _ _ (by decide)).mpr (Touch.refl _ _)

theorem State.tagRx_ctr (s : State) (x : RxFrame) : (s.tagRx x).2.eye.ctr = s.eye.ctr := by
  unfold State.tagRx State.traceFrame
  dsimp only
  split <;> rfl

/-! ### Protected frames (R92 to R94, R97) -/

section Protected

variable {s : State} {r : RxIn} {body : List Byte} {h : Nat} {c : Context}

/-- The frame that is kept is this one, from the state and the bytes given. -/
def RxIs (x : RxFrame) (id : Nat) (kind : RxKind) (body : List Byte) (h : Nat) (c : Context) : Prop :=
  x.id = id ∧ x.kind = kind ∧ x.handle = h ∧ x.ctx = c ∧ x.body = body ∧ x.v0 = false

theorem classifyProtected_keeps (room : c.armed = false ∨ quadTakes s r.port.val c.cls) : ∃ x,
    KeepsRx [.eye] s (s.classifyProtected r body none none (some (h, c))) x ∧
      RxIs x s.nextFrame .protected_ body h c ∧
      (c.armed = false → (s.classifyProtected r body none none (some (h, c))).eye.ctr = s.eye.ctr) := by
  have tagged := s.tagRx_rest (rxNew s .protected_ r body none h c)
  cases armed : c.armed with
  | false =>
    simp only [State.classifyProtected, armed, Bool.false_eq_true, if_false]
    exact ⟨_, ⟨_, tagged, rfl⟩, ⟨rfl, rfl, rfl, rfl, rfl, rfl⟩, fun _ => s.tagRx_ctr _⟩
  | true =>
    have counted := tagged.step ((State.countClassified_touch (Lt := [.eye]) _ h c.domain (wireLen r.bytes)
      (by decide)).mpr (Touch.refl _ _))
    have takes := quadTakes_of_rx (counted.rx (by decide)) (room.resolve_left (by simp [armed]))
    simp only [State.classifyProtected, armed, if_true]
    rw [State.bufferRx_keeps (by exact takes)]
    exact ⟨_, ⟨_, counted, rfl⟩, ⟨rfl, rfl, rfl, rfl, rfl, rfl⟩, fun off => by cases off⟩

/-- A protected frame that matches no stream is counted, and none is kept. -/
theorem classifyProtected_unmatched (s : State) (r : RxIn) (body : List Byte) :
    (s.classifyProtected r body none none none).rx = s.rx ∧
      Table.get 0 12 ((s.classifyProtected r body none none none).port r.port.val).ctr =
        Table.get 0 12 (s.port r.port.val).ctr + 1 := by
  have rest : ∀ x v, Touch [.tx, .nextFrame, .ports, .eye] s (s.noStream x v none) :=
    fun x v => (State.noStream_touch s x v none (by decide)).mpr (Touch.refl _ _)
  have counted : ∀ x v, x.rx.port.val = r.port.val →
      Table.get 0 12 ((s.noStream x v none).port r.port.val).ctr = Table.get 0 12 (s.port r.port.val).ctr + 1 := by
    intro x v port
    have notices := sameCounter_report (i := 12) (by decide)
      ((s.bumpPort x.rx.port.val 12 1).postOnce x.rx.port.val 8) { x with reported := false } v
    exact (notices _).trans ((sameCounter_postOnce 12 _ _ _ _).trans
      (by rw [← port]; exact State.bumpPort_counter _ _ _ _))
  exact ⟨(rest _ _).rx (by decide), counted _ _ rfl⟩

end Protected

/-! ### Steps 3 to 7 of Table 3.8 -/

/-- A protected frame whose security header is complete, and the stream that it matches, if any (R92, R93). -/
def ProtectedFrame (s : State) (r : RxIn) (found : Option (Nat × Context)) : Prop :=
  (etherTypeOf r.bytes = 0x88E5 ∧ macEnd r.bytes ≤ r.bytes.length ∧ found = macStream s r.port.val r.bytes) ∨
    (gsvSecured r.bytes = true ∧ gsvEnd r.bytes ≤ r.bytes.length ∧ found = gsvStream s r.port.val r.bytes)

theorem etherTypeOf_of_gsvSecured {b : List Byte} (marked : gsvSecured b = true) :
    etherTypeOf b = 0x88B8 ∨ etherTypeOf b = 0x88BA := by
  simp only [gsvSecured, Bool.and_eq_true, Bool.or_eq_true, beq_iff_eq] at marked
  exact marked.1.1

theorem not_gsvSecured {b : List Byte} (goose : etherTypeOf b ≠ 0x88B8) (sv : etherTypeOf b ≠ 0x88BA) :
    gsvSecured b = false :=
  Bool.eq_false_iff.mpr fun marked => (etherTypeOf_of_gsvSecured marked).elim goose sv

section Body

variable {s : State} {r : RxIn} {found : Option (Nat × Context)}

theorem ProtectedFrame.etherType (secured : ProtectedFrame s r found) :
    etherTypeOf r.bytes = 0x88E5 ∨ etherTypeOf r.bytes = 0x88B8 ∨ etherTypeOf r.bytes = 0x88BA := by
  obtain ⟨mac, -⟩ | ⟨marked, -⟩ := secured
  · exact .inl mac
  · exact .inr (etherTypeOf_of_gsvSecured marked)

/-- What a frame matches depends on the streams and the image. -/
theorem ProtectedFrame.of_same {t : State} (secured : ProtectedFrame s r found) (streams : t.streams = s.streams)
    (img : t.img = s.img) : ProtectedFrame t r found := by
  have matched (b : List Byte) : rxMatches t r.port.val b = rxMatches s r.port.val b := by
    funext c
    rw [rxMatches, rxMatches, img]
  have find (b : List Byte) : findStream t r.port.val b = findStream s r.port.val b := by
    funext ok
    rw [findStream, findStream, streams, matched]
  have sci (b : List Byte) : frameSci t r.port.val b = frameSci s r.port.val b := by
    rw [frameSci, frameSci, streams, matched]
  have mac (b : List Byte) : macStream t r.port.val b = macStream s r.port.val b := by
    rw [macStream, macStream, sci, find]
  unfold ProtectedFrame gsvStream at secured ⊢
  rwa [mac, find]

theorem clearStream_of_same {t : State} (streams : t.streams = s.streams) (img : t.img = s.img) (p : Nat)
    (b : List Byte) : clearStream t p b = clearStream s p b := by
  simp only [clearStream, findStream, streams, rxMatches, img]

theorem ProtectedFrame.classifyBody_eq (secured : ProtectedFrame s r found) :
    s.classifyBody r r.bytes none none = s.classifyProtected r r.bytes none none found := by
  unfold State.classifyBody
  dsimp only
  rcases secured with ⟨mac, complete, rfl⟩ | ⟨marked, complete, rfl⟩
  · rw [if_pos mac, if_neg (Nat.not_lt.mpr complete)]
  · have noMac : etherTypeOf r.bytes ≠ 0x88E5 := by
      rcases etherTypeOf_of_gsvSecured marked with goose | sv
      · rw [goose]
        decide
      · rw [sv]
        decide
    rw [if_neg noMac, if_pos marked, if_neg (Nat.not_lt.mpr complete)]

/-- A whole frame of no protected type goes on by its EtherType. -/
theorem classifyBody_unprotected (good : r.fcsGood = true) (complete : r.aborted = false)
    (noMac : etherTypeOf r.bytes ≠ 0x88E5) (unmarked : gsvSecured r.bytes = false) :
    s.classifyBody r r.bytes none none =
      if etherTypeOf r.bytes = 0x88B5 then s.keepRx (rxNew s .standalone r r.bytes none noHandle .zero) none
      else if etherTypeOf r.bytes = 0x88B6 then s.keepRx (rxNew s .notice r r.bytes none noHandle .zero) none
      else s.classifyClear r r.bytes none none := by
  unfold State.classifyBody
  simp only [noMac, unmarked, good, complete, if_false, Bool.false_eq_true, Bool.not_false, Bool.and_self,
    Bool.not_true]

/-- A frame on an Armed CLEAR stream waits for delivery where the buffer is below its second threshold. -/
theorem classifyClear_keeps {h : Nat} {c : Context} (place : clearStream s r.port.val r.bytes = some (h, c))
    (armed : c.armed = true) (room : quadBytes s r.port.val < quadBuffer * 7 / 8) :
    ∃ x, KeepsRx [.eye] s (s.classifyClear r r.bytes none none) x ∧ RxIs x s.nextFrame .clear r.bytes h c := by
  have tagged := s.tagRx_rest (rxNew s .clear r r.bytes none h c)
  have counted := tagged.step ((State.countClassified_touch (Lt := [.eye]) _ h c.domain (wireLen r.bytes)
    (by decide)).mpr (Touch.refl _ _))
  have below : quadBytes s r.port.val < quadBuffer := Nat.lt_of_lt_of_le room (by decide)
  have takes := quadTakes_of_rx (counted.rx (by decide)) (cls := clearClass s h c) ⟨below, .inr room⟩
  simp only [State.classifyClear, place, armed, Bool.not_true, Bool.false_eq_true, if_false]
  rw [State.bufferRx_keeps (by exact takes)]
  exact ⟨_, ⟨_, counted, rfl⟩, ⟨rfl, rfl, rfl, rfl, rfl, rfl⟩⟩

end Body

/-! ### The frames of a port of no redundancy pair -/

section Classified

variable {s : State} {r : RxIn} (whole : WholeFrame s r)
include whole

/-- A PTP frame waits for the bypass. -/
theorem WholeFrame.ptp (ptp : etherTypeOf r.bytes = 0x88F7) : ∃ t x, exec (.frameClassify r) s = .next t ∧
    t.rx = s.rx ++ [x] ∧ x.id = s.nextFrame ∧ x.kind = .ptp ∧ x.body = r.bytes ∧
    Table.get 0 0 (t.port r.port.val).ctr = Table.get 0 0 (s.port r.port.val).ctr + 1 ∧
    Table.get 0 1 (t.port r.port.val).ctr = Table.get 0 1 (s.port r.port.val).ctr + BitVec.ofNat 48 (wireLen r.bytes) ∧
    t = { s with rx := t.rx, nextFrame := s.nextFrame + 1, ports := t.ports } := by
  have kept := s.countReceived_keeps r r.bytes
  exact ⟨_, _, whole.exec_ptp ptp, (kept _).rx (by decide),
    (s.countReceived_rest r r.bytes).nextFrame (by decide), rfl, rfl, whole.counted, whole.length_counted,
    (kept _).frame_ports⟩

variable (single : pairOf s.img r.port.val = none)
include single

theorem WholeFrame.protected_exec {found : Option (Nat × Context)} (secured : ProtectedFrame s r found) :
    exec (.frameClassify r) s = .next ((s.countReceived r r.bytes).classifyProtected r r.bytes none none found) := by
  have received := s.countReceived_rest r r.bytes
  have counted := secured.of_same (received.streams (by decide)) (received.img (by decide))
  have type := secured.etherType
  rw [whole.classified single (by omega) (by omega), counted.classifyBody_eq]

/-- A protected frame that matches a stream waits for its V0 checks. -/
theorem WholeFrame.protected_kept {h : Nat} {c : Context} (secured : ProtectedFrame s r (some (h, c)))
    (room : c.armed = false ∨ quadTakes s r.port.val c.cls) :
    ∃ t x, exec (.frameClassify r) s = .next t ∧ KeepsRx [.ports, .eye] s t x ∧
      RxIs x s.nextFrame .protected_ r.bytes h c ∧
      Table.get 0 0 (t.port r.port.val).ctr = Table.get 0 0 (s.port r.port.val).ctr + 1 ∧
      (c.armed = false → t.eye.ctr = s.eye.ctr) := by
  have received := s.countReceived_rest r r.bytes
  obtain ⟨x, kept, isX, still⟩ := classifyProtected_keeps (s := s.countReceived r r.bytes) (body := r.bytes) (h := h)
    (room.imp id (quadTakes_of_rx (received.rx (by decide))))
  refine ⟨_, x, whole.protected_exec single secured, ?_, (received.nextFrame (by decide)) ▸ isX, ?_,
    fun created => (still created).trans (congrArg Eye.ctr (received.eye (by decide)))⟩
  · obtain ⟨v, rest, et⟩ := kept
    exact ⟨v, (received.mono (by decide)).step (rest.mono (by decide)), et⟩
  · rw [kept.counter (by decide), whole.counted]

theorem WholeFrame.protected_unmatched (secured : ProtectedFrame s r none) : ∃ t, exec (.frameClassify r) s = .next t ∧
    t.rx = s.rx ∧ Table.get 0 12 (t.port r.port.val).ctr = Table.get 0 12 (s.port r.port.val).ctr + 1 := by
  obtain ⟨rx, counted⟩ := classifyProtected_unmatched (s.countReceived r r.bytes) r r.bytes
  exact ⟨_, whole.protected_exec single secured, rx.trans ((s.countReceived_rest r r.bytes).rx (by decide)),
    counted.trans (by rw [whole.other_counter (by decide) (by decide)])⟩

/-- A frame of no protected type goes on by its EtherType. -/
theorem WholeFrame.unprotected_exec
    (other : etherTypeOf r.bytes ∉ [0x88E5, 0x88B8, 0x88BA, 0x88F7, 0x8808]) : exec (.frameClassify r) s =
      .next (if etherTypeOf r.bytes = 0x88B5 then (s.countReceived r r.bytes).keepRx
          (rxNew (s.countReceived r r.bytes) .standalone r r.bytes none noHandle .zero) none
        else if etherTypeOf r.bytes = 0x88B6 then (s.countReceived r r.bytes).keepRx
          (rxNew (s.countReceived r r.bytes) .notice r r.bytes none noHandle .zero) none
        else (s.countReceived r r.bytes).classifyClear r r.bytes none none) := by
  simp only [List.mem_cons, List.not_mem_nil, or_false, not_or] at other
  obtain ⟨noMac, noGoose, noSv, noPtp, noPause⟩ := other
  rw [whole.classified single noPtp noPause,
    classifyBody_unprotected whole.good whole.complete noMac (not_gsvSecured noGoose noSv)]

/-- A standalone disclosure or a notice waits for its own check. -/
theorem WholeFrame.standalone_or_notice {et : Nat} {k : RxKind}
    (kinds : (et, k) ∈ [(0x88B5, RxKind.standalone), (0x88B6, .notice)]) (type : etherTypeOf r.bytes = et) :
    ∃ t x, exec (.frameClassify r) s = .next t ∧ t.rx = s.rx ++ [x] ∧ x.kind = k ∧ x.body = r.bytes ∧
      t = { s with rx := t.rx, nextFrame := s.nextFrame + 1, ports := t.ports } := by
  have kept := s.countReceived_keeps r r.bytes
  have ran := whole.unprotected_exec single
  simp only [List.mem_cons, List.not_mem_nil, or_false, Prod.mk.injEq] at kinds
  obtain ⟨rfl, rfl⟩ | ⟨rfl, rfl⟩ := kinds
  · rw [if_pos type] at ran
    exact ⟨_, _, ran (by rw [type]; decide), (kept _).rx (by decide), rfl, rfl, (kept _).frame_ports⟩
  · rw [if_neg (by rw [type]; decide), if_pos type] at ran
    exact ⟨_, _, ran (by rw [type]; decide), (kept _).rx (by decide), rfl, rfl, (kept _).frame_ports⟩

/-- A frame of no protected or reserved EtherType waits for delivery on the Armed CLEAR stream that it matches. -/
theorem WholeFrame.clear_kept {h : Nat} {c : Context}
    (other : etherTypeOf r.bytes ∉ [0x88E5, 0x88B8, 0x88BA, 0x88B5, 0x88B6, 0x88F7, 0x8808])
    (place : clearStream s r.port.val r.bytes = some (h, c)) (armed : c.armed = true)
    (room : quadBytes s r.port.val < quadBuffer * 7 / 8) :
    ∃ t x, exec (.frameClassify r) s = .next t ∧ KeepsRx [.ports, .eye] s t x ∧
      RxIs x s.nextFrame .clear r.bytes h c := by
  have received := s.countReceived_rest r r.bytes
  simp only [List.mem_cons, List.not_mem_nil, or_false, not_or] at other
  obtain ⟨noMac, noGoose, noSv, noStandalone, noNotice, noPtp, noPause⟩ := other
  have ran := whole.unprotected_exec single (by simp [noMac, noGoose, noSv, noPtp, noPause])
  rw [if_neg noStandalone, if_neg noNotice] at ran
  have same := clearStream_of_same (received.streams (by decide)) (received.img (by decide)) r.port.val r.bytes
  have bytes : quadBytes (s.countReceived r r.bytes) r.port.val = quadBytes s r.port.val := by
    rw [quadBytes, quadBytes, received.rx (by decide)]
  obtain ⟨x, kept, isX⟩ := classifyClear_keeps (same.trans place) armed (bytes ▸ room)
  refine ⟨_, x, ran, ?_, (received.nextFrame (by decide)) ▸ isX⟩
  obtain ⟨v, rest, et⟩ := kept
  exact ⟨v, (received.mono (by decide)).step (rest.mono (by decide)), et⟩

end Classified

/-- Settles O48: a whole frame by its counters, then by the step of Table 3.8 that its EtherType comes to. -/
theorem framesClassified : Obligations.FramesClassified := by
  unfold Obligations.FramesClassified
  intro r s p ep
  subst ep
  refine ⟨fun off => by simp [exec, execFrameClassify, off], fun receives good complete least most passes => ?_⟩
  have whole : WholeFrame s r := ⟨receives, good, complete, least, most, passes⟩
  refine ⟨whole.ptp, fun single => ⟨fun found secured => ⟨?kept, ?unmatched⟩,
    fun et k => whole.standalone_or_notice single, ?clear⟩⟩
  case kept =>
    rintro h c rfl room
    obtain ⟨t, x, ran, kept, ⟨id, kind, handle, ctx, body, v0⟩, counted, still⟩ :=
      whole.protected_kept single secured room
    exact ⟨t, x, ran, kept.rx (by decide), id, kind, handle, ctx, body, v0, counted, still, kept.frame⟩
  case unmatched =>
    rintro rfl
    exact whole.protected_unmatched single secured
  case clear =>
    intro h c other place armed room
    obtain ⟨t, x, ran, kept, -, kind, handle, ctx, body, -⟩ := whole.clear_kept single other place armed room
    exact ⟨t, x, ran, kept.rx (by decide), kind, handle, ctx, body, kept.frame⟩

end Sys2Proof.Machine

/-!
PROOFS. The chunks of a record, sealed or opened (R29, R55, R143, R215, R342 to R346, R361).
-/

namespace Sys2Proof.Machine

/-! ### The lengths of what the cipher gives (R106, R108, R109) -/

theorem xorBytes_length (a b : List Byte) : (xorBytes a b).length = min a.length b.length := List.length_zipWith

/-- The words of a key schedule so far: n of them, of four bytes each. -/
def ScheduleWords (n : Nat) (ws : List (List Byte)) : Prop := ws.length = n ∧ ∀ w ∈ ws, w.length = 4

theorem ScheduleWords.getD {n : Nat} {ws : List (List Byte)} (words : ScheduleWords n ws) {i : Nat} (inside : i < n) :
    (ws.getD i []).length = 4 := by
  obtain ⟨length, four⟩ := words
  rw [List.getD_eq_getElem _ _ (length ▸ inside)]
  exact four _ (List.getElem_mem _)

theorem ScheduleWords.next {n : Nat} {ws : List (List Byte)} (words : ScheduleWords n ws) (eight : 8 ≤ n) (i : Nat) :
    ScheduleWords (n + 1) (aesNextWord ws i) := by
  have newest := words.getD (show 0 < n by omega)
  have older := words.getD (show 7 < n by omega)
  obtain ⟨length, four⟩ := words
  refine ⟨congrArg (· + 1) length, fun w mem => ?_⟩
  rcases List.mem_cons.mp mem with rfl | old
  · rw [xorBytes_length, older]
    split
    · simp only [xorBytes_length, List.length_map, List.length_append, List.length_drop, List.length_take, newest,
        List.length_cons, List.length_nil]
      decide
    · split
      · rw [List.length_map, newest]
        rfl
      · rw [newest]
        rfl
  · exact four w old

/-- The schedule grows by a word a step. -/
theorem ScheduleWords.foldl : ∀ (l : List Nat) {n : Nat} {ws : List (List Byte)}, ScheduleWords n ws → 8 ≤ n →
    ScheduleWords (n + l.length) (l.foldl aesNextWord ws)
  | [], _, _, words, _ => words
  | i :: l, n, _, words, eight => by
    have rest := ScheduleWords.foldl l (words.next eight i) (by omega)
    rwa [Nat.add_assoc, Nat.add_comm 1] at rest

theorem flatten_length_of_forall {n : Nat} : ∀ {l : List (List Byte)}, (∀ w ∈ l, w.length = n) →
    l.flatten.length = n * l.length
  | [], _ => rfl
  | w :: l, same => by
    rw [List.flatten_cons, List.length_append, same w List.mem_cons_self,
      flatten_length_of_forall fun v mem => same v (List.mem_cons_of_mem _ mem), List.length_cons, Nat.mul_succ,
      Nat.add_comm]

/-- The first words of the schedule are the key. -/
theorem scheduleWords_key (k : Key) : ScheduleWords 8
    ((List.range 8).map (fun i => ((natToBytes 32 k.toNat).drop (4 * i)).take 4)).reverse := by
  refine ⟨by simp, fun w mem => ?_⟩
  obtain ⟨i, small, rfl⟩ := List.mem_map.mp (List.mem_reverse.mp mem)
  have below := List.mem_range.mp small
  simp only [natToBytes, List.length_take, List.length_drop, List.length_map, List.length_range]
  omega

/-- The last round key of AES-256 has sixteen bytes. -/
theorem aesSchedule_last (k : Key) : ((aesSchedule k).getD 14 []).length = 16 := by
  obtain ⟨length, four⟩ := ScheduleWords.foldl ((List.range 52).map (· + 8)) (scheduleWords_key k) (Nat.le_refl 8)
  have last : (aesSchedule k).getD 14 [] = (((((List.range 52).map (· + 8)).foldl aesNextWord
      ((List.range 8).map (fun i => ((natToBytes 32 k.toNat).drop (4 * i)).take 4)).reverse).reverse.drop 56).take
        4).flatten := by
    rw [aesSchedule, List.getD_eq_getElem _ _ (by simp), List.getElem_map, List.getElem_range]
  rw [last, flatten_length_of_forall (n := 4) fun w mem =>
    four w (List.mem_reverse.mp (List.mem_of_mem_drop (List.mem_of_mem_take mem)))]
  simp only [List.length_take, List.length_drop, List.length_reverse, length, List.length_map, List.length_range]
  decide

/-- A block under a key has sixteen bytes, whatever it was before. -/
theorem aesWith_schedule_length (k : Key) (b : List Byte) : (aesWith (aesSchedule k) b).length = 16 := by
  rw [aesWith, xorBytes_length, aesSchedule_last, aesShiftRows, List.length_map, List.length_range]
  decide

/-- Counter mode keeps the length of its data. -/
theorem gcmCrypt_length (k : Key) (iv data : List Byte) : (gcmCrypt k iv data).length = data.length := by
  have stream : (gcmKeystream (aesSchedule k) iv (data.length / 16 + 1)).length = 16 * (data.length / 16 + 1) := by
    rw [gcmKeystream, flatten_length_of_forall (n := 16) fun w mem => ?_, List.length_map, List.length_range]
    obtain ⟨i, -, rfl⟩ := List.mem_map.mp mem
    exact aesWith_schedule_length k _
  rw [gcmCrypt, xorBytes_length, stream]
  omega

theorem chunkCrypt_length (k : Key) (iv : List Byte) (off : Nat) (data : List Byte) :
    (chunkCrypt k iv off data).length = data.length := by
  rw [chunkCrypt, List.length_drop, gcmCrypt_length, List.length_append, List.length_replicate, Nat.add_sub_cancel_left]

theorem gcmTag_length (k : Key) (iv aad cipher : List Byte) : (gcmTag k iv aad cipher).length = 16 := by
  rw [gcmTag, xorBytes_length, aesWith_schedule_length, natToBytes, List.length_map, List.length_range]
  decide

/-! ### Bytes written to host memory by a record -/

/-- A write inside the fabric's space reads back. -/
theorem State.read_writeHost (s : State) {a : Nat} {bs : List Byte} (fits : a + bs.length ≤ 2 ^ 48) :
    Memory.read (s.writeHost a bs).hostMem a bs.length = bs := by
  rw [State.writeHost, Memory.write_mod _ fits, Memory.read_write_same]

theorem State.read_writeHost_apart (s : State) {a b n : Nat} {bs : List Byte} (fits : a + bs.length ≤ 2 ^ 48)
    (apart : b + n ≤ a ∨ a + bs.length ≤ b) :
    Memory.read (s.writeHost a bs).hostMem b n = Memory.read s.hostMem b n := by
  rw [State.writeHost, Memory.write_mod _ fits, Memory.read_write_apart _ _ _ _ _ apart]

theorem State.byte_writeHost_outside (s : State) {a b : Nat} {bs : List Byte} (fits : a + bs.length ≤ 2 ^ 48)
    (outside : ¬ (a ≤ b ∧ b < a + bs.length)) :
    Memory.byte (s.writeHost a bs).hostMem b = Memory.byte s.hostMem b := by
  rw [State.writeHost, Memory.write_mod _ fits, Memory.byte_write_outside _ _ _ _ outside]

/-! ### The fetches of a chunk (R143, R346) -/

/-- Fetches of a chunk that all give their key count uses of the slot, and nothing else. -/
theorem State.chunkFetch_rest {u slot : Nat} {key : Shares} : ∀ (n : Nat) {s : State} {bad : Bool},
    (s.chunkFetch u slot bad n).1 = .ok key → Touch [.slots] s (s.chunkFetch u slot bad n).2 := by
  have counted {s : State} {bad : Bool} {k : Shares} (good : (s.fetch u slot useRecord bad).1 = .ok k) :
      Touch [.slots] s (s.fetch u slot useRecord bad).2 := by
    rw [State.fetch_fst] at good
    rw [State.fetch_ok u good]
    exact (State.countUse_touch _ _ (by decide)).mpr (Touch.refl _ _)
  intro n
  induction n with
  | zero => exact counted
  | succ n ih =>
    intro s bad good
    unfold State.chunkFetch at good ⊢
    cases ran : s.fetch u slot useRecord bad with
    | mk r v =>
      rw [ran] at good
      cases r with
      | ok k =>
        have first := counted (s := s) (bad := bad) (k := k) (by rw [ran])
        rw [ran] at first
        exact first.step (ih good)
      | atLimit => cases good
      | refused => cases good

/-- A chunk whose fetches give their key goes on under it, after uses of the slot and work of the slice. -/
theorem State.recordFetch_ok {s : State} {j : RecordJob} {u n : Nat} {g : Gen} {bad : Bool} {key : Shares}
    {f : Key → State → State} (runs : s.mode ≠ .lockdown) (good : (s.chunkFetch u g.slot bad n).1 = .ok key) :
    ∃ v, Touch [.slots, .power, .eye] s v ∧ s.recordFetch j u g bad n f = f key.whole v := by
  have counted := State.chunkFetch_rest n good
  have mode := counted.mode (by decide)
  refine ⟨(s.chunkFetch u g.slot bad n).2.busyPulse (194 + 4 * u), (counted.mono (by decide)).step
    ((State.busyPulse_touch _ _ (by decide)).mpr (Touch.refl _ _)), ?_⟩
  unfold State.recordFetch
  dsimp only
  rw [mode, if_neg (by simpa using runs), good]

/-! ### RECORD_CHUNK by what the record is (R342, R345, R346, R358) -/

/-- The record in progress of a stream, whose turn has come (R55, R346, R361). -/
structure RecordRuns (s : State) (h : Handle) (j : RecordJob) : Prop where
  found : jobOf s h.toNat = some j
  runs : frozen s = false
  serves : gateServing s j.ctx.domain = true
  turn : recordTurn s j = true

/-- Buffers that have been walked are not walked again; others pass the gate (R357, R358). -/
theorem walk_passes {walked : Bool} {walk : Option GateFault} (passes : walked = true ∨ walk = none) :
    (if walked then none else walk) = none := by
  rcases passes with rfl | rfl
  · rfl
  · exact ite_self _

theorem walk_passes_not {walked : Bool} {walk : Option GateFault} (passes : walked = true ∨ walk = none) :
    (if !walked then walk else none) = none := by
  rcases passes with rfl | rfl
  · rfl
  · exact ite_self _

section Chunk

variable {s : State} {h : Handle} {j : RecordJob} (header : List Byte) {data : List Byte} (sl : Fin 3) (bad : Bool)
  (again : Nat) (ready : RecordRuns s h j)
include ready

/-- A Seal record that has begun seals its next chunk. -/
theorem exec_recordChunk_seals (begun : j.begun = true) (seals : j.opening = false)
    (walk : j.walked = true ∨ deputyFirst s j.ctx.domain h.toNat (recordBuffers false j.descr) = none)
    (enough : chunkLen j ≤ data.length) : exec (.recordChunk h header data true sl bad again) s =
      .next (s.recordFetch { j with walked := true } sl.val j.gen bad again (fun key t => t.sealChunk
        ({ j with walked := true }.addBlocks sl.val (chunkLen j)) key (data.take (chunkLen j)))) := by
  obtain ⟨found, runs, serves, turn⟩ := ready
  have clean : (if j.walked then none else deputyFirst s j.ctx.domain h.toNat
      (jobBuffers { j with walked := true })) = none := by
    simpa only [jobBuffers, seals, Bool.false_eq_true, if_false] using walk_passes walk
  have here : ¬ data.length < chunkLen { j with walked := true } + 0 := by
    rw [Nat.add_zero]
    exact Nat.not_lt.mpr enough
  simp only [seals] at clean here
  simp only [exec, execRecordChunk, found, runs, serves, turn, begun, seals, clean, here, Bool.not_true, Bool.or_self,
    Bool.false_and, Bool.and_false, Bool.false_eq_true, if_false]
  rfl

/-- A Seal record that begins takes its key from the current generation and seals its first chunk, or waits for its
bytes. -/
theorem exec_recordChunk_begins (fresh : j.begun = false) (seals : j.opening = false)
    (counts : (s.stream h.toNat).txExhausted = false)
    (walk : j.walked = true ∨ deputyFirst s j.ctx.domain h.toNat (recordBuffers false j.descr) = none) :
    exec (.recordChunk h header data true sl bad again) s =
      if data.length < min chunkBytes j.space then .next (s.setJob j)
      else .next (s.recordFetch { j with walked := true } sl.val (s.stream h.toNat).cur bad again (fun key t =>
        t.beginSeal ({ j with walked := true }.addBlocks sl.val (min chunkBytes j.space)) key
          (data.take (min chunkBytes j.space)))) := by
  obtain ⟨found, runs, serves, turn⟩ := ready
  have clean : (if j.walked then none else deputyFirst s j.ctx.domain h.toNat
      (jobBuffers { j with walked := true })) = none := by
    simpa only [jobBuffers, seals, Bool.false_eq_true, if_false] using walk_passes walk
  simp only [seals] at clean
  simp only [exec, execRecordChunk, found, runs, serves, turn, fresh, seals, counts, clean, Bool.not_true,
    Bool.not_false, Bool.or_self, Bool.false_and, Bool.and_false, Bool.and_true, Bool.false_eq_true, if_false, if_true,
    Nat.add_zero]
  rfl

/-- The record whose chunk is opened: one that begins takes up the header that DMA read. -/
def openedJob (j : RecordJob) (header : List Byte) : RecordJob :=
  if j.begun then { j with walked := true } else { j with walked := true, header := header, total := hdrLen header }

/-- The generation under which it is opened (R345). -/
def openedGen (s : State) (h : Handle) (j : RecordJob) (header : List Byte) : Gen :=
  if j.begun then j.gen else (recordGen s h.toNat (hdrGen header)).getD j.gen

/-- The bytes that the chunk needs: its own, and the tag behind the last. -/
def openedNeed (k : RecordJob) : Nat := chunkLen k + if k.total ≤ k.offset + chunkLen k then 16 else 0

/-- An Unseal record, whose header is refused on no ground, opens its next chunk, or waits for its bytes. -/
theorem exec_recordChunk_opens {k : RecordJob} (opens : j.opening = true) (ek : k = openedJob j header)
    (first : j.begun = false → header.length = 32 ∧ headerRefusal s k header = none ∧
      (j.walked = true ∨ deputyFirst s j.ctx.domain h.toNat (recordBuffers true j.descr) = none))
    (walk : j.walked = true ∨ deputyFirst s j.ctx.domain h.toNat (jobBuffers k) = none) :
    exec (.recordChunk h header data true sl bad again) s = if data.length < openedNeed k then .next (s.setJob j)
      else .next (s.recordFetch k (3 + sl.val) (openedGen s h j header) bad again (fun key t => t.openChunk
        { k.addBlocks (3 + sl.val) (chunkLen k) with
          gen := openedGen s h j header, iv := recordIv (hdrEpoch k.header) (hdrCount k.header) }
        key (data.take (chunkLen k)) (slice (chunkLen k) 16 data))) := by
  subst ek
  have clean := walk_passes walk
  obtain ⟨found, runs, serves, turn⟩ := ready
  cases begun : j.begun with
  | true =>
    simp only [openedJob, openedGen, openedNeed, begun, if_true] at clean ⊢
    simp only [opens] at clean
    simp only [exec, execRecordChunk, found, runs, serves, turn, begun, opens, clean, Bool.not_true, Bool.or_self,
      Bool.false_and, Bool.true_and, Bool.false_eq_true, if_false, decide_eq_true_eq, if_true]
  | false =>
    obtain ⟨whole, accepted, first⟩ := first begun
    have start := walk_passes_not first
    simp only [openedJob, openedGen, openedNeed, begun, Bool.false_eq_true, if_false] at clean accepted ⊢
    simp only [opens] at clean accepted
    simp only [exec, execRecordChunk, found, runs, serves, turn, begun, opens, clean, whole, accepted, start,
      Bool.not_true, Bool.not_false, Bool.or_self, Bool.and_self, Bool.false_and, Bool.true_and, Bool.and_false,
      bne_self_eq_false, Bool.false_eq_true, if_false, decide_eq_true_eq, if_true]

end Chunk

/-! ### What the sealing of a chunk does (R215, R344, R346, Table 4.5) -/

section Seal

variable {s : State} {j : RecordJob} {key : Key} {data ct : List Byte} {a : Nat}

/-- The record after a chunk sealed. -/
def RecordJob.sealed (j : RecordJob) (ct : List Byte) : RecordJob :=
  { j with offset := j.offset + ct.length, output := j.output ++ ct }

/-- A chunk with more to follow is written, and the record goes to the end of the rotation. -/
theorem State.sealChunk_more (ect : ct = chunkCrypt key j.iv j.offset data) (ea : a = j.dst + 32 + j.offset)
    (more : j.offset + ct.length < j.total) : s.sealChunk j key data = (s.writeHost a ct).setJob (j.sealed ct) := by
  have length : ct.length = data.length := by rw [ect, chunkCrypt_length]
  rw [length] at more
  unfold State.sealChunk
  dsimp only
  rw [if_pos more, RecordJob.sealed, length, ← ect, ea]

/-- With the last chunk the header and the tag are written, and the record ends. -/
theorem State.sealChunk_last (ect : ct = chunkCrypt key j.iv j.offset data) (ea : a = j.dst + 32 + j.offset)
    (last : j.offset + ct.length = j.total) : s.sealChunk j key data =
      (((s.writeHost a ct).writeHost j.dst j.header).writeHost (a + ct.length)
        (gcmTag key j.iv (recordAad j.ctx.domain j.handle j.total) (j.output ++ ct))).endRecord (j.sealed ct)
          stGood := by
  have length : ct.length = data.length := by rw [ect, chunkCrypt_length]
  have behind : a + ct.length = j.dst + 32 + j.total := by rw [ea, Nat.add_assoc, last]
  have done : ¬ j.offset + data.length < j.total := by rw [← length, last]; exact Nat.lt_irrefl _
  unfold State.sealChunk
  dsimp only
  rw [if_neg done, behind, RecordJob.sealed, length, ← ect, ea]

/-- A record that ends well leaves host memory as it is, and is in progress no more. -/
theorem State.endRecord_good (s : State) (k : RecordJob) : (s.endRecord k stGood).hostMem = s.hostMem ∧
    (s.endRecord k stGood).jobs = s.jobs.filter (fun i => i.id != k.id) := by
  have rest := (State.endRecord_touch (Lt := [.streams, .rings, .jobs, .gates, .eye]) s k stGood (by decide)).mpr
    (Touch.refl _ _)
  exact ⟨rest.hostMem (by decide), rfl⟩

/-- The sealed record in its place: the header at its address, the ciphertext of this chunk, the tag behind it (Table
4.5). -/
theorem State.sealed_reads (s : State) {d : Nat} {header tag : List Byte} (header32 : header.length = 32)
    (tag16 : tag.length = 16) (behind : d + 32 ≤ a) (fits : a + ct.length + 16 ≤ 2 ^ 48) :
    let m := (((s.writeHost a ct).writeHost d header).writeHost (a + ct.length) tag).hostMem
    Memory.read m a ct.length = ct ∧ Memory.read m d 32 = header ∧ Memory.read m (a + ct.length) 16 = tag := by
  have fitsTag : a + ct.length + tag.length ≤ 2 ^ 48 := by omega
  have fitsHeader : d + header.length ≤ 2 ^ 48 := by omega
  refine ⟨?_, ?_, ?_⟩
  · rw [State.read_writeHost_apart _ fitsTag (by omega), State.read_writeHost_apart _ fitsHeader (by omega),
      State.read_writeHost _ (by omega)]
  · rw [State.read_writeHost_apart _ fitsTag (by omega), ← header32, State.read_writeHost _ fitsHeader]
  · rw [← tag16, State.read_writeHost _ fitsTag]

end Seal

/-- What a chunk of a record with more to follow may alter. -/
theorem Touch.chunk_frame {s t : State} (h : Touch [.slots, .power, .hostMem, .jobs, .eye] s t) :
    t = { s with slots := t.slots, power := t.power, hostMem := t.hostMem, jobs := t.jobs, eye := t.eye } := by
  refine State.eq_of_same fun f => ?_
  have kept := h f
  cases f
  case slots | power | hostMem | jobs | eye => rfl
  all_goals exact kept rfl

section Sealed

variable {s v : State} {k : RecordJob} {key : Key} {data ct : List Byte} {a n : Nat}
  (rest : Touch [.slots, .power, .eye] s v) (ect : ct = chunkCrypt key k.iv k.offset data)
  (ea : a = k.dst + 32 + k.offset) (length : ct.length = n) (fits : a + n ≤ 2 ^ 48)
include rest ect ea length fits

/-- A chunk with more to follow: its bytes stand at its place, and no others have changed. -/
theorem sealChunk_more_effect (more : k.offset + n < k.total) : ∃ t, v.sealChunk k key data = t ∧
    Memory.read t.hostMem a n = ct ∧
    (∀ b, ¬ (a ≤ b ∧ b < a + n) → Memory.byte t.hostMem b = Memory.byte s.hostMem b) ∧
    t.jobs = s.jobs.filter (fun i => i.id != k.id) ++
      [{ k with offset := k.offset + n, output := k.output ++ ct }] ∧
    t = { s with slots := t.slots, power := t.power, hostMem := t.hostMem, jobs := t.jobs, eye := t.eye } := by
  subst length
  refine ⟨_, State.sealChunk_more ect ea more, State.read_writeHost v fits, fun b outside => ?_, ?_,
    Touch.chunk_frame ?_⟩
  · exact (State.byte_writeHost_outside v fits outside).trans (by rw [rest.hostMem (by decide)])
  · rw [← rest.jobs (by decide)]
    rfl
  · exact (State.setJob_touch _ _ (by decide)).mpr ((State.writeHost_touch _ _ _ (by decide)).mpr
      (rest.mono (by decide)))

omit fits in
/-- The last chunk: ciphertext, header and tag stand at their places, and the record has ended. -/
theorem sealChunk_last_effect (last : k.offset + n = k.total) (header32 : k.header.length = 32)
    (room : a + n + 16 ≤ 2 ^ 48) : ∃ t, v.sealChunk k key data = t ∧ Memory.read t.hostMem a n = ct ∧
      Memory.read t.hostMem k.dst 32 = k.header ∧
      Memory.read t.hostMem (a + n) 16 =
        gcmTag key k.iv (recordAad k.ctx.domain k.handle k.total) (k.output ++ ct) ∧
      t.jobs = s.jobs.filter (fun i => i.id != k.id) := by
  subst length
  have reads := v.sealed_reads (ct := ct) header32 (gcmTag_length key k.iv
    (recordAad k.ctx.domain k.handle k.total) (k.output ++ ct)) (show k.dst + 32 ≤ a by omega) room
  refine ⟨_, State.sealChunk_last ect ea last, ?_⟩
  obtain ⟨mem, jobs⟩ := State.endRecord_good (((v.writeHost a ct).writeHost k.dst k.header).writeHost (a + ct.length)
    (gcmTag key k.iv (recordAad k.ctx.domain k.handle k.total) (k.output ++ ct))) (k.sealed ct)
  rw [mem, jobs]
  obtain ⟨cipher, header, tag⟩ := reads
  have wrote {z : State} (b : Nat) (bs : List Byte) (h : Touch [.slots, .power, .hostMem, .eye] s z) :
      Touch [.slots, .power, .hostMem, .eye] s (z.writeHost b bs) := (State.writeHost_touch _ _ _ (by decide)).mpr h
  exact ⟨cipher, header, tag, congrArg (List.filter _) ((wrote _ _ (wrote _ _ (wrote _ _ (rest.mono (by decide))))).jobs
    (by decide))⟩

end Sealed

/-- Settles O47: a chunk sealed by what its fetches leave and what is written; a record that begins, and one that is
opened, by the row itself. -/
theorem recordChunkSealed : Obligations.RecordChunkSealed := by
  unfold Obligations.RecordChunkSealed
  intro h header data sl bad again s j w found runs serves turn ew
  have ready : RecordRuns s h j := ⟨found, runs, serves, turn⟩
  refine ⟨?sealing, ?begins, ?opens⟩
  case sealing =>
    intro key n a ct mode begun seals walk en enough good ect ea fits _
    have length : ct.length = n := by rw [ect, chunkCrypt_length, List.length_take, Nat.min_eq_left enough]
    have ran := exec_recordChunk_seals header sl bad again ready begun seals walk (en ▸ enough)
    obtain ⟨v, rest, ran'⟩ := State.recordFetch_ok (j := { j with walked := true }) (f := fun key t => t.sealChunk
      ({ j with walked := true }.addBlocks sl.val (chunkLen j)) key (data.take (chunkLen j))) mode good
    rw [ran', ← ew, show chunkLen j = n from en.symm] at ran
    refine ⟨length, fun more => ?_, fun last header32 room => ?_⟩
    · subst ew
      obtain ⟨t, et, facts⟩ := sealChunk_more_effect (k := RecordJob.addBlocks { j with walked := true } sl.val n) rest
        ect ea length fits more
      exact ⟨t, ran.trans (congrArg _ et), facts⟩
    · subst ew
      obtain ⟨t, et, facts⟩ := sealChunk_last_effect (k := RecordJob.addBlocks { j with walked := true } sl.val n) rest
        ect ea length last header32 room
      exact ⟨t, ran.trans (congrArg _ et), facts⟩
  case begins =>
    intro n fresh seals counts walk en
    have ran := exec_recordChunk_begins header (data := data) sl bad again ready fresh seals counts walk
    subst en ew
    exact ⟨fun enough => ran.trans (if_neg (Nat.not_lt.mpr enough)), fun short => ran.trans (if_pos short)⟩
  case opens =>
    intro k g n opens ek eg first walk en
    subst ew
    have ran := exec_recordChunk_opens header (data := data) sl bad again ready opens ek first walk
    subst en eg
    exact ⟨fun enough => ran.trans (if_neg (Nat.not_lt.mpr enough)), fun short => ran.trans (if_pos short)⟩

end Sys2Proof.Machine
